-- ==== Sys2Proof/Word.lean ====
section
/-!
DEFINITION. The word types of the machine and the sparse stores that hold its register files and memories as plain data.
-/
namespace Sys2Proof

/-- One byte of memory (00 R6: everything is little-endian). -/
abbrev Byte := BitVec 8
/-- A 32-bit lane value (01 R27). -/
abbrev W32 := BitVec 32
/-- A 64-bit scalar, address or time (01 R28, 06 R169). -/
abbrev W64 := BitVec 64
/-- A set of lanes, bit l for lane l. -/
abbrev Lanes := BitVec 32

/-- A sparse store from numbers to words: (key, value) pairs, keys strictly rising, no value zero; a key that is not
listed reads as zero. The machine's operations on it stand in Machine/Store.lean. -/
abbrev Store (n : Nat) := List (Nat × BitVec n)

end Sys2Proof
end

