-- ==== Sys2Proof/Syntax.lean ====
section
/-!
DEFINITION. The instructions: one constructor for each row of spec/opcode_table.json. A warp instruction carries its decoded
fields; a step of another agent carries the numbers that say which request, line, unit or register it concerns.
-/
namespace Sys2Proof

/-- A core: die is coded as DIEID (01 R32): 0-3 compute dies, 4 and 5 the I/O dies, 6 + n stack Mn; a stack core has
cluster 63 and core 0 (15 R330). -/
structure CoreId where
  die : Nat
  cluster : Nat
  core : Nat
  deriving DecidableEq, Repr

/-- A warp slot of a core (00 R8). -/
structure WarpId where
  core : CoreId
  slot : Nat
  deriving DecidableEq, Repr

/-- The formats of 03 R74, R83-R88: an immediate layout is a format of its own here. -/
inductive Fmt where
  | f64 | f96 | f96i | f128 | f128i
  deriving DecidableEq, Repr

/-- The special registers of 01 R32, in the order of their codes from 704. -/
inductive Special where
  | zero | laneId | warpId | cohortId | taskId | dieId | devId | lpc
  deriving DecidableEq, Repr

/-- A register operand: a 10-bit code of 03 R90 read as the register it names (codes 0-639, 640-703, 704-711). -/
inductive Opnd where
  | v (r : Nat)
  | s (r : Nat)
  | sp (x : Special)
  deriving DecidableEq, Repr

/-- A guard in use (03 R80). -/
structure Guard where
  neg : Bool
  bit : BitVec 5
  reg : BitVec 5
  scalar : Bool
  deriving DecidableEq, Repr

/-- The fields of a decoded instruction word (03 R78-R88). Fields a format lacks are zero (`none` for a guard); `mod` holds
MOD (18 bits in F96, 14 in F128) or MOD2 (F128I), `imm` the immediate of F96I (28 bits) or F128I (32 bits). -/
structure Fields where
  fmt : Fmt
  stall : BitVec 4
  slot : BitVec 3
  wait : BitVec 6
  g0 : Option Guard
  g1 : Option Guard
  gcomb : Bool
  sub : BitVec 8
  evict : BitVec 2
  level : BitVec 2
  d : Opnd
  a : Opnd
  b : Opnd
  c : Opnd
  e : Opnd
  mod : BitVec 18
  imm : W32
  deriving DecidableEq, Repr

/-- What another device of the domain asks (19 R403, R404): a load, a line with its lease, bytes to store, an atomic, a register write through a
capability of a warp here, or a remote call of a unit here with its payload. -/
inductive DomKind where
  | load (len : Nat)
  | lease
  | store (data : List Byte)
  | atomic (opc : BitVec 8) (fn : Nat) (wide num : Bool) (c e : W64)
  | rput (fields : BitVec 96) (scalar : Bool) (reg : Nat) (lanes : Lanes) (vals : List W32) (sval : W64)
  | rcall (ctx unit : Nat) (target codebase : W64) (entry : W32) (horizon : Nat) (warpcfg : W64) (task cohort : W32) (widx echoes : Nat)
      (vecs : List (List W32)) (scals : List W64)
  deriving DecidableEq, Repr

/-- A domain request: who asks, the physical address with the layout that the requester's page gives for it (ISCH and SEL, 15 R336), and what is asked. -/
structure DomReq where
  requester : Nat
  isch : Nat
  sel : Nat
  pa : Nat
  kind : DomKind
  deriving DecidableEq, Repr

/-- Where a double error arises (17 R365). -/
inductive ErrSite where
  | vector (w : WarpId) (reg : Nat)
  | scalar (w : WarpId) (reg : Nat)
  | accumulator (w : WarpId) (tile row : Nat)
  | bankWord (cluster bank word : Nat)
  | l1Data (cluster line : Nat)
  | l2Data (line : Nat)
  | tlb (core : CoreId) (page : Nat)
  | l1Tag (cluster line : Nat)
  | l2Tag (line : Nat)
  /-- a block of DRAM, or a chunk of a graph's list, beyond what its BCH code corrects (17 R363; 10 R233, R238) -/
  | block (b : Nat)
  | chunk (ctx idx : Nat) (dir : Bool) (vertex : Nat)
  deriving DecidableEq, Repr

/-- One constructor for each row of the opcode table, in its order. -/
inductive Instr where
  /-- ISSUE_STEP (R20): One issue of a warp: the minimum-PC lanes execute or advance, and parked lanes may be released; with no running lane, parked lanes return or the warp exits. -/
  | issueStep (c : CoreId)
  /-- NOP (R99): Performs no operation; every lane at the issue address moves on. -/
  | nop (f : Fields)
  /-- BRA (R109): Each executing lane branches to a PC-relative target. -/
  | bra (f : Fields)
  /-- BRX (R109): Each executing lane jumps to the offset held in a register. -/
  | brx (f : Fields)
  /-- CALL (R109): Writes the return offset to D and branches to a PC-relative target. -/
  | call (f : Fields)
  /-- RET (R109): Each executing lane jumps to the offset held in a register. -/
  | ret (f : Fields)
  /-- EXIT (R43): Executing lanes exit; the warp exits when no lane is running, parked or waiting, releasing its resources. -/
  | exit (f : Fields)
  /-- YIELD (R21): The lane parks at the next instruction, recording its YIELD address. -/
  | yield (f : Fields)
  /-- KDECL (R112): Sets the declared mask of a convergence register under its state table. -/
  | kdecl (f : Fields)
  /-- SIGN (R112): A collective that does nothing but bring its signers together at one address. -/
  | sign (f : Fields)
  /-- BAR_ARRIVE (R115): Arrives at the barrier of a group slot and returns the phase token. -/
  | barArrive (f : Fields)
  /-- BAR_WAIT (R114): The warp waits until the barrier phase has passed the token. -/
  | barWait (f : Fields)
  /-- BAR_SYNC (R114): Arrives and then waits for the phase to complete. -/
  | barSync (f : Fields)
  /-- BAR_EXPECT (R116): Adds a byte count to the barrier's pending-byte counter without arriving. -/
  | barExpect (f : Fields)
  /-- GVOTE (R121): A group barrier synchronisation carrying a vote contribution. -/
  | gvote (f : Fields)
  /-- GRED (R122): A group barrier synchronisation carrying a reduction contribution. -/
  | gred (f : Fields)
  /-- SLEEP (R123): The warp is not ready until TIME reaches the issue time plus the given nanoseconds. -/
  | sleep (f : Fields)
  /-- SLEEP_WAKE (R123): The sleep interval expires and the warp becomes ready again. -/
  | sleepWake (w : WarpId)
  /-- RDTIME (R123): Reads TIME or the warp's cycle count into a 64-bit destination. -/
  | rdtime (f : Fields)
  /-- WAITSB (R123): Waits on the scoreboard slots of its WAIT field and does nothing else. -/
  | waitsb (f : Fields)
  /-- TRAP (R124): Enters the trap handler with cause software trap and the immediate recorded. -/
  | trap (f : Fields)
  /-- BKPT (R124): Enters the trap handler with cause breakpoint. -/
  | bkpt (f : Fields)
  /-- MOV (R126): Copies a 32- or 64-bit value. -/
  | mov (f : Fields)
  /-- MOVI (R126): Writes an immediate value in one of its forms. -/
  | movi (f : Fields)
  /-- SEL (R126): Selects A or B per lane by a bit of C. -/
  | sel (f : Fields)
  /-- IADD (R127): Integer addition, wrapping or saturating. -/
  | iadd (f : Fields)
  /-- ISUB (R127): Integer subtraction, wrapping or saturating. -/
  | isub (f : Fields)
  /-- IMIN (R127): Integer minimum. -/
  | imin (f : Fields)
  /-- IMAX (R127): Integer maximum. -/
  | imax (f : Fields)
  /-- IABS (R127): Integer absolute value. -/
  | iabs (f : Fields)
  /-- ADDC (R128): Addition with carry in and carry out. -/
  | addc (f : Fields)
  /-- SUBB (R128): Subtraction with borrow in and borrow out. -/
  | subb (f : Fields)
  /-- ICMP (R129): Integer comparison into a bit or a full mask. -/
  | icmp (f : Fields)
  /-- IMUL (R130): Low half of an integer product. -/
  | imul (f : Fields)
  /-- IMULH (R130): High half of an integer product. -/
  | imulh (f : Fields)
  /-- IMAD (R130): Integer multiply-add. -/
  | imad (f : Fields)
  /-- IMADW (R130): Widening 32-by-32 multiply-add into 64 bits. -/
  | imadw (f : Fields)
  /-- DIV (R131): Integer division truncating toward zero. -/
  | divOp (f : Fields)
  /-- REM (R131): Integer remainder with the sign of A. -/
  | remOp (f : Fields)
  /-- SHL (R132): Logical shift left. -/
  | shl (f : Fields)
  /-- SHR (R132): Logical shift right. -/
  | shr (f : Fields)
  /-- SAR (R132): Arithmetic shift right. -/
  | sar (f : Fields)
  /-- ROT (R132): Rotation left. -/
  | rot (f : Fields)
  /-- FSHL (R133): Funnel shift left of A:B. -/
  | fshl (f : Fields)
  /-- FSHR (R133): Funnel shift right of A:B. -/
  | fshr (f : Fields)
  /-- AND (R134): Bitwise AND. -/
  | andOp (f : Fields)
  /-- OR (R134): Bitwise OR. -/
  | orOp (f : Fields)
  /-- XOR (R134): Bitwise XOR. -/
  | xorOp (f : Fields)
  /-- NOT (R134): Bitwise complement. -/
  | notOp (f : Fields)
  /-- LTAB (R134): Three-input logic table applied to every bit. -/
  | ltab (f : Fields)
  /-- POPC (R135): Population count. -/
  | popc (f : Fields)
  /-- CLZ (R135): Count of leading zeros. -/
  | clz (f : Fields)
  /-- CTZ (R135): Count of trailing zeros. -/
  | ctz (f : Fields)
  /-- BREV (R135): Bit reversal. -/
  | brev (f : Fields)
  /-- BFE (R136): Bitfield extract. -/
  | bfe (f : Fields)
  /-- BFI (R136): Bitfield insert. -/
  | bfi (f : Fields)
  /-- PRMB (R137): Byte permutation with fill modes. -/
  | prmb (f : Fields)
  /-- LEA (R138): Computes a 64-bit address from base plus scaled index. -/
  | lea (f : Fields)
  /-- CVTI (R139): Converts between integer types, wrapping or saturating. -/
  | cvti (f : Fields)
  /-- FADD (R145): Floating addition rounded once. -/
  | fadd (f : Fields)
  /-- FSUB (R145): Floating subtraction rounded once. -/
  | fsub (f : Fields)
  /-- FMUL (R145): Floating multiplication rounded once. -/
  | fmul (f : Fields)
  /-- FFMA (R145): Fused multiply-add with one rounding. -/
  | ffma (f : Fields)
  /-- FMIN (R146): IEEE minimum or minimumNumber. -/
  | fmin (f : Fields)
  /-- FMAX (R146): IEEE maximum or maximumNumber. -/
  | fmax (f : Fields)
  /-- FCMP (R147): Floating comparison into a bit or a full mask. -/
  | fcmp (f : Fields)
  /-- FCLASS (R148): Writes a one-hot class mask of A. -/
  | fclass (f : Fields)
  /-- FRND (R149): Rounds to an integral value in the same format. -/
  | frnd (f : Fields)
  /-- FSCALE (R150): Multiplies A by 2 to the power B. -/
  | fscale (f : Fields)
  /-- CVT (R152): Converts between floating formats or between floating and integer. -/
  | cvt (f : Fields)
  /-- RCP (R153): Reciprocal. -/
  | rcp (f : Fields)
  /-- RSQ (R153): Reciprocal square root. -/
  | rsq (f : Fields)
  /-- SQRT (R153): Correctly rounded square root. -/
  | sqrt (f : Fields)
  /-- EX2 (R153): Base-2 exponential. -/
  | ex2 (f : Fields)
  /-- LG2 (R153): Base-2 logarithm. -/
  | lg2 (f : Fields)
  /-- SIN (R153): Sine. -/
  | sin (f : Fields)
  /-- COS (R153): Cosine. -/
  | cos (f : Fields)
  /-- TANH (R153): Hyperbolic tangent. -/
  | tanh (f : Fields)
  /-- HADD2 (R154): Paired 16-bit floating addition. -/
  | hadd2 (f : Fields)
  /-- HMUL2 (R154): Paired 16-bit floating multiplication. -/
  | hmul2 (f : Fields)
  /-- HFMA2 (R154): Paired 16-bit fused multiply-add. -/
  | hfma2 (f : Fields)
  /-- FDOT2 (R155): Two-term dot product of 16-bit pairs plus an FP32 addend. -/
  | fdot2 (f : Fields)
  /-- PACK (R156): Packs FP32 values into FP8 codes or quantises one N4 block from the warp. -/
  | pack (f : Fields)
  /-- UNPACK (R158): Expands an FP8 or N4 element to FP32 with its scale. -/
  | unpack (f : Fields)
  /-- SHFL (R160): Lane shuffle within a tile. -/
  | shfl (f : Fields)
  /-- SHPUSH (R161): Pushes lane values toward named positions; highest sender wins. -/
  | shpush (f : Fields)
  /-- VOTE (R162): All, any or ballot vote over a tile. -/
  | vote (f : Fields)
  /-- SCAN (R163): Inclusive or exclusive prefix over a tile in tree order. -/
  | scanOp (f : Fields)
  /-- REDL (R163): Tree reduction over a tile. -/
  | redl (f : Fields)
  /-- MATCH (R164): Mask of tile lanes holding an equal value. -/
  | matchOp (f : Fields)
  /-- BCAST (R165): Broadcasts the lowest or highest executing lane's value. -/
  | bcast (f : Fields)
  /-- COMPACT (R166): Compacts selected lanes' values to the low positions of the tile. -/
  | compact (f : Fields)
  /-- LD (R175): Loads from linear memory, plain or acquire. -/
  | ld (f : Fields)
  /-- ST (R175): Stores to linear memory, plain or release. -/
  | st (f : Fields)
  /-- LDU (R175): Uniform load performing one read for all lanes. -/
  | ldu (f : Fields)
  /-- LDN (R182): Reads one nested element through k planes as one snapshot. -/
  | ldn (f : Fields)
  /-- STN (R183): Writes nested elements at the home as one atomic action per block. -/
  | stn (f : Fields)
  /-- SPILL (R185): Stores a register range to memory, restartably. -/
  | spill (f : Fields)
  /-- FILL (R185): Loads a register range from memory, restartably. -/
  | fill (f : Fields)
  /-- PF (R186): Prefetches lines into the caches that LEVEL names. -/
  | pf (f : Fields)
  /-- CLEAN (R187): Writes dirty L1 bytes of lines to their homes. -/
  | clean (f : Fields)
  /-- INVL (R187): Writes back and drops lines from the cluster's L1. -/
  | invl (f : Fields)
  /-- CCTL (R188): Writes back or drops lines of the whole cluster L1. -/
  | cctl (f : Fields)
  /-- FENCE (R189): Waits for earlier writes, writes back the warp's dirty lines and waits until TIME reaches HORIZON. -/
  | fence (f : Fields)
  /-- FENCE_COMPLETE (R189): TIME reaches HORIZON and the fence completes, raising pending deferred faults. -/
  | fenceComplete (w : WarpId)
  /-- ATOM (R191): Integer atomic at the home returning the old value. -/
  | atom (f : Fields)
  /-- ATOMF (R192): Floating atomic at the home returning the old value. -/
  | atomf (f : Fields)
  /-- CAS (R193): Compare-and-swap at the home. -/
  | cas (f : Fields)
  /-- RED (R191): Integer reduction at the home without a result. -/
  | red (f : Fields)
  /-- REDF (R192): Floating reduction at the home without a result. -/
  | redf (f : Fields)
  /-- GADD (R240): Adds an edge or replaces its payload. -/
  | gadd (f : Fields)
  /-- GDEL (R240): Removes an edge. -/
  | gdel (f : Fields)
  /-- GDELV (R242): Removes the edges of a vertex in one or both directions. -/
  | gdelv (f : Fields)
  /-- GDEG (R243): Reads a vertex's degree. -/
  | gdeg (f : Fields)
  /-- GLDE (R243): Reads the edge at a rank. -/
  | glde (f : Fields)
  /-- GFIND (R243): Finds a neighbour's rank and payload. -/
  | gfind (f : Fields)
  /-- GSETW (R240): Sets the payload of a live edge. -/
  | gsetw (f : Fields)
  /-- GRMW (R241): Read-modify-write of an edge payload. -/
  | grmw (f : Fields)
  /-- GOPEN (R246): Opens a cursor on a list, plain or split across lanes. -/
  | gopen (f : Fields)
  /-- GNEXT (R247): Advances a cursor and returns its next visible slot. -/
  | gnext (f : Fields)
  /-- GCLOSE (R249): Closes cursors and decrements the lists' open counts. -/
  | gclose (f : Fields)
  /-- GCUR (R249): Reads a cursor's position and horizon. -/
  | gcur (f : Fields)
  /-- GRAPH_OUT_HOME_APPLY (R235): A graph operation arriving at a list's home is applied there in arrival order. -/
  | graphOutHomeApply (k : Nat)
  /-- MIRROR_UPDATE_APPLY (R235): A forwarded mirror update is applied at the in-home and the completion time returned. -/
  | mirrorUpdateApply (k : Nat)
  /-- DEATH_TIME_SET (R234): A dead slot's pending death time becomes the removal's write completion time. -/
  | deathTimeSet (k : Nat)
  /-- MIRROR_CREDIT_RESERVE (R423): The in-home answers a reservation with a chunk of mirror credit, letting a waiting GADD proceed. -/
  | mirrorCreditReserve (g outHome inHome : Nat)
  /-- LIST_RECLAMATION (R250): Dead slots of a list with no open cursor are reclaimed and chunks returned. -/
  | listReclamation (g dir vertex : Nat)
  /-- TSEAL (R262): Computes and writes the CRC-32C seal of a tensor record at its home. -/
  | tseal (f : Fields)
  /-- TLD (R271): Streams a tensor tile into a canonical tile. -/
  | tld (f : Fields)
  /-- TST (R272): Streams a canonical tile out to a tensor, quantising as needed. -/
  | tst (f : Fields)
  /-- TGATH (R273): Gathers indexed rows into a canonical tile. -/
  | tgath (f : Fields)
  /-- TSCAT (R274): Scatters or adds tile rows to indexed rows. -/
  | tscat (f : Fields)
  /-- XCOPY (R275): Copies bytes with a transform on the streamer or the sequencer. -/
  | xcopy (f : Fields)
  /-- XWAIT (R276): Waits until the warp's requests up to a ticket have completed. -/
  | xwait (f : Fields)
  /-- ENGINE_LINE_WRITE (R214): An engine writes a destination line it owns, releasing held accesses and receiving a completion time. -/
  | engineLineWrite (k : Nat)
  /-- STREAMER_COMPLETION (R267): A request completes and acts once on its completion target and slot. -/
  | streamerCompletion (k : Nat)
  /-- PLUPD (R282): Adds a delta to a nested element at its home, rescaling as needed. -/
  | plupd (f : Fields)
  /-- PLAXPY (R282): Adds alpha times gradient to a nested element at its home. -/
  | plaxpy (f : Fields)
  /-- PLRESC (R282): Rescales a nested block at its home. -/
  | plresc (f : Fields)
  /-- MMA (R286): Collective matrix multiply-accumulate dispatched by row blocks to a stream after a lumen grant. -/
  | mma (f : Fields)
  /-- MZERO (R289): Zeroes an accumulator tile in its stream. -/
  | mzero (f : Fields)
  /-- MLDA (R289): Loads accumulator rows into vector registers. -/
  | mlda (f : Fields)
  /-- MSTA (R289): Stores vector registers into accumulator rows. -/
  | msta (f : Fields)
  /-- MSYNC (R289): Waits for earlier matrix instructions of named streams. -/
  | msync (f : Fields)
  /-- MRDP (R289): Reads MMA progress and incomplete streams. -/
  | mrdp (f : Fields)
  /-- ROW_BLOCK_COMPLETION (R288): A dispatched MMA row block completes in its stream. -/
  | rowBlockCompletion (w : WarpId) (stream : Nat)
  /-- RING_ACQ (R278): Waits for an empty stage, marks it filling and returns its address. -/
  | ringAcq (f : Fields)
  /-- RING_COMMIT (R278): Fences, adds expected bytes to PEND and marks the stage committed. -/
  | ringCommit (f : Fields)
  /-- RING_WAIT (R278): Waits until the stage is full at the expected phase. -/
  | ringWait (f : Fields)
  /-- RING_REL (R278): Fences and counts a release; the stage empties at NCONS. -/
  | ringRel (f : Fields)
  /-- TASK_SIGNAL (R324): Decrements a task's dependence counter. -/
  | taskSignal (f : Fields)
  /-- TASK_LAUNCH (R324): Readies a task submitted as held. -/
  | taskLaunch (f : Fields)
  /-- RGRANT (R297): Issues a register-naming capability from the grant table. -/
  | rgrant (f : Fields)
  /-- RREVOKE (R298): Revokes one or all grant-table entries. -/
  | rrevoke (f : Fields)
  /-- RARM (R301): Arms a register range for arrival. -/
  | rarm (f : Fields)
  /-- RPUT (R302): Sends a register value to another warp's register through a capability. -/
  | rput (f : Fields)
  /-- RPUT_ARRIVAL (R300): A remote write arrives and changes the target register's arrival state. -/
  | rputArrival (k : Nat)
  /-- RPUT_STATUS_RETURN (R303): The target's status returns and the RPUT completes. -/
  | rputStatusReturn (k : Nat)
  /-- RPOLL (R305): Reports which registers of a range are not armed. -/
  | rpoll (f : Fields)
  /-- RCALL (R308): Fences, arms echo registers and sends a remote call to the nearest unit. -/
  | rcall (f : Fields)
  /-- CALL_SLOT_RESERVE (R313): The unit reserves a queue slot for a held RCALL, letting it issue. -/
  | callSlotReserve (k : Nat)
  /-- CALL_ARRIVAL (R310): A call arrives at its unit and takes its reserved slot. -/
  | callArrival (k : Nat)
  /-- CALL_DISPATCH (R310): The oldest queued call is given to a free stack-core warp. -/
  | callDispatch (unit : Nat)
  /-- REMOTE_FUNCTION_START (R309): The function starts once the unit's TIME reaches H plus m. -/
  | remoteFunctionStart (k : Nat)
  /-- ECHO_ARRIVAL (R311): An echo reaches the caller and fills or marks its echo registers. -/
  | echoArrival (k : Nat)
  /-- ECHO_TIMEOUT (R312): The caller's TIME reaches the call's timeout and the call is lost. -/
  | echoTimeout (k : Nat)
  /-- RARG (R314): Reads the payload or target of the running call. -/
  | rarg (f : Fields)
  /-- RRET (R315): Fences, sends the echo with status 0 and ends the function. -/
  | rret (f : Fields)
  /-- NBSEQ (R317): Submits a near-bank sequence descriptor after checks and a lumen grant. -/
  | nbseq (f : Fields)
  /-- SEQUENCE_START (R369): The sequencer starts an accepted sequence whose ranges overlap none running. -/
  | sequenceStart (k : Nat)
  /-- SEQUENCE_ROW_STEP (R369): One row of a sequence is processed on the near-bank units. -/
  | sequenceRowStep (k : Nat)
  /-- SEQUENCE_RUN_END (R370): At the end of a run the signatures are tested; a conflict restores and reruns. -/
  | sequenceRunEnd (k : Nat)
  /-- SEQUENCE_COMPLETION (R320): Destinations invalidated and written, TIME passes the completion time, and the target acts. -/
  | sequenceCompletion (k : Nat)
  /-- SEQUENCER_WATCHDOG_EXPIRY (R374): One millisecond without row progress resets the sequencer and poisons running sequences. -/
  | sequencerWatchdogExpiry (stack : Nat)
  /-- RACQ (R325): Acquires extended register blocks, waiting until available. -/
  | racq (f : Fields)
  /-- RREL (R325): Releases extended register blocks. -/
  | rrel (f : Fields)
  /-- CSRR (R340): Reads a control and status register. -/
  | csrr (f : Fields)
  /-- CSRW (R340): Writes, sets or clears bits of a control and status register. -/
  | csrw (f : Fields)
  /-- TRET (R334): Returns from the handler, replaying or skipping the faulting instruction. -/
  | tret (f : Fields)
  /-- TLBINV (R339): Drops TLB entries of a page, context or all contexts. -/
  | tlbinv (f : Fields)
  /-- BANKCFG (R341): Switches declared banks among cache, scratchpad and FIFO modes. -/
  | bankcfg (f : Fields)
  /-- KEYSET (R342): Unwraps a key blob into a key slot. -/
  | keyset (f : Fields)
  /-- KEYDESTROY (R343): Closes a key slot and invalidates its dirty lines and leases. -/
  | keydestroy (f : Fields)
  /-- CTXSAVE (R348): Writes the warp's user state to a frame. -/
  | ctxsave (f : Fields)
  /-- CTXLOAD (R348): Loads the warp's state from a frame and returns to user mode. -/
  | ctxload (f : Fields)
  /-- RESULT_WRITE (R38): A variable-latency result is written and its scoreboard slot decrements. -/
  | resultWrite (w : WarpId) (op : Nat)
  /-- LEASE_GRANT (R200): A fill reaching the home returns the line with a lease and doubles the lease length. -/
  | leaseGrant (k : Nat)
  /-- LEASE_EXPIRY (R200): A lease end passes and later loads of that copy miss. -/
  | leaseExpiry (cluster line : Nat)
  /-- HOME_WRITE_APPLY (R202): A write or writeback is applied at its home, merged by byte masks, and a completion time returned. -/
  | homeWriteApply (k : Nat)
  /-- ATOMIC_APPLY (R194): An atomic's operations of one line are applied at the home as one action. -/
  | atomicApply (k : Nat)
  /-- WRITE_COMPLETION_RETURN (R204): A returned completion time raises the warp's HORIZON. -/
  | writeCompletionReturn (k : Nat)
  /-- L1_EVICTION (R207): An L1 victim is chosen and its dirty bytes written back. -/
  | l1Eviction (cluster line : Nat)
  /-- L2_EVICTION (R201): An L2 line is evicted and its lease folded into the slice's floor. -/
  | l2Eviction (line : Nat)
  /-- HOST_ATOMIC_ATTEMPT (R195): One attempt of the host atomic loop; the 64th failure reports HOST_ATOMIC. -/
  | hostAtomicAttempt (k : Nat) (hostWrote : Bool)
  /-- HOST_CXL_MEM_WRITE (R394): A host CXL.mem write is applied at its home under key slot 0. -/
  | hostCxlMemWrite (pa : Nat) (data : List Byte)
  /-- HOST_CXL_MEM_READ (R394): A host CXL.mem read returns the data or poison. -/
  | hostCxlMemRead (pa len : Nat)
  /-- DOMAIN_REQUEST (R403): An incoming domain request is served inside an allowing export or refused. -/
  | domainRequest (r : DomReq)
  /-- TIME_SYNC (R404): A sync message keeps the device's TIME within 40 ns of its peers. -/
  | timeSync (peer offset : Nat)
  /-- PEER_UNREACHABLE (R405): No route works for 100 us and requests to the peer end without retry. -/
  | peerUnreachable (peer : Nat)
  /-- LINK_UP (R398): A Tchiel port comes up and a LINK_UP event is queued. -/
  | linkUp (port : Nat)
  /-- READ (R366): A stack read packet is served by the base die. This step and the eight that follow name a packet by its unit and by 1,024 times its
  channel plus its tag (log entry 30). -/
  | readPacket (unit tag : Nat)
  /-- FULL_WRITE (R366): A stack full-write packet is served. -/
  | fullWrite (unit tag : Nat)
  /-- MASKED_WRITE (R366): A stack masked-write packet is served. -/
  | maskedWrite (unit tag : Nat)
  /-- SECTOR_WRITEBACK (R366): A sector writeback packet is encrypted and written to DRAM. -/
  | sectorWriteback (unit tag : Nat)
  /-- SEQUENCE_ROW (R366): A sequence-row packet is served. -/
  | sequenceRow (unit tag : Nat)
  /-- REFRESH_HOLD_RELEASE (R366): A refresh hold release packet is served. -/
  | refreshHoldRelease (unit tag : Nat)
  /-- READ_REPLY (R366): A read reply packet returns to its requester by tag. -/
  | readReply (unit tag : Nat)
  /-- WRITE_ACKNOWLEDGE (R366): A write acknowledge packet returns to its requester by tag. -/
  | writeAcknowledge (unit tag : Nat)
  /-- STARVATION_BOUND (R367): An unflared request that has waited 2 us is served before later flared requests. -/
  | starvationBound (unit tag : Nat)
  /-- SCRUB (R363): The background scrub corrects blocks, poisons stale generations and reports full passes. -/
  | scrub (unit block : Nat)
  /-- CRITICAL_TEMPERATURE_ASSERT (R372): The stack enters self-refresh and DRAM requests queue per block. -/
  | criticalTemperatureAssert (stack : Nat)
  /-- CRITICAL_TEMPERATURE_CLEAR (R372): The hold ends and queued requests are served in order. -/
  | criticalTemperatureClear (stack : Nat)
  /-- THERMAL_HOLD (R373): A hold lasting 2 ms posts one THERMAL_HOLD event. -/
  | thermalHold (stack : Nat)
  /-- LUMEN_REPLENISH (R390): Every 1,000 ns RATE is added to the pool up to CAP and waiting requests are granted. -/
  | lumenReplenish (die : Nat)
  /-- QTAIL_WRITE (R375): The host's doorbell write makes packets available to the scheduler. -/
  | qtailWrite (q : Nat) (v : W64)
  /-- NOP_PACKET (R377): A NOP packet is consumed with no effect. -/
  | nopPacket (q : Nat)
  /-- LAUNCH (R377): A LAUNCH packet creates a task and starts reading and checking its record. -/
  | launchPacket (q : Nat)
  /-- SIGNAL (R377): A SIGNAL packet applies one decrement to a task. -/
  | signalPacket (q : Nat)
  /-- KILL (R377): A KILL packet kills a task. -/
  | killPacket (q : Nat)
  /-- RESERVED_PACKET_TYPE (R377): A reserved packet type writes a rejection record and does nothing else. -/
  | reservedPacketType (q : Nat)
  /-- TASK_CHECK_COMPLETE (R381): The record checks finish and the task becomes ready, waiting or rejected. -/
  | taskCheckComplete (ctx task : Nat)
  /-- COHORT_PLACEMENT (R384): The distributor places a cohort on a cluster and launches its warps. -/
  | cohortPlacement (die : Nat)
  /-- STEAL_REQUEST (R385): A distributor without work asks another die, which may give half its unplaced cohorts. -/
  | stealRequest (die : Nat)
  /-- STEAL_RETRY (R385): A refused thief retries after 2 us. -/
  | stealRetry (die : Nat)
  /-- PREEMPTION (R344): Lower-class cohorts of a cluster are stopped and saved to make room for class 3. -/
  | preemption (die : Nat)
  /-- COHORT_RESTORE (R346): A pre-empted cohort is restored on its cluster with lazy register granules. -/
  | cohortRestore (die : Nat)
  /-- GRANULE_FILL (R346): A read of an absent granule fills its absent registers from the frame. -/
  | granuleFill (w : WarpId) (granule : Nat)
  /-- TASK_RETIRE (R383): After edge cleaning, successors are decremented and the completion record written. -/
  | taskRetire (ctx task : Nat)
  /-- ACTIVE_SET_REPLACEMENT (R388): An active warp not ready for 64 cycles is replaced by a ready outside warp. -/
  | activeSetReplacement (c : CoreId)
  /-- ACTIVE_SET_ROTATION (R388): Every 4,096 cycles a long-waiting ready warp replaces the longest-active warp. -/
  | activeSetRotation (c : CoreId)
  /-- FAULT_ANSWER_REPLAY (R331): The host answers a PAGE record with replay and the instruction issues again. -/
  | faultAnswerReplay (record : Nat)
  /-- FAULT_ANSWER_DELIVER (R331): The host answers a PAGE record with deliver and it becomes a trap. -/
  | faultAnswerDeliver (record : Nat)
  /-- FAULT_ANSWER_KILL (R331): The host answers a PAGE record with kill and the task ends. -/
  | faultAnswerKill (record : Nat)
  /-- FBTAIL_WRITE (R397): The host consumes fault records, letting suspended posters proceed. -/
  | fbtailWrite (v : W64)
  /-- TLBCMD_PAGE (R397): The host invalidates one page's TLB entries. -/
  | tlbcmdPage (v : W64)
  /-- TLBCMD_CONTEXT (R397): The host invalidates one context's TLB entries. -/
  | tlbcmdContext (v : W64)
  /-- TLBCMD_ALL (R397): The host invalidates every TLB entry. -/
  | tlbcmdAll (v : W64)
  /-- TLBSTAT_READ (R396): Reads BUSY and LOST, clearing LOST. -/
  | tlbstatRead
  /-- EVTPOP_READ (R398): Reads and removes the oldest event word. -/
  | evtpopRead
  /-- REGISTER_WRITE (R396): A host write to a window register with no behaviour of its own. -/
  | registerWrite (off : Nat) (v : W64)
  /-- CONTEXT_CREATE (R399): Creates a context with its root table and capability key. -/
  | contextCreate
  /-- CONTEXT_DESTROY (R399): Destroys a context, its key slots and TLB entries. -/
  | contextDestroy
  /-- GRAPH_CREATE (R399): Creates a graph in a pool and returns its handle. -/
  | graphCreate
  /-- GRAPH_DESTROY (R399): Destroys a graph with no open cursor. -/
  | graphDestroy
  /-- KEY_SESSION (R401): Derives the session key by ECDH with the host's point. -/
  | keySession
  /-- KEY_LOAD (R399): Loads a key slot from a blob as KEYSET does. -/
  | keyLoad
  /-- KEY_DESTROY (R399): Destroys a key slot as KEYDESTROY does. -/
  | keyDestroy
  /-- ATTEST (R402): Writes a signed attestation report. -/
  | attest
  /-- DOMAIN (R399): Sets the device number and route table. -/
  | domainCmd
  /-- EXPORT (R399): Exports a physical range to allowed devices under a key slot. -/
  | exportRange
  /-- SET_LIMIT (R399): Sets the sustained power limit and the pools' RATE. -/
  | setLimit
  /-- MAILBOX_UNKNOWN_COMMAND (R399): An unassigned command code returns RESULT 4. -/
  | mailboxUnknownCommand
  /-- CLTAIL_WRITE (R396): The host's doorbell makes collective descriptors available. -/
  | cltailWrite (v : W64)
  /-- COLLECTIVE_START (R406): The collective engine starts the next descriptor and requests contributions. -/
  | collectiveStart
  /-- CONTRIBUTION_ARRIVAL (R408): A contribution arrives; once all have arrived the result is written. -/
  | contributionArrival (j : Nat) (data : List Byte) (poison : List Bool)
  /-- COLLECTIVE_TIMEOUT (R408): A contribution missing at TIMEOUT ends the collective with status 2. -/
  | collectiveTimeout
  /-- COLLECTIVE_COMPLETION (R408): TIME passes the result's completion times and the completion record is written. -/
  | collectiveCompletion
  /-- POWER_UP (R400): The link trains and boot waits for an image. -/
  | powerUp
  /-- POWER_OFF (R3): Everything except the fused identity is lost. -/
  | powerOff
  /-- BOOTGO (R400): The host starts verification of the staged image. -/
  | bootgo (v : W64)
  /-- BOOT_VERIFY_COMPLETE (R400): Verification ends in an error or starts the firmware. -/
  | bootVerifyComplete
  /-- FIRMWARE_INIT_COMPLETE (R400): Firmware finishes initialisation and STATE becomes ready. -/
  | firmwareInitComplete
  /-- CXL_RESET (R409): Acts as a power-off and boot restarts. -/
  | cxlReset
  /-- FUNCTION_LEVEL_RESET (R409): Acts as a power-off and boot restarts. -/
  | functionLevelReset
  /-- HOT_RESET (R409): Acts as a power-off and boot restarts. -/
  | hotReset
  /-- D3COLD (R409): Acts as a power-off and boot restarts. -/
  | d3cold
  /-- QCFG_WRITE (R375): A host write of QCFG (or CLCFG) sets the queue's priority and size and, by setting EN, lets the scheduler consume packets up to the QTAIL it holds. -/
  | qcfgWrite (q : Nat) (v : W64)
  /-- FBCFG_WRITE (R397): A host write of FBCFG that sets EN lets fault records that were waiting be posted and their suspended agents proceed. -/
  | fbcfgWrite (v : W64)
  /-- DOUBLE_ERROR (R365): A double-bit error arises in a SECDED-protected SRAM and either marks a register or accumulator row with poison, poisons a word or line, drops a TLB entry, or ends the owning task as a fatal POISON. -/
  | doubleError (e : ErrSite)
  /-- PORT_LINK_LOSS (R405): A Tchiel port loses its link, so routes through it stop working and the 100 us unreachability count toward a peer begins. -/
  | portLinkLoss (port : Nat)
  /-- RATE_CHANGE (R390): Firmware changes a die pool's RATE during operation on its own initiative, leaving the pool level and all granted requests unchanged. -/
  | rateChange (die rate : Nat)
  deriving DecidableEq, Repr

end Sys2Proof
end

