-- ==== Sys2Proof/Machine/Encoding.lean ====
section
/-!
DEFINITION. The encoding tables of the manual: the opcode map (03 R96, R97), the operand classes and the assigned SUB and
MOD values of every instruction (03 R91, R92 and each instruction's own description), and the decode check they make.
-/
namespace Sys2Proof

/-- One row of the opcode map: major opcode, accepted formats, member of the remote subset. -/
structure OpEntry where
  opc : Nat
  fmts : List Fmt
  remote : Bool
  deriving DecidableEq, Repr

/-- The opcode map (03 R96): major opcode, accepted formats, remote subset, and the fields, of a warp instruction. -/
def opEntry : Instr → Option (OpEntry × Fields)
  | .nop f => some (⟨0x00, [.f64, .f96, .f128], true⟩, f)
  | .bra f => some (⟨0x01, [.f96i], true⟩, f)
  | .brx f => some (⟨0x02, [.f96], true⟩, f)
  | .call f => some (⟨0x03, [.f96i], true⟩, f)
  | .ret f => some (⟨0x04, [.f64, .f96], true⟩, f)
  | .exit f => some (⟨0x05, [.f64], true⟩, f)
  | .yield f => some (⟨0x06, [.f64], true⟩, f)
  | .kdecl f => some (⟨0x07, [.f96], false⟩, f)
  | .sign f => some (⟨0x08, [.f96], false⟩, f)
  | .barArrive f => some (⟨0x09, [.f96], false⟩, f)
  | .barWait f => some (⟨0x09, [.f96], false⟩, f)
  | .barSync f => some (⟨0x09, [.f96], false⟩, f)
  | .barExpect f => some (⟨0x09, [.f96], false⟩, f)
  | .gvote f => some (⟨0x0A, [.f96], true⟩, f)
  | .gred f => some (⟨0x0B, [.f96], true⟩, f)
  | .sleep f => some (⟨0x0C, [.f96], true⟩, f)
  | .rdtime f => some (⟨0x0D, [.f64, .f96], true⟩, f)
  | .waitsb f => some (⟨0x0E, [.f64], true⟩, f)
  | .trap f => some (⟨0x0F, [.f96i], true⟩, f)
  | .bkpt f => some (⟨0x10, [.f64], true⟩, f)
  | .mov f => some (⟨0x20, [.f64, .f96], true⟩, f)
  | .movi f => some (⟨0x21, [.f96i, .f128i], true⟩, f)
  | .sel f => some (⟨0x22, [.f128], true⟩, f)
  | .iadd f => some (⟨0x23, [.f64, .f96], true⟩, f)
  | .isub f => some (⟨0x24, [.f64, .f96], true⟩, f)
  | .imin f => some (⟨0x2D, [.f64, .f96], true⟩, f)
  | .imax f => some (⟨0x2E, [.f64, .f96], true⟩, f)
  | .iabs f => some (⟨0x2F, [.f64, .f96], true⟩, f)
  | .addc f => some (⟨0x25, [.f128], true⟩, f)
  | .subb f => some (⟨0x26, [.f128], true⟩, f)
  | .icmp f => some (⟨0x30, [.f96], true⟩, f)
  | .imul f => some (⟨0x27, [.f64, .f96], true⟩, f)
  | .imulh f => some (⟨0x28, [.f64, .f96], true⟩, f)
  | .imad f => some (⟨0x29, [.f128], true⟩, f)
  | .imadw f => some (⟨0x2A, [.f128], true⟩, f)
  | .divOp f => some (⟨0x2B, [.f96], true⟩, f)
  | .remOp f => some (⟨0x2C, [.f96], true⟩, f)
  | .shl f => some (⟨0x31, [.f64, .f96], true⟩, f)
  | .shr f => some (⟨0x32, [.f64, .f96], true⟩, f)
  | .sar f => some (⟨0x33, [.f64, .f96], true⟩, f)
  | .rot f => some (⟨0x34, [.f64, .f96], true⟩, f)
  | .fshl f => some (⟨0x35, [.f128], true⟩, f)
  | .fshr f => some (⟨0x36, [.f128], true⟩, f)
  | .andOp f => some (⟨0x37, [.f64, .f96], true⟩, f)
  | .orOp f => some (⟨0x38, [.f64, .f96], true⟩, f)
  | .xorOp f => some (⟨0x39, [.f64, .f96], true⟩, f)
  | .notOp f => some (⟨0x3A, [.f64, .f96], true⟩, f)
  | .ltab f => some (⟨0x3B, [.f128], true⟩, f)
  | .popc f => some (⟨0x3C, [.f64, .f96], true⟩, f)
  | .clz f => some (⟨0x3D, [.f64, .f96], true⟩, f)
  | .ctz f => some (⟨0x3E, [.f64, .f96], true⟩, f)
  | .brev f => some (⟨0x3F, [.f64, .f96], true⟩, f)
  | .bfe f => some (⟨0x40, [.f96], true⟩, f)
  | .bfi f => some (⟨0x41, [.f128], true⟩, f)
  | .prmb f => some (⟨0x42, [.f128], true⟩, f)
  | .lea f => some (⟨0x43, [.f96], true⟩, f)
  | .cvti f => some (⟨0x44, [.f96], true⟩, f)
  | .fadd f => some (⟨0x50, [.f64, .f96], true⟩, f)
  | .fsub f => some (⟨0x51, [.f64, .f96], true⟩, f)
  | .fmul f => some (⟨0x52, [.f64, .f96], true⟩, f)
  | .ffma f => some (⟨0x53, [.f128], true⟩, f)
  | .fmin f => some (⟨0x54, [.f96], true⟩, f)
  | .fmax f => some (⟨0x55, [.f96], true⟩, f)
  | .fcmp f => some (⟨0x56, [.f96], true⟩, f)
  | .fclass f => some (⟨0x57, [.f96], true⟩, f)
  | .frnd f => some (⟨0x58, [.f96], true⟩, f)
  | .fscale f => some (⟨0x59, [.f96], true⟩, f)
  | .cvt f => some (⟨0x5A, [.f96], true⟩, f)
  | .rcp f => some (⟨0x5B, [.f64, .f96], true⟩, f)
  | .rsq f => some (⟨0x5C, [.f64, .f96], true⟩, f)
  | .sqrt f => some (⟨0x5D, [.f96], true⟩, f)
  | .ex2 f => some (⟨0x5E, [.f64, .f96], true⟩, f)
  | .lg2 f => some (⟨0x5F, [.f64, .f96], true⟩, f)
  | .sin f => some (⟨0x60, [.f64, .f96], true⟩, f)
  | .cos f => some (⟨0x61, [.f64, .f96], true⟩, f)
  | .tanh f => some (⟨0x62, [.f64, .f96], true⟩, f)
  | .hadd2 f => some (⟨0x63, [.f64, .f96], true⟩, f)
  | .hmul2 f => some (⟨0x64, [.f64, .f96], true⟩, f)
  | .hfma2 f => some (⟨0x65, [.f128], true⟩, f)
  | .fdot2 f => some (⟨0x66, [.f128], true⟩, f)
  | .pack f => some (⟨0x67, [.f128], true⟩, f)
  | .unpack f => some (⟨0x68, [.f128], true⟩, f)
  | .shfl f => some (⟨0x80, [.f96], true⟩, f)
  | .shpush f => some (⟨0x81, [.f96], true⟩, f)
  | .vote f => some (⟨0x82, [.f96], true⟩, f)
  | .scanOp f => some (⟨0x83, [.f96], true⟩, f)
  | .redl f => some (⟨0x84, [.f96], true⟩, f)
  | .matchOp f => some (⟨0x85, [.f96], true⟩, f)
  | .bcast f => some (⟨0x86, [.f96], true⟩, f)
  | .compact f => some (⟨0x87, [.f96], true⟩, f)
  | .ld f => some (⟨0x90, [.f128i], true⟩, f)
  | .st f => some (⟨0x91, [.f128i], true⟩, f)
  | .ldu f => some (⟨0x92, [.f128i], true⟩, f)
  | .ldn f => some (⟨0x93, [.f128], true⟩, f)
  | .stn f => some (⟨0x94, [.f128], true⟩, f)
  | .spill f => some (⟨0x95, [.f128i], true⟩, f)
  | .fill f => some (⟨0x96, [.f128i], true⟩, f)
  | .pf f => some (⟨0x97, [.f128i], true⟩, f)
  | .clean f => some (⟨0x98, [.f128i], true⟩, f)
  | .invl f => some (⟨0x99, [.f128i], true⟩, f)
  | .cctl f => some (⟨0x9A, [.f96], true⟩, f)
  | .fence f => some (⟨0x9B, [.f64, .f96], true⟩, f)
  | .atom f => some (⟨0xA0, [.f128], true⟩, f)
  | .atomf f => some (⟨0xA1, [.f128], true⟩, f)
  | .cas f => some (⟨0xA2, [.f128], true⟩, f)
  | .red f => some (⟨0xA3, [.f128], true⟩, f)
  | .redf f => some (⟨0xA4, [.f128], true⟩, f)
  | .gadd f => some (⟨0xB0, [.f128], true⟩, f)
  | .gdel f => some (⟨0xB1, [.f128], true⟩, f)
  | .gdelv f => some (⟨0xB2, [.f128], true⟩, f)
  | .gdeg f => some (⟨0xB3, [.f96], true⟩, f)
  | .glde f => some (⟨0xB4, [.f128], true⟩, f)
  | .gfind f => some (⟨0xB5, [.f128], true⟩, f)
  | .gsetw f => some (⟨0xB6, [.f128], true⟩, f)
  | .grmw f => some (⟨0xB7, [.f128], true⟩, f)
  | .gopen f => some (⟨0xB8, [.f128], true⟩, f)
  | .gnext f => some (⟨0xB9, [.f96], true⟩, f)
  | .gclose f => some (⟨0xBA, [.f64, .f96], true⟩, f)
  | .gcur f => some (⟨0xBB, [.f96], true⟩, f)
  | .tseal f => some (⟨0xC0, [.f96], false⟩, f)
  | .tld f => some (⟨0xC1, [.f128], false⟩, f)
  | .tst f => some (⟨0xC2, [.f128], false⟩, f)
  | .tgath f => some (⟨0xC3, [.f128], false⟩, f)
  | .tscat f => some (⟨0xC4, [.f128], false⟩, f)
  | .xcopy f => some (⟨0xC5, [.f128], false⟩, f)
  | .xwait f => some (⟨0xC6, [.f96], false⟩, f)
  | .plupd f => some (⟨0xC7, [.f128], false⟩, f)
  | .plaxpy f => some (⟨0xC8, [.f128], false⟩, f)
  | .plresc f => some (⟨0xC9, [.f96], false⟩, f)
  | .mma f => some (⟨0xD0, [.f128], false⟩, f)
  | .mzero f => some (⟨0xD1, [.f96], false⟩, f)
  | .mlda f => some (⟨0xD2, [.f128], false⟩, f)
  | .msta f => some (⟨0xD3, [.f128], false⟩, f)
  | .msync f => some (⟨0xD4, [.f64, .f96], false⟩, f)
  | .mrdp f => some (⟨0xD5, [.f96], false⟩, f)
  | .ringAcq f => some (⟨0xE0, [.f96], false⟩, f)
  | .ringCommit f => some (⟨0xE0, [.f96], false⟩, f)
  | .ringWait f => some (⟨0xE0, [.f96], false⟩, f)
  | .ringRel f => some (⟨0xE0, [.f96], false⟩, f)
  | .taskSignal f => some (⟨0xE1, [.f96], false⟩, f)
  | .taskLaunch f => some (⟨0xE1, [.f96], false⟩, f)
  | .rgrant f => some (⟨0xE2, [.f128], false⟩, f)
  | .rrevoke f => some (⟨0xE3, [.f96], false⟩, f)
  | .rarm f => some (⟨0xE4, [.f96], false⟩, f)
  | .rput f => some (⟨0xE5, [.f128], true⟩, f)
  | .rpoll f => some (⟨0xE6, [.f96], false⟩, f)
  | .rcall f => some (⟨0xE7, [.f128], false⟩, f)
  | .rarg f => some (⟨0xE8, [.f96], true⟩, f)
  | .rret f => some (⟨0xE9, [.f128], true⟩, f)
  | .nbseq f => some (⟨0xEA, [.f128], false⟩, f)
  | .racq f => some (⟨0xEB, [.f64, .f96], false⟩, f)
  | .rrel f => some (⟨0xEC, [.f64, .f96], false⟩, f)
  | .csrr f => some (⟨0xF0, [.f96], false⟩, f)
  | .csrw f => some (⟨0xF1, [.f96], false⟩, f)
  | .tret f => some (⟨0xF2, [.f64], false⟩, f)
  | .tlbinv f => some (⟨0xF3, [.f96], false⟩, f)
  | .bankcfg f => some (⟨0xF4, [.f96], false⟩, f)
  | .keyset f => some (⟨0xF5, [.f128], false⟩, f)
  | .keydestroy f => some (⟨0xF6, [.f96], false⟩, f)
  | .ctxsave f => some (⟨0xF7, [.f96], false⟩, f)
  | .ctxload f => some (⟨0xF8, [.f96], false⟩, f)
  | .issueStep _ | .sleepWake _ | .fenceComplete _ | .graphOutHomeApply _ | .mirrorUpdateApply _ | .deathTimeSet _ |
    .mirrorCreditReserve _ _ _ | .listReclamation _ _ _ | .engineLineWrite _ | .streamerCompletion _ |
    .rowBlockCompletion _ _ | .rputArrival _ | .rputStatusReturn _ | .callSlotReserve _ | .callArrival _ |
    .callDispatch _ | .remoteFunctionStart _ | .echoArrival _ | .echoTimeout _ | .sequenceStart _ |
    .sequenceRowStep _ | .sequenceRunEnd _ | .sequenceCompletion _ | .sequencerWatchdogExpiry _ | .resultWrite _ _ |
    .leaseGrant _ | .leaseExpiry _ _ | .homeWriteApply _ | .atomicApply _ | .writeCompletionReturn _ |
    .l1Eviction _ _ | .l2Eviction _ | .hostAtomicAttempt _ _ | .hostCxlMemWrite _ _ | .hostCxlMemRead _ _ |
    .domainRequest _ | .timeSync _ _ | .peerUnreachable _ | .linkUp _ | .readPacket _ _ | .fullWrite _ _ |
    .maskedWrite _ _ | .sectorWriteback _ _ | .sequenceRow _ _ | .refreshHoldRelease _ _ | .readReply _ _ |
    .writeAcknowledge _ _ | .starvationBound _ _ | .scrub _ _ | .criticalTemperatureAssert _ |
    .criticalTemperatureClear _ | .thermalHold _ | .lumenReplenish _ | .qtailWrite _ _ | .nopPacket _ |
    .launchPacket _ | .signalPacket _ | .killPacket _ | .reservedPacketType _ | .taskCheckComplete _ _ |
    .cohortPlacement _ | .stealRequest _ | .stealRetry _ | .preemption _ | .cohortRestore _ | .granuleFill _ _ |
    .taskRetire _ _ | .activeSetReplacement _ | .activeSetRotation _ | .faultAnswerReplay _ | .faultAnswerDeliver _ |
    .faultAnswerKill _ | .fbtailWrite _ | .tlbcmdPage _ | .tlbcmdContext _ | .tlbcmdAll _ | .tlbstatRead |
    .evtpopRead | .registerWrite _ _ | .contextCreate | .contextDestroy | .graphCreate | .graphDestroy |
    .keySession | .keyLoad | .keyDestroy | .attest | .domainCmd | .exportRange | .setLimit | .mailboxUnknownCommand |
    .cltailWrite _ | .collectiveStart | .contributionArrival _ _ _ | .collectiveTimeout | .collectiveCompletion |
    .powerUp | .powerOff | .bootgo _ | .bootVerifyComplete | .firmwareInitComplete | .cxlReset |
    .functionLevelReset | .hotReset | .d3cold | .qcfgWrite _ _ | .fbcfgWrite _ | .doubleError _ | .portLinkLoss _ |
    .rateChange _ _ => none

/-- The instruction of a major opcode, where the opcode has one form (03 R96) or, for 0x09, 0xE0 and 0xE1, SUB picks the
major form (03 R97); none for an unassigned opcode, 0xFF included (03 R98). -/
def ofOpcode (opc : Nat) (f : Fields) : Option Instr :=
  match opc with
  | 0x00 => some (.nop f)
  | 0x01 => some (.bra f)
  | 0x02 => some (.brx f)
  | 0x03 => some (.call f)
  | 0x04 => some (.ret f)
  | 0x05 => some (.exit f)
  | 0x06 => some (.yield f)
  | 0x07 => some (.kdecl f)
  | 0x08 => some (.sign f)
  | 0x09 =>
    match f.sub.toNat with
    | 0 => some (.barArrive f)
    | 1 => some (.barWait f)
    | 2 => some (.barSync f)
    | 3 => some (.barExpect f)
    | _ => none
  | 0x0A => some (.gvote f)
  | 0x0B => some (.gred f)
  | 0x0C => some (.sleep f)
  | 0x0D => some (.rdtime f)
  | 0x0E => some (.waitsb f)
  | 0x0F => some (.trap f)
  | 0x10 => some (.bkpt f)
  | 0x20 => some (.mov f)
  | 0x21 => some (.movi f)
  | 0x22 => some (.sel f)
  | 0x23 => some (.iadd f)
  | 0x24 => some (.isub f)
  | 0x25 => some (.addc f)
  | 0x26 => some (.subb f)
  | 0x27 => some (.imul f)
  | 0x28 => some (.imulh f)
  | 0x29 => some (.imad f)
  | 0x2A => some (.imadw f)
  | 0x2B => some (.divOp f)
  | 0x2C => some (.remOp f)
  | 0x2D => some (.imin f)
  | 0x2E => some (.imax f)
  | 0x2F => some (.iabs f)
  | 0x30 => some (.icmp f)
  | 0x31 => some (.shl f)
  | 0x32 => some (.shr f)
  | 0x33 => some (.sar f)
  | 0x34 => some (.rot f)
  | 0x35 => some (.fshl f)
  | 0x36 => some (.fshr f)
  | 0x37 => some (.andOp f)
  | 0x38 => some (.orOp f)
  | 0x39 => some (.xorOp f)
  | 0x3A => some (.notOp f)
  | 0x3B => some (.ltab f)
  | 0x3C => some (.popc f)
  | 0x3D => some (.clz f)
  | 0x3E => some (.ctz f)
  | 0x3F => some (.brev f)
  | 0x40 => some (.bfe f)
  | 0x41 => some (.bfi f)
  | 0x42 => some (.prmb f)
  | 0x43 => some (.lea f)
  | 0x44 => some (.cvti f)
  | 0x50 => some (.fadd f)
  | 0x51 => some (.fsub f)
  | 0x52 => some (.fmul f)
  | 0x53 => some (.ffma f)
  | 0x54 => some (.fmin f)
  | 0x55 => some (.fmax f)
  | 0x56 => some (.fcmp f)
  | 0x57 => some (.fclass f)
  | 0x58 => some (.frnd f)
  | 0x59 => some (.fscale f)
  | 0x5A => some (.cvt f)
  | 0x5B => some (.rcp f)
  | 0x5C => some (.rsq f)
  | 0x5D => some (.sqrt f)
  | 0x5E => some (.ex2 f)
  | 0x5F => some (.lg2 f)
  | 0x60 => some (.sin f)
  | 0x61 => some (.cos f)
  | 0x62 => some (.tanh f)
  | 0x63 => some (.hadd2 f)
  | 0x64 => some (.hmul2 f)
  | 0x65 => some (.hfma2 f)
  | 0x66 => some (.fdot2 f)
  | 0x67 => some (.pack f)
  | 0x68 => some (.unpack f)
  | 0x80 => some (.shfl f)
  | 0x81 => some (.shpush f)
  | 0x82 => some (.vote f)
  | 0x83 => some (.scanOp f)
  | 0x84 => some (.redl f)
  | 0x85 => some (.matchOp f)
  | 0x86 => some (.bcast f)
  | 0x87 => some (.compact f)
  | 0x90 => some (.ld f)
  | 0x91 => some (.st f)
  | 0x92 => some (.ldu f)
  | 0x93 => some (.ldn f)
  | 0x94 => some (.stn f)
  | 0x95 => some (.spill f)
  | 0x96 => some (.fill f)
  | 0x97 => some (.pf f)
  | 0x98 => some (.clean f)
  | 0x99 => some (.invl f)
  | 0x9A => some (.cctl f)
  | 0x9B => some (.fence f)
  | 0xA0 => some (.atom f)
  | 0xA1 => some (.atomf f)
  | 0xA2 => some (.cas f)
  | 0xA3 => some (.red f)
  | 0xA4 => some (.redf f)
  | 0xB0 => some (.gadd f)
  | 0xB1 => some (.gdel f)
  | 0xB2 => some (.gdelv f)
  | 0xB3 => some (.gdeg f)
  | 0xB4 => some (.glde f)
  | 0xB5 => some (.gfind f)
  | 0xB6 => some (.gsetw f)
  | 0xB7 => some (.grmw f)
  | 0xB8 => some (.gopen f)
  | 0xB9 => some (.gnext f)
  | 0xBA => some (.gclose f)
  | 0xBB => some (.gcur f)
  | 0xC0 => some (.tseal f)
  | 0xC1 => some (.tld f)
  | 0xC2 => some (.tst f)
  | 0xC3 => some (.tgath f)
  | 0xC4 => some (.tscat f)
  | 0xC5 => some (.xcopy f)
  | 0xC6 => some (.xwait f)
  | 0xC7 => some (.plupd f)
  | 0xC8 => some (.plaxpy f)
  | 0xC9 => some (.plresc f)
  | 0xD0 => some (.mma f)
  | 0xD1 => some (.mzero f)
  | 0xD2 => some (.mlda f)
  | 0xD3 => some (.msta f)
  | 0xD4 => some (.msync f)
  | 0xD5 => some (.mrdp f)
  | 0xE0 =>
    match f.sub.toNat with
    | 0 => some (.ringAcq f)
    | 1 => some (.ringCommit f)
    | 2 => some (.ringWait f)
    | 3 => some (.ringRel f)
    | _ => none
  | 0xE1 =>
    match f.sub.toNat with
    | 0 => some (.taskSignal f)
    | 1 => some (.taskLaunch f)
    | _ => none
  | 0xE2 => some (.rgrant f)
  | 0xE3 => some (.rrevoke f)
  | 0xE4 => some (.rarm f)
  | 0xE5 => some (.rput f)
  | 0xE6 => some (.rpoll f)
  | 0xE7 => some (.rcall f)
  | 0xE8 => some (.rarg f)
  | 0xE9 => some (.rret f)
  | 0xEA => some (.nbseq f)
  | 0xEB => some (.racq f)
  | 0xEC => some (.rrel f)
  | 0xF0 => some (.csrr f)
  | 0xF1 => some (.csrw f)
  | 0xF2 => some (.tret f)
  | 0xF3 => some (.tlbinv f)
  | 0xF4 => some (.bankcfg f)
  | 0xF5 => some (.keyset f)
  | 0xF6 => some (.keydestroy f)
  | 0xF7 => some (.ctxsave f)
  | 0xF8 => some (.ctxload f)
  | _ => none

/-- The classes of register that an operand field accepts (03 R90, R91). -/
inductive OpCls where
  /-- not used: must be zero -/
  | unused
  /-- a 32-bit source: v, s or a special register (04 R107; log entry 24) -/
  | src
  /-- a 32-bit destination: v, s or ZERO (01 R32) -/
  | dst
  /-- a 64-bit source: s or an even v (01 R27) -/
  | src64
  /-- a 64-bit base that may be left out: s, even v or ZERO -/
  | base64
  /-- a 64-bit destination outside chapter 04: s, even v or ZERO (01 R32; log entry 71) -/
  | dst64
  /-- v only / s only / s or ZERO -/
  | vec | scal | scalZ
  /-- an even vector pair / an even scalar pair -/
  | vpair | spair
  /-- s or v, no special register: sources that a rule names so, and the D of ICMP and FCMP, which is also a source (log entry 71) -/
  | reg
  /-- s or even v, no special register, as in a 64-bit destination of chapter 04 (R107) -/
  | reg64
  /-- v0-v31 or ZERO: a predicate destination (10 R237) -/
  | pred
  /-- four vector registers from a multiple of 4 / those or an even scalar pair (06 R174) -/
  | vquad | quad
  /-- a range of n registers of one class / of n vector / of n scalar registers (03 R91) -/
  | range (n : Nat) | vrange (n : Nat) | srange (n : Nat)
  deriving DecidableEq, Repr

/-- Whether a register operand is of a class. -/
def OpCls.ok : OpCls → Opnd → Bool
  | .unused, o => o == .v 0
  | .src, .v r => r < 640
  | .src, .s r => r < 64
  | .src, .sp _ => true
  | .dst, .v r => r < 640
  | .dst, .s r => r < 64
  | .dst, .sp x => x == .zero
  | .src64, .v r => r < 640 && r % 2 == 0
  | .src64, .s r => r < 64
  | .src64, .sp _ => false
  | .base64, .v r => r < 640 && r % 2 == 0
  | .base64, .s r => r < 64
  | .base64, .sp x => x == .zero
  | .dst64, .v r => r < 640 && r % 2 == 0
  | .dst64, .s r => r < 64
  | .dst64, .sp x => x == .zero
  | .vec, .v r => r < 640
  | .vec, _ => false
  | .scal, .s r => r < 64
  | .scal, _ => false
  | .scalZ, .s r => r < 64
  | .scalZ, .sp x => x == .zero
  | .scalZ, .v _ => false
  | .vpair, .v r => r < 640 && r % 2 == 0
  | .vpair, _ => false
  | .spair, .s r => r < 64 && r % 2 == 0
  | .spair, _ => false
  | .reg, .v r => r < 640
  | .reg, .s r => r < 64
  | .reg, .sp _ => false
  | .reg64, .v r => r < 640 && r % 2 == 0
  | .reg64, .s r => r < 64
  | .reg64, .sp _ => false
  | .pred, .v r => r < 32
  | .pred, .sp x => x == .zero
  | .pred, .s _ => false
  | .vquad, .v r => r < 640 && r % 4 == 0
  | .vquad, _ => false
  | .quad, .v r => r < 640 && r % 4 == 0
  | .quad, .s r => r < 64 && r % 2 == 0
  | .quad, .sp _ => false
  | .range n, .v r => r + n ≤ 640
  | .range n, .s r => r + n ≤ 64
  | .range _, .sp _ => false
  | .vrange n, .v r => r + n ≤ 640
  | .vrange _, _ => false
  | .srange n, .s r => r + n ≤ 64
  | .srange _, _ => false

/-- How many registers an operand of a class covers (for the extended-block check of 01 R29). -/
def OpCls.count : OpCls → Nat
  | .src64 | .base64 | .dst64 | .vpair | .spair | .reg64 => 2
  | .vquad | .quad => 4
  | .range n | .vrange n | .srange n => n
  | .unused => 0
  | .src | .dst | .vec | .scal | .scalZ | .reg | .pred => 1

/-- What an instruction's description fixes of its word: SUB assigned, MOD assigned, operand classes, hints accepted
(03 R89), a slot must be named (06 R177, 10 R239, 12 R290, 14 R303, R324). -/
structure Shape where
  subOk : Bool
  modOk : Bool
  d : OpCls := .unused
  a : OpCls := .unused
  b : OpCls := .unused
  c : OpCls := .unused
  e : OpCls := .unused
  hints : Bool := false
  needSlot : Bool := false
  extra : Bool := true
  deriving DecidableEq, Repr

/-- Bits hi down to lo of MOD, as a number. -/
def Fields.modBits (f : Fields) (hi lo : Nat) : Nat := f.mod.toNat / 2 ^ lo % 2 ^ (hi + 1 - lo)
/-- Bits hi down to lo of SUB, as a number. -/
def Fields.subBits (f : Fields) (hi lo : Nat) : Nat := f.sub.toNat / 2 ^ lo % 2 ^ (hi + 1 - lo)
/-- MOD has no bit at or above n. -/
def Fields.modBelow (f : Fields) (n : Nat) : Bool := f.mod.toNat < 2 ^ n

/-- The rounding and subnormal overrides of 05 R142 are assigned values; RMO must be 0 where the instruction does not round. -/
def ovrOk (m : Nat) (rounds : Bool) : Bool :=
  let rmo := m % 16
  let sbo := m / 16 % 8
  (rmo == 0 || (rounds && 8 ≤ rmo && rmo ≤ 12)) && (sbo == 0 || 4 ≤ sbo)

/-- Source and destination classes of a width: true for 64 bits. -/
def srcW (w64 : Bool) : OpCls := if w64 then .src64 else .src
def dstW (w64 : Bool) : OpCls := if w64 then .dst64 else .dst

/-- A destination of chapter 04: a 64-bit operand there names no special register (04 R107). -/
def intDst (w64 : Bool) : OpCls := if w64 then .reg64 else .dst

/-- ORD and SCOPE of a load or store (06 R173). -/
def lsOk (f : Fields) (load : Bool) : Bool :=
  let ord := f.mod.toNat
  let sc := f.subBits 6 4
  sc ≤ 5 && (ord == 0 && sc == 0 || (if load then ord == 1 else ord == 2))

/-- SX is set only for 8- and 16-bit loads, W is 0-4 (06 R173). -/
def widthOk (f : Fields) (load : Bool) : Bool :=
  f.subBits 2 0 ≤ 4 && (f.subBits 3 3 == 0 || (load && f.subBits 2 0 < 2))

/-- MOD of an atomic (06 R190). -/
def atomModOk (f : Fields) (num red : Bool) : Bool :=
  let sc := f.modBits 2 0
  let ord := f.modBits 4 3
  f.modBelow 6 && sc ≤ 5 && (ord != 0 || sc == 0) && (!red || ord == 0 || ord == 2) && (num || f.modBits 5 5 == 0)

/-- The csr numbers of 01 R33 and 15 R333. -/
def csrNumbers : List Nat :=
  [0x000, 0x001, 0x002, 0x003, 0x004, 0x010, 0x011, 0x012, 0x013, 0x014, 0x020, 0x021,
   0x100, 0x101, 0x102, 0x103, 0x104, 0x105, 0x106]

/-- D and E of ADDC and SUBB must not name the same register, ZERO included (04 R128). -/
def distinctOut (d e : Opnd) (w64 : Bool) : Bool :=
  match d, e with
  | .v r, .v q => !(q == r || (w64 && q == r + 1))
  | .s r, .s q => q != r
  | .sp x, .sp y => y != x
  | _, _ => true

/-- A two-source form of a width code. -/
def bin (sub mod w : Bool) : Shape := { subOk := sub, modOk := mod, d := intDst w, a := srcW w, b := srcW w }

/-- The floating arithmetic forms (05 R141, R142). -/
def fbin (f : Fields) (rounds : Bool) (extraBits : Nat) : Shape :=
  { subOk := f.sub.toNat ≤ 2, modOk := ovrOk f.mod.toNat rounds && f.modBelow (7 + extraBits), d := .dst, a := .src, b := .src }

/-- The special functions (05 R153). -/
def fspec (f : Fields) (rounds : Bool) : Shape :=
  { subOk := f.sub.toNat ≤ 1, modOk := ovrOk f.mod.toNat rounds && f.modBelow 7, d := .dst, a := .src }

/-- A format code of CVT is assigned (05 R151). -/
def cvtCodeOk (c : Nat) : Bool := c ≤ 4 || (8 ≤ c && c ≤ 15)

/-- The operation and modifier fields of SCAN and REDL (05 R163). -/
def laneRedOk (f : Fields) (exc : Bool) : Bool :=
  let o := f.sub.toNat
  let m := f.mod.toNat
  let body := if exc then m % 128 else m
  (if exc then m < 256 else m < 128) && (if o ≤ 7 then body == 0 else ovrOk body (o == 8))

/-- What each instruction's description fixes of its word. ZERO as a destination, and RDTIME.CYCLES in F64 (03 R84), are log entry 71. -/
def shapeOf : Instr → Shape
  | .nop f => { subOk := f.sub == 0, modOk := f.mod == 0 }
  | .bra f => { subOk := f.sub == 0, modOk := true }
  | .brx f => { subOk := f.sub == 0, modOk := f.mod == 0, a := .src }
  | .call f => { subOk := f.sub == 0, modOk := true, d := .dst }
  | .ret f => { subOk := f.sub == 0, modOk := f.mod == 0, a := .src }
  | .exit f | .yield f | .waitsb f | .bkpt f => { subOk := f.sub == 0, modOk := true }
  | .kdecl f => { subOk := f.sub == 0, modOk := f.modBelow 3, a := .src }
  | .sign f => { subOk := f.sub == 0, modOk := f.modBelow 3 }
  | .barArrive f => { subOk := f.sub == 0, modOk := f.modBelow 2, d := .dst }
  | .barWait f => { subOk := f.sub == 1, modOk := f.modBelow 2, a := .src }
  | .barSync f => { subOk := f.sub == 2, modOk := f.modBelow 2 }
  | .barExpect f => { subOk := f.sub == 3, modOk := f.modBelow 2, a := .src }
  | .gvote f => { subOk := f.sub.toNat ≤ 2, modOk := f.modBelow 2, d := .dst, a := .src }
  | .gred f =>
    let o := f.sub.toNat
    { subOk := o ≤ 10
      modOk := if o ≤ 7 then f.modBelow 2 else f.modBelow 7 && f.modBits 4 2 ≤ (if o == 8 then 4 else 0)
      d := .dst, a := .src }
  | .sleep f => { subOk := f.sub == 0, modOk := f.mod == 0, a := .src }
  | .rdtime f => { subOk := f.sub.toNat ≤ 1, modOk := f.mod == 0, d := .reg64 }
  | .trap f => { subOk := f.sub == 0, modOk := true }
  | .mov f => { subOk := f.sub.toNat ≤ 1, modOk := f.mod == 0, d := intDst (f.sub == 1), a := srcW (f.sub == 1) }
  | .movi f =>
    if f.fmt == .f96i then { subOk := f.sub.toNat ≤ 3, modOk := true, d := intDst (f.sub == 2) }
    else { subOk := f.sub == 0, modOk := true, d := intDst (f.mod != 0) }
  | .sel f =>
    { subOk := f.sub.toNat ≤ 1, modOk := f.modBelow 5, d := intDst (f.sub == 1), a := srcW (f.sub == 1), b := srcW (f.sub == 1)
      c := .src }
  | .iadd f | .isub f => bin (f.sub.toNat ≤ 3) (f.modBelow 1) (2 ≤ f.sub.toNat)
  | .imin f | .imax f => bin (f.sub.toNat ≤ 3) (f.mod == 0) (2 ≤ f.sub.toNat)
  | .iabs f => { subOk := f.sub == 0 || f.sub == 2, modOk := f.modBelow 1, d := intDst (f.sub == 2), a := srcW (f.sub == 2) }
  | .addc f | .subb f =>
    { bin (f.sub.toNat ≤ 1) (f.mod == 0) (f.sub == 1) with c := .src, e := .dst, extra := distinctOut f.d f.e (f.sub == 1) }
  | .icmp f =>
    { subOk := f.sub.toNat ≤ 3
      modOk := f.modBelow 9 && f.modBits 2 0 ≤ 5 && (f.modBits 8 8 == 0 || f.modBits 7 3 == 0)
      d := .reg, a := srcW (2 ≤ f.sub.toNat), b := srcW (2 ≤ f.sub.toNat) }
  | .imul f => bin (f.sub.toNat ≤ 3) (f.modBelow 1) (2 ≤ f.sub.toNat)
  | .imulh f => bin (f.sub.toNat ≤ 3) (f.mod == 0) (2 ≤ f.sub.toNat)
  | .imad f => { bin (f.sub.toNat ≤ 3) (f.modBelow 1) (2 ≤ f.sub.toNat) with c := srcW (2 ≤ f.sub.toNat) }
  | .imadw f => { subOk := f.sub.toNat ≤ 1, modOk := f.mod == 0, d := .reg64, a := .src, b := .src, c := .src64 }
  | .divOp f | .remOp f => bin (f.sub.toNat ≤ 3) (f.mod == 0) (2 ≤ f.sub.toNat)
  | .shl f | .shr f | .sar f | .rot f => { bin (f.sub.toNat ≤ 1) (f.mod == 0) (f.sub == 1) with b := .src }
  | .fshl f | .fshr f => { bin (f.sub == 0) (f.mod == 0) false with c := .src }
  | .andOp f | .orOp f | .xorOp f => bin (f.sub.toNat ≤ 1) (f.mod == 0) (f.sub == 1)
  | .notOp f | .brev f =>
    { subOk := f.sub.toNat ≤ 1, modOk := f.mod == 0, d := intDst (f.sub == 1), a := srcW (f.sub == 1) }
  | .ltab f => { bin (f.sub.toNat ≤ 1) (f.modBelow 8) (f.sub == 1) with c := srcW (f.sub == 1) }
  | .popc f | .clz f | .ctz f => { subOk := f.sub.toNat ≤ 1, modOk := f.mod == 0, d := .dst, a := srcW (f.sub == 1) }
  | .bfe f => { bin (f.sub.toNat ≤ 3) (f.mod == 0) (2 ≤ f.sub.toNat) with b := .src }
  | .bfi f => { bin (f.sub.toNat ≤ 1) (f.mod == 0) (f.sub == 1) with c := .src }
  | .prmb f => { bin (f.sub == 0) (f.mod == 0) false with c := .src }
  | .lea f => { subOk := f.sub == 0, modOk := f.modBelow 4, d := .reg64, a := .src64, b := .src }
  | .cvti f =>
    { subOk := f.sub.toNat < 64, modOk := f.modBelow 1, d := intDst (f.subBits 1 0 == 3), a := srcW (f.subBits 4 3 == 3) }
  | .fadd f | .fsub f | .fmul f => fbin f true 0
  | .ffma f => { fbin f true 0 with c := .src }
  | .fmin f | .fmax f => { fbin f false 1 with modOk := ovrOk (f.mod.toNat % 128) false && f.modBelow 8 }
  | .fcmp f =>
    { fbin f false 0 with
      modOk := ovrOk (f.mod.toNat % 128) false && f.modBelow 16 && (f.modBits 15 15 == 0 || f.modBits 14 10 == 0), d := .reg }
  | .fclass f => { subOk := f.sub.toNat ≤ 2, modOk := f.mod == 0, d := .dst, a := .src }
  | .frnd f => { fbin f true 0 with b := .unused }
  | .fscale f => fbin f true 0
  | .cvt f =>
    let dc := f.subBits 3 0
    let sc := f.subBits 7 4
    { subOk := cvtCodeOk dc && cvtCodeOk sc && !(8 ≤ dc && 8 ≤ sc), modOk := ovrOk f.mod.toNat true && f.modBelow 7
      d := dstW (dc == 11 || dc == 15), a := srcW (sc == 11 || sc == 15) }
  | .rcp f | .rsq f | .ex2 f | .lg2 f | .sin f | .cos f | .tanh f => fspec f false
  | .sqrt f => fspec f true
  | .hadd2 f | .hmul2 f => { fbin f true 0 with subOk := f.sub.toNat ≤ 1 }
  | .hfma2 f | .fdot2 f => { fbin f true 0 with subOk := f.sub.toNat ≤ 1, c := .src }
  | .pack f =>
    if f.sub == 2 then { subOk := true, modOk := f.mod == 0, d := .vec, a := .src }
    else { subOk := f.sub.toNat ≤ 1, modOk := ovrOk (f.mod.toNat % 128) true && f.modBelow 8, d := .dst, a := .src, b := .src, c := .src }
  | .unpack f =>
    { subOk := f.sub.toNat ≤ 2
      modOk := if f.sub == 2 then f.modBits 6 0 == 0 && f.modBelow 10 else ovrOk (f.mod.toNat % 128) true && f.modBelow 9
      d := .dst, a := .src, b := .src }
  | .shfl f =>
    { subOk := f.sub.toNat ≤ 3, modOk := f.modBelow 1, d := dstW (f.mod == 1), a := srcW (f.mod == 1), b := .src }
  | .shpush f => { subOk := f.sub.toNat ≤ 1, modOk := f.mod == 0, d := dstW (f.sub == 1), a := srcW (f.sub == 1), b := .src }
  | .vote f => { subOk := f.sub.toNat ≤ 2, modOk := f.modBelow 5, d := .dst, a := .src }
  | .scanOp f => { subOk := f.sub.toNat ≤ 10, modOk := laneRedOk f true, d := .dst, a := .src }
  | .redl f => { subOk := f.sub.toNat ≤ 10, modOk := laneRedOk f false, d := .dst, a := .src }
  | .matchOp f => { subOk := f.sub.toNat ≤ 1, modOk := f.mod == 0, d := .dst, a := srcW (f.sub == 1) }
  | .bcast f => { subOk := f.sub.toNat ≤ 1, modOk := f.modBelow 1, d := dstW (f.sub == 1), a := srcW (f.sub == 1) }
  | .compact f => { subOk := f.sub.toNat ≤ 1, modOk := f.modBelow 5, d := dstW (f.sub == 1), a := srcW (f.sub == 1), b := .src }
  | .ld f =>
    let w := f.subBits 2 0
    { subOk := widthOk f true, modOk := lsOk f true, d := if w ≤ 2 then .vec else if w == 3 then .vpair else .vquad
      a := .base64, b := .src, hints := true, needSlot := true }
  | .st f =>
    let w := f.subBits 2 0
    { subOk := widthOk f false, modOk := lsOk f false, d := if w ≤ 2 then .src else if w == 3 then .reg64 else .quad
      a := .base64, b := .src, hints := true }
  | .ldu f =>
    let w := f.subBits 2 0
    { subOk := widthOk f true, modOk := lsOk f true, d := if w ≤ 2 then .dst else if w == 3 then .dst64 else .quad
      a := .base64, b := .src, hints := true, needSlot := true }
  | .ldn f => { subOk := f.sub.toNat < 16, modOk := f.mod == 0, d := .vec, a := .src64, b := .src, hints := true, needSlot := true }
  | .stn f =>
    { subOk := f.sub.toNat < 16 && f.subBits 2 2 == 0, modOk := f.mod == 0, a := .src64, b := .src, c := .src, hints := true }
  | .spill f => { subOk := f.sub.toNat < 64, modOk := f.mod == 0, d := .range (f.subBits 5 0 + 1), a := .scalZ, hints := true }
  | .fill f =>
    { subOk := f.sub.toNat < 64, modOk := f.mod == 0, d := .range (f.subBits 5 0 + 1), a := .scalZ, hints := true
      needSlot := true }
  | .pf f => { subOk := f.sub == 0, modOk := f.mod == 0, a := .base64, b := .src, hints := true }
  | .clean f =>
    { subOk := f.sub.toNat ≤ 1, modOk := f.modBelow 1, a := if f.sub == 1 then .scalZ else .base64
      b := if f.sub == 1 then .scal else .src, hints := true }
  | .invl f =>
    { subOk := f.sub.toNat ≤ 1, modOk := f.mod == 0, a := if f.sub == 1 then .scalZ else .base64
      b := if f.sub == 1 then .scal else .src, hints := true }
  | .cctl f => { subOk := f.sub.toNat ≤ 2, modOk := f.mod == 0, hints := true }
  | .fence f => { subOk := f.sub.toNat ≤ 5, modOk := f.mod == 0, hints := true }
  | .atom f =>
    let w := f.subBits 4 4 == 1
    { subOk := f.subBits 3 0 ≤ 10 && f.sub.toNat < 64, modOk := atomModOk f false false, d := if w then .vpair else .vec
      a := .base64, b := .src, c := srcW w, hints := true, needSlot := true }
  | .atomf f =>
    { subOk := f.subBits 4 0 ≤ 4 && f.sub.toNat < 64, modOk := atomModOk f (3 ≤ f.subBits 4 0) false, d := .vec
      a := .base64, b := .src, c := .src, hints := true, needSlot := true }
  | .cas f =>
    let w := f.subBits 0 0 == 1
    { subOk := f.subBits 4 1 == 0 && f.sub.toNat < 64, modOk := atomModOk f false false, d := if w then .vpair else .vec
      a := .base64, b := .src, c := srcW w, e := srcW w, hints := true, needSlot := true }
  | .red f =>
    { subOk := f.subBits 3 0 ≤ 10 && f.sub.toNat < 64, modOk := atomModOk f false true
      a := .base64, b := .src, c := srcW (f.subBits 4 4 == 1), hints := true }
  | .redf f =>
    { subOk := f.subBits 4 0 ≤ 4 && f.sub.toNat < 64, modOk := atomModOk f (3 ≤ f.subBits 4 0) true
      a := .base64, b := .src, c := .src, hints := true }
  | .gadd f | .gsetw f =>
    { subOk := f.sub == 0, modOk := f.mod == 0, d := .dst, a := .src64, b := .src, c := .src, e := .src
      needSlot := f.d != .sp .zero }
  | .gdel f =>
    { subOk := f.sub == 0, modOk := f.mod == 0, d := .dst, a := .src64, b := .src, c := .src, needSlot := f.d != .sp .zero }
  | .gdelv f =>
    { subOk := f.sub.toNat ≤ 2, modOk := f.mod == 0, d := .dst, a := .src64, b := .src, needSlot := f.d != .sp .zero }
  | .gdeg f => { subOk := f.sub.toNat ≤ 1, modOk := f.mod == 0, d := .dst, a := .src64, b := .src, needSlot := f.d != .sp .zero }
  | .glde f | .gfind f =>
    { subOk := f.sub.toNat ≤ 1, modOk := f.modBelow 5, d := .vpair, a := .src64, b := .src, c := .src, e := .pred, needSlot := true }
  | .grmw f =>
    { subOk := f.sub.toNat ≤ 11, modOk := f.mod == 0, d := .vpair, a := .src64, b := .src, c := .src, e := .src, needSlot := true }
  | .gopen f =>
    { subOk := f.sub.toNat ≤ 1, modOk := f.modBelow 7 && (f.modBits 3 3 == 1 || f.modBits 6 4 == 0), d := .dst, a := .src64, b := .src
      needSlot := f.d != .sp .zero }
  | .gnext f => { subOk := f.sub == 0, modOk := f.modBelow 8, d := .vpair, a := .pred, needSlot := true }
  | .gclose f => { subOk := f.sub.toNat ≤ 8, modOk := f.mod == 0 }
  | .gcur f => { subOk := f.sub == 0, modOk := f.modBelow 3, d := .vpair }
  | .tseal f => { subOk := f.sub == 0, modOk := f.mod == 0, a := .src64 }
  | .tld f =>
    { subOk := f.sub.toNat ≤ 3, modOk := f.modBelow 6 && f.modBits 2 0 ≤ 6, d := .src64, a := .src64, b := .reg, c := .src, e := .dst
      hints := true }
  | .tst f =>
    { subOk := f.sub.toNat ≤ 3, modOk := f.modBelow 3 && f.modBits 2 0 ≤ 6, d := .src64, a := .src64, b := .reg, c := .src, e := .dst
      hints := true }
  | .tgath f =>
    { subOk := f.sub.toNat ≤ 3, modOk := f.modBits 2 0 ≤ 6, d := .src64, a := .src64, b := .vrange 2, c := .src, e := .dst
      hints := true }
  | .tscat f =>
    { subOk := f.sub.toNat ≤ 3, modOk := f.modBits 1 0 ≤ 2 && f.modBits 4 2 ≤ 6 && f.modBits 5 5 == 0, d := .src64, a := .src64
      b := .vrange 2, c := .src, e := .dst, hints := true }
  | .xcopy f =>
    let x := f.modBits 2 0
    { subOk := f.sub.toNat ≤ 3, modOk := f.modBelow 4 && x ≤ 4 && (f.modBits 3 3 == 0 || !(x == 0 || x == 3)), d := .src64, a := .src64
      b := .src, c := .src64, e := .dst, hints := true }
  | .xwait f => { subOk := f.sub == 0, modOk := f.mod == 0, a := .src }
  | .plupd f => { subOk := f.sub == 0 || f.sub == 8, modOk := f.mod == 0, a := .src64, b := .src, c := .src }
  | .plaxpy f => { subOk := f.sub == 0, modOk := f.mod == 0, a := .src64, b := .src, c := .src, e := .src }
  | .plresc f => { subOk := f.sub == 0, modOk := f.mod == 0, a := .src64, b := .src }
  | .mma f =>
    let ta := f.subBits 2 0
    let tb := f.subBits 5 3
    { subOk := f.sub.toNat < 64 && ta ≤ 5 && tb ≤ 5 && (ta == tb || ((ta == 2 || ta == 3) && (tb == 2 || tb == 3)))
      modOk := f.modBelow 10, a := .scal, b := .scal, c := .scal }
  | .mzero f => { subOk := f.sub == 0, modOk := f.modBelow 6 }
  | .mlda f =>
    { subOk := f.sub == 0, modOk := f.modBelow 9, d := .vrange (2 * (f.modBits 8 6 + 1)), a := .src, needSlot := true }
  | .msta f => { subOk := f.sub == 0, modOk := f.modBelow 9, d := .vrange (2 * (f.modBits 8 6 + 1)), a := .src }
  | .msync f => { subOk := f.sub.toNat < 16, modOk := f.mod == 0 }
  | .mrdp f => { subOk := f.sub == 0, modOk := f.mod == 0, d := .dst }
  | .ringAcq f => { subOk := f.sub == 0, modOk := f.modBelow 3, d := .dst64, a := .src }
  | .ringCommit f => { subOk := f.sub == 1, modOk := f.modBelow 3, a := .src, b := .src }
  | .ringWait f => { subOk := f.sub == 2, modOk := f.modBelow 3, a := .src, b := .src }
  | .ringRel f => { subOk := f.sub == 3, modOk := f.modBelow 3, a := .src }
  | .taskSignal f => { subOk := f.sub == 0, modOk := f.mod == 0, d := .dst, a := .src, needSlot := f.d != .sp .zero }
  | .taskLaunch f => { subOk := f.sub == 1, modOk := f.mod == 0, d := .dst, a := .src, needSlot := f.d != .sp .zero }
  | .rgrant f =>
    { subOk := f.sub == 0, modOk := f.modBelow 12 && f.modBits 10 10 == 1, d := .spair, a := .range (f.modBits 9 0 + 1) }
  | .rrevoke f => { subOk := f.sub.toNat ≤ 1, modOk := f.mod == 0, a := if f.sub == 1 then .unused else .spair }
  | .rarm f => { subOk := f.sub == 0, modOk := f.modBelow 10 && f.modBits 9 0 < 640, a := .range (f.modBits 9 0 + 1) }
  | .rput f =>
    let ord := f.modBits 4 3
    let sc := f.modBits 2 0
    { subOk := f.sub == 0, modOk := f.modBelow 5 && sc ≤ 5 && (ord == 2 || (ord == 0 && sc == 0)), d := .dst, a := .spair, b := .src
      c := .reg, needSlot := f.d != .sp .zero }
  | .rpoll f => { subOk := f.sub == 0, modOk := f.modBelow 5, d := .dst, a := .range (f.modBits 4 0 + 1) }
  | .rcall f =>
    let nv := f.modBits 3 0
    let ns := f.modBits 7 4
    let ne := f.modBits 11 8
    let nf := f.modBits 12 12
    { subOk := f.sub == 0, modOk := f.modBelow 13 && nv ≤ 8 && ns ≤ 8 && ne ≤ 8, a := .src64, b := .src
      c := if nv == 0 then .unused else .vrange nv, d := if ne == 0 then .unused else .vrange ne
      e := if ns + nf == 0 then .unused else .srange (ns + nf) }
  | .rarg f =>
    { subOk := f.sub.toNat ≤ 2, modOk := if f.sub == 2 then f.mod == 0 else f.modBelow 4, d := if f.sub == 0 then .vec else .scal }
  | .rret f =>
    let n := f.modBits 3 0
    { subOk := f.sub == 0, modOk := f.modBelow 4 && n ≤ 8, d := if n == 0 then .unused else .vrange n }
  | .nbseq f => { subOk := f.sub.toNat ≤ 3, modOk := f.mod == 0, d := .dst, a := .src64, c := .src }
  | .racq f | .rrel f => { subOk := f.sub == 0, modOk := f.mod == 0, a := .src }
  | .csrr f => { subOk := f.sub == 0, modOk := csrNumbers.contains f.mod.toNat, d := .dst64 }
  | .csrw f => { subOk := f.sub.toNat ≤ 2, modOk := csrNumbers.contains f.mod.toNat, a := .src64 }
  | .tret f => { subOk := f.sub.toNat ≤ 1, modOk := true }
  | .tlbinv f => { subOk := f.sub.toNat ≤ 2, modOk := f.mod == 0, a := if f.sub == 0 then .scal else .unused }
  | .bankcfg f => { subOk := f.sub == 0, modOk := f.mod == 0, a := .src, b := .src }
  | .keyset f => { subOk := f.sub == 0, modOk := f.mod == 0, d := .dst, a := .scal, b := .src }
  | .keydestroy f => { subOk := f.sub == 0, modOk := f.mod == 0, a := .src }
  | .ctxsave f | .ctxload f => { subOk := f.sub == 0, modOk := f.mod == 0, a := .scal }
  | .issueStep _ | .sleepWake _ | .fenceComplete _ | .graphOutHomeApply _ | .mirrorUpdateApply _ | .deathTimeSet _ |
    .mirrorCreditReserve _ _ _ | .listReclamation _ _ _ | .engineLineWrite _ | .streamerCompletion _ |
    .rowBlockCompletion _ _ | .rputArrival _ | .rputStatusReturn _ | .callSlotReserve _ | .callArrival _ |
    .callDispatch _ | .remoteFunctionStart _ | .echoArrival _ | .echoTimeout _ | .sequenceStart _ |
    .sequenceRowStep _ | .sequenceRunEnd _ | .sequenceCompletion _ | .sequencerWatchdogExpiry _ | .resultWrite _ _ |
    .leaseGrant _ | .leaseExpiry _ _ | .homeWriteApply _ | .atomicApply _ | .writeCompletionReturn _ |
    .l1Eviction _ _ | .l2Eviction _ | .hostAtomicAttempt _ _ | .hostCxlMemWrite _ _ | .hostCxlMemRead _ _ |
    .domainRequest _ | .timeSync _ _ | .peerUnreachable _ | .linkUp _ | .readPacket _ _ | .fullWrite _ _ |
    .maskedWrite _ _ | .sectorWriteback _ _ | .sequenceRow _ _ | .refreshHoldRelease _ _ | .readReply _ _ |
    .writeAcknowledge _ _ | .starvationBound _ _ | .scrub _ _ | .criticalTemperatureAssert _ |
    .criticalTemperatureClear _ | .thermalHold _ | .lumenReplenish _ | .qtailWrite _ _ | .nopPacket _ |
    .launchPacket _ | .signalPacket _ | .killPacket _ | .reservedPacketType _ | .taskCheckComplete _ _ |
    .cohortPlacement _ | .stealRequest _ | .stealRetry _ | .preemption _ | .cohortRestore _ | .granuleFill _ _ |
    .taskRetire _ _ | .activeSetReplacement _ | .activeSetRotation _ | .faultAnswerReplay _ | .faultAnswerDeliver _ |
    .faultAnswerKill _ | .fbtailWrite _ | .tlbcmdPage _ | .tlbcmdContext _ | .tlbcmdAll _ | .tlbstatRead |
    .evtpopRead | .registerWrite _ _ | .contextCreate | .contextDestroy | .graphCreate | .graphDestroy |
    .keySession | .keyLoad | .keyDestroy | .attest | .domainCmd | .exportRange | .setLimit | .mailboxUnknownCommand |
    .cltailWrite _ | .collectiveStart | .contributionArrival _ _ _ | .collectiveTimeout | .collectiveCompletion |
    .powerUp | .powerOff | .bootgo _ | .bootVerifyComplete | .firmwareInitComplete | .cxlReset |
    .functionLevelReset | .hotReset | .d3cold | .qcfgWrite _ _ | .fbcfgWrite _ | .doubleError _ | .portLinkLoss _ |
    .rateChange _ _ => { subOk := false, modOk := false }

/-- Why a word is no instruction (03 R74, R75, R94): each raises ILLEGAL_ENCODING. -/
inductive EncErr where
  | tooShort | length | opcode | format | subOp | slotSix | slotMissing | reserved | guard | hint | modifier | operand
  deriving DecidableEq, Repr

/-- The fields that a format lacks are zero, and the others fit it (03 R83-R88). -/
def formatOk (f : Fields) : Bool :=
  let short (o : Opnd) : Bool :=
    match o with
    | .v r => r < 192
    | .s r => r < 64
    | .sp _ => false
  match f.fmt with
  | .f64 =>
    f.c == .v 0 && f.e == .v 0 && f.mod == 0 && f.imm == 0 && f.g1 == none && f.gcomb == false && f.evict == 0 && f.level == 0 &&
      f.sub.toNat < 16 && short f.d && short f.a && short f.b
  | .f96 => f.c == .v 0 && f.e == .v 0 && f.imm == 0 && f.g1 == none && f.gcomb == false
  | .f96i =>
    f.b == .v 0 && f.c == .v 0 && f.e == .v 0 && f.mod == 0 && f.imm.toNat < 2 ^ 28 && f.g1 == none && f.gcomb == false
  | .f128 => f.mod.toNat < 2 ^ 14 && f.imm == 0
  | .f128i => f.c == .v 0 && f.e == .v 0 && f.mod.toNat < 4

/-- GCOMB = 1 needs both guards (03 R81). -/
def guardsOk (f : Fields) : Bool := !f.gcomb || (f.g0.isSome && f.g1.isSome)

/-- The decode check of a warp instruction's fields, in the order of 03 R94; none where the word is an instruction. -/
def checkEncoding (i : Instr) : Option EncErr :=
  match opEntry i with
  | none => none
  | some (ent, f) =>
    let sh := shapeOf i
    if !ent.fmts.contains f.fmt then some .format
    else if !formatOk f then some .format
    else if !sh.subOk then some .subOp
    else if f.slot == 6 then some .slotSix
    else if !guardsOk f then some .guard
    else if !sh.hints && !(f.evict == 0 && f.level == 0) then some .hint
    else if !sh.modOk then some .modifier
    else if sh.needSlot && f.slot == 7 then some .slotMissing
    else if !(sh.d.ok f.d && sh.a.ok f.a && sh.b.ok f.b && sh.c.ok f.c && sh.e.ok f.e && sh.extra) then some .operand
    else none

/-- Bytes of an instruction of a format (03 R74). -/
def Fmt.bytes : Fmt → Nat
  | .f64 => 8
  | .f96 | .f96i => 12
  | .f128 | .f128i => 16

/-- LEN of a format (03 R74). -/
def Fmt.len : Fmt → Nat
  | .f64 => 0
  | .f96 | .f96i => 1
  | .f128 | .f128i => 2

end Sys2Proof
end

