-- ==== Sys2Proof/WellFormed.lean ====
section
/-!
DEFINITION. Well-formed instructions: those whose fields pass the decode check of 03 R94. The steps of other agents carry no
word, so every one of them is well formed.
-/
namespace Sys2Proof

/-- An instruction that the decode check of 03 R94 lets through. -/
def Instr.wellFormed (i : Instr) : Bool := (checkEncoding i).isNone

end Sys2Proof
end

