-- ==== Sys2Proof/Decode.lean ====
section
/-!
DEFINITION. Decoding bytes to an instruction (03 R74-R94), by name where the bytes are none; the encoder beside it, written
from the same field maps. EXTBLK.N, the fetch and the fetch-block rule of R75 belong to the machine's state: Machine/Fetch.lean.
-/
namespace Sys2Proof

/-- Bits lo to lo + n - 1 of a word, as a number. -/
def bitsOf (w lo n : Nat) : Nat := w / 2 ^ lo % 2 ^ n

/-- Bytes as one little-endian number (00 R6). -/
def leNat : List Byte → Nat
  | [] => 0
  | b :: r => b.toNat + 256 * leNat r

/-- The n low bytes of a number, little-endian. -/
def leBytes : Nat → Nat → List Byte
  | 0, _ => []
  | n + 1, w => BitVec.ofNat 8 w :: leBytes n (w / 256)

/-- The special register of a code 704 to 711 (01 R32). -/
def specialOf (n : Nat) : Special :=
  match n with
  | 0 => .zero | 1 => .laneId | 2 => .warpId | 3 => .cohortId | 4 => .taskId | 5 => .dieId | 6 => .devId | _ => .lpc

/-- Its number from 704. -/
def Special.num : Special → Nat
  | .zero => 0 | .laneId => 1 | .warpId => 2 | .cohortId => 3 | .taskId => 4 | .dieId => 5 | .devId => 6 | .lpc => 7

/-- A 10-bit operand code (03 R90); none for the codes that are unassigned. -/
def opndOf (code : Nat) : Option Opnd :=
  if code < 640 then some (.v code)
  else if code < 704 then some (.s (code - 640))
  else if code < 712 then some (.sp (specialOf (code - 704)))
  else none

/-- An 8-bit operand code of F64 (03 R84). -/
def opnd8 (x : Nat) : Opnd := if x < 192 then .v x else .s (x - 192)

/-- The code of an operand (03 R90). -/
def Opnd.code : Opnd → Nat
  | .v r => r
  | .s r => 640 + r
  | .sp x => 704 + x.num

/-- The 8-bit code of an operand of F64 (03 R84). -/
def Opnd.code8 : Opnd → Nat
  | .v r => r
  | .s r => 192 + r
  | .sp _ => 0

/-- A 13-bit guard field (03 R80): the outer none for a disabled guard whose other bits are not zero. -/
def guardOf (g : Nat) : Option (Option Guard) :=
  if g % 2 = 1 then
    some (some { neg := bitsOf g 12 1 = 1, bit := BitVec.ofNat 5 (bitsOf g 7 5), reg := BitVec.ofNat 5 (bitsOf g 2 5), scalar := bitsOf g 1 1 = 1 })
  else if g = 0 then some none
  else none

/-- The guard field of a guard. -/
def guardCode : Option Guard → Nat
  | none => 0
  | some g => 1 + 2 * g.scalar.toNat + 4 * g.reg.toNat + 128 * g.bit.toNat + 4096 * g.neg.toNat

/-- The format of a word by LEN and opcode: an opcode with an immediate layout uses it (03 R74, R86, R88). -/
def fmtOf (len opc : Nat) : Fmt :=
  match len with
  | 0 => .f64
  | 1 => if opc = 0x01 ∨ opc = 0x03 ∨ opc = 0x0F ∨ opc = 0x21 then .f96i else .f96
  | _ =>
    if opc = 0x21 ∨ opc = 0x90 ∨ opc = 0x91 ∨ opc = 0x92 ∨ (0x95 ≤ opc ∧ opc ≤ 0x99) then .f128i else .f128

/-- Splitting a word of a format into its fields (03 R78, R83-R88): none where a reserved bit or a disabled guard breaks
its rule, or an operand code is unassigned. -/
def splitWord (fmt : Fmt) (w : Nat) : Except EncErr Fields := do
  let g0 ← (guardOf (bitsOf w 23 13)).elim (.error .guard) .ok
  let base : Fields :=
    { fmt := fmt, stall := BitVec.ofNat 4 (bitsOf w 10 4), slot := BitVec.ofNat 3 (bitsOf w 14 3), wait := BitVec.ofNat 6 (bitsOf w 17 6)
      g0 := g0, g1 := none, gcomb := false, sub := 0, evict := 0, level := 0, d := .v 0, a := .v 0, b := .v 0, c := .v 0, e := .v 0
      mod := 0, imm := 0 }
  let op (lo : Nat) : Except EncErr Opnd := (opndOf (bitsOf w lo 10)).elim (.error .operand) .ok
  let wide : Fields :=
    { base with sub := BitVec.ofNat 8 (bitsOf w 36 8), evict := BitVec.ofNat 2 (bitsOf w 44 2), level := BitVec.ofNat 2 (bitsOf w 46 2) }
  match fmt with
  | .f64 =>
    return { base with
      sub := BitVec.ofNat 8 (bitsOf w 36 4), d := opnd8 (bitsOf w 40 8), a := opnd8 (bitsOf w 48 8), b := opnd8 (bitsOf w 56 8) }
  | .f96 => return { wide with d := ← op 48, a := ← op 58, b := ← op 68, mod := BitVec.ofNat 18 (bitsOf w 78 18) }
  | .f96i => return { wide with d := ← op 48, a := ← op 58, imm := BitVec.ofNat 32 (bitsOf w 68 28) }
  | .f128 =>
    if bitsOf w 62 2 ≠ 0 then throw .reserved
    let g1 ← (guardOf (bitsOf w 48 13)).elim (.error .guard) .ok
    return { wide with
      g1 := g1, gcomb := bitsOf w 61 1 = 1, d := ← op 64, a := ← op 74, b := ← op 84, c := ← op 94, e := ← op 104
      mod := BitVec.ofNat 18 (bitsOf w 114 14) }
  | .f128i =>
    if bitsOf w 62 2 ≠ 0 then throw .reserved
    let g1 ← (guardOf (bitsOf w 48 13)).elim (.error .guard) .ok
    return { wide with
      g1 := g1, gcomb := bitsOf w 61 1 = 1, d := ← op 64, a := ← op 74, b := ← op 84
      imm := BitVec.ofNat 32 (bitsOf w 94 32), mod := BitVec.ofNat 18 (bitsOf w 126 2) }

/-- Bytes of an instruction whose LEN is len (03 R74). -/
def lenBytes (len : Nat) : Nat := 8 + 4 * len

/-- The instruction at the head of a list of bytes and its length in bytes, or why there is none (03 R94). Total: any bytes
have an answer. -/
def decode (bs : List Byte) : Except EncErr (Instr × Nat) := do
  if bs.length < 8 then throw .tooShort
  let len := leNat (bs.take 1) % 4
  if len = 3 then throw .length
  let n := lenBytes len
  if bs.length < n then throw .tooShort
  let w := leNat (bs.take n)
  let opc := bitsOf w 2 8
  let f ← splitWord (fmtOf len opc) w
  match ofOpcode opc f with
  | none => throw (if opc = 0x09 ∨ opc = 0xE0 ∨ opc = 0xE1 then .subOp else .opcode)
  | some i =>
    match checkEncoding i with
    | some e => throw e
    | none => return (i, n)

/-- Joining the fields of a format to a word with a major opcode: the reverse of `splitWord`. -/
def joinWord (opc : Nat) (f : Fields) : Nat :=
  let low := f.fmt.len + opc * 2 ^ 2 + f.stall.toNat * 2 ^ 10 + f.slot.toNat * 2 ^ 14 + f.wait.toNat * 2 ^ 17 + guardCode f.g0 * 2 ^ 23
  let wide := low + f.sub.toNat * 2 ^ 36 + f.evict.toNat * 2 ^ 44 + f.level.toNat * 2 ^ 46
  let second := guardCode f.g1 * 2 ^ 48 + f.gcomb.toNat * 2 ^ 61
  match f.fmt with
  | .f64 => low + f.sub.toNat * 2 ^ 36 + f.d.code8 * 2 ^ 40 + f.a.code8 * 2 ^ 48 + f.b.code8 * 2 ^ 56
  | .f96 => wide + f.d.code * 2 ^ 48 + f.a.code * 2 ^ 58 + f.b.code * 2 ^ 68 + f.mod.toNat * 2 ^ 78
  | .f96i => wide + f.d.code * 2 ^ 48 + f.a.code * 2 ^ 58 + f.imm.toNat * 2 ^ 68
  | .f128 =>
    wide + second + f.d.code * 2 ^ 64 + f.a.code * 2 ^ 74 + f.b.code * 2 ^ 84 + f.c.code * 2 ^ 94 + f.e.code * 2 ^ 104 + f.mod.toNat * 2 ^ 114
  | .f128i =>
    wide + second + f.d.code * 2 ^ 64 + f.a.code * 2 ^ 74 + f.b.code * 2 ^ 84 + f.imm.toNat * 2 ^ 94 + f.mod.toNat * 2 ^ 126

/-- The bytes of a well-formed warp instruction, in storage order; none for the steps of other agents, which have no word. -/
def encode (i : Instr) : Option (List Byte) :=
  match opEntry i with
  | none => none
  | some (ent, f) => some (leBytes f.fmt.bytes (joinWord ent.opc f))

/-- The instruction that `decode` reads from a word whose bit 0 is the least significant bit of its first byte: nbits are
given, every bit above them is zero. -/
def decodeTableWord (nbits w : Nat) : Option Instr :=
  match decode (leBytes 16 (w % 2 ^ nbits)) with
  | .ok (i, _) => some i
  | .error _ => none

end Sys2Proof
end

