-- ==== Sys2Proof/Config.lean ====
section
/-!
DEFINITION. What the manual leaves to the device or leaves open: constants with no body, so that no proof can rest on a
value. Each is named in the assumption log.
-/
namespace Sys2Proof.Config

/-- Nanoseconds of TIME that pass before step number n (log entry 4). -/
opaque elapsed : Nat → Nat
/-- Cycles for which the issuing warp was ready but not chosen, or its fetch was under way, before step n (log entry 5). -/
opaque waits : Nat → Nat
/-- Which of the words that registers of the warp hold or are being given a bit of a value comes from that is read before its
result is ready, CHECKSB clear (01 R40; log entry 8). -/
opaque earlyRead : Nat → Nat
/-- The code a special function delivers, taken where it meets the bound of 02 R68 and the rounded exact value elsewhere (log
entry 9). Arguments: opcode, format, operand code. -/
opaque specialPick : Nat → Nat → Nat → Nat
/-- Which of the bytes that stores have replaced, are storing or have stored a fetch returns where no rule makes it reliable (03 R77; log
entry 16). -/
opaque codePick : Nat → Nat
/-- The set of an L2 slice that a line goes to, and of a memory-side cache that a block goes to (17 R357, R362; log entry 52). -/
opaque l2SetOf : Nat → Nat
opaque sectorSetOf : Nat → Nat
/-- The SCALE byte of an N4 block whose exponent plus 127 exceeds 0xFE (02 R57; log entry 73). -/
opaque overScale : Nat → BitVec 8
/-- A byte of a bank that entered scratchpad mode (15 R341; log entry 11). -/
opaque bankByte : Nat → BitVec 8
/-- A destination byte of a streamer request whose source overlaps its destination (12 R269; log entry 12). -/
opaque overlapByte : Nat → BitVec 8
/-- What unsynchronised streams leave in an element: any function of the words of the warp's own tile and operands (12 R288; log entry 13). -/
opaque raceElt : List (BitVec 32) → Nat → BitVec 32
/-- The keyed tag of a register-naming capability: context key number, bits 95:0 (14 R296; log entry 10). -/
opaque capTag : Nat → BitVec 96 → BitVec 32
/-- The fused private keys: the identity key and the key-wrapping key (19 R401; log entry 10). -/
opaque identityKey : Nat
opaque wrappingKey : Nat
/-- The fused serial, 16 bytes (19 R401, R402; log entry 10). -/
opaque serial : List (BitVec 8)
/-- The fused hashes of vendor keys, and whether the revoke fuse of one is blown (19 R400; log entry 10). -/
opaque vendorHash : Nat → List (BitVec 8)
opaque vendorRevoked : Nat → Bool
/-- The header of an image: the public key and the signature, 64 bytes each, and the header's length; none where it is malformed (19 R400; log
entry 10). -/
opaque imageHeader : List (BitVec 8) → Option (List (BitVec 8) × List (BitVec 8) × Nat)
/-- The nonce of the signature of an attestation report (19 R402; log entry 10). -/
opaque signNonce : List (BitVec 8) → Nat
/-- RATE and CAP of a die pool for a power limit in watts (18 R390; log entry 22). -/
opaque lumenRate : Nat → Nat → Nat
opaque lumenCap : Nat → Nat
/-- Whether Bloom signatures meet without a real conflict, at step n (17 R370; log entry 21). -/
opaque bloomFalseHit : Nat → Bool
/-- Whether the root port completes CAS (19 R395): found by firmware at boot (log entry 23). -/
opaque rootPortCas : Bool
/-- Whether another device serves a request of this one to a physical address: an export there allows it (19 R403; log entry 28). -/
opaque peerAllows : Nat → Nat → Bool
/-- The lease length another device's home grants, and its completion times' delay, for message n (07 R200, R202; log entry 28). -/
opaque peerLease : Nat → Nat
/-- The status that another device returns for a register write, and what its unit's echo carries: status and values (14 R303, R311; log entry
28). -/
opaque peerStatus : Nat → Nat
opaque peerEcho : Nat → BitVec 32
/-- Which writer each overlapping byte takes where two writebacks are applied as one action (07 R211; log entry 2). -/
opaque mergePick : Nat → Bool
/-- The random keys that firmware loads into slot 0 at boot (19 R400; log entry 10). -/
opaque slotZeroKeys : BitVec 512
/-- A result that no rule states (log entry 37). -/
opaque unstated : Nat → BitVec 32
/-- The errors that a unit has corrected since they were last counted (17 R365; 19 R396; log entry 78). -/
opaque correctedErrors : Nat → Nat
/-- The unit whose count a double error outside every stack's and I/O die's memory enters (17 R365; 19 R396; log entry 78). -/
opaque errorUnit : Nat → Nat

end Sys2Proof.Config
end

