-- ==== Sys2Proof/Machine/State.lean ====
section
/-!
DEFINITION. The machine's state as plain data, and the state right after power-up. INVENTORY.md lists every piece with the rule
that names it. Numbers: a cluster is numbered die * 48 + cluster; a register by its operand code (v 0-639, s 640-703, 03 R90); a
byte of memory by its location (Machine/Place.lean); times are nanoseconds of TIME, cycles those of the 1.7 GHz clock.
-/
namespace Sys2Proof.Machine
open Sys2Proof

/-- Why the machine stops with a fault. There is no such reason: every fault the manual names is taken as a next state (a trap, a
suspension, an echo or the end of a task), so nothing raises one; safe. -/
inductive Fault where
  deriving DecidableEq, Repr

/-- Why an instruction has no meaning. -/
inductive Refusal where
  /-- Raised by exec for an instruction whose meaning is not written yet; safe, the run stops. -/
  | notModelled (mnemonic : String)
  deriving DecidableEq, Repr

/-- A warp by the cohort slot and warp index that name it in capabilities, messages and completions (14 R295): these stay the
same while its cohort is swapped out. A stack-core warp has cluster 63, its warp slot as cslot and index 0. -/
structure WRef where
  die : Nat
  cluster : Nat
  cslot : Nat
  widx : Nat
  deriving DecidableEq, Repr

/-- A name that no warp has: what takes the place of a warp whose cohort has ended, or of the warp of a writeback. -/
def WRef.none : WRef := ⟨99, 0, 0, 0⟩

/-- The control and status registers of 01 R33 and 15 R333, but for LSTATE. -/
structure Csrs where
  fpmode : W64
  fpstatus : W64
  partition : W64
  checksb : W64
  echotimeout : W64
  groups : W64
  extblk : W64
  warpcfg : W64
  codebase : W64
  horizon : W64
  resume : W64
  trapbase : W64
  trapinfo : W64
  trapaddr : W64
  trapaux : W64
  traplanes : W64
  trapswap : W64
  trapremote : W64
  deriving DecidableEq, Repr

/-- The fields of a fault record that the raising agent supplies (15 R330). -/
structure FaultInfo where
  code : BitVec 8
  cause : BitVec 6 := 0
  lane : BitVec 5 := 0
  multi : Bool := false
  flanes : Lanes := 0
  xlanes : Lanes := 0
  addr : W64 := 0
  mark : W32 := 0
  rcode : BitVec 8 := 0
  roffset : W32 := 0
  agent : BitVec 4 := 0
  acc : BitVec 2 := 0
  defer : Bool := false
  offset : W32 := 0
  opc : BitVec 8 := 0
  len : BitVec 2 := 0
  ticket : W32 := 0
  deriving DecidableEq, Repr

/-- A deferred fault that marks a register in some lanes (06 R180; 14 R300). -/
structure Mark where
  reg : Nat
  lanes : Lanes
  info : FaultInfo
  deriving DecidableEq, Repr

/-- A deferred fault of an instruction without a register result (06 R180; 12 R268): its slot and ticket, where it has them. -/
structure Deferred where
  slot : Option Nat
  ticket : Option W32
  info : FaultInfo
  deriving DecidableEq, Repr

/-- An operation of a warp whose result or completion is still to come (01 R38, R40, R41). -/
structure Op where
  id : Nat
  /-- the scoreboard slot it counts in -/
  slot : Option Nat
  /-- replies still to arrive -/
  parts : Nat
  /-- the cycle by which a bounded result is ready; none: no bound -/
  ready : Option Nat
  /-- destination registers and lanes still owned by this operation (01 R41) -/
  dests : List (Nat × Lanes)
  /-- vector values to write, keyed register * 32 + lane -/
  vvals : List (Nat × W32)
  /-- scalar values to write, keyed by scalar number -/
  svals : List (Nat × W64)
  marks : List Mark
  /-- a write that FENCE waits for (06 R189) -/
  isWrite : Bool
  /-- an acquire that the warp's later accesses wait for (06 R176, R194) -/
  acq : Bool
  /-- cursor number and lanes an operation holds (10 R245) -/
  cursor : Option (Nat × Lanes)
  /-- registers that a SPILL still reads: a later write of one is held (01 R39) -/
  reading : List Nat
  /-- the words that its destinations held before, for early reads (01 R40) -/
  old : List W32
  /-- the lanes of a write without a register result, each with its address and line, for the record of a deferred fault (15 R330) -/
  aims : List (Nat × W64 × Nat)
  /-- instruction offset and opcode, for fault records -/
  offset : W32
  opc : BitVec 8
  deriving DecidableEq, Repr

/-- A run of addresses in one page: its entry and level, and the addresses from lo up to hi. -/
structure PageRun where
  pte : W64
  level : Nat
  lo : Nat
  hi : Nat
  deriving DecidableEq, Repr

/-- The operands of one MMA that its row blocks share (12 R284, R285). -/
structure MmaArgs where
  tile : Nat
  ta : Nat
  tb : Nat
  z : Bool
  a : W64
  b : W64
  sa : Nat
  sb : Nat
  k : Nat
  /-- the pages of its operands, as they translated when its row blocks were dispatched (15 R339, R343) -/
  pages : List PageRun
  deriving DecidableEq, Repr

/-- An instruction of a matrix stream (12 R286-R289): one row block of an MMA, or a whole MZERO, MLDA or MSTA. -/
inductive MOp where
  | rowBlock (args : MmaArgs) (j : Nat)
  | zero (tile : Nat)
  | load (tile row n d : Nat) (lanes : Lanes)
  | store (tile row n : Nat) (lanes : Lanes) (vals : List (Nat × W32))
  deriving DecidableEq, Repr

/-- An entry of a stream's queue: its stream, the operation it belongs to, whether it is that operation's last, and whether another stream writes its
tile with no MSYNC between them (12 R288). -/
structure MEntry where
  stream : Nat
  op : Nat
  last : Bool
  body : MOp
  racy : Bool
  deriving DecidableEq, Repr

/-- A tile that a stream has used since an MSYNC last covered it, and whether it wrote the tile (12 R288). -/
structure MUse where
  stream : Nat
  tile : Nat
  writes : Bool
  deriving DecidableEq, Repr

/-- What keeps a warp from issuing beyond the conditions tested at issue. A trap is entered at the warp's next issue that finds what it waits for. -/
inductive Wait where
  | ready
  /-- in BAR.SYNC, GVOTE or GRED until the barrier's phase leaves the token (04 R117) -/
  | barrier (entry : Nat) (token : W32) (lanes : Lanes) (dest : Opnd) (op : Nat) (len : Nat)
  /-- in SLEEP until a time (04 R123) -/
  | sleep (till : Nat)
  /-- in FENCE, with its scope and executing lanes (06 R189) -/
  | fence (scope : Nat) (lanes : Lanes) (len : Nat)
  /-- suspended on PAGE: the number of the record among the records raised, and, while its cohort is swapped out, the host's answer: 0 none yet, 1 replay, 2
  deliver (15 R328, R331, R345) -/
  | page (rec answer : Nat)
  /-- in a trap whose handler's word, or whose s63, waits for the end of a thermal hold: the fault (15 R332; 17 R372) -/
  | trap (x : FaultInfo)
  deriving DecidableEq, Repr

/-- The payload and target of a running call (14 R306, R314). -/
structure CallCtx where
  call : Nat
  vecs : List (List W32)
  scals : List W64
  target : W64
  deriving DecidableEq, Repr

/-- A warp. -/
structure Warp where
  /-- resident and launched; the focus slot at reset holds a warp that is not -/
  live : Bool
  /-- every lane has exited -/
  exited : Bool
  id : WarpId
  ref : WRef
  /-- WARPID (01 R32): the warp index, or the caller's on a stack core -/
  widx : Nat
  ctx : Nat
  taskId : W32
  cohortId : W32
  /-- vector registers, keyed register * 32 + lane -/
  v : Store 32
  /-- scalar registers -/
  s : Store 64
  lpc : Store 32
  yaddr : Store 32
  seen : Lanes
  lstate : W64
  kdecl : Store 32
  ksigned : Store 32
  kaddr : Store 32
  /-- the signers of each convergence register whose guard was true as they signed (01 R25; 03 R82) -/
  kguard : Store 32
  /-- cursors, keyed cursor * 32 + lane, held as the difference from the closed cursor of 10 R244 -/
  cur : Store 128
  /-- accumulators, keyed tile * 4096 + row * 64 + column, and row poison by tile -/
  acc : Store 32
  accPoison : Store 64
  csr : Csrs
  priv : Bool
  tlpc : Store 32
  tlstate : W64
  /-- scoreboard counts by slot -/
  sb : Store 4
  /-- arrival states by register code: 0 idle, 1 armed, 2 full, 3 marked (14 R300; 15 R345) -/
  arr : Store 2
  marks : List Mark
  deferred : List Deferred
  ops : List Op
  ticket : W32
  streams : List MEntry
  used : List MUse
  /-- registers not yet restored, by code (15 R346), and the frame they are filled from -/
  absent : BitVec 704
  frame : W64
  /-- the cycle of its own count at which it may next issue (01 R37; 04 R123), and by how many cycles that lies ahead of its core's clock -/
  cycle : Nat
  ahead : Nat
  wait : Wait
  call : Option CallCtx
  /-- blocks reserved at placement (18 R384), tiles allocated -/
  regs : Nat
  active : Bool
  activeSince : Nat
  outsideSince : Nat
  /-- the cycle of its last issue, and the step at which an attempt to issue was held since (0: none) -/
  idleSince : Nat
  heldAt : Nat
  deriving DecidableEq, Repr

/-- One counted arrival at a barrier: warp index, kind, contribution (04 R113, R115). -/
structure Arrival where
  widx : Nat
  kind : Nat
  contrib : W32
  deriving DecidableEq, Repr

/-- A barrier (04 R113). Kinds: 0 none, 1 plain, 256 + SUB GVOTE, 2^20 + SUB + 256 * MOD GRED. -/
structure Barrier where
  phase : W32
  arr : Nat
  need : Nat
  pend : Int
  ovf : Bool
  kind : Nat
  arrivals : List Arrival
  /-- members that exited after arriving in the current phase (04 R120) -/
  leaving : Nat
  deriving DecidableEq, Repr

/-- A ring declaration (12 R277). -/
structure RingDecl where
  bank : Nat
  sbytes : Nat
  nstg : Nat
  ncons : Nat
  deriving DecidableEq, Repr

/-- The states of a stage (12 R277). -/
inductive StageState where
  | empty | filling | committed | full
  deriving DecidableEq, Repr

/-- A stage of a ring (12 R277). -/
structure Stage where
  ring : Nat
  idx : Nat
  st : StageState
  phase : Bool
  pend : Int
  rcnt : Nat
  ovf : Bool
  /-- warps that wait in RING.WAIT for a phase, and those that a fill has released (12 R279) -/
  waiting : List (Nat × Bool)
  freed : List (Nat × Bool)
  /-- the number of the RING.ACQ that last took the stage (12 R280) -/
  acq : Nat
  deriving DecidableEq, Repr

/-- A placed cohort, swapped out or not (01 R14; 18 R384). -/
structure Cohort where
  die : Nat
  cluster : Nat
  cslot : Nat
  ctx : Nat
  task : W32
  cohortId : W32
  prio : Nat
  nwarps : Nat
  banks : List Nat
  groups : List W32
  barriers : List Barrier
  rings : List (Option RingDecl)
  stages : List Stage
  regs : Nat
  warpBytes : List Nat
  saveAddr : W64
  away : Bool
  /-- its warps have stopped issuing, to be saved (15 R344) -/
  stopping : Bool
  placedAt : Nat
  deriving DecidableEq, Repr

/-- A core's issue state (18 R387, R388) and the RACQ requests that wait on it, oldest first (01 R30). -/
structure CoreSt where
  core : CoreId
  last : Nat
  racq : List WRef
  deriving DecidableEq, Repr

/-- An entry of a grant table (14 R296): the table's warp and entry number, and what it holds. -/
structure Grant where
  ref : WRef
  entry : Nat
  valid : Bool
  gen : Nat
  fields : BitVec 96
  deriving DecidableEq, Repr

/-- A line of an L1 (17 R355). -/
structure L1Line where
  cluster : Nat
  line : Nat
  pa : Nat
  data : BitVec 1024
  valid : BitVec 128
  dirty : BitVec 128
  poison : BitVec 128
  dirtying : BitVec 64
  slice : Nat
  leaseEnd : Nat
  leaseScope : Nat
  cls : BitVec 2
  ctx : Nat
  key : Nat
  /-- the instruction that wrote the whole line, where one did (17 R363) -/
  cover : Option Nat
  deriving DecidableEq, Repr

/-- A line of an L2 home slice (17 R357; 07 R200, R201). -/
structure L2Line where
  line : Nat
  data : BitVec 1024
  valid : BitVec 128
  dirty : BitVec 128
  poison : BitVec 128
  slice : Nat
  lambda : Nat
  /-- the latest lease end granted at scopes D, V and M -/
  leaseD : Nat
  leaseV : Nat
  leaseM : Nat
  cls : BitVec 2
  ctx : Nat
  key : Nat
  owner : Option Nat
  deriving DecidableEq, Repr

/-- The lease floor of a slice (07 R201). -/
structure Floor where
  slice : Nat
  /-- the latest end among the evicted lines' leases, and the widest scope of those that had not expired: 2 D, 3 V, 4 M, 0 none -/
  till : Nat
  scope : Nat
  deriving DecidableEq, Repr

/-- A sector of a memory-side cache (17 R362, R370). -/
structure Sector where
  block : Nat
  data : BitVec 4096
  dirty : Bool
  poison : Bool
  cls : BitVec 2
  ctx : Nat
  key : Nat
  gen : Nat
  spec : Option Nat
  deriving DecidableEq, Repr

/-- The metadata of a DRAM block (17 R363). -/
structure BlkMeta where
  block : Nat
  key : Nat
  gen : Nat
  poison : Bool
  deriving DecidableEq, Repr

/-- The part of an access of one lane that lies in one line: where the bytes go (06 R174). -/
structure Piece where
  lanes : Lanes
  off : Nat
  size : Nat
  reg : Nat
  scalar : Bool
  sext : Bool
  /-- the virtual address of the access -/
  va : W64
  deriving DecidableEq, Repr

/-- One lane's operation of an atomic in one line (06 R191-R194). -/
structure AtomOp where
  lane : Nat
  off : Nat
  wide : Bool
  opc : BitVec 8
  fn : Nat
  num : Bool
  c : W64
  e : W64
  dest : Option Nat
  va : W64
  deriving DecidableEq, Repr

/-- Where an access goes: its location and physical address, home slice, key slot (for host memory 1 where the page's C bit lets the
device cache it, 19 R395), and what the page allows (15 R336). -/
structure Phys where
  loc : Nat
  pa : Nat
  slice : Nat
  key : Nat
  isch : Nat
  sel : Nat
  tgt : Nat
  l1 : Bool
  deriving DecidableEq, Repr

/-- A block of a nested tensor (12 R259, R260): where its scale byte and the regions of its planes are. -/
structure NBlock where
  scale : Phys
  planes : List Phys
  deriving DecidableEq, Repr

/-- One lane's element of a block: its lane, its number in the block, and the words that C and E hold. -/
structure NLane where
  lane : Nat
  elt : Nat
  c : W32
  e : W32
  deriving DecidableEq, Repr

/-- Plane updates (12 R282). -/
inductive PlaneOp where
  | upd | raw | axpy | resc
  deriving DecidableEq, Repr

/-- What LDN, STN, the plane updates and TSEAL do at the home (06 R182, R183; 12 R262, R282). -/
inductive HomeAct where
  | ldn (b : NBlock) (k : Nat) (rne raw : Bool) (reg : Nat) (lanes : List NLane)
  | stn (b : NBlock) (k : Nat) (raw : Bool) (lanes : List NLane)
  | plane (b : NBlock) (what : PlaneOp) (lanes : List NLane)
  | seal (p : Phys) (lane : Nat)
  deriving DecidableEq, Repr

/-- What a message asks of a home (07 R200-R212). -/
inductive MsgKind where
  /-- a load miss that fills the cluster's L1 (alloc) or only returns the bytes -/
  | fill (pieces : List Piece) (alloc : Bool)
  /-- an acquire load, read at the home with no lease -/
  | read (pieces : List Piece)
  /-- bytes stored through or written back, with the warps whose HORIZON the completion time raises -/
  | write (data : BitVec 1024) (mask poison : BitVec 128) (cover : Option Nat) (warps : List WRef) (toMem : Bool)
  | atomic (ops : List AtomOp)
  | act (a : HomeAct)
  deriving DecidableEq, Repr

/-- A message on its way to a home. -/
structure Msg where
  id : Nat
  warp : WRef
  cluster : Nat
  line : Nat
  pa : Nat
  slice : Nat
  ctx : Nat
  key : Nat
  cls : BitVec 2
  op : Nat
  /-- the LEVEL hint, 3 for EVICT 11 (03 R89), and the FLARE bit of the reads it causes (17 R367) -/
  level : Nat
  flare : Bool
  kind : MsgKind
  /-- attempts made by the host-access unit (06 R195) -/
  tries : Nat
  /-- a writeback: bytes that were dirty in the cluster's L1 (07 R205, R211; 19 R404) -/
  wb : Bool := false
  /-- the completion time of bytes already applied at their home, which go on to memory (07 R202; 06 R187) -/
  wct : Nat := 0
  deriving DecidableEq, Repr

/-- A write of an agent other than a warp whose page walk waits for the end of a thermal hold (17 R372): its number, and what is written where. -/
structure LateWrite where
  id : Nat
  core : CoreId
  ctx : Nat
  va : Nat
  bytes : List Byte
  deriving DecidableEq, Repr

/-- A completion time on its way back to a warp (07 R204), and the operation it completes a part of. -/
structure Ack where
  id : Nat
  warp : WRef
  op : Nat
  wct : Nat
  deriving DecidableEq, Repr

/-- A stack packet (17 R366) with its data and byte mask; since is the time it reached its unit. Beside the header it carries the class that the
access's EVICT hint gives the sector (06 R178) and whether a miss allocates one (03 R89). -/
structure Packet where
  unit : Nat
  tag : Nat
  flare : Bool
  type : Nat
  size : Nat
  ctx : Nat
  channel : Nat
  addr : Nat
  key : Nat
  data : BitVec 4096
  mask : BitVec 512
  poison : Bool
  since : Nat
  cls : BitVec 2
  alloc : Bool
  deriving DecidableEq, Repr

/-- A TLB or walk-cache entry (15 R338): tier 0 a core's L1 TLB, 1 a cluster's second TLB, 2 a die's walk cache (an entry that
names a table). -/
structure TlbEntry where
  tier : Nat
  core : CoreId
  ctx : Nat
  base : Nat
  level : Nat
  pte : W64
  deriving DecidableEq, Repr

/-- A key slot (15 R342, R343): the generations it has left since the scrub last passed are in `stale`; `closing` numbers the KEYDESTROY
in progress. -/
structure KeySlot where
  slot : Nat
  loaded : Bool
  closing : Option Nat
  gen : Nat
  ctx : Nat
  keys : BitVec 512
  stale : List Nat
  deriving DecidableEq, Repr

/-- Bytes of a line that a store replaced, which a later fetch may still return (03 R77): when it was applied, whether the host stored it, the
line, and the bytes that the mask names as they were. -/
structure OldBytes where
  time : Nat
  host : Bool
  line : Nat
  data : BitVec 1024
  mask : BitVec 128
  deriving DecidableEq, Repr

/-- The thermal hold of a stack (17 R372, R373). -/
structure Hold where
  stack : Nat
  since : Nat
  posted : Bool
  deriving DecidableEq, Repr

/-- A context (15 R336; 19 R399): its root table, the number of its capability key. -/
structure Context where
  num : Nat
  root : Nat
  capKey : Nat
  deriving DecidableEq, Repr

/-- An export (19 R399, R403). -/
structure Export where
  base : Nat
  len : Nat
  key : Nat
  allow : BitVec 256
  deriving DecidableEq, Repr

/-- The memory system. -/
structure MemSys where
  /-- DRAM and host memory bytes by location -/
  dram : Store 8
  blocks : List BlkMeta
  sectors : List Sector
  l2 : List L2Line
  floors : List Floor
  l1 : List L1Line
  /-- modes (0 cache, 1 scratchpad, 2 FIFO), HEAD and TAIL by cluster * 16 + bank -/
  bankMode : Store 2
  bankHead : Store 16
  bankTail : Store 16
  /-- bank bytes by (cluster * 16 + bank) * 65536 + offset, held as the difference from what the bank held when it left cache mode;
  `bankEra` says at which step that was (0: never), and poisoned 8-byte words -/
  bank : Store 8
  bankEra : Store 64
  bankPoison : Store 1
  msgs : List Msg
  acks : List Ack
  packets : List Packet
  trace : List (Nat × W64)
  tlb : List TlbEntry
  keys : List KeySlot
  contexts : List Context
  holds : List Hold
  /-- bytes of blocks covered so far by an instruction, for the rule that clears poison (17 R363) -/
  covers : List (Nat × Nat × BitVec 512)
  /-- blocks each scrub pass has visited, by unit -/
  scrubbed : List (Nat × Nat)
  /-- bytes that stores have replaced, oldest first (03 R77) -/
  oldCode : List OldBytes
  /-- lines that an engine owns and L2 does not hold, with its request: those of other devices' memory, and those for which a set has no room (07 R214) -/
  farOwned : List (Nat × Nat)
  /-- writes of agents that wait for a page walk, oldest first (17 R372) -/
  later : List LateWrite
  /-- the key slot under which a home last applied a write to a block, where it is not slot 0 (19 R394) -/
  wroteKey : List (Nat × Nat)
  /-- the device's number in its domain and the ranges that other devices may reach (19 R399, R403) -/
  devId : BitVec 8
  exports : List Export
  deriving DecidableEq, Repr

/-- A tensor record's fields (12 R257). -/
structure TRec where
  base : W64
  fmt : Nat
  rank : Nat
  sbase : W64
  planes : Nat
  gsh : Nat
  poff : List Nat
  rows : Nat
  trans : Bool
  ext : List Nat
  str : List Nat
  deriving DecidableEq, Repr

/-- What a streamer request does (12 R270-R275). -/
inductive XKind where
  | tld (dt k : Nat) (rne : Bool)
  | tst (st : Nat)
  | tgath (dt k : Nat) (rne : Bool) (t : Nat)
  | tscat (op st t : Nat)
  | xcopy (x et len : Nat) (const : W32)
  deriving DecidableEq, Repr

/-- One atomic group of an engine's writes: bytes of linear memory, bytes of the scratch window by offset, places whose blocks are poisoned, bytes of the
window whose words are, and FP32 values to add at their home to an element (FP32, or BF16 where the flag is set) (12 R272-R274; 07 R214). -/
structure EngWrite where
  linear : List (Phys × Byte)
  scratch : List (Nat × Byte)
  poison : List Phys
  spoison : List Nat
  adds : List (Phys × Bool × W32)
  deriving DecidableEq, Repr

/-- A streamer request (12 R266, R267). -/
structure XReq where
  id : Nat
  warp : WRef
  /-- the leader's lane, for fault records -/
  lane : Nat
  core : CoreId
  ctx : Nat
  op : Nat
  ticket : W32
  kind : XKind
  trec : Option TRec
  dst : W64
  src : W64
  coords : List W32
  rows : List W32
  ck : Nat
  target : W32
  counted : Nat
  /-- the hints of its memory lines: EVICT, and LEVEL as `Msg.level` has it (03 R89; 12 R268) -/
  evict : BitVec 2
  level : Nat
  /-- lines that it brought into L2 -/
  brought : List Nat
  staged : Option (List EngWrite)
  wct : Nat
  /-- number of the record that a PAGE of the transfer raised -/
  paged : Option Nat
  aborted : Bool
  deriving DecidableEq, Repr

/-- A near-bank descriptor's operation (14 R318, R319), or the microprogram of an XCOPY (12 R275). -/
inductive SeqOp where
  | dot | scaleAdd | zero | copy | xscale | xadd | xcast | xreduce
  deriving DecidableEq, Repr

/-- An accepted sequence (14 R317-R321; 17 R369, R370). -/
structure SeqRun where
  id : Nat
  warp : WRef
  /-- the leader's lane, for fault records -/
  lane : Nat
  core : CoreId
  ctx : Nat
  op : Nat
  ticket : W32
  stack : Nat
  kind : SeqOp
  fmt : Nat
  n : Nat
  len : Nat
  stride : Nat
  src : W64
  dst : W64
  hdr : W64
  vec : W64
  const : W32
  ck : Nat
  target : W32
  running : Bool
  finished : Bool
  blocking : Bool
  row : Nat
  run : Nat
  undo : List (Nat × BitVec 4096 × Bool)
  reads : List Nat
  writes : List Nat
  homeWrites : List Nat
  /-- destination blocks that draw on uncorrectable ones (14 R319) -/
  bad : List Nat
  wct : Nat
  /-- the pages translated at acceptance, and the destination bytes of an XCOPY (0 for a descriptor's sequence) -/
  pages : List PageRun
  total : Nat
  /-- the base die has been asked for the next row (17 R369) -/
  asked : Bool
  deriving DecidableEq, Repr

/-- A die's lumen pool (18 R390). -/
structure Pool where
  die : Nat
  level : Int
  rate : Nat
  cap : Nat
  last : Nat
  deriving DecidableEq, Repr

/-- A lumen request (18 R391, R392). -/
structure LumenReq where
  die : Nat
  warp : WRef
  offset : W32
  amount : Nat
  cls : Nat
  act : Nat
  order : Nat
  age : Nat
  granted : Bool
  deriving DecidableEq, Repr

/-- The running collective (19 R406-R408). -/
structure CollRun where
  /-- its number among the operations, which owns the lines of its result (07 R214) -/
  id : Nat
  /-- the domain addresses of the contributions, in list order -/
  addrs : List Nat
  npart : Nat
  op : Nat
  type : Nat
  count : Nat
  dst : Nat
  cpl : Nat
  task : Option W32
  timeout : Nat
  start : Nat
  contribs : List (Nat × List Byte × List Bool)
  status : Option Nat
  wct : Nat
  deriving DecidableEq, Repr

/-- The engines. -/
structure Engines where
  reqs : List XReq
  seqs : List SeqRun
  /-- time of the last row step of each sequencer (17 R374) -/
  lastRow : List (Nat × Nat)
  pools : List Pool
  lumens : List LumenReq
  coll : Option CollRun
  deriving DecidableEq, Repr

/-- A remote write on its way (14 R302). -/
structure Rput where
  id : Nat
  src : WRef
  op : Nat
  dev : Nat
  dst : WRef
  entry : Nat
  gen : Nat
  fields : BitVec 96
  aow : Bool
  reg : Nat
  lanes : Lanes
  vals : List W32
  sval : W64
  deriving DecidableEq, Repr

/-- A status on its way back (14 R303). -/
structure RputStatus where
  id : Nat
  src : WRef
  op : Nat
  status : Nat
  cause : Nat
  deriving DecidableEq, Repr

/-- The states of a remote call (14 R310); a request without a slot is `asking`, one with a slot `reserved`. -/
inductive CallState where
  | asking | reserved | sent | queued | waiting | running | servicing | echoing
  deriving DecidableEq, Repr

/-- A remote call (14 R308-R312): src is the caller's device, dev the unit's; a lost call runs on for nobody (14 R312). -/
structure Call where
  id : Nat
  caller : WRef
  src : Nat
  lost : Bool
  offset : W32
  op : Nat
  unit : Nat
  dev : Nat
  st : CallState
  target : W64
  entry : W32
  vecs : List (List W32)
  scals : List W64
  echoReg : Nat
  echoCnt : Nat
  nf : Option Nat
  horizon : Nat
  timeout : Option Nat
  codebase : W64
  ctx : Nat
  warpcfg : W64
  taskId : W32
  cohortId : W32
  widx : Nat
  slot : Nat
  status : Nat
  code : BitVec 8
  roffset : W32
  echo : List (List W32)
  /-- echo registers whose block the caller has released since (14 R325) -/
  gone : List Nat
  deriving DecidableEq, Repr

/-- The register fabric. -/
structure Fabric where
  puts : List Rput
  statuses : List RputStatus
  calls : List Call
  grants : List Grant
  deriving DecidableEq, Repr

/-- An entry of a context's graph table (10 R231; 19 R399). -/
structure GEntry where
  ctx : Nat
  idx : Nat
  used : Bool
  gen : Nat
  nv : Nat
  pool : Nat
  poolLen : Nat
  deriving DecidableEq, Repr

/-- The life of a slot (10 R234). -/
inductive Life where
  | live
  | dying
  | dead (t : Nat)
  deriving DecidableEq, Repr

/-- A slot of a list (10 R233, R234); update is the removal or forward it waits for. -/
structure GSlot where
  nbr : W32
  payload : W32
  life : Life
  deriving DecidableEq, Repr

/-- The list of a vertex in one direction (10 R232, R244); bad: a chunk is uncorrectable (10 R238). -/
structure GList where
  ctx : Nat
  idx : Nat
  dir : Bool
  vertex : Nat
  slots : List GSlot
  opens : Nat
  bad : Bool
  deriving DecidableEq, Repr

/-- What a graph operation asks of a list's home (10 R240-R247). -/
inductive GKind where
  | add | del | setw
  | rmw (fn : Nat)
  | delv
  | deg
  | lde
  | find
  | openc (cur stride : Nat)
  | next (cur : Nat)
  | close
  deriving DecidableEq, Repr

/-- One lane's operation: x is the second vertex, the rank or the offset of a split cursor, w the payload. -/
structure GLane where
  lane : Nat
  x : W32
  w : W32
  deriving DecidableEq, Repr

/-- A graph operation on its way to a list's home (10 R235), with the registers its results go to. -/
structure GMsg where
  id : Nat
  warp : WRef
  op : Nat
  ctx : Nat
  idx : Nat
  dir : Bool
  vertex : Nat
  kind : GKind
  lanes : List GLane
  dest : Opnd
  pred : Option (Nat × Nat)
  deriving DecidableEq, Repr

/-- What a forwarded mirror update does (10 R235, R240, R241). -/
inductive MKind where
  | append (w : W32)
  | setw (w : W32)
  | kill
  | asked
  deriving DecidableEq, Repr

/-- A mirror update of edge (u, v) on its way from the out-home to the in-home, or a removal asked of the out-home, for a lane of an
operation whose result goes to a register. -/
structure MirrorMsg where
  id : Nat
  warp : WRef
  op : Nat
  lane : Nat
  dest : Opnd
  ctx : Nat
  idx : Nat
  u : Nat
  v : Nat
  kind : MKind
  deriving DecidableEq, Repr

/-- A removal whose completion time is on its way back to the out-home (10 R234). -/
structure DeathMsg where
  id : Nat
  ctx : Nat
  idx : Nat
  u : Nat
  v : Nat
  wct : Nat
  deriving DecidableEq, Repr

/-- Free chunks of a graph's share of a stack with those reserved for mirror slots (log entry 36), and the credit an out-home holds for an in-home
(10 R423). -/
structure Share where
  ctx : Nat
  idx : Nat
  stack : Nat
  free : Nat
  mirror : Nat
  deriving DecidableEq, Repr

structure Credit where
  ctx : Nat
  idx : Nat
  outHome : Nat
  inHome : Nat
  unused : Nat
  deriving DecidableEq, Repr

/-- The graph engines. -/
structure Graphs where
  entries : List GEntry
  lists : List GList
  shares : List Share
  credits : List Credit
  msgs : List GMsg
  mirrors : List MirrorMsg
  deaths : List DeathMsg
  deriving DecidableEq, Repr

/-- A hardware queue's registers (18 R375). -/
structure HwQueue where
  q : Nat
  base : W64
  cfg : W64
  tail : W32
  head : W32
  /-- the latest completion time of the host's writes before its doorbell (07 R220), and the doorbell's time (03 R77) -/
  wct : Nat
  rung : Nat
  deriving DecidableEq, Repr

/-- An edge of a task record (18 R378). -/
structure Edge where
  succ : W32
  regions : List (W64 × W64)
  deriving DecidableEq, Repr

/-- The state of a task (18 R381). One that has completed, failed or been killed is `ending` while its completion record is on its way (18 R377, R382). -/
inductive TaskState where
  | checking | waiting | ready | running | draining | ending
  deriving DecidableEq, Repr

/-- An event held while a task is checking (18 R381): a decrement, a TASK.LAUNCH or a KILL, and who receives the status. -/
inductive TaskEvent where
  | decrement (who : Option (WRef × Nat))
  | launch (who : Option (WRef × Nat))
  | kill
  deriving DecidableEq, Repr

/-- A live task (18 R377, R381). -/
structure Task where
  ctx : Nat
  id : W32
  st : TaskState
  counter : Nat
  held : Bool
  irq : Bool
  queue : Nat
  cpl : W64
  record : W64
  cls : Nat
  ncoh : Nat
  left : Nat
  ready : Nat
  entry : W32
  codebase : W64
  nwarps : Nat
  nbank : Nat
  fifo : Nat
  regs : Nat
  trapbase : W64
  trapswap : W64
  save : W64
  saveStride : Nat
  warpBytes : List Nat
  rings : List (Option RingDecl)
  groups : List W32
  params : List W64
  edges : List Edge
  miss : Bool
  pending : List TaskEvent
  /-- clusters that ran a cohort, whether their cleaning was asked for, and the latest completion time it returned (07 R219) -/
  ran : List Nat
  cleaned : Bool
  wct : Nat
  /-- regions of the edges that reached the task (07 R219), and the completion time of the host writes before its doorbell (07 R220) -/
  inRegions : List (W64 × W64)
  notBefore : Nat
  /-- the time of that doorbell, and of the start of its first cohort (03 R77) -/
  rung : Nat
  born : Option Nat
  deriving DecidableEq, Repr

/-- An unplaced cohort and the distributor that owns it (18 R384, R385). -/
structure Unplaced where
  die : Nat
  ctx : Nat
  task : W32
  cohortId : Nat
  deriving DecidableEq, Repr

/-- The device-private part of a pre-empted cohort's save area (15 R345): when it was saved, and each warp's private state. -/
structure Saved where
  die : Nat
  cluster : Nat
  cslot : Nat
  cls : Nat
  since : Nat
  warps : List Warp
  deriving DecidableEq, Repr

/-- The deferred-fault marks of a frame that CTXSAVE or pre-emption wrote, and the guards of its signers, private to the device (15 R345, R348;
log entry 38). -/
structure FrameMarks where
  ctx : Nat
  va : Nat
  marks : List Mark
  kguard : Store 32
  deriving DecidableEq, Repr

/-- What follows once an agent's write, by its number, has reached its home: an MSI-X vector, the end of a task's number (18 R380, R382; 19 R397). -/
structure After where
  write : Nat
  vec : Option Nat
  task : Option (Nat × W32)
  deriving DecidableEq, Repr

/-- The task scheduler. -/
structure Sched where
  queues : List HwQueue
  /-- the queue last served of each QPRIO (round-robin, 18 R377) -/
  lastQueue : List Nat
  tasks : List Task
  unplaced : List Unplaced
  saved : List Saved
  frames : List FrameMarks
  /-- when a refused thief tries again (18 R385), by die -/
  stealAt : List (Nat × Nat)
  /-- what waits for a record to be written (18 R380) -/
  after : List After
  deriving DecidableEq, Repr

/-- Who waits for the answer to a PAGE record (15 R331). -/
inductive Paged where
  | warp (w : WRef)
  | request (id : Nat)
  | call (id : Nat)
  /-- nobody waits for an answer: a task that ends once the record of its fatal fault is posted (15 R328; 19 R397) -/
  | fatal (ctx : Nat) (task : W32)
  deriving DecidableEq, Repr

/-- A fault record raised (15 R330): its number among the records raised, its 512 bits, who waits for the answer to a PAGE, the
number the buffer gave it once posted, and whether the host has answered. -/
structure RecSt where
  num : Nat
  bits : BitVec 512
  who : Option Paged
  info : FaultInfo
  posted : Option Nat
  answered : Bool
  deriving DecidableEq, Repr

/-- BOOTSTAT.STATE (19 R396). -/
inductive BootState where
  | waiting | verifying | initialising | ready
  deriving DecidableEq, Repr

/-- Another device: since when no route to it works, whether it is unreachable, and whether that is for its TIME (19 R405). -/
structure Peer where
  dev : Nat
  downSince : Option Nat
  unreachable : Bool
  skew : Bool
  deriving DecidableEq, Repr

/-- The host window, boot, identity and domain state (19 R393-R409). -/
structure HostIf where
  power : Bool
  boot : BootState
  err : BitVec 8
  staging : Store 8
  imageLen : Nat
  image : List Byte
  fbBase : W64
  fbCfg : W64
  fbHead : W32
  fbTail : W32
  records : List RecSt
  /-- the host's invalidation in progress: accesses with a lower number are awaited -/
  tlbBusy : Option Nat
  tlbLost : Bool
  events : List W64
  evtOver : Bool
  mbox : Store 64
  door : Bool
  msix : BitVec 72
  ecc : Store 64
  clBase : W64
  clCfg : W64
  clTail : W32
  clHead : W32
  routes : Store 8
  session : Option (BitVec 256)
  limit : Nat
  portsUp : BitVec 8
  /-- the latest completion time of the host's writes (07 R220) -/
  hostWct : Nat
  peers : List Peer
  /-- what the last access by the host or by another device returned: a register value, completion time or lease end, bytes with their poison, and
  whether the access was refused -/
  readValue : W64
  readData : List Byte
  readPoison : Bool
  readRefused : Bool
  deriving DecidableEq, Repr

/-- The whole machine. `w` is the warp that last issued or issues next, `warps` the other resident warps; `agenda` is the model's
own field: the steps of other agents that come next, in order (log entry 2); `tick` counts steps and `fresh` numbers operations. -/
structure State where
  tick : Nat
  fresh : Nat
  time : Nat
  agenda : List Instr
  w : Warp
  warps : List Warp
  cohorts : List Cohort
  cores : List CoreSt
  /-- the issuing core found no other warp of its active set ready at the issue under way (17 R367; 18 R388) -/
  alone : Bool
  m : MemSys
  e : Engines
  f : Fabric
  g : Graphs
  t : Sched
  h : HostIf
  deriving DecidableEq, Repr

/-- The control and status registers at the reset values of 01 R34 and 15 R333 (log entry 1 for those a task record gives). -/
def Csrs.reset : Csrs :=
  { fpmode := 0, fpstatus := 0, partition := 5, checksb := 0, echotimeout := 1000000, groups := 0, extblk := 0, warpcfg := 0
    codebase := 0, horizon := 0, resume := 0, trapbase := 0, trapinfo := 0, trapaddr := 0, trapaux := 0, traplanes := 0
    trapswap := 0, trapremote := 0 }

/-- A warp slot that holds no warp (log entry 1). -/
def Warp.reset : Warp :=
  { live := false, exited := false, id := ⟨⟨0, 0, 0⟩, 0⟩, ref := ⟨0, 0, 0, 0⟩, widx := 0, ctx := 0, taskId := 0, cohortId := 0, v := [], s := []
    lpc := [], yaddr := [], seen := 0, lstate := 0, kdecl := [], ksigned := [], kaddr := [], kguard := [], cur := [], acc := [], accPoison := []
    csr := Csrs.reset, priv := false, tlpc := [], tlstate := 0, sb := [], arr := [], marks := [], deferred := [], ops := []
    ticket := 0, streams := [], used := [], absent := 0, frame := 0, cycle := 0, ahead := 0, wait := .ready, call := none, regs := 0
    active := false, activeSince := 0, outsideSince := 0, idleSince := 0, heldAt := 0 }

/-- The memory system at power-up: every cache empty, every bank in cache mode (17 R353), memory as 19 R400 leaves it, DEVID 0 with no export. -/
def MemSys.reset : MemSys :=
  { dram := [], blocks := [], sectors := [], l2 := [], floors := [], l1 := [], bankMode := [], bankHead := [], bankTail := []
    bank := [], bankEra := [], bankPoison := [], msgs := [], acks := [], packets := [], trace := [], tlb := [], keys := [], contexts := []
    holds := [], covers := [], scrubbed := [], oldCode := [], farOwned := [], later := [], wroteKey := [], devId := 0, exports := [] }

/-- The host window at power-up (19 R396, R400): STATE waiting, no error, links trained. -/
def HostIf.reset : HostIf :=
  { power := true, boot := .waiting, err := 0, staging := [], imageLen := 0, image := [], fbBase := 0, fbCfg := 0, fbHead := 0
    fbTail := 0, records := [], tlbBusy := none, tlbLost := false, events := [], evtOver := false, mbox := [], door := false
    msix := 0, ecc := [], clBase := 0, clCfg := 0, clTail := 0, clHead := 0, routes := []
    session := none, limit := 3600, portsUp := 0xFF, hostWct := 0, peers := [], readValue := 0, readData := [], readPoison := false, readRefused := false }

/-- The machine right after power-up or reset: boot waits for an image, nothing is resident, nothing is in flight (19 R400, R409). -/
def State.reset : State :=
  { tick := 0, fresh := 0, time := 0, agenda := [], w := Warp.reset, warps := [], cohorts := [], cores := [], alone := true, m := MemSys.reset
    e := { reqs := [], seqs := [], lastRow := [], pools := [], lumens := [], coll := none }
    f := { puts := [], statuses := [], calls := [], grants := [] }
    g := { entries := [], lists := [], shares := [], credits := [], msgs := [], mirrors := [], deaths := [] }
    t := { queues := [], lastQueue := [63, 63, 63, 63], tasks := [], unplaced := [], saved := [], frames := [], stealAt := [], after := [] }
    h := HostIf.reset }

end Sys2Proof.Machine
end

