-- ==== Sys2Proof/Machine/Store.lean ====
section
/-!
DEFINITION. The operations on sparse stores: reading a key, writing a key so that the canonical form is kept (keys strictly
rising, no zero value), and little-endian runs of bytes.
-/
namespace Sys2Proof

/-- What a key reads as: zero where it is not listed. -/
def Store.get {n : Nat} : Store n → Nat → BitVec n
  | [], _ => 0
  | (k, x) :: r, q => if q = k then x else Store.get r q

/-- Taking a key off the list. -/
def Store.del {n : Nat} : Store n → Nat → Store n
  | [], _ => []
  | (k, x) :: r, q => if q = k then Store.del r q else (k, x) :: Store.del r q

/-- Listing a key that is not listed, before the first greater one. -/
def Store.ins {n : Nat} : Store n → Nat → BitVec n → Store n
  | [], q, y => [(q, y)]
  | (k, x) :: r, q, y => if q < k then (q, y) :: (k, x) :: r else (k, x) :: Store.ins r q y

/-- Writing a key: a zero value takes the key off the list. -/
def Store.set {n : Nat} (m : Store n) (q : Nat) (y : BitVec n) : Store n := if y = 0 then m.del q else (m.del q).ins q y

/-- A key is above a bound, where there is one. -/
def keyOver : Option Nat → Nat → Bool
  | none, _ => true
  | some b, k => decide (b < k)

/-- Every key is above a bound, keys rise strictly and no value is zero. -/
def Store.above {n : Nat} : Option Nat → Store n → Bool
  | _, [] => true
  | lo, (k, x) :: r => keyOver lo k && x != 0 && Store.above (some k) r

/-- The canonical form. -/
def Store.wf {n : Nat} (m : Store n) : Bool := Store.above none m

/-- A memory as (address, byte) pairs: an unlisted address reads as 0 (log entry 15); its canonical form. -/
abbrev Memory := Store 8
def Memory.wf (m : Memory) : Bool := Store.wf m

/-- Writing several keys, the first of the list first. -/
def Store.setMany {n : Nat} (m : Store n) (ws : List (Nat × BitVec n)) : Store n :=
  ws.foldl (fun acc w => acc.set w.1 w.2) m

/-- The n bytes from a key, lowest key first. -/
def Store.bytes (m : Store 8) (k n : Nat) : List Byte := (List.range n).map (fun i => m.get (k + i))

/-- Dropping the keys from lo up to hi (hi not included). -/
def Store.dropRange {n : Nat} (m : Store n) (lo hi : Nat) : Store n := m.filter (fun p => p.1 < lo || hi ≤ p.1)

/-- Pairing consecutive keys with values. -/
def runOf {α : Type} (k : Nat) : List α → List (Nat × α)
  | [] => []
  | x :: r => (k, x) :: runOf (k + 1) r

/-- The first element that a test accepts, replaced by its image. -/
def updFirst {α : Type} (p : α → Bool) (g : α → α) : List α → List α
  | [] => []
  | x :: r => if p x then g x :: r else x :: updFirst p g r

/-- Replacing the first element that a test accepts, or adding one at the end. -/
def putBy {α : Type} (p : α → Bool) (y : α) : List α → List α
  | [] => [y]
  | x :: r => if p x then y :: r else x :: putBy p y r

/-- The numbers below n for which a bit of a word is set, ascending. -/
def bitList {n : Nat} (x : BitVec n) : List Nat := (List.range n).filter (fun i => x.getLsbD i)

/-- A word with the bits of a list set. -/
def ofBits (n : Nat) (l : List Nat) : BitVec n := l.foldl (fun acc i => acc ||| BitVec.ofNat n (2 ^ i)) 0

/-- Bits hi down to lo of a word, as a number. -/
def fieldOf {n : Nat} (x : BitVec n) (hi lo : Nat) : Nat := x.toNat / 2 ^ lo % 2 ^ (hi + 1 - lo)

/-- A word with bits hi down to lo replaced. -/
def setField {n : Nat} (x : BitVec n) (hi lo v : Nat) : BitVec n :=
  let mask := BitVec.ofNat n ((2 ^ (hi + 1 - lo) - 1) * 2 ^ lo)
  (x &&& ~~~mask) ||| (BitVec.ofNat n (v * 2 ^ lo) &&& mask)

end Sys2Proof
end

