-- ==== Sys2Proof/Machine/Place.lean ====
section
/-!
DEFINITION. Where each byte lives (17 R358-R361): locations of DRAM bytes, homes, and the kinds of memory (06 R167). A location
is a number: stack * 2^36 + channel * 2^31 + CA for stack memory, 2^40 + channel * 2^35 + CA for the capacity tier,
2^60 + PA for host memory, 2^62 + device * 2^52 + PA for another device.
-/
namespace Sys2Proof.Machine

def hostBase : Nat := 2 ^ 60
def peerBase : Nat := 2 ^ 62
def tierBase : Nat := 2 ^ 40

/-- The kinds of memory by location (06 R167). -/
inductive MemKind where
  | stack | tier | host | peer
  deriving DecidableEq, Repr

def memKind (loc : Nat) : MemKind :=
  if peerBase ≤ loc then .peer else if hostBase ≤ loc then .host else if tierBase ≤ loc then .tier else .stack

/-- Stripe width, pieces, home unit and interleave period of a scheme (17 R358). -/
def stripeW (isch : Nat) : Nat :=
  match isch with
  | 0 => 256 | 1 => 1024 | 2 => 4096 | 3 => 16384 | 4 => 256 | 5 => 1 | 6 => 256 | _ => 1
def stripeN (isch : Nat) : Nat :=
  match isch with
  | 0 => 512 | 1 => 512 | 2 => 128 | 3 => 32 | 4 => 32 | 5 => 1 | 6 => 64 | _ => 1
def homeUnit (isch : Nat) : Nat :=
  match isch with
  | 0 => 256 | 1 => 1024 | 2 => 1024 | 3 => 1024 | 4 => 256 | 5 => 128 | 6 => 256 | _ => 128
def homePeriod (isch : Nat) : Nat :=
  match isch with
  | 0 => 16384 | 1 => 65536 | 2 => 16384 | 3 => 16384 | 4 => 8192 | 5 => 4096 | 6 => 65536 | _ => 4096
def largestEnd (isch : Nat) : Nat :=
  match isch with
  | 0 => 768 * 2 ^ 30 | 1 => 768 * 2 ^ 30 | 2 => 192 * 2 ^ 30 | 3 => 48 * 2 ^ 30 | 4 => 48 * 2 ^ 30 | 5 => 3 * 2 ^ 29 | 6 => 2 * 2 ^ 40
  | _ => 32 * 2 ^ 30

/-- Unused selector bits are zero (15 R337). -/
def selOk (isch sel : Nat) : Bool :=
  match isch with
  | 0 => sel == 0 | 1 => sel == 0 | 2 => sel < 4 | 3 => sel < 16 | 4 => sel < 16 | 5 => sel < 512 | 6 => sel == 0 | _ => sel < 64

/-- The stack of a byte; schemes 0 to 5 only (17 R358). -/
def stackOf (isch sel pa : Nat) : Nat :=
  let u := pa / stripeW isch
  match isch with
  | 0 => u % 16 | 1 => u % 16 | 2 => 4 * (sel % 4) + u % 4 | _ => sel % 16

/-- The channel of a byte within its stack or the capacity tier (17 R358). -/
def channelOf (isch sel pa : Nat) : Nat :=
  let u := pa / stripeW isch
  match isch with
  | 0 => u / 16 % 32 | 1 => u / 16 % 32 | 2 => u / 4 % 32 | 3 => u % 32 | 4 => u % 32 | 5 => sel / 16 % 32 | 6 => u % 64 | _ => sel % 64

/-- The channel address of a byte (17 R358). -/
def chanAddr (isch pa : Nat) : Nat :=
  if isch = 5 ∨ isch = 7 then pa else pa / (stripeW isch * stripeN isch) * stripeW isch + pa % stripeW isch

/-- The physical address, under a scheme, of the byte at a channel address of a stack's channel (17 R358): where `locOf` is inverted. -/
def paOfChan (isch stack channel ca : Nat) : Nat :=
  let v := ca / stripeW isch
  let u :=
    match isch with
    | 0 => v * 512 + channel * 16 + stack | 1 => v * 512 + channel * 16 + stack | 2 => v * 128 + channel * 4 + stack % 4
    | 3 => v * 32 + channel | 4 => v * 32 + channel | 6 => v * 64 + channel | _ => v
  u * stripeW isch + ca % stripeW isch

/-- The location of a byte of device memory. -/
def locOf (isch sel pa : Nat) : Nat :=
  if isch < 6 then stackOf isch sel pa * 2 ^ 36 + channelOf isch sel pa * 2 ^ 31 + chanAddr isch pa
  else tierBase + channelOf isch sel pa * 2 ^ 35 + chanAddr isch pa

/-- The L2 home of a line, numbered die * 48 + slice (17 R359). -/
def sliceOf (isch sel pa : Nat) : Nat :=
  let q := pa % homePeriod isch / homeUnit isch
  if isch < 6 then
    let st := stackOf isch sel pa
    st / 4 * 48 + (q + 12 * (st % 4)) % 48
  else if isch = 6 then q % 192
  else (q + 32 * (channelOf isch sel pa % 6)) % 192

/-- An access by bare physical address (17 R360): none in the ranges that hold nothing. -/
def barePhys (pa : Nat) : Option Phys :=
  if pa < 768 * 2 ^ 30 then
    some { loc := locOf 0 0 pa, pa := pa, slice := sliceOf 0 0 pa, key := 0, isch := 0, sel := 0, tgt := 0, l1 := true }
  else if 2 ^ 40 ≤ pa ∧ pa < 3 * 2 ^ 40 then
    let q := pa - 2 ^ 40
    some { loc := locOf 6 0 q, pa := pa, slice := sliceOf 6 0 q, key := 0, isch := 6, sel := 0, tgt := 0, l1 := true }
  else none

/-- Host memory at a physical address (15 R336, TGT = 01). -/
def hostPhys (pa : Nat) : Phys :=
  { loc := hostBase + pa, pa := pa, slice := 0, key := 0, isch := 0, sel := 0, tgt := 1, l1 := false }

/-- The stack of a location of stack memory, the channel of a location. -/
def locStack (loc : Nat) : Nat := loc / 2 ^ 36
def locChannel (loc : Nat) : Nat := if memKind loc = .stack then loc / 2 ^ 31 % 32 else (loc - tierBase) / 2 ^ 35

/-- The channel address of a location. -/
def locCa (loc : Nat) : Nat := if memKind loc = .stack then loc % 2 ^ 31 else (loc - tierBase) % 2 ^ 35

/-- The unit whose DRAM holds a location: 0-15 the stacks, 16 and 17 X0 and X1 (17 R366, R368). -/
def unitOf (loc : Nat) : Nat := if memKind loc = .stack then locStack loc else 16 + locChannel loc / 32

/-- The DIEID code of a unit (01 R32). -/
def unitDie (unit : Nat) : Nat := if unit < 16 then 6 + unit else unit - 12

/-- Bank, row and subarray of a channel address (17 R361). -/
def bankOfCa (ca : Nat) : Nat := ca / 1024 % 16
def rowOfCa (ca : Nat) : Nat := ca / 16384
def subarrayOfCa (ca : Nat) : Nat := ca / 16384 / 512

/-- The 128-byte line and the 512-byte block of a location. -/
def lineOf (loc : Nat) : Nat := loc / 128
def blockOf (loc : Nat) : Nat := loc / 512

/-- The skew margin of a scope (07 R199): scopes W 0, C 1, D 2, V 3, M 4, S 5. -/
def margin (scope : Nat) : Nat := if scope < 2 then 0 else if scope < 4 then 8 else 80

/-- The scope that separates a compute die (or unit) from a home slice (07 R200, R202). -/
def scopeTo (die slice : Nat) : Nat := if die = slice / 48 then 2 else 3

end Sys2Proof.Machine
end

