-- ==== Sys2Proof/Machine/Crypto.lean ====
section
/-!
DEFINITION. The published algorithms that the spec names (00 R13): SHA-256 (FIPS 180-4), AES-256 (FIPS 197) in XTS (IEEE 1619) and GCM, HKDF
(RFC 5869), and ECDSA and ECDH on P-256 (17 R363; 19 R400-R402). Log entry 10 says which values stay fused, and in what byte order points stand.
-/
namespace Sys2Proof.Machine

/-- A little-endian number of n bytes in a list of bytes, at an offset. -/
def numAt (bs : List Byte) (off n : Nat) : Nat := ((bs.drop off).take n).foldr (fun b acc => b.toNat + 256 * acc) 0
/-- The n low bytes of a number. -/
def bytesOf (n x : Nat) : List Byte := (List.range n).map (fun i => BitVec.ofNat 8 (x / 2 ^ (8 * i)))

/-- Big-endian numbers. -/
def numBE (bs : List Byte) : Nat := bs.foldl (fun acc b => 256 * acc + b.toNat) 0
def bytesBE (n x : Nat) : List Byte := (bytesOf n x).reverse

/-- Bytes in pieces of n. -/
def piecesOf (n : Nat) (bs : List Byte) : List (List Byte) := (List.range ((bs.length + n - 1) / n)).map (fun i => (bs.drop (n * i)).take n)

/-! SHA-256. -/

def shaConstants : List W32 :=
  [0x428a2f98, 0x71374491, 0xb5c0fbcf, 0xe9b5dba5, 0x3956c25b, 0x59f111f1, 0x923f82a4, 0xab1c5ed5] ++
  [0xd807aa98, 0x12835b01, 0x243185be, 0x550c7dc3, 0x72be5d74, 0x80deb1fe, 0x9bdc06a7, 0xc19bf174] ++
  [0xe49b69c1, 0xefbe4786, 0x0fc19dc6, 0x240ca1cc, 0x2de92c6f, 0x4a7484aa, 0x5cb0a9dc, 0x76f988da] ++
  [0x983e5152, 0xa831c66d, 0xb00327c8, 0xbf597fc7, 0xc6e00bf3, 0xd5a79147, 0x06ca6351, 0x14292967] ++
  [0x27b70a85, 0x2e1b2138, 0x4d2c6dfc, 0x53380d13, 0x650a7354, 0x766a0abb, 0x81c2c92e, 0x92722c85] ++
  [0xa2bfe8a1, 0xa81a664b, 0xc24b8b70, 0xc76c51a3, 0xd192e819, 0xd6990624, 0xf40e3585, 0x106aa070] ++
  [0x19a4c116, 0x1e376c08, 0x2748774c, 0x34b0bcb5, 0x391c0cb3, 0x4ed8aa4a, 0x5b9cca4f, 0x682e6ff3] ++
  [0x748f82ee, 0x78a5636f, 0x84c87814, 0x8cc70208, 0x90befffa, 0xa4506ceb, 0xbef9a3f7, 0xc67178f2]
def shaStart : List W32 := [0x6a09e667, 0xbb67ae85, 0x3c6ef372, 0xa54ff53a, 0x510e527f, 0x9b05688c, 0x1f83d9ab, 0x5be0cd19]

/-- The message schedule: each word from those 16 before it. -/
def shaSchedule (block : List Byte) : List W32 :=
  let sig (a b c : Nat) (x : W32) : W32 := x.rotateRight a ^^^ x.rotateRight b ^^^ (x >>> c)
  (List.range 48).foldl
    (fun ws t => ws ++ [sig 17 19 10 (ws.getD (t + 14) 0) + ws.getD (t + 9) 0 + sig 7 18 3 (ws.getD (t + 1) 0) + ws.getD t 0])
    ((piecesOf 4 block).map (fun b => BitVec.ofNat 32 (numBE b)))

/-- One round on the eight working words. -/
def shaRound (v : List W32) (kw : W32 × W32) : List W32 :=
  let at_ (i : Nat) : W32 := v.getD i 0
  let big (a b c : Nat) (x : W32) : W32 := x.rotateRight a ^^^ x.rotateRight b ^^^ x.rotateRight c
  let t1 := at_ 7 + big 6 11 25 (at_ 4) + ((at_ 4 &&& at_ 5) ^^^ (~~~(at_ 4) &&& at_ 6)) + kw.1 + kw.2
  let t2 := big 2 13 22 (at_ 0) + ((at_ 0 &&& at_ 1) ^^^ (at_ 0 &&& at_ 2) ^^^ (at_ 1 &&& at_ 2))
  [t1 + t2, at_ 0, at_ 1, at_ 2, at_ 3 + t1, at_ 4, at_ 5, at_ 6]

def shaBlock (h : List W32) (block : List Byte) : List W32 :=
  List.zipWith (· + ·) h ((shaConstants.zip (shaSchedule block)).foldl shaRound h)

/-- SHA-256 of some bytes: 32 bytes. -/
def sha256 (bs : List Byte) : List Byte :=
  let pad := bs ++ [(0x80 : Byte)] ++ List.replicate ((119 - bs.length % 64) % 64) 0 ++ bytesBE 8 (8 * bs.length)
  ((piecesOf 64 pad).foldl shaBlock shaStart).flatMap (fun w => bytesBE 4 w.toNat)

/-- HMAC-SHA-256 with a key of at most 64 bytes, and the first 32 bytes of HKDF-SHA-256 with an empty salt. -/
def hmac (key msg : List Byte) : List Byte :=
  let k := key ++ List.replicate (64 - key.length) 0
  sha256 (k.map (fun b => b ^^^ (0x5C : Byte)) ++ sha256 (k.map (fun b => b ^^^ (0x36 : Byte)) ++ msg))
def hkdf32 (secret info : List Byte) : List Byte := hmac (hmac [] secret) (info ++ [(1 : Byte)])

/-! AES-256: a state is 16 bytes, byte r + 4 c in row r and column c. -/

def aesTwice (a : Nat) : Nat := if a < 128 then 2 * a else Nat.xor (2 * a) 0x11B
/-- The product and the inverse in the field of 256 elements. -/
def aesMul (a b : Nat) : Nat := ((List.range 8).foldl (fun (acc : Nat × Nat) i => (if b.testBit i then Nat.xor acc.1 acc.2 else acc.1, aesTwice acc.2)) (0, a)).1
def aesInv (a : Nat) : Nat := ((List.range 7).foldl (fun (acc : Nat × Nat) _ => let s := aesMul acc.2 acc.2; (aesMul acc.1 s, s)) (1, a)).1

def aesTurn (n a : Nat) : Nat := a * 2 ^ n % 256 + a / 2 ^ (8 - n)
def sumXor (xs : List Nat) : Nat := xs.foldl Nat.xor 0
def aesSub (a : Nat) : Nat := let b := aesInv a; sumXor [b, aesTurn 1 b, aesTurn 2 b, aesTurn 3 b, aesTurn 4 b, 0x63]
def aesUnsub (y : Nat) : Nat := aesInv (sumXor [aesTurn 1 y, aesTurn 3 y, aesTurn 6 y, 0x05])

/-- The 60 words of a 256-bit key. -/
def aesKeys (key : List Byte) : List (List Nat) :=
  (List.range 52).foldl
    (fun ws i =>
      let last := ws.getD (i + 7) []
      let t :=
        if i % 8 = 0 then List.zipWith Nat.xor ((last.drop 1 ++ last.take 1).map aesSub) [2 ^ (i / 8), 0, 0, 0]
        else if i % 8 = 4 then last.map aesSub
        else last
      ws ++ [List.zipWith Nat.xor (ws.getD i []) t])
    ((piecesOf 4 key).map (fun b => b.map BitVec.toNat))

def roundKey (ws : List (List Nat)) (n : Nat) : List Nat := ((ws.drop (4 * n)).take 4).flatten
def shiftRows (back : Bool) (s : List Nat) : List Nat :=
  (List.range 16).map (fun i => s.getD (i % 4 + 4 * ((i / 4 + (if back then 4 - i % 4 else i % 4)) % 4)) 0)
/-- Each column multiplied by a circulant matrix. -/
def mixColumns (row : List Nat) (s : List Nat) : List Nat :=
  (List.range 16).map (fun i => sumXor ((List.range 4).map (fun j => aesMul (s.getD (4 * (i / 4) + j) 0) (row.getD ((j + 4 - i % 4) % 4) 0))))

def aesEncrypt (key block : List Byte) : List Byte :=
  let ws := aesKeys key
  let s0 := List.zipWith Nat.xor (block.map BitVec.toNat) (roundKey ws 0)
  let s1 := (List.range 13).foldl (fun s n => List.zipWith Nat.xor (mixColumns [2, 3, 1, 1] (shiftRows false (s.map aesSub))) (roundKey ws (n + 1))) s0
  (List.zipWith Nat.xor (shiftRows false (s1.map aesSub)) (roundKey ws 14)).map (BitVec.ofNat 8)
def aesDecrypt (key block : List Byte) : List Byte :=
  let ws := aesKeys key
  let s0 := List.zipWith Nat.xor (block.map BitVec.toNat) (roundKey ws 14)
  let s1 := (List.range 13).foldl (fun s n => mixColumns [14, 11, 13, 9] (List.zipWith Nat.xor ((shiftRows true s).map aesUnsub) (roundKey ws (13 - n)))) s0
  (List.zipWith Nat.xor ((shiftRows true s1).map aesUnsub) (roundKey ws 0)).map (BitVec.ofNat 8)

def xorBytes (a b : List Byte) : List Byte := List.zipWith (· ^^^ ·) a b

/-- XTS on a data unit of whole blocks, under the data key and the tweak key (32 bytes each): encryption, or decryption with back. -/
def xts (back : Bool) (keys : List Byte) (unit : Nat) (data : List Byte) : List Byte :=
  let step (acc : List Byte × Nat) (b : List Byte) : List Byte × Nat :=
    let t := bytesOf 16 acc.2
    let x := xorBytes b t
    (acc.1 ++ xorBytes (if back then aesDecrypt (keys.take 32) x else aesEncrypt (keys.take 32) x) t,
      if acc.2 < 2 ^ 127 then 2 * acc.2 else Nat.xor (2 * acc.2 - 2 ^ 128) 0x87)
  ((piecesOf 16 data).foldl step ([], numAt (aesEncrypt (keys.drop 32) (bytesOf 16 unit)) 0 16)).1

/-- The product of GCM's field, bit 127 of a number first. -/
def gcmMul (x y : Nat) : Nat :=
  ((List.range 128).foldl
    (fun (acc : Nat × Nat) i =>
      (if x.testBit (127 - i) then Nat.xor acc.1 acc.2 else acc.1, if acc.2 % 2 = 0 then acc.2 / 2 else Nat.xor (acc.2 / 2) (0xE1 * 2 ^ 120))) (0, y)).1

/-- GCM with a 12-byte nonce: the plaintext, none where the tag is wrong. -/
def gcmOpen (key nonce aad text tag : List Byte) : Option (List Byte) :=
  let whole (bs : List Byte) : List Byte := bs ++ List.replicate ((16 - bs.length % 16) % 16) 0
  let h := numBE (aesEncrypt key (List.replicate 16 0))
  let hash := (piecesOf 16 (whole aad ++ whole text ++ bytesBE 8 (8 * aad.length) ++ bytesBE 8 (8 * text.length))).foldl
    (fun acc b => gcmMul (Nat.xor acc (numBE b)) h) 0
  let pad (n : Nat) : List Byte := aesEncrypt key (nonce ++ bytesBE 4 n)
  if xorBytes (bytesBE 16 hash) (pad 1) = tag then
    some (((List.range ((text.length + 15) / 16)).zip (piecesOf 16 text)).flatMap (fun b => xorBytes b.2 (pad (b.1 + 2))))
  else none

/-! P-256: a point is a pair of coordinates, none at infinity. -/

def curveP : Nat := 0xffffffff00000001000000000000000000000000ffffffffffffffffffffffff
def curveB : Nat := 0x5ac635d8aa3a93e7b3ebbd55769886bc651d06b0cc53b0f63bce3c3e27d2604b
def curveN : Nat := 0xffffffff00000000ffffffffffffffffbce6faada7179e84f3b9cac2fc632551
def curveG : Nat × Nat :=
  (0x6b17d1f2e12c4247f8bce6e563a440f277037d812deb33a0f4a13945d898c296, 0x4fe342e2fe1a7f9b8ee7eb4a7c0f9e162bce33576b315ececbb6406837bf51f5)

/-- A power modulo m, and the inverse modulo a prime. -/
def powMod (m a e : Nat) : Nat := (List.range 256).foldl (fun acc i => let s := acc * acc % m; if e.testBit (255 - i) then s * a % m else s) 1
def invMod (m a : Nat) : Nat := powMod m (a % m) (m - 2)

def onCurve (q : Nat × Nat) : Bool :=
  q.1 < curveP && q.2 < curveP && (q.2 * q.2) % curveP == (q.1 * q.1 % curveP * q.1 + (curveP - 3) * q.1 + curveB) % curveP

/-- The sum of two points. -/
def addPoint (a b : Option (Nat × Nat)) : Option (Nat × Nat) :=
  match a, b with
  | none, q => q
  | some p, none => some p
  | some p, some q =>
    if p.1 = q.1 ∧ (p.2 + q.2) % curveP = 0 then none
    else
      let l :=
        if p = q then (3 * p.1 * p.1 + curveP - 3) * invMod curveP (2 * p.2) % curveP
        else (q.2 + curveP - p.2) * invMod curveP (q.1 + curveP - p.1) % curveP
      let x := (l * l + 2 * curveP - p.1 - q.1) % curveP
      some (x, (l * (p.1 + curveP - x) + curveP - p.2) % curveP)
def mulPoint (k : Nat) (p : Option (Nat × Nat)) : Option (Nat × Nat) :=
  (List.range 256).foldl (fun acc i => let d := addPoint acc acc; if k.testBit (255 - i) then addPoint d p else d) none

/-- A point as 64 bytes: x, then y, big-endian. -/
def pointOf (bs : List Byte) : Nat × Nat := (numBE (bs.take 32), numBE ((bs.drop 32).take 32))
def pointBytes (p : Option (Nat × Nat)) : List Byte := match p with | none => List.replicate 64 0 | some q => bytesBE 32 q.1 ++ bytesBE 32 q.2

/-- ECDSA over SHA-256 (FIPS 186): whether a signature (r, s) of a message is good, and signing with a private key and a nonce. -/
def ecdsaGood (key : Nat × Nat) (msg sig : List Byte) : Bool :=
  let rs := pointOf sig
  let z := numBE (sha256 msg)
  let w := invMod curveN rs.2
  onCurve key && 1 ≤ rs.1 && rs.1 < curveN && 1 ≤ rs.2 && rs.2 < curveN &&
    (match addPoint (mulPoint (z * w % curveN) (some curveG)) (mulPoint (rs.1 * w % curveN) (some key)) with
      | none => false
      | some x => x.1 % curveN == rs.1)
def ecdsaSign (d nonce : Nat) (msg : List Byte) : List Byte :=
  let r := ((mulPoint nonce (some curveG)).map (fun p => p.1 % curveN)).getD 0
  bytesBE 32 r ++ bytesBE 32 (invMod curveN nonce * (numBE (sha256 msg) + r * d) % curveN)

/-! What the device does with them. -/

/-- The session key K for the host's point (19 R401): none where the point is not on the curve. -/
def sessionKey (point : List Byte) : Option (BitVec 256) :=
  if onCurve (pointOf point) then
    (mulPoint (Config.wrappingKey % curveN) (some (pointOf point))).map (fun p =>
      BitVec.ofNat 256 (numAt (hkdf32 (bytesBE 32 p.1) Config.serial) 0 32))
  else none

/-- The data key and then the tweak key that a key blob unwraps to under K, none where the tag is wrong (19 R401). -/
def unwrapBlob (k : BitVec 256) (blob : List Byte) : Option (BitVec 512) :=
  (gcmOpen (bytesOf 32 k.toNat) (blob.take 12) ((blob.drop 12).take 4) ((blob.drop 16).take 64) ((blob.drop 80).take 16)).map (fun t =>
    BitVec.ofNat 512 (numAt t 0 64))

/-- The mask ROM's verdict on an image (19 R400): 0, or the error of BOOTSTAT. -/
def imageError (image : List Byte) : Nat :=
  match Config.imageHeader image with
  | none => 2
  | some (key, sig, len) =>
    if (List.range 4).all (fun i => sha256 key != Config.vendorHash i || Config.vendorRevoked i) then 3
    else if ecdsaGood (pointOf key) (image.drop len) sig then 0
    else 4

/-- The fused serial, of 16 bytes, and the public keys of the identity key and the key-wrapping key (19 R402). -/
def identityBytes : List Byte :=
  (Config.serial ++ List.replicate 16 0).take 16 ++ pointBytes (mulPoint (Config.identityKey % curveN) (some curveG)) ++ pointBytes (mulPoint (Config.wrappingKey % curveN) (some curveG))
/-- The signature of a report (19 R402). -/
def signReport (body : List Byte) : List Byte := ecdsaSign (Config.identityKey % curveN) (1 + Config.signNonce body % (curveN - 1)) body

/-- The tweak of a block: its DRAM position (17 R363). -/
def blockTweak (b : Nat) : Nat :=
  let loc := b * 512
  (if memKind loc = .stack then locStack loc * 2 ^ 32 + locChannel loc * 2 ^ 27 else 2 ^ 40 + locChannel loc * 2 ^ 30) + locCa loc / 512

/-- The bytes of a block encrypted under one pair of keys, as read under another (17 R363). -/
def rekeyed (b : Nat) (old new : BitVec 512) (d : List Byte) : List Byte :=
  xts true (bytesOf 64 new.toNat) (blockTweak b) (xts false (bytesOf 64 old.toNat) (blockTweak b) d)

end Sys2Proof.Machine
end

