-- ==== Sys2Proof/Machine/Homes.lean ====
section
/-!
DEFINITION. The memory system's own operations: what a byte reads as at its home, applying a write there with its completion
time, and the lines of an L1 (07 R198-R205; 17 R355-R364).
-/
namespace Sys2Proof.Machine

/-- A byte mask widened to a bit mask. -/
def spreadMask (bytes bits : Nat) (mask : BitVec bytes) : BitVec bits :=
  BitVec.ofNat bits ((bitList mask).foldl (fun acc i => acc + 255 * 2 ^ (8 * i)) 0)

/-- Replacing the bytes of a word that a byte mask names. -/
def mergeBytes {bytes bits : Nat} (old new : BitVec bits) (mask : BitVec bytes) : BitVec bits :=
  let m := spreadMask bytes bits mask
  (old &&& ~~~m) ||| (new &&& m)

/-- Byte i of a word. -/
def byteOf {bits : Nat} (d : BitVec bits) (i : Nat) : Byte := BitVec.ofNat 8 (d.toNat / 2 ^ (8 * i))

/-- Bytes gathered into a word and its byte mask, from (position, byte) pairs; a later pair wins (06 R170). -/
def gatherBytes (bytes bits : Nat) (ws : List (Nat × Byte)) : BitVec bits × BitVec bytes :=
  ws.foldl
    (fun acc w =>
      (mergeBytes acc.1 (BitVec.ofNat bits (w.2.toNat * 2 ^ (8 * w.1))) (BitVec.ofNat bytes (2 ^ w.1)), acc.2 ||| BitVec.ofNat bytes (2 ^ w.1)))
    (0, 0)

/-- n bytes from position i of a word. -/
def bytesFrom {bits : Nat} (d : BitVec bits) (i n : Nat) : List Byte := (List.range n).map (fun j => byteOf d (i + j))

/-- Key slots (15 R342, R343). -/
def MemSys.keyOf (m : MemSys) (k : Nat) : Option KeySlot := m.keys.find? (fun x => x.slot == k)
def MemSys.keyGen (m : MemSys) (k : Nat) : Nat := ((m.keyOf k).map (·.gen)).getD 0
def MemSys.keyLoaded (m : MemSys) (k : Nat) : Bool := ((m.keyOf k).map (fun x => x.loaded && x.closing.isNone)).getD false

/-- The metadata of a block: slot 0, generation 0 and clean where none is listed (19 R400). -/
def MemSys.blk (m : MemSys) (b : Nat) : BlkMeta := (m.blocks.find? (fun x => x.block == b)).getD ⟨b, 0, 0, false⟩
def MemSys.setBlk (m : MemSys) (x : BlkMeta) : MemSys := { m with blocks := putBy (fun y => y.block == x.block) x m.blocks }

def MemSys.sector (m : MemSys) (b : Nat) : Option Sector := m.sectors.find? (fun x => x.block == b)
def MemSys.setSector (m : MemSys) (x : Sector) : MemSys := { m with sectors := putBy (fun y => y.block == x.block) x m.sectors }
def MemSys.l2Find (m : MemSys) (line : Nat) : Option L2Line := m.l2.find? (fun x => x.line == line)
def MemSys.l2Set (m : MemSys) (x : L2Line) : MemSys := { m with l2 := putBy (fun y => y.line == x.line) x m.l2 }
def MemSys.l1Find (m : MemSys) (cl line : Nat) : Option L1Line := m.l1.find? (fun x => x.cluster == cl && x.line == line)
def MemSys.l1Set (m : MemSys) (x : L1Line) : MemSys :=
  { m with l1 := putBy (fun y => y.cluster == x.cluster && y.line == x.line) x m.l1 }
def MemSys.l1Drop (m : MemSys) (cl line : Nat) : MemSys := { m with l1 := m.l1.filter (fun x => !(x.cluster == cl && x.line == line)) }
def MemSys.floor (m : MemSys) (slice : Nat) : Floor := (m.floors.find? (fun x => x.slice == slice)).getD ⟨slice, 0, 0⟩

/-- What was written under a key slot in a generation can no longer be read: the generation is not the slot's, or the slot's key is destroyed (15
R343; 07 R222). -/
def MemSys.keyLost (m : MemSys) (k gen : Nat) : Bool := gen != m.keyGen k || (m.keyOf k).any (fun x => k != 0 && !x.loaded)

/-- Whether a read of a block returns poison: its poison flag, or a lost key (17 R363; 15 R343). -/
def MemSys.blockPoison (m : MemSys) (b : Nat) : Bool :=
  match m.sector b with
  | some x => x.poison || m.keyLost x.key x.gen
  | none => (m.blk b).poison || m.keyLost (m.blk b).key (m.blk b).gen

/-- The 512-byte block that a packet's data lies in, by unit, channel and address (17 R366). -/
def Packet.block (p : Packet) : Nat :=
  (if p.unit < 16 then p.unit * 2 ^ 36 + p.channel * 2 ^ 31 else tierBase + ((p.unit - 16) * 32 + p.channel) * 2 ^ 35) / 512 + p.addr / 512

/-- Types 1 to 3 carry data to the base die (17 R366). -/
def Packet.isWrite (p : Packet) : Bool := 1 ≤ p.type && p.type ≤ 3

/-- The XTS keys of a slot. -/
def MemSys.slotKeys (m : MemSys) (k : Nat) : BitVec 512 := ((m.keyOf k).map (·.keys)).getD 0

/-- A byte of a block in the memory-side cache or DRAM, read under a key slot: where it was written under another, what decrypting the block under the
slot's keys gives (17 R362, R363; log entry 25). -/
def MemSys.storedByte (m : MemSys) (loc key : Nat) : Byte :=
  let b := blockOf loc
  match m.sector b with
  | some x =>
    if x.key == key then byteOf x.data (loc % 512) else (rekeyed b (m.slotKeys x.key) (m.slotKeys key) (bytesFrom x.data 0 512)).getD (loc % 512) 0
  | none =>
    if (m.blk b).key == key || hostBase ≤ loc then m.dram.get loc
    else (rekeyed b (m.slotKeys (m.blk b).key) (m.slotKeys key) ((List.range 512).map (fun i => m.dram.get (b * 512 + i)))).getD (loc % 512) 0

/-- A byte below the homes: the latest write packet that holds it, else what is stored (17 R362-R366). -/
def MemSys.lowByte (m : MemSys) (loc key : Nat) : Byte :=
  match (m.packets.filter (fun p => p.isWrite && p.block == blockOf loc && p.mask.getLsbD (loc % 512))).getLast? with
  | some p => byteOf p.data (loc % 512)
  | none => m.storedByte loc key

/-- The data of a block as stored, read under a key slot. -/
def MemSys.blockData (m : MemSys) (b key : Nat) : BitVec 4096 :=
  BitVec.ofNat 4096 (((List.range 512).map (fun i => m.storedByte (b * 512 + i) key)).foldr (fun x acc => x.toNat + 256 * acc) 0)

/-- Bytes of a block written to DRAM. -/
def MemSys.putBlock (m : MemSys) (b : Nat) (d : BitVec 4096) : MemSys :=
  { m with dram := m.dram.setMany (runOf (b * 512) (bytesFrom d 0 512)) }

/-- The order in which classes are taken: first, normal, last (17 R355). -/
def clsRank (c : BitVec 2) : Nat := if c = 1 then 0 else if c = 2 then 2 else 1

/-- The replacement class after an access with an EVICT hint (06 R178): 0 normal, 1 first, 2 last. -/
def clsAfter (old evict : BitVec 2) : BitVec 2 := if evict = 1 ∨ evict = 2 then evict else old

/-- A sector goes to DRAM with its metadata, encrypted, where it is dirty (17 R362, R363). -/
def MemSys.storeSector (m : MemSys) (x : Sector) : MemSys :=
  if x.dirty then (m.putBlock x.block x.data).setBlk ⟨x.block, x.key, x.gen, x.poison⟩ else m

/-- Evicting a sector (17 R362). -/
def MemSys.dropSector (m : MemSys) (x : Sector) : MemSys :=
  let m1 := m.storeSector x
  { m1 with sectors := m1.sectors.filter (fun y => y.block != x.block) }

/-- The first of some candidates that no other precedes in rank. -/
def firstOf {α : Type} (rank : α → Nat) (l : List α) : Option α := l.find? (fun x => !l.any (fun y => rank y < rank x))

/-- Room for the sector of a block in its 16-way set (17 R362): where the set is full, a sector is evicted, one with speculative bytes only where all have
them (17 R370; log entry 52). -/
def MemSys.sectorRoom (m : MemSys) (b : Nat) : MemSys :=
  let mates := m.sectors.filter (fun x => unitOf (x.block * 512) == unitOf (b * 512))
  if (m.sector b).isSome || mates.length < 16 then m
  else
    let row := mates.filter (fun x => Config.sectorSetOf x.block % 65536 == Config.sectorSetOf b % 65536)
    if row.length < 16 then m
    else match firstOf (fun (x : Sector) => clsRank x.cls + if x.spec.isSome then 3 else 0) row with | none => m | some x => m.dropSector x

/-- The sector of a block for a write under a key slot: allocated from DRAM where it is absent (17 R362-R364). -/
def MemSys.sectorFor (m : MemSys) (b ctx key : Nat) : Sector :=
  { block := b, data := m.blockData b key, dirty := ((m.sector b).map (·.dirty)).getD false, poison := m.blockPoison b
    cls := ((m.sector b).map (·.cls)).getD 0, ctx := ctx, key := key, gen := m.keyGen key, spec := (m.sector b).bind (·.spec) }

/-- Merging bytes into the sector of a block (17 R364): a poisoned sector stays poisoned. -/
def MemSys.mergeSector (m : MemSys) (b ctx key : Nat) (data : BitVec 4096) (mask : BitVec 512) (poison : Bool) (evict : BitVec 2 := 0) : MemSys :=
  let x := m.sectorFor b ctx key
  (m.sectorRoom b).setSector { x with data := mergeBytes x.data data mask, dirty := true, poison := x.poison || poison, cls := clsAfter x.cls evict }

/-- A read of a block reaches the memory-side cache (17 R362): its sector takes the class of the hint, or is allocated, clean, where the hints allow (03 R89). -/
def MemSys.readSector (m : MemSys) (b ctx : Nat) (cls : BitVec 2) (alloc : Bool) : MemSys :=
  match m.sector b with
  | some x => m.setSector { x with cls := clsAfter x.cls cls }
  | none =>
    if alloc then
      (m.sectorRoom b).setSector
        { block := b, data := m.blockData b (m.blk b).key, dirty := false, poison := m.blockPoison b, cls := clsAfter 0 cls, ctx := ctx
          key := (m.blk b).key, gen := (m.blk b).gen, spec := none }
    else m

/-- Filling the invalid bytes of an L2 line (17 R357). -/
def L2Line.fill (x : L2Line) (d : BitVec 1024) (poison : Bool) : L2Line :=
  { x with
    data := mergeBytes x.data d (~~~x.valid), valid := BitVec.allOnes 128
    poison := if poison then x.poison ||| ~~~x.valid else x.poison }

/-- A byte as its home holds it (07 R205, case 3; 17 R357). -/
def MemSys.homeByte (m : MemSys) (loc key : Nat) : Byte :=
  match m.l2Find (lineOf loc) with
  | some x => if x.valid.getLsbD (loc % 128) then byteOf x.data (loc % 128) else m.lowByte loc key
  | none => m.lowByte loc key

/-- Whether that byte reads as poison (06 R179, R180; 17 R363, R365). -/
def MemSys.homePoison (m : MemSys) (loc : Nat) : Bool :=
  (match m.l2Find (lineOf loc) with
    | some x => x.valid.getLsbD (loc % 128) && x.poison.getLsbD (loc % 128)
    | none => false) || m.blockPoison (blockOf loc) || m.packets.any (fun p => p.isWrite && p.poison && p.block == blockOf loc)

/-- n bytes from a location, as their home holds them. -/
def MemSys.homeBytes (m : MemSys) (loc n key : Nat) : List Byte := (List.range n).map (fun i => m.homeByte (loc + i) key)

/-- A line of an L2 slice, newly allocated where the slice does not hold it: lease length 64 ns, the floor's leases (07 R200, R201). -/
def MemSys.l2Line (m : MemSys) (line slice ctx key : Nat) (cls : BitVec 2) : L2Line :=
  let f := m.floor slice
  (m.l2Find line).getD
    { line := line, data := 0, valid := 0, dirty := 0, poison := 0, slice := slice, lambda := 64, leaseD := if f.scope = 2 then f.till else 0
      leaseV := if f.scope = 3 then f.till else 0, leaseM := if f.scope = 4 ∨ f.scope = 0 then f.till else 0, cls := cls, ctx := ctx, key := key, owner := none }

/-- The latest lease end a home has recorded for a line, and the widest scope of an unexpired lease, 0 for none (07 R201, R202). -/
def L2Line.lastLease (x : L2Line) : Nat := max x.leaseD (max x.leaseV x.leaseM)
def L2Line.widest (x : L2Line) (t : Nat) : Nat := if t < x.leaseM then 4 else if t < x.leaseV then 3 else if t < x.leaseD then 2 else 0

/-- The completion time of a write applied at time t by a writer that a scope separates from the home (07 R202). -/
def L2Line.wct (x : L2Line) (t scope : Nat) : Nat := max t x.lastLease + margin (max scope (x.widest t))

/-! Packets (17 R366). -/

/-- A 64-bit packet header (17 R366). -/
def Packet.header (p : Packet) : W64 :=
  BitVec.ofNat 64 (p.tag % 1024 * 2 ^ 54 + p.flare.toNat * 2 ^ 53 + p.type % 16 * 2 ^ 49 + p.size % 4 * 2 ^ 47 + p.ctx % 256 * 2 ^ 39 +
    p.channel % 32 * 2 ^ 34 + p.addr / 32 % 2 ^ 34)

/-- Packets of one channel with one tag. -/
def Packet.same (p q : Packet) : Bool := p.unit == q.unit && p.channel == q.channel && p.tag == q.tag

/-- The lowest tag that no packet of a unit's channel has. -/
def MemSys.freeTag (m : MemSys) (unit channel : Nat) : Option Nat :=
  (List.range 1024).find? (fun t => !m.packets.any (fun p => p.unit == unit && p.channel == channel && p.tag == t))

/-- Recording a header in the trace buffer of its unit, which keeps the last 4,096 (19 R396; log entry 30). -/
def MemSys.note (m : MemSys) (unit : Nat) (h : W64) : MemSys :=
  let full : Bool := 4096 ≤ (m.trace.filter (fun x => x.1 == unit)).length
  let old := if full then m.trace.eraseP (fun x => x.1 == unit) else m.trace
  { m with trace := old ++ [(unit, h)] }

/-- Sending a request at a time for the block of a location; nothing where every tag of the channel is in use. -/
def MemSys.send (m : MemSys) (t loc type size ctx key : Nat) (flare : Bool) (data : BitVec 4096) (mask : BitVec 512) (poison : Bool)
    (cls : BitVec 2) (alloc : Bool) : Option MemSys :=
  (m.freeTag (unitOf loc) (locChannel loc % 32)).map (fun tag =>
    let p : Packet :=
      { unit := unitOf loc, tag := tag, flare := flare, type := type, size := size, ctx := ctx, channel := locChannel loc % 32
        addr := locCa loc / 32 * 32, key := key, data := data, mask := mask, poison := poison, since := t, cls := cls, alloc := alloc }
    { m with packets := m.packets ++ [p] }.note p.unit p.header)

/-- Bytes of a line placed in its block. -/
def lineData (line : Nat) (d : BitVec 1024) : BitVec 4096 := BitVec.ofNat 4096 (d.toNat * 2 ^ (1024 * (line % 4)))
def lineMask (line : Nat) (k : BitVec 128) : BitVec 512 := BitVec.ofNat 512 (k.toNat * 2 ^ (128 * (line % 4)))

/-- The line that a read asks for: the one its mask names. -/
def Packet.line (p : Packet) : Nat := p.block * 4 + (bitList p.mask).headD 0 / 128

/-- A read of a line is on its way. -/
def MemSys.reading (m : MemSys) (line : Nat) : Bool := m.packets.any (fun p => (p.type == 0 || p.type == 6) && p.line == line)

/-! Evictions from L2 (07 R201; 17 R357). -/

/-- Folding a line's leases into the floor of its slice at a time: the latest end, and the widest scope among those not yet expired (07 R201; log
entry 75). -/
def MemSys.foldFloor (m : MemSys) (t : Nat) (x : L2Line) : MemSys :=
  let f := m.floor x.slice
  let y : Floor := ⟨x.slice, max f.till x.lastLease, max (if t < f.till then f.scope else 0) (x.widest t)⟩
  { m with floors := putBy (fun z => z.slice == x.slice) y m.floors }

/-- Forgetting the L2 lines that a test accepts, with the reads on their way to them. -/
def MemSys.forgetL2 (m : MemSys) (t : Nat) (p : L2Line → Bool) : MemSys :=
  let gone := m.l2.filter p
  let m1 := gone.foldl (fun acc x => acc.foldFloor t x) m
  { m1 with
    l2 := m1.l2.filter (fun x => !p x)
    packets := m1.packets.filter (fun q => !((q.type == 0 || q.type == 6) && gone.any (fun x => x.line == q.line))) }

/-- The L2 copies of blocks that a test accepts lose their clean bytes, those of replies on their way included. -/
def MemSys.dropClean (m : MemSys) (p : Nat → Bool) : MemSys :=
  { m with
    l2 := m.l2.map (fun (x : L2Line) => if p (x.line / 4) then { x with valid := x.dirty, poison := x.poison &&& x.dirty } else x)
    packets := m.packets.filter (fun q => !(q.type == 6 && p q.block)) }

/-- The dirty bytes of an L2 line sent to the memory-side cache (17 R357), whose sector takes the class of an EVICT hint (06 R178). -/
def MemSys.pushLine (m : MemSys) (t : Nat) (x : L2Line) (alloc : Bool := true) (cls : BitVec 2 := 0) : Option MemSys :=
  if x.dirty = 0 then some m
  else
    (m.send t (x.line * 128) (if x.dirty = BitVec.allOnes 128 then 1 else 2) 2 x.ctx x.key false (lineData x.line x.data) (lineMask x.line x.dirty)
      (x.poison &&& x.dirty != 0) cls alloc).map (fun m1 => m1.l2Set { x with dirty := 0 })

/-- A request becomes its reply, with the request's tag (17 R366). -/
def MemSys.reply (m : MemSys) (p : Packet) : MemSys :=
  ({ m with packets := updFirst (fun q => q.same p) (fun _ => p) m.packets }).note p.unit p.header

/-- A full or masked write (17 R364): merged into the sector; where none is there and the hints allow none, the block goes to DRAM whole (03 R89). -/
def MemSys.serveWrite (m : MemSys) (p : Packet) : MemSys :=
  let here : Bool := p.alloc || (m.sector p.block).isSome
  let m1 :=
    if here then m.mergeSector p.block p.ctx p.key p.data p.mask p.poison p.cls
    else
      let x := m.sectorFor p.block p.ctx p.key
      m.storeSector { x with data := mergeBytes x.data p.data p.mask, dirty := true, poison := x.poison || p.poison }
  m1.reply { p with type := 7, data := 0, mask := 0 }

/-- Bytes of a line applied below L2 without a packet, after those of its block that are on their way there (17 R364; log entry 52). -/
def MemSys.putBelow (m : MemSys) (line ctx key : Nat) (data : BitVec 1024) (mask poison : BitVec 128) (cls : BitVec 2) : MemSys :=
  let m1 := (m.packets.filter (fun p => (p.type == 1 || p.type == 2) && p.block == line / 4)).foldl MemSys.serveWrite m
  m1.mergeSector (line / 4) ctx key (lineData line data) (lineMask line mask) (poison &&& mask != 0) cls

/-- The lines of the set of a slice that a line goes to (17 R357). -/
def MemSys.l2Row (m : MemSys) (line slice : Nat) : List L2Line :=
  m.l2.filter (fun x => x.slice == slice && Config.l2SetOf x.line % 1024 == Config.l2SetOf line % 1024)

/-- L2 holds a line or has room for it in its 16-way set (17 R357). -/
def MemSys.l2Fits (m : MemSys) (line slice : Nat) : Bool :=
  (m.l2Find line).isSome || (m.l2.filter (fun x => x.slice == slice)).length < 16 || (m.l2Row line slice).length < 16

/-- Making room for a line in its set: where the set is full a line that no engine owns is evicted, one that a read is fetching only where there is no other; its
dirty bytes go to the memory-side cache in a packet or, where no tag is free, at once (17 R357; log entry 52). A set that engines own has no room. -/
def MemSys.l2Room (m : MemSys) (t line slice : Nat) : MemSys :=
  if m.l2Fits line slice then m
  else
    match firstOf (fun (x : L2Line) => clsRank x.cls + if m.reading x.line then 3 else 0) ((m.l2Row line slice).filter (fun x => x.owner.isNone)) with
    | none => m
    | some x => ((m.pushLine t x).getD (m.putBelow x.line x.ctx x.key x.data x.dirty x.poison 0)).forgetL2 t (fun y => y.line == x.line)

/-- A block holds poison below L2: in DRAM, in the memory-side cache or on its way there (17 R363). -/
def MemSys.lowPoison (m : MemSys) (b : Nat) : Bool := m.blockPoison b || m.packets.any (fun p => p.isWrite && p.poison && p.block == b)

/-- The same, or in L2 (17 R365). -/
def MemSys.anyPoison (m : MemSys) (b : Nat) : Bool := m.lowPoison b || m.l2.any (fun x => x.line / 4 == b && x.poison != 0)

/-- A line that an engine reads comes into the caches below it that its hints allow, with their class (03 R89; 06 R178; 12 R268; 17 R357). -/
def MemSys.bringLine (m : MemSys) (t : Nat) (p : Phys) (ctx level : Nat) (evict : BitVec 2) : MemSys :=
  let line := lineOf p.loc
  let take (x : L2Line) : L2Line := { x with cls := clsAfter x.cls evict }
  let low := (List.range 128).foldl (fun acc i => acc + (m.lowByte (line * 128 + i) p.key).toNat * 2 ^ (8 * i)) 0
  let full (x : L2Line) : L2Line := take (x.fill (BitVec.ofNat 1024 low) (m.lowPoison (blockOf p.loc)))
  match m.l2Find line with
  | some x =>
    if x.valid = BitVec.allOnes 128 ∨ 2 ≤ level then m.l2Set (take x)
    else m.l2Set (full x)
  | none =>
    let m1 := m.readSector (blockOf p.loc) ctx evict (level < 3)
    let m2 := m1.l2Room t line p.slice
    if 2 ≤ level ∨ m2.l2Fits line p.slice = false then m1 else m2.l2Set (full (m2.l2Line line p.slice ctx p.key 0))

/-! Writes at a home. -/

/-- Bytes of a line that are about to be replaced, by the host or not, stay for fetches that are not coherent with the store (03 R77). -/
def MemSys.noteOld (m : MemSys) (t line key : Nat) (mask : BitVec 128) (host : Bool := false) : MemSys :=
  let old : Nat := (m.homeBytes (line * 128) 128 key).foldr (fun b acc => b.toNat + 256 * acc) 0
  { m with oldCode := m.oldCode ++ [⟨t, host, line, BitVec.ofNat 1024 old, mask⟩] }

/-- The last write to a block came under a key slot (19 R394). -/
def MemSys.noteKey (m : MemSys) (b key : Nat) : MemSys :=
  let rest := m.wroteKey.filter (fun x => x.1 != b)
  { m with wroteKey := if key = 0 then rest else (b, key) :: rest }

/-- Clearing the poison of a block once one instruction has covered all of it (06 R179; 17 R363): the bytes that instruction
has covered so far of a poisoned block are kept in `covers`. -/
def MemSys.noteCover (m : MemSys) (line key : Nat) (mask : BitVec 128) : Option Nat → MemSys
  | none => m
  | some op =>
    let b := line / 4
    if !m.anyPoison b then m else
    let piece : BitVec 512 := BitVec.ofNat 512 (mask.toNat * 2 ^ (128 * (line % 4)))
    let sofar := ((m.covers.find? (fun c => c.1 == b && c.2.1 == op)).map (·.2.2)).getD 0 ||| piece
    let rest := m.covers.filter (fun c => !(c.1 == b && c.2.1 == op))
    if sofar = BitVec.allOnes 512 then
      let m1 := { m with
        covers := rest, l2 := m.l2.map (fun (x : L2Line) => if x.line / 4 == b then { x with poison := 0 } else x)
        packets := m.packets.map (fun (p : Packet) => if p.isWrite && p.block == b then { p with poison := false } else p) }
      let m2 := m1.setBlk ⟨b, key, m.keyGen key, false⟩
      match m2.sector b with
      | none => m2
      | some x => m2.setSector { x with poison := false, key := key, gen := m.keyGen key }
    else { m with covers := (b, op, sofar) :: rest }

/-- Applying a write to a line at its home at time t (07 R202, R211; 17 R357): the bytes of the mask are replaced, the lease length
goes back to 64 ns, and the completion time comes back. A byte that was dirty and poisoned keeps its poison (17 R365). Where engines own the whole set the
bytes are applied below L2 (log entry 52). -/
def MemSys.applyWrite (m : MemSys) (t line slice ctx key : Nat) (evict : BitVec 2) (data : BitVec 1024) (mask poison : BitVec 128)
    (scope : Nat) (cover : Option Nat) (host : Bool := false) : MemSys × Nat :=
  let x := m.l2Line line slice ctx key 0
  let y : L2Line :=
    { x with
      data := mergeBytes x.data data mask, valid := x.valid ||| mask, dirty := x.dirty ||| mask
      poison := (x.poison &&& ~~~(mask &&& ~~~x.dirty)) ||| (poison &&& mask), lambda := 64, ctx := ctx, key := key, cls := clsAfter x.cls evict }
  let m1 := ((m.noteOld t line key mask host).noteKey (line / 4) key).l2Room t line slice
  ((if m1.l2Fits line slice then m1.l2Set y else m1.putBelow line ctx key y.data mask y.poison evict).noteCover line key mask cover, x.wct t scope)

/-- The completion time of a write to host memory, TIME at the host link's acknowledgement (07 R196), or to another device's memory (07 R202), whose home knows
the leases of this device's L1s and of others (log entry 28). -/
def MemSys.farWct (m : MemSys) (t line : Nat) : Nat :=
  if memKind (line * 128) = .peer then
    (m.l1.filter (fun x => x.line == line)).foldl (fun acc x => max acc x.leaseEnd) (t + Config.peerLease t % 4097) + margin 4
  else t

/-- A block of DRAM and its sector become poisoned; blocks of host memory and of another device's memory keep their poison likewise. -/
def MemSys.poisonBlock (m : MemSys) (b : Nat) : MemSys :=
  let m1 := m.setBlk { m.blk b with poison := true }
  match m1.sector b with
  | none => m1
  | some x => m1.setSector { x with poison := true }

/-- Writing bytes of a line of host memory or of another device's memory, which has no home here (07 R196): poison comes and goes as on the device. -/
def MemSys.pokeLine (m : MemSys) (t line : Nat) (d : BitVec 1024) (mask : BitVec 128) (poison : BitVec 128 := 0) (cover : Option Nat := none) : MemSys :=
  let m1 := m.noteOld t line 0 mask
  let m2 := ({ m1 with dram := m1.dram.setMany ((bitList mask).map (fun i => (line * 128 + i, byteOf d i))) } : MemSys).noteCover line 0 mask cover
  if poison &&& mask = 0 then m2 else m2.poisonBlock (line / 4)

/-- Writing a block poisoned, at one of its places (12 R268, R272; 19 R408): the completion time of its line comes back (07 R215). -/
def MemSys.poisonAt (m : MemSys) (t die : Nat) (p : Phys) : MemSys × Nat :=
  (m.poisonBlock (blockOf p.loc),
    if hostBase ≤ p.loc then m.farWct t (lineOf p.loc) else (m.l2Line (lineOf p.loc) p.slice 0 p.key 0).wct t (scopeTo die p.slice))

/-- Whether a cluster has a bank in cache mode (17 R356). -/
def MemSys.hasL1 (m : MemSys) (cl : Nat) : Bool := (List.range 16).any (fun b => m.bankMode.get (cl * 16 + b) == 0)

/-- The preferred bank of a line, and the bank it lives in (17 R355). -/
def preferredBank (pa : Nat) : Nat := (pa / 128 % 16) ^^^ (pa / 2048 % 16)
def MemSys.bankHolding (m : MemSys) (cl pa : Nat) : Nat :=
  let p := preferredBank pa
  ((List.range 16).map (fun i => (p + i) % 16)).find? (fun b => m.bankMode.get (cl * 16 + b) == 0) |>.getD p

/-- Byte i of an L1 line may be returned to a plain load at time t (07 R205): it is dirty, or valid under an unexpired lease. -/
def L1Line.hits (x : L1Line) (t i : Nat) : Bool := x.dirty.getLsbD i || (x.valid.getLsbD i && t < x.leaseEnd)

/-- The lines of the L1 set that a line of a cluster would go to, in the order of their last use (17 R355). -/
def MemSys.l1Mates (m : MemSys) (cl pa : Nat) : List L1Line :=
  m.l1.filter (fun y => y.cluster == cl && m.bankHolding cl y.pa == m.bankHolding cl pa && y.pa / 2048 % 64 == pa / 2048 % 64)

/-- Acts that write at the home. -/
def HomeAct.writes : HomeAct → Bool
  | .ldn .. => false
  | .stn .. => true
  | .plane .. => true
  | .seal .. => true

/-- The lines that an act touches. -/
def NBlock.lines (b : NBlock) : List Nat := (lineOf b.scale.loc :: b.planes.map (fun p => lineOf p.loc)).dedup
def HomeAct.lines : HomeAct → List Nat
  | .ldn b _ _ _ _ _ => b.lines
  | .stn b _ _ _ => b.lines
  | .plane b _ _ => b.lines
  | .seal p _ => [lineOf p.loc]

/-- The lines that a message touches. -/
def Msg.lines (g : Msg) : List Nat :=
  match g.kind with
  | .act a => a.lines
  | .fill .. => [g.line]
  | .read .. => [g.line]
  | .write .. => [g.line]
  | .atomic .. => [g.line]

/-- Messages that write where they arrive. -/
def Msg.writes (g : Msg) : Bool :=
  match g.kind with
  | .write .. => true
  | .atomic .. => true
  | .fill .. => false
  | .read .. => false
  | .act a => a.writes

/-- Storing bytes into an L1 line (06 R175; 17 R355): a line that is absent is allocated with only these bytes valid and dirty. A byte that was dirty and
poisoned keeps its poison until the line is written back (17 R365). -/
def MemSys.l1Store (m : MemSys) (cl line pa slice ctx key : Nat) (evict : BitVec 2) (bit : Nat) (data : BitVec 1024) (mask : BitVec 128)
    (cover : Option Nat) : MemSys :=
  let x := (m.l1Find cl line).getD
    { cluster := cl, line := line, pa := pa, data := 0, valid := 0, dirty := 0, poison := 0, dirtying := 0, slice := slice, leaseEnd := 0
      leaseScope := 0, cls := 0, ctx := ctx, key := key, cover := none }
  m.l1Set { x with
    data := mergeBytes x.data data mask, valid := x.valid ||| mask, dirty := x.dirty ||| mask, poison := x.poison &&& ~~~(mask &&& ~~~x.dirty)
    dirtying := x.dirtying ||| BitVec.ofNat 64 (2 ^ bit), cls := clsAfter x.cls evict, ctx := ctx, key := key
    cover := if mask = BitVec.allOnes 128 then cover else x.cover }

/-- The scratch key of an offset of a declared bank (06 R168; 17 R353). -/
def scratchKey (cl bank off : Nat) : Nat := (cl * 16 + bank) * 65536 + off

/-- What a bank byte holds when nothing has written it: 0 in a bank that never left cache mode, otherwise a free value (15 R341; log
entry 11). -/
def MemSys.bankBase (m : MemSys) (key : Nat) : Byte :=
  if m.bankEra.get (key / 65536) = 0 then 0 else Config.bankByte ((m.bankEra.get (key / 65536)).toNat * 2 ^ 30 + key)

/-- Reading and writing a bank byte (06 R168; 17 R353). A write clears the word's poison only where it covers the word, in
`bankWrites`. -/
def MemSys.bankGet (m : MemSys) (key : Nat) : Byte := m.bank.get key ^^^ m.bankBase key
def MemSys.bankSet (m : MemSys) (key : Nat) (b : Byte) : MemSys := { m with bank := m.bank.set key (b ^^^ m.bankBase key) }
def MemSys.bankBytes (m : MemSys) (key n : Nat) : List Byte := (List.range n).map (fun i => m.bankGet (key + i))

/-- Writing bytes of banks; a word all of whose 8 bytes are written is no longer poisoned (17 R365). -/
def MemSys.bankWrites (m : MemSys) (ws : List (Nat × Byte)) : MemSys :=
  let m1 := ws.foldl (fun acc w => acc.bankSet w.1 w.2) m
  let words := (ws.map (fun w => w.1 / 8)).dedup
  { m1 with
    bankPoison := words.foldl (fun acc k => if (List.range 8).all (fun i => ws.any (fun w => w.1 == 8 * k + i)) then acc.set k 0 else acc) m1.bankPoison }

/-- Whether a run of bytes meets a thermal hold: it needs the DRAM of a stack that is held and is in no cache (17 R372). -/
def MemSys.needsHeld (m : MemSys) (line : Nat) (mask : BitVec 128) : Bool :=
  memKind (line * 128) == .stack && m.holds.any (fun h => h.stack == locStack (line * 128)) && (m.sector (line / 4)).isNone &&
    (match m.l2Find line with
      | some x => mask &&& ~~~x.valid != 0
      | none => mask != 0)

/-- The cluster number of messages that carry the writes of agents other than warps. -/
def agentCluster : Nat := 9600

/-- Something may keep a read waiting: a thermal hold, or a write of an agent that waits at its home. -/
def MemSys.holding (m : MemSys) : Bool := m.holds != [] || m.msgs.any (fun g => g.cluster == agentCluster)

/-- A write of an agent to a line waits at its home (07 R214; 17 R370). -/
def MemSys.heldWrite (m : MemSys) (line : Nat) : Bool := m.msgs.any (fun g => g.cluster == agentCluster && g.line == line)

/-- A byte that an agent cannot read yet: it waits for the end of a thermal hold (17 R372), or for an agent's earlier write. -/
def MemSys.byteHeld (m : MemSys) (loc : Nat) : Bool :=
  m.holding && (m.heldWrite (lineOf loc) || m.needsHeld (lineOf loc) (BitVec.ofNat 128 (2 ^ (loc % 128))))

end Sys2Proof.Machine
end

