-- ==== Sys2Proof/Machine/Warps.lean ====
section
/-!
DEFINITION. Warps: lanes and their states, registers and their pending results, arrival states, marks and the scoreboard, and
finding the warp that a name or slot stands for (01 R19-R44; 06 R180; 14 R300).
-/
namespace Sys2Proof.Machine

/-- The state of lane l: 0 running, 1 parked, 2 waiting, 3 exited (01 R19). -/
def Warp.laneState (w : Warp) (l : Nat) : Nat := fieldOf w.lstate (2 * l + 1) (2 * l)
def Warp.setLaneState (w : Warp) (l st : Nat) : Warp := { w with lstate := setField w.lstate (2 * l + 1) (2 * l) st }
def Warp.lanesIn (w : Warp) (st : Nat) : Lanes := ofBits 32 ((List.range 32).filter (fun l => w.laneState l == st))
def Warp.running (w : Warp) : Lanes := w.lanesIn 0

/-- Putting lanes into a state. -/
def Warp.putLanes (w : Warp) (ls : Lanes) (st : Nat) : Warp := (bitList ls).foldl (fun acc l => acc.setLaneState l st) w

/-- Setting the program counter of lanes. -/
def Warp.jump (w : Warp) (ls : Lanes) (pc : W32) : Warp := { w with lpc := w.lpc.setMany ((bitList ls).map (fun l => (l, pc))) }

/-- The least program counter over some lanes (01 R20); 0 for none. -/
def Warp.minPc (w : Warp) (ls : Lanes) : W32 :=
  match bitList ls with
  | [] => 0
  | l :: r => r.foldl (fun acc k => if (w.lpc.get k).toNat < acc.toNat then w.lpc.get k else acc) (w.lpc.get l)

/-- The issue address: the least program counter of the running lanes (01 R20). -/
def Warp.issuePc (w : Warp) : W32 := w.minPc w.running

/-- The running lanes at an address. -/
def Warp.lanesAt (w : Warp) (p : W32) : Lanes := ofBits 32 ((bitList w.running).filter (fun l => w.lpc.get l == p))

/-- The compute-die, cluster number and slot bit of a warp; a stack core has cluster 63. -/
def clusterNo (c : CoreId) : Nat := c.die * 48 + c.cluster
def isStackCore (c : CoreId) : Bool := 4 ≤ c.die
def slotBit (i : WarpId) : Nat := 16 * i.core.core + i.slot
def Warp.cl (w : Warp) : Nat := clusterNo w.id.core
def Warp.onStackCore (w : Warp) : Bool := isStackCore w.id.core

/-- WARPCFG and EXTBLK fields (01 R34). -/
def Warp.role (w : Warp) : Nat := fieldOf w.csr.warpcfg 1 0
def Warp.tiles (w : Warp) : Nat := fieldOf w.csr.warpcfg 6 2
def Warp.prio (w : Warp) : Nat := fieldOf w.csr.warpcfg 9 8
def Warp.blocksHeld (w : Warp) : Nat := fieldOf w.csr.extblk 3 0
def Warp.checkSb (w : Warp) : Bool := w.csr.checksb.getLsbD 0
def Warp.tileWidth (w : Warp) : Nat := 2 ^ fieldOf w.csr.partition 2 0

/-- A register code lies in an extended block above the warp's (01 R29). -/
def Warp.regMissing (w : Warp) (code : Nat) : Bool := 128 ≤ code && code < 640 && w.blocksHeld < (code - 64) / 64

/-- An operation's result is still to come: it has no bound, or its bound has not passed (01 R40). -/
def Op.pending (o : Op) (cycle : Nat) : Bool :=
  match o.ready with
  | none => true
  | some c => decide (cycle < c) || o.parts != 0

/-- A register's value in a lane is read before its result is ready (01 R40). -/
def Warp.early (w : Warp) (code lane : Nat) : Bool :=
  w.ops.any (fun o => o.dests.any (fun d => d.1 == code && d.2.getLsbD lane) && o.pending w.cycle)

/-- The halves of a 64-bit word. -/
def halves (x : W64) : List W32 := [x.setWidth 32, BitVec.setWidth 32 (x >>> (32 : Nat))]

/-- The words that registers of the warp hold, are being given, or held before a result that is still outstanding (01 R40; log entry 8). -/
def Warp.heldWords (w : Warp) : List W32 :=
  w.v.map (·.2) ++ w.s.flatMap (fun p => halves p.2) ++
    w.ops.flatMap (fun o => o.old ++ o.vvals.map (·.2) ++ o.svals.flatMap (fun p => halves p.2))

/-- A word composed of words of a list, or of zeros: which of them each bit comes from is free. -/
def composed (xs : List W32) (n : Nat) : W32 :=
  ofBits 32 ((List.range 32).filter (fun i => (xs.getD (Config.earlyRead (32 * n + i) % (xs.length + 1)) 0).getLsbD i))

/-- The value of a vector register in a lane at issue; where its result is not ready and CHECKSB is clear, a free value composed of values of the
warp's registers (01 R40; log entry 8). -/
def Warp.readV (w : Warp) (tick r lane : Nat) : W32 :=
  if w.early r lane then composed w.heldWords (tick * 32768 + r * 32 + lane) else w.v.get (r * 32 + lane)

/-- The value of a scalar register at issue. -/
def Warp.readS (w : Warp) (tick r : Nat) : W64 :=
  if w.early (640 + r) 0 then composed w.heldWords (tick * 32768 + 20544 + r) ++ composed w.heldWords (tick * 32768 + 20480 + r)
  else w.s.get r

/-- The value of a special register in a lane (01 R32). -/
def Warp.special (w : Warp) (devId : BitVec 8) (x : Special) (lane : Nat) : W32 :=
  match x with
  | .zero => 0
  | .laneId => BitVec.ofNat 32 lane
  | .warpId => BitVec.ofNat 32 w.widx
  | .cohortId => w.cohortId
  | .taskId => w.taskId
  | .dieId => BitVec.ofNat 32 w.id.core.die
  | .devId => devId.setWidth 32
  | .lpc => w.lpc.get lane

/-- A 32-bit operand in a lane (01 R28). -/
def State.read32 (s : State) (o : Opnd) (lane : Nat) : W32 :=
  match o with
  | .v r => s.w.readV s.tick r lane
  | .s r => (s.w.readS s.tick r).setWidth 32
  | .sp x => s.w.special s.m.devId x lane

/-- A 64-bit operand in a lane: an even pair with the low half in the even register, or a scalar (01 R27, R28). -/
def State.read64 (s : State) (o : Opnd) (lane : Nat) : W64 :=
  match o with
  | .v r => (s.w.readV s.tick (r + 1) lane) ++ (s.w.readV s.tick r lane)
  | .s r => s.w.readS s.tick r
  | .sp _ => 0

/-- The operand at the width of a form. -/
def State.readW (s : State) (w64 : Bool) (o : Opnd) (lane : Nat) : W64 :=
  if w64 then s.read64 o lane else (s.read32 o lane).setWidth 64

/-- A guard's term in a lane (03 R81). -/
def State.guardTerm (s : State) (g : Guard) (lane : Nat) : Bool :=
  let b := if g.scalar then (s.w.readS s.tick g.reg.toNat).getLsbD g.bit.toNat else (s.w.readV s.tick g.reg.toNat lane).getLsbD g.bit.toNat
  if g.neg then !b else b

/-- The guard of a lane (03 R81). -/
def State.guard (s : State) (f : Fields) (lane : Nat) : Bool :=
  match f.g0, f.g1 with
  | none, none => true
  | some a, none => s.guardTerm a lane
  | none, some b => s.guardTerm b lane
  | some a, some b => if f.gcomb then s.guardTerm a lane || s.guardTerm b lane else s.guardTerm a lane && s.guardTerm b lane

/-- Lanes of a set whose guard is true. -/
def State.guardLanes (s : State) (f : Fields) (x : Lanes) : Lanes := ofBits 32 ((bitList x).filter (s.guard f))

/-- A mark that an arrival left, not a deferred fault (14 R300): REMOTE or ECHO_LOST. -/
def Mark.arrived (k : Mark) : Bool := k.info.code == 0x10 || k.info.code == 0x11

/-- A write of a register in some lanes takes them away from earlier results that are still to come (01 R41), clears marks there
(06 R180) and takes a full or marked register to idle, with the mark that an arrival left in every lane (14 R300); an absent register
becomes present (15 R346). -/
def Warp.noteWrite (w : Warp) (code : Nat) (ls : Lanes) : Warp :=
  { w with
    ops := w.ops.map (fun o => { o with
      dests := (o.dests.map (fun d => if d.1 == code then (d.1, d.2 &&& ~~~ls) else d)).filter (fun d => d.2 != 0)
      vvals := o.vvals.filter (fun p => !(code < 640 && p.1 / 32 == code && ls.getLsbD (p.1 % 32)))
      svals := o.svals.filter (fun p => !(640 ≤ code && p.1 + 640 == code)) })
    marks := (w.marks.map (fun k => if k.reg == code then { k with lanes := if k.arrived then 0 else k.lanes &&& ~~~ls } else k)).filter
      (fun k => k.lanes != 0)
    arr := if w.arr.get code = 2 ∨ w.arr.get code = 3 then w.arr.set code 0 else w.arr
    absent := w.absent &&& ~~~(BitVec.ofNat 704 (2 ^ code)) }

/-- Lanes that a list of vector writes names for a register. -/
def lanesOfWrites (vv : List (Nat × W32)) (r : Nat) : Lanes := ofBits 32 ((vv.filter (fun p => p.1 / 32 == r)).map (fun p => p.1 % 32))

/-- The registers and lanes that a list of results names: every lane for a scalar. -/
def destsOf (vv : List (Nat × W32)) (sv : List (Nat × W64)) : List (Nat × Lanes) :=
  ((vv.map (fun p => p.1 / 32)).dedup.map (fun r => (r, lanesOfWrites vv r))) ++
    ((sv.map (·.1)).dedup.map (fun r => (640 + r, BitVec.allOnes 32)))

/-- Writing results into the registers. -/
def Warp.writeRegs (w : Warp) (vv : List (Nat × W32)) (sv : List (Nat × W64)) : Warp :=
  let w1 := (destsOf vv sv).foldl (fun acc d => acc.noteWrite d.1 d.2) w
  { w1 with v := w1.v.setMany vv, s := w1.s.setMany sv }

/-- Counting in and out of a scoreboard slot (01 R38). -/
def Warp.slotUp (w : Warp) : Option Nat → Warp
  | none => w
  | some n => { w with sb := w.sb.set n (w.sb.get n + 1) }
def Warp.slotDown (w : Warp) : Option Nat → Warp
  | none => w
  | some n => { w with sb := w.sb.set n (if w.sb.get n = 0 then 0 else w.sb.get n - 1) }

/-- Delivering an operation's result: values and marks are written, its slot is counted down, it is forgotten (01 R38, R41; 06 R180).
Its own destinations are taken off first, so that its write is not taken for a later one. -/
def Warp.deliver (w : Warp) (id : Nat) : Warp :=
  match w.ops.find? (fun o => o.id == id) with
  | none => w
  | some o =>
    let w1 := { w with ops := w.ops.filter (fun x => x.id != id) }
    let live (r : Nat) (l : Nat) : Bool := o.dests.any (fun d => d.1 == r && d.2.getLsbD l)
    let vv := o.vvals.filter (fun p => live (p.1 / 32) (p.1 % 32))
    let sv := o.svals.filter (fun p => o.dests.any (fun d => d.1 == 640 + p.1))
    let lanesOf (r : Nat) : Lanes := ((o.dests.find? (fun d => d.1 == r)).map Prod.snd).getD 0
    let ms := (o.marks.map (fun k => ({ k with lanes := k.lanes &&& lanesOf k.reg } : Mark))).filter (fun k => k.lanes != 0)
    let w2 := { w1 with
      v := w1.v.setMany vv, s := w1.s.setMany sv, marks := w1.marks ++ ms
      absent := (o.dests.map (fun (d : Nat × Lanes) => d.1)).foldl (fun acc r => acc &&& ~~~(BitVec.ofNat 704 (2 ^ r))) w1.absent }
    w2.slotDown o.slot

/-- Delivering every bounded result whose time has come (04 R108; 05 R144). -/
def Warp.deliverDue (w : Warp) : Warp :=
  (w.ops.filter (fun o => !o.pending w.cycle)).foldl (fun acc o => acc.deliver o.id) w

def Warp.updOp (w : Warp) (id : Nat) (g : Op → Op) : Warp := { w with ops := updFirst (fun o => o.id == id) g w.ops }
def Warp.findOp (w : Warp) (id : Nat) : Option Op := w.ops.find? (fun o => o.id == id)

/-- One reply of an operation has come; an operation with no result to write is done with its last reply (06 R177). -/
def Warp.partDone (w : Warp) (id : Nat) : Warp :=
  let w1 := w.updOp id (fun o => { o with parts := o.parts - 1 })
  match w1.findOp id with
  | none => w1
  | some o => if o.parts = 0 ∧ o.vvals = [] ∧ o.svals = [] ∧ o.dests = [] ∧ o.marks = [] then w1.deliver id else w1

/-- Raising HORIZON; it never decreases (07 R204). -/
def Warp.raiseHorizon (w : Warp) (t : Nat) : Warp :=
  { w with csr := { w.csr with horizon := BitVec.ofNat 64 (max w.csr.horizon.toNat t) } }

/-- Sticky flags (02 R52). -/
def Warp.orFlags (w : Warp) (fl : BitVec 5) : Warp :=
  { w with csr := { w.csr with fpstatus := w.csr.fpstatus ||| fl.setWidth 64 } }

/-- Every warp that is resident. -/
def State.allWarps (s : State) : List Warp := (s.w :: s.warps).filter (·.live)

def State.findWarp (s : State) (i : WarpId) : Option Warp := s.allWarps.find? (fun w => w.id == i)
def State.findRef (s : State) (r : WRef) : Option Warp := s.allWarps.find? (fun w => w.ref == r)

/-- Changing the warp in a slot, or the warp a reference names; nothing where none is resident. -/
def State.updWarp (s : State) (i : WarpId) (g : Warp → Warp) : State :=
  if s.w.live ∧ s.w.id = i then { s with w := g s.w }
  else { s with warps := updFirst (fun w => w.live && w.id == i) g s.warps }
def State.updRef (s : State) (r : WRef) (g : Warp → Warp) : State :=
  if s.w.live ∧ s.w.ref = r then { s with w := g s.w }
  else { s with warps := updFirst (fun w => w.live && w.ref == r) g s.warps }

/-- The warp of a core that a test accepts for which a number is greatest. -/
def State.pickWarp (s : State) (c : CoreId) (p : Warp → Bool) (key : Warp → Nat) : Option Warp :=
  (s.allWarps.filter (fun w => w.id.core == c && p w)).foldl
    (fun acc w => match acc with | none => some w | some b => if key b < key w then some w else some b) none

/-- Warps of a core in its active set, and how long a warp has been outside it (18 R388). -/
def State.activeOn (s : State) (c : CoreId) : Nat := (s.allWarps.filter (fun w => w.id.core == c && w.active)).length
def Warp.outside (w : Warp) : Nat := w.cycle - w.outsideSince

/-- A core's free places of the active set go to resident warps outside it: the highest class, then the longest outside (18 R388). -/
def State.refill (s : State) (c : CoreId) : Nat → State
  | 0 => s
  | n + 1 =>
    if 8 ≤ s.activeOn c then s
    else
      match s.pickWarp c (fun w => !w.active && !w.exited) (fun w => w.prio * 2 ^ 64 + w.outside) with
      | none => s
      | some b => (s.updWarp b.id (fun w => { w with active := true, activeSince := w.cycle, idleSince := w.cycle })).refill c n

/-- Cycles pass for a warp: the stall of its last issue runs off first (01 R37). -/
def Warp.pass (d : Nat) (w : Warp) : Warp :=
  match w.ahead with
  | 0 => { w with cycle := w.cycle + d }
  | n + 1 => { w with ahead := n + 1 - d, cycle := w.cycle + (d - (n + 1)) }

/-- Cycles pass for the warps of a core. -/
def State.passCycles (s : State) (c : CoreId) (d : Nat) : State :=
  let f (w : Warp) : Warp := if w.live && w.id.core == c then w.pass d else w
  { s with w := f s.w, warps := s.warps.map f }

/-- Bringing the warp of a slot into the focus: it and the focus change places. -/
def State.focus (s : State) (i : WarpId) : State :=
  if s.w.live ∧ s.w.id = i then s
  else
    match s.warps.find? (fun w => w.live && w.id == i) with
    | none => s
    | some x =>
      let rest := s.warps.filter (fun w => !(w.live && w.id == i))
      { s with w := x, warps := if s.w.live then s.w :: rest else rest }

def State.updM (s : State) (g : MemSys → MemSys) : State := { s with m := g s.m }
def State.updW (s : State) (g : Warp → Warp) : State := { s with w := g s.w }

/-- The cohort of a reference, and changing it. -/
def sameCohort (c : Cohort) (r : WRef) : Bool := c.die == r.die && c.cluster == r.cluster && c.cslot == r.cslot
def State.cohortOf (s : State) (r : WRef) : Option Cohort := s.cohorts.find? (fun c => sameCohort c r)
def State.updCohort (s : State) (r : WRef) (g : Cohort → Cohort) : State := { s with cohorts := updFirst (fun c => sameCohort c r) g s.cohorts }

/-- The warp in a slot of a cluster, by its dirtying bit (17 R355). -/
def State.refsOfBits (s : State) (cl : Nat) (mask : BitVec 64) : List WRef :=
  (s.allWarps.filter (fun w => !w.onStackCore && w.cl == cl && mask.getLsbD (slotBit w.id))).map (·.ref)

/-- The writeback of an L1 line's dirty bytes (07 R207): its completion time goes to the warps that dirtied the line and to the warp, with its operation, that
asks for it. -/
def State.backMsg (s : State) (who : WRef) (op : Nat) (x : L1Line) (toMem : Bool) : Msg :=
  { id := s.fresh, warp := who, cluster := x.cluster, line := x.line, pa := x.pa, slice := x.slice, ctx := x.ctx, key := x.key
    cls := x.cls, op := op, level := 0, flare := false
    kind := .write x.data x.dirty (x.poison &&& x.dirty) x.cover
      ((if who = WRef.none then [] else [who]) ++ (s.refsOfBits x.cluster x.dirtying).filter (· != who)) toMem
    tries := 0, wb := true }

/-- What a writeback leaves in the L1: no copy, or the line with its dirty bytes clean. -/
def MemSys.l1Back (m : MemSys) (x : L1Line) (drop : Bool) : MemSys :=
  if drop then m.l1Drop x.cluster x.line else m.l1Set { x with dirty := 0, dirtying := 0, cover := none }

/-- Writing back an L1 line's dirty bytes to its home (07 R207): the message carries them. -/
def State.writeBackFor (s : State) (who : WRef) (op : Nat) (x : L1Line) (drop toMem : Bool) : State :=
  let m1 := s.m.l1Back x drop
  if x.dirty = 0 ∧ toMem = false then { s with m := m1 }
  else { s with m := { m1 with msgs := m1.msgs ++ [s.backMsg who op x toMem] }, fresh := s.fresh + 1 }

/-- The same for no warp's operation. -/
def State.writeBack (s : State) (x : L1Line) (drop toMem : Bool) : State := s.writeBackFor WRef.none 0 x drop toMem

/-- Room for a line in its 8-way set of an L1 (17 R355): where the set is full its victim is written back and dropped: class first, then normal, then
last, and within a class the least recently used. -/
def State.l1Room (s : State) (cl line pa : Nat) : State :=
  if (s.m.l1Find cl line).isSome || (s.m.l1.filter (fun y => y.cluster == cl)).length < 8 then s
  else
    let mates := s.m.l1Mates cl pa
    if mates.length < 8 then s
    else match firstOf (fun (y : L1Line) => clsRank y.cls) mates with | none => s | some x => s.writeBack x true false

/-- Writing back the lines of a cluster that a test accepts. -/
def State.writeBackAll (s : State) (cl : Nat) (drop : Bool) (p : L1Line → Bool) : State :=
  (s.m.l1.filter (fun x => x.cluster == cl && p x)).foldl (fun acc x => acc.writeBack x drop false) s

/-- A write of this warp is on its way: a message that raises its HORIZON, a completion time not yet returned, or an operation
that FENCE waits for (06 R189). -/
def State.writesPending (s : State) (w : Warp) : Bool :=
  w.ops.any (·.isWrite) || s.m.acks.any (fun a => a.warp == w.ref) ||
    s.m.msgs.any (fun g => match g.kind with
      | .write _ _ _ _ ws _ => ws.contains w.ref
      | .atomic _ => g.warp == w.ref
      | .fill .. => false
      | .read .. => false
      | .act a => a.writes && g.warp == w.ref)

end Sys2Proof.Machine
end

