-- ==== Sys2Proof/Machine/Translate.lean ====
section
/-!
DEFINITION. Address translation (15 R336-R339): page-table entries, the walk, the TLBs, and the scratch window (06 R167-R169).
-/
namespace Sys2Proof.Machine

/-- A translation that fails: the fault's code and cause (15 R327). -/
structure TErr where
  code : BitVec 8
  cause : BitVec 6
  deriving DecidableEq, Repr

def pageErr (cause : Nat) : TErr := ⟨0x07, BitVec.ofNat 6 cause⟩
def accessErr (cause : Nat) : TErr := ⟨0x08, BitVec.ofNat 6 cause⟩

/-- No fault: a read that the translation or the access needs waits for the end of a thermal hold, and so does whoever asked (17 R372). -/
def waitErr : TErr := ⟨0, 0⟩

/-- What an access needs of a page: the permission bit of the entry, or none (14 R308; 07 R219). -/
inductive Need where
  | read | write | both | exec | none
  deriving DecidableEq, Repr

/-- Fields of a page-table entry (15 R336). -/
def pteValid (p : W64) : Bool := p.getLsbD 0
def pteLeaf (p : W64) : Bool := p.getLsbD 1
def pteTgt (p : W64) : Nat := fieldOf p 7 6
def ptePa (p : W64) : Nat := fieldOf p 43 8 * 65536
def pteSel (p : W64) : Nat := fieldOf p 52 44
def pteIsch (p : W64) : Nat := fieldOf p 55 53
def pteKey (p : W64) : Nat := fieldOf p 63 56

/-- Bytes of a page mapped at a level (15 R336). -/
def pageSize (level : Nat) : Nat := match level with | 1 => 2 ^ 42 | 2 => 2 ^ 29 | _ => 2 ^ 16

/-- A leaf entry is well made (15 R336; 17 R358). -/
def leafOk (p : W64) (level : Nat) : Bool :=
  ptePa p % pageSize level == 0 &&
    match pteTgt p with
    | 0 => level != 1 && selOk (pteIsch p) (pteSel p) && ptePa p + pageSize level ≤ largestEnd (pteIsch p)
    | 1 => pteKey p == 0 && pteIsch p == 0 && pteSel p == 0
    | 2 => selOk (pteIsch p) (pteSel p) && ptePa p + pageSize level ≤ largestEnd (pteIsch p)
    | _ => false

/-- An entry that names a table holds zero in every field but V and PA (15 R336). -/
def tableOk (p : W64) : Bool := p &&& 0xFFFFF000000000FE = 0

/-- The index of an address at a level (15 R336). -/
def vaIndex (va : W64) (level : Nat) : Nat := match level with | 1 => fieldOf va 54 42 | 2 => fieldOf va 41 29 | _ => fieldOf va 28 16

/-- Reading an entry at its L2 home under key slot 0; an address that nothing holds is cause 5, poison cause 6 (15 R336; 17 R360). -/
def MemSys.readPte (m : MemSys) (pa : Nat) : Except TErr W64 :=
  match barePhys pa with
  | none => .error (pageErr 5)
  | some ph =>
    if (List.range 8).any (fun i => m.byteHeld (ph.loc + i)) then .error waitErr
    else if (List.range 8).any (fun i => m.homePoison (ph.loc + i)) then .error (pageErr 6)
    else .ok (BitVec.ofNat 64 ((m.homeBytes ph.loc 8 0).foldr (fun b acc => b.toNat + 256 * acc) 0))

/-- The walk from a table at a level: the levels still to read. The leaf and its level come back, or the fault (15 R336). -/
def MemSys.walk (m : MemSys) (die ctx : Nat) (va : W64) : List Nat → Nat → Except TErr (W64 × Nat)
  | [], _ => .error (pageErr 5)
  | level :: rest, table => do
    let base := va.toNat / pageSize level * pageSize level
    let pte ←
      match m.tlb.find? (fun e => e.tier == 2 && e.core.die == die && e.ctx == ctx && e.level == level && e.base == base) with
      | some e => pure e.pte
      | none => m.readPte (table + 8 * vaIndex va level)
    if !pteValid pte then throw (pageErr level)
    if pteLeaf pte then
      if leafOk pte level then return (pte, level) else throw (pageErr 5)
    if level = 3 || !tableOk pte then throw (pageErr 5)
    m.walk die ctx va rest (ptePa pte)

def MemSys.context (m : MemSys) (ctx : Nat) : Option Context := m.contexts.find? (fun c => c.num == ctx)

/-- The page of an address: from the core's TLB, the cluster's, or a walk (15 R338). -/
def MemSys.pageOf (m : MemSys) (core : CoreId) (ctx : Nat) (va : W64) : Except TErr (W64 × Nat) :=
  let inPage (e : TlbEntry) : Bool := e.ctx == ctx && e.base ≤ va.toNat && va.toNat < e.base + pageSize e.level
  match m.tlb.find? (fun e => inPage e && ((e.tier == 0 && e.core == core) || (e.tier == 1 && e.core.die == core.die && e.core.cluster == core.cluster))) with
  | some e => .ok (e.pte, e.level)
  | none =>
    match m.context ctx with
    | none => .error (pageErr 1)
    | some c => m.walk core.die ctx va [1, 2, 3] c.root

/-- The range of the scratch window (06 R168), and canonical addresses (06 R169). -/
def inScratch (va : W64) : Bool := 0x7FFFFFFF000000 ≤ va.toNat && va.toNat ≤ 0x7FFFFFFFFFFFFF
def canonical (va : W64) : Bool := va.toNat < 2 ^ 55

/-- The physical place of an address in a page. -/
def physOf (pte : W64) (level : Nat) (va : W64) : Phys :=
  let pa := ptePa pte + va.toNat % pageSize level
  let isch := pteIsch pte
  let sel := pteSel pte
  match pteTgt pte with
  | 1 => { hostPhys pa with key := if pte.getLsbD 5 then 1 else 0 }
  | 2 =>
    { loc := peerBase + pteKey pte * 2 ^ 52 + pa, pa := pa, slice := sliceOf isch sel pa, key := 0, isch := isch, sel := sel, tgt := 2, l1 := pte.getLsbD 5 }
  | _ =>
    { loc := locOf isch sel pa, pa := pa, slice := sliceOf isch sel pa, key := pteKey pte, isch := isch, sel := sel, tgt := 0
      l1 := pte.getLsbD 5 }

/-- The bare address of a physical address under a scheme: what an export's range is compared with (17 R360; 19 R403; log entry 77). -/
def bareOf (isch pa : Nat) : Nat := if isch < 6 then pa else 2 ^ 40 + pa

/-- The place of a byte that a device asks for under a layout: inside an export that allows it, under the export's key slot (19 R403). -/
def MemSys.exported (m : MemSys) (dev isch sel pa : Nat) : Option Phys :=
  match m.exports.find? (fun x => x.base ≤ bareOf isch pa && bareOf isch pa < x.base + x.len && x.allow.getLsbD dev) with
  | none => none
  | some x =>
    if m.keyLoaded x.key && isch < 8 && selOk isch sel && pa < largestEnd isch then
      some { loc := locOf isch sel pa, pa := pa, slice := sliceOf isch sel pa, key := x.key, isch := isch, sel := sel, tgt := 0, l1 := true }
    else none

/-- A place in the domain window of the device itself is the device's own memory, where an export allows it (15 R336; 19 R403). -/
def MemSys.ownPlace (m : MemSys) (p : Phys) : Phys :=
  if p.tgt = 2 ∧ (p.loc - peerBase) / 2 ^ 52 = m.devId.toNat then
    match m.exported m.devId.toNat p.isch p.sel p.pa with
    | none => p
    | some x => { x with l1 := p.l1 }
  else p

/-- The permission an access needs is there (06 R179). -/
def permits (pte : W64) : Need → Bool
  | .read => pte.getLsbD 2
  | .write => pte.getLsbD 3
  | .both => pte.getLsbD 2 && pte.getLsbD 3
  | .exec => pte.getLsbD 4
  | .none => true

/-- Translating a linear address outside the scratch window: PAGE 4 where it is not canonical, then the walk, then the permission,
then the key slot (06 R169, R179; 15 R336, R343). -/
def MemSys.translate (m : MemSys) (core : CoreId) (ctx : Nat) (va : W64) (need : Need) : Except TErr Phys :=
  if !canonical va then .error (pageErr 4)
  else
    match m.pageOf core ctx va with
    | .error e => .error e
    | .ok (pte, level) =>
      if !permits pte need then .error (accessErr 1)
      else if pteTgt pte == 0 && !m.keyLoaded (pteKey pte) then .error (accessErr 3)
      else .ok (m.ownPlace (physOf pte level va))

/-- Keeping at most n entries of a tier for a core or cluster: the newest stay (15 R338). -/
def capTier (l : List TlbEntry) (p : TlbEntry → Bool) (n : Nat) : List TlbEntry :=
  (l.foldl (fun acc e => if p e then (if acc.2 < n then (acc.1 ++ [e], acc.2 + 1) else acc) else (acc.1 ++ [e], acc.2)) ([], 0)).1

/-- A translated page enters the core's TLB and the cluster's, and the tables met on the walk the die's walk cache (15 R338). -/
def MemSys.noteTlb (m : MemSys) (core : CoreId) (ctx : Nat) (va : W64) : MemSys :=
  match m.pageOf core ctx va with
  | .error _ => m
  | .ok (pte, level) =>
    let base := va.toNat / pageSize level * pageSize level
    let has (t : Nat) (p : TlbEntry → Bool) : Bool := m.tlb.any (fun e => e.tier == t && e.ctx == ctx && e.base == base && p e)
    let mk (t : Nat) : TlbEntry := ⟨t, core, ctx, base, level, pte⟩
    let new := (if has 0 (fun e => e.core == core) then [] else [mk 0]) ++
      (if has 1 (fun e => e.core.die == core.die && e.core.cluster == core.cluster) then [] else [mk 1])
    let l1 := capTier (new ++ m.tlb) (fun e => e.tier == 0 && e.core == core) 64
    { m with tlb := capTier l1 (fun e => e.tier == 1 && e.core.die == core.die && e.core.cluster == core.cluster) 2048 }

/-- The tables on the way to an address enter the walk cache of the die (15 R338). -/
def MemSys.noteWalk (m : MemSys) (core : CoreId) (ctx : Nat) (va : W64) : MemSys :=
  match m.context ctx with
  | none => m
  | some c =>
    let base (l : Nat) : Nat := va.toNat / pageSize l * pageSize l
    let cached (l : Nat) : Bool := m.tlb.any (fun e => e.tier == 2 && e.core.die == core.die && e.ctx == ctx && e.level == l && e.base == base l)
    match m.readPte (c.root + 8 * vaIndex va 1) with
    | .error _ => m
    | .ok p1 =>
      if !pteValid p1 || pteLeaf p1 || !tableOk p1 then m
      else
        let m1 := if cached 1 then m else { m with tlb := ⟨2, core, ctx, base 1, 1, p1⟩ :: m.tlb }
        match m1.readPte (ptePa p1 + 8 * vaIndex va 2) with
        | .error _ => m1
        | .ok p2 =>
          if !pteValid p2 || pteLeaf p2 || !tableOk p2 || cached 2 then m1
          else { m1 with tlb := ⟨2, core, ctx, base 2, 2, p2⟩ :: m1.tlb }

/-- A successful access of an address fills the TLBs. -/
def State.touch (s : State) (core : CoreId) (ctx : Nat) (va : W64) : State :=
  if inScratch va then s
  else
    match s.m.pageOf core ctx va with
    | .error _ => s
    | .ok _ => { s with m := (s.m.noteWalk core ctx va).noteTlb core ctx va }

/-- Dropping TLB and walk-cache entries (15 R339): of one page, of a context, or all. -/
def MemSys.dropTlb (m : MemSys) (p : TlbEntry → Bool) : MemSys := { m with tlb := m.tlb.filter (fun e => !p e) }
def coversVa (ctx : Nat) (va : Nat) (e : TlbEntry) : Bool := e.ctx == ctx && e.base ≤ va && va < e.base + pageSize e.level

/-- The pages of an address range in order (06 R187): the fault of the first that does not translate, with its address. Addresses of the
scratch window are passed over. -/
def MemSys.pagesOf (m : MemSys) (core : CoreId) (ctx hi : Nat) : Nat → Nat → Except (TErr × Nat) (List PageRun)
  | 0, _ => .ok []
  | fuel + 1, va =>
    if hi ≤ va then .ok []
    else if 2 ^ 55 ≤ va then .error (pageErr 4, va)
    else if inScratch (BitVec.ofNat 64 va) then m.pagesOf core ctx hi fuel (2 ^ 55)
    else
      match m.pageOf core ctx (BitVec.ofNat 64 va) with
      | .error e => .error (e, va)
      | .ok (pte, level) =>
        let stop := min hi ((va / pageSize level + 1) * pageSize level)
        match m.pagesOf core ctx hi fuel stop with
        | .error e => .error e
        | .ok r => .ok (⟨pte, level, va, stop⟩ :: r)

/-- The scratch key of an address in the window, for a warp of a compute core (06 R168): ACCESS 2 where the rule fails. -/
def State.scratchOf (s : State) (w : Warp) (va : W64) : Except TErr Nat :=
  if w.onStackCore then .error (accessErr 2)
  else
    match s.cohortOf w.ref with
    | none => .error (accessErr 2)
    | some c =>
      let o := va.toNat - 0x7FFFFFFF000000
      match c.banks[o / 65536]? with
      | none => .error (accessErr 2)
      | some b =>
        if s.m.bankMode.get (w.cl * 16 + b) = 0 then .error (accessErr 2)
        else
          match s.m.pageOf w.id.core w.ctx va with
          | .ok _ => .error (accessErr 2)
          | .error e => if e = waitErr then .error e else .ok (scratchKey w.cl b (o % 65536))

/-- Where an access of a warp goes: a bank byte or a place in linear memory. -/
inductive Target where
  | bank (key : Nat)
  | mem (ph : Phys)
  deriving DecidableEq, Repr

/-- Resolving an address of a warp (06 R167-R169, R179). -/
def State.resolve (s : State) (w : Warp) (va : W64) (need : Need) : Except TErr Target :=
  if inScratch va then (s.scratchOf w va).map .bank else (s.m.translate w.id.core w.ctx va need).map .mem

/-- Whether a scratch word reads as poison (17 R365). -/
def MemSys.bankPoisoned (m : MemSys) (key n : Nat) : Bool := (List.range n).any (fun i => m.bankPoison.get ((key + i) / 8) != 0)

/-- The location of a byte of a page run, for engines and units that hold an address of a context: none where translation fails. -/
def MemSys.locate (m : MemSys) (core : CoreId) (ctx : Nat) (va : W64) (need : Need) : Option Phys :=
  if inScratch va then none else (m.translate core ctx va need).toOption

end Sys2Proof.Machine
end

