-- ==== Sys2Proof/Machine/Agents.lean ====
section
/-!
DEFINITION. Accesses of agents other than warps: the scheduler, the engines, the save and restore hardware and the host reach bytes
by virtual address of a context, or by bare physical address (17 R360), at their homes.
-/
namespace Sys2Proof.Machine

/-- The requester whose translations use a die's walk cache but no core's TLB. -/
def agentCore (die : Nat) : CoreId := ⟨die, 62, 0⟩

/-- The fault with which another device answers for a location of its memory (19 R403, R405): POISON where it is unreachable, ACCESS 1 where no export
allows; the device itself where none of its own exports does. None for other locations. -/
def State.peerErr (s : State) (loc : Nat) : Option (Nat × Nat) :=
  let dev := (loc - peerBase) / 2 ^ 52
  if memKind loc ≠ .peer then none
  else if s.h.peers.any (fun p => p.dev == dev && p.unreachable) then some (0x0A, 0)
  else if dev = s.m.devId.toNat then some (0x08, 1)
  else if Config.peerAllows dev ((loc - peerBase) % 2 ^ 52) then none
  else some (0x08, 1)

/-- The same as the error of a read of a place. -/
def State.farErr (s : State) (p : Phys) : Option TErr := (s.peerErr p.loc).map (fun e => ⟨BitVec.ofNat 8 e.1, BitVec.ofNat 6 e.2⟩)

/-- Places of n consecutive bytes of a context. -/
def MemSys.places (m : MemSys) (core : CoreId) (ctx va n : Nat) (need : Need) : Except TErr (List Phys) :=
  (List.range n).mapM (fun i => m.translate core ctx (BitVec.ofNat 64 (va + i)) need)

/-- Whether a byte at a place reads as poison. -/
def MemSys.placePoison (m : MemSys) (p : Phys) : Bool := m.homePoison p.loc

/-- Bytes at places, as their homes hold them. -/
def MemSys.placeBytes (m : MemSys) (ps : List Phys) : List Byte := ps.map (fun p => m.homeByte p.loc p.key)

/-- Applying bytes at their homes (07 R202): line by line, host memory and other devices' memory directly; the latest completion time
comes back. -/
def MemSys.putBytes (m : MemSys) (t ctx die : Nat) (cover : Option Nat) (ws : List (Phys × Byte)) (evict : BitVec 2 := 0) :
    MemSys × Nat :=
  let lines := (ws.map (fun w => lineOf w.1.loc)).dedup
  lines.foldl
    (fun acc line =>
      let mine := ws.filter (fun w => lineOf w.1.loc == line)
      match mine with
      | [] => acc
      | (p, _) :: _ =>
        let (d, mask) := gatherBytes 128 1024 (mine.map (fun w => (w.1.loc % 128, w.2)))
        if hostBase ≤ p.loc then (acc.1.pokeLine t line d mask 0 cover, max acc.2 (acc.1.farWct t line))
        else
          let (m1, w) := acc.1.applyWrite t line p.slice ctx p.key evict d mask 0 (scopeTo die p.slice) cover
          (m1, max acc.2 w))
    (m, 0)

/-- The home-write rule of a running sequence (17 R370): bytes applied at the home of a line of its blocks go through to the memory-side
cache and, with their poison, to the saved copies, and the block enters the home-write signature. A saved copy whose poison a covering write has
cleared in the sector loses it too (17 R363). -/
def State.pushSeq (s : State) (line : Nat) : State :=
  let b := line / 4
  let near (q : SeqRun) : Bool := q.running && (q.reads.contains b || q.writes.contains b)
  match s.m.l2Find line with
  | none => s
  | some x =>
    if s.e.seqs.any near && x.dirty != 0 then
      let bad : Bool := x.poison &&& x.dirty != 0
      let m1 := s.m.mergeSector b x.ctx x.key (lineData line x.data) (lineMask line x.dirty) bad
      let seqs := s.e.seqs.map (fun q =>
        if near q then
          { q with
            homeWrites := b :: q.homeWrites
            undo := q.undo.map (fun u =>
              if u.1 == b then (u.1, mergeBytes u.2.1 (lineData line x.data) (lineMask line x.dirty), (u.2.2 && s.m.blockPoison b) || bad) else u) }
        else q)
      { s with m := m1.l2Set { x with dirty := 0 }, e := { s.e with seqs := seqs } }
    else s

/-- The same for every line of some places. -/
def State.pushSeqs (s : State) (ps : List Phys) : State :=
  if s.e.seqs.any (·.running) then ((ps.map (fun p => lineOf p.loc)).dedup).foldl State.pushSeq s else s

/-- The line's home holds an access back: an engine owns the line (07 R214). -/
def State.owned (s : State) (line : Nat) : Bool := ((s.m.l2Find line).bind (·.owner)).isSome || s.m.farOwned.any (fun x => x.1 == line)

/-- The homes hold writes to the blocks of a running sequence: in blocking mode (17 R370), and while its stack is in a thermal hold where the block's sector is
absent, since the write goes through to it (17 R372). -/
def State.seqBlocks (s : State) (line : Nat) : Bool :=
  s.e.seqs.any (fun q => q.running && (q.writes.contains (line / 4) || q.reads.contains (line / 4)) &&
    (q.blocking || (s.m.holds.any (fun h => h.stack == q.stack) && (s.m.sector (line / 4)).isNone)))

/-- The home of a line holds a write of an agent: an engine owns the line, a sequence holds it, or an earlier one waits. -/
def State.holdsWrite (s : State) (line : Nat) : Bool := s.owned line || s.seqBlocks line || s.m.heldWrite line

/-- Bytes of a line that an agent writes, on their way to its home. -/
def agentMsg (id ctx : Nat) (cover : Option Nat) (line : Nat) (ws : List (Phys × Byte)) : List Msg :=
  match ws with
  | [] => []
  | (p, _) :: _ =>
    let d := gatherBytes 128 1024 (ws.map (fun w => (w.1.loc % 128, w.2)))
    [{ id := id, warp := WRef.none, cluster := agentCluster, line := line, pa := p.pa, slice := p.slice, ctx := ctx, key := p.key, cls := 0, op := 0, level := 0
       flare := false, kind := .write d.1 d.2 0 cover [] false, tries := 0 }]

/-- An agent writes bytes at their homes (07 R202), as its write n: at once, but for those that their home holds back, which wait there as messages (07 R214;
17 R370). Another device that cannot be reached, or that refuses, keeps its bytes (19 R403, R405). -/
def State.putAgent (s : State) (n ctx die : Nat) (all : List (Phys × Byte)) : State :=
  let ws := all.filter (fun w => (s.peerErr w.1.loc).isNone)
  let late := ws.filter (fun w => s.holdsWrite (lineOf w.1.loc))
  let now := ws.filter (fun w => !s.holdsWrite (lineOf w.1.loc))
  let lines := (late.map (fun w => lineOf w.1.loc)).dedup
  let msgs := lines.flatMap (fun l => agentMsg s.fresh ctx (some n) l (late.filter (fun w => lineOf w.1.loc == l)))
  let m1 := (s.m.putBytes s.time ctx die (some n) now).1
  ({ s with m := { m1 with msgs := m1.msgs ++ (msgs.zipIdx.map (fun x => { x.1 with id := x.1.id + x.2 })) }, fresh := s.fresh + 1 + msgs.length } : State).pushSeqs
    (now.map Prod.fst)

/-- Reading bytes of a context at their homes: none where translation fails, where a byte is poisoned, or where its device does not give it. -/
def State.agentRead (s : State) (core : CoreId) (ctx va n : Nat) : Option (List Byte) :=
  match s.m.places core ctx va n .read with
  | .error _ => none
  | .ok ps => if ps.any (fun p => s.m.placePoison p || (s.farErr p).isSome) then none else some (s.m.placeBytes ps)

/-- A read of bytes of a context, or a walk to them, waits (17 R372). -/
def MemSys.agentHeld (m : MemSys) (core : CoreId) (ctx va n : Nat) : Bool :=
  m.holding && match m.places core ctx va n .read with | .error e => e == waitErr | .ok ps => ps.any (fun p => m.byteHeld p.loc)

/-- Writing bytes of a context at their homes: none where translation fails. A write whose page walk waits for a thermal hold is kept until it can be made (17
R372; log entry 76). -/
def State.agentWrite (s : State) (core : CoreId) (ctx va : Nat) (bs : List Byte) : Option State :=
  match ({ s.m with msgs := [] } : MemSys).places core ctx va bs.length .write with
  | .error e =>
    if e = waitErr then
      some { s with fresh := s.fresh + 1, m := { s.m with later := s.m.later ++ [⟨s.fresh, core, ctx, va, bs⟩] } }
    else none
  | .ok ps => some (s.putAgent s.fresh ctx core.die (ps.zip bs))

/-- Making the writes that waited for a page walk, as far as it no longer waits: one that does not translate is dropped. -/
def State.makeLater (s : State) : State :=
  s.m.later.foldl
    (fun acc x =>
      match ({ acc.m with msgs := [] } : MemSys).places x.core x.ctx x.va x.bytes.length .write with
      | .error e => if e = waitErr then acc.updM (fun m => { m with later := m.later ++ [x] }) else acc
      | .ok ps => acc.putAgent x.id x.ctx x.core.die (ps.zip x.bytes))
    (s.updM (fun m => { m with later := [] }))

/-- A write of an agent, by its number, is not yet at its homes. -/
def MemSys.writing (m : MemSys) (n : Nat) : Bool :=
  m.later.any (fun x => x.id == n) || m.msgs.any (fun g => g.cluster == agentCluster &&
    match g.kind with
    | .write _ _ _ cover _ _ => cover == some n
    | .fill .. => false
    | .read .. => false
    | .act _ => false
    | .atomic _ => false)

/-- Places of bytes by bare physical address; none where the address holds nothing (17 R360). -/
def barePlaces (pa n : Nat) : Option (List Phys) := (List.range n).mapM (fun i => barePhys (pa + i))
def MemSys.bareHeld (m : MemSys) (pa n : Nat) : Bool := m.holding && (barePlaces pa n).any (fun ps => ps.any (fun p => m.byteHeld p.loc))
def MemSys.bareRead (m : MemSys) (pa n : Nat) : Option (List Byte) := (barePlaces pa n).map m.placeBytes
def State.bareWrite (s : State) (pa : Nat) (bs : List Byte) : Option State :=
  (barePlaces pa bs.length).map (fun ps => s.putAgent s.fresh 0 0 (ps.zip bs))

/-- All results, or the fault that comes first in the order of 15 R329: the first PAGE, else the first of the others; a wait before both. -/
def collectErr {α : Type} (xs : List (Except (TErr × W64) α)) : Except (TErr × W64) (List α) :=
  let errs := xs.filterMap (fun x => match x with | .error e => some e | .ok _ => none)
  match errs.find? (fun e => e.1 == waitErr), errs.find? (fun e => e.1.code == 0x07), errs with
  | some e, _, _ => .error e
  | none, some e, _ => .error e
  | none, none, e :: _ => .error e
  | none, none, [] => .ok (xs.filterMap (fun x => match x with | .error _ => none | .ok y => some y))

/-- Raising an MSI-X vector (19 R396). -/
def State.msi (s : State) (v : Nat) : State := { s with h := { s.h with msix := s.h.msix ||| BitVec.ofNat 72 (2 ^ v) } }

/-- Queueing an event word: with 256 words held the oldest is dropped and the next read says so (19 R398). -/
def State.event (s : State) (type unit : Nat) : State :=
  let word := BitVec.ofNat 64 (s.time / 65536 * 65536 + unit % 256 * 256 + type % 256)
  let evs := s.h.events ++ [word]
  ({ s with h := { s.h with events := if 256 < evs.length then evs.drop 1 else evs, evtOver := s.h.evtOver || decide (256 < evs.length) } }).msi 65

/-- Switching a bank's mode (15 R341; 17 R353, R356): a bank that leaves cache mode has its lines written back and dropped and holds
undefined bytes; one that enters it first takes over no line that another bank holds. -/
def State.setBank (s : State) (cl bank mode : Nat) : State :=
  let k := cl * 16 + bank
  let old := (s.m.bankMode.get k).toNat
  let s1 :=
    if old = 0 ∧ mode ≠ 0 then s.writeBackAll cl true (fun x => s.m.bankHolding cl x.pa == bank)
    else if old ≠ 0 ∧ mode = 0 then s.writeBackAll cl true (fun x => preferredBank x.pa == bank)
    else s
  let fresh : Bool := mode ≠ 0 ∧ old ≠ mode
  { s1 with m := { s1.m with
      bankMode := s1.m.bankMode.set k (BitVec.ofNat 2 mode)
      bankHead := s1.m.bankHead.set k 0
      bankTail := s1.m.bankTail.set k 0
      bank := if fresh || mode = 0 then s1.m.bank.dropRange (k * 65536) ((k + 1) * 65536) else s1.m.bank
      bankPoison := if fresh || mode = 0 then s1.m.bankPoison.dropRange (k * 8192) ((k + 1) * 8192) else s1.m.bankPoison
      bankEra := if fresh then s1.m.bankEra.set k (BitVec.ofNat 64 (s1.tick + 1)) else s1.m.bankEra } }

end Sys2Proof.Machine
end

