-- ==== Sys2Proof/Machine/Flags.lean ====
section
/-!
DEFINITION. The floating flags, rounding modes and subnormal modes (01 R34; 02 R50-R52; 05 R142).
-/
namespace Sys2Proof.Machine
open Sys2Proof

/-- The bits of FPSTATUS (01 R34). -/
def flNV : BitVec 5 := 1
def flDZ : BitVec 5 := 2
def flOF : BitVec 5 := 4
def flUF : BitVec 5 := 8
def flNX : BitVec 5 := 16

/-- The rounding modes of 02 R50. -/
inductive Rm where
  | rne | rtz | rup | rdn | rna
  deriving DecidableEq, Repr

/-- A rounding mode as FPMODE.RM codes it; the reserved codes are never held there (01 R34). -/
def rmOf (n : Nat) : Rm :=
  match n with
  | 0 => .rne | 1 => .rtz | 2 => .rup | 3 => .rdn | _ => .rna

/-- What governs a floating operation: rounding, flushing of subnormal inputs and of tiny outputs (02 R50, R51). -/
structure FpMode where
  rm : Rm
  flushIn : Bool
  flushOut : Bool
  deriving DecidableEq, Repr

/-- RNE and preserve: the mode of every operation outside the floating pipeline (02 R53). -/
def FpMode.plain : FpMode := ⟨.rne, false, false⟩

/-- A mode from the codes of FPMODE.RM and FPMODE.SUBN (01 R34). -/
def FpMode.of (rm subn : Nat) : FpMode := ⟨rmOf rm, subn % 2 == 1, 2 ≤ subn⟩

/-- The mode in force: FPMODE, each field replaced where MOD[6:0] overrides it (05 R142). -/
def fpModeOf (fpmode : W64) (ovr : Nat) : FpMode :=
  let rmo := ovr % 16
  let sbo := ovr / 16 % 8
  FpMode.of (if 8 ≤ rmo then rmo - 8 else fieldOf fpmode 2 0) (if 4 ≤ sbo then sbo - 4 else fieldOf fpmode 4 3)

end Sys2Proof.Machine
end

