-- ==== Sys2Proof/Machine/Numbers.lean ====
section
/-!
DEFINITION. Exact arithmetic and the number formats (02 R45-R73): values as sign, magnitude and power of two, rounding into a
format with its flags, N4 blocks, nested elements, the special functions, and the trees of sums.
-/
namespace Sys2Proof.Machine
open Sys2Proof

/-- An exact value: a NaN with its sign and whether it signals, an infinity, or (-1)^neg * m * 2^e. -/
inductive Val where
  | nan (neg sig : Bool)
  | inf (neg : Bool)
  | fin (neg : Bool) (m : Nat) (e : Int)
  deriving DecidableEq, Repr

/-- A binary floating format: exponent and mantissa bits, bias, and whether its top exponent code holds normal values (E4M3, 02 R46). -/
structure Flt where
  eb : Nat
  mb : Nat
  bias : Nat
  topNormal : Bool
  deriving DecidableEq, Repr

def f32 : Flt := ⟨8, 23, 127, false⟩
def f16 : Flt := ⟨5, 10, 15, false⟩
def bf16 : Flt := ⟨8, 7, 127, false⟩
def e5m2 : Flt := ⟨5, 2, 15, false⟩
def e4m3 : Flt := ⟨4, 3, 7, true⟩

/-- The sign bit's weight, the code of infinity, the largest finite code, the canonical NaN (02 R46, R47). -/
def Flt.signBit (t : Flt) : Nat := 2 ^ (t.eb + t.mb)
def Flt.infCode (t : Flt) : Nat := (2 ^ t.eb - 1) * 2 ^ t.mb
def Flt.maxCode (t : Flt) : Nat := if t.topNormal then t.signBit - 2 else t.infCode - 1
def Flt.nanCode (t : Flt) : Nat := if t.topNormal then t.signBit - 1 else t.infCode + 2 ^ (t.mb - 1)
/-- The exponent of the smallest normal value. -/
def Flt.emin (t : Flt) : Int := 1 - (t.bias : Int)

/-- A code with a sign. -/
def Flt.signed (t : Flt) (neg : Bool) (c : Nat) : Nat := if neg then t.signBit + c else c

/-- The value of a code (02 R46, R47). -/
def Flt.val (t : Flt) (code : Nat) : Val :=
  let neg := code / t.signBit % 2 == 1
  let e := code / 2 ^ t.mb % 2 ^ t.eb
  let m := code % 2 ^ t.mb
  if t.topNormal then
    if e = 2 ^ t.eb - 1 ∧ m = 2 ^ t.mb - 1 then .nan neg false
    else if e = 0 then .fin neg m (t.emin - t.mb) else .fin neg (2 ^ t.mb + m) ((e : Int) - t.bias - t.mb)
  else if e = 2 ^ t.eb - 1 then
    if m = 0 then .inf neg else .nan neg (m < 2 ^ (t.mb - 1))
  else if e = 0 then .fin neg m (t.emin - t.mb)
  else .fin neg (2 ^ t.mb + m) ((e : Int) - t.bias - t.mb)

/-- A nonzero code whose exponent field is zero. -/
def Flt.subnormal (t : Flt) (code : Nat) : Bool := code / 2 ^ t.mb % 2 ^ t.eb == 0 && code % 2 ^ t.mb != 0

/-- An operand under flush-inputs: a subnormal is a zero of its own sign; the two FP8 formats are never flushed (02 R51). -/
def Flt.read (t : Flt) (md : FpMode) (code : Nat) : Val :=
  if md.flushIn && t != e4m3 && t != e5m2 && t.subnormal code then .fin (code / t.signBit % 2 == 1) 0 0 else t.val code

/-- m * 2^-sh to an integer in a rounding mode, and whether that is inexact (02 R50). -/
def roundShift (rm : Rm) (neg : Bool) (m sh : Nat) : Nat × Bool :=
  let s := min sh (Nat.log2 m + 3)
  let q := m / 2 ^ s
  let r := m % 2 ^ s
  let twice := 2 * r
  let up :=
    match rm with
    | .rne => 2 ^ s < twice || (twice == 2 ^ s && q % 2 == 1)
    | .rtz => false
    | .rup => !neg && r != 0
    | .rdn => neg && r != 0
    | .rna => 2 ^ s ≤ twice
  (if up then q + 1 else q, r != 0)

/-- floor(log2) of a nonzero magnitude. -/
def topExp (m : Nat) (e : Int) : Int := e + (Nat.log2 m : Int)

/-- A nonzero magnitude to a multiple of 2^q. -/
def roundTo (rm : Rm) (neg : Bool) (m : Nat) (e q : Int) : Nat × Bool :=
  if q ≤ e then (m * 2 ^ (e - q).toNat, false) else roundShift rm neg m (q - e).toNat

/-- The magnitude code of a nonzero value in a format whose exponents have no upper bound, and whether it is inexact. -/
def Flt.roundCode (t : Flt) (rm : Rm) (neg : Bool) (m : Nat) (e : Int) : Nat × Bool :=
  let q := max (topExp m e) t.emin - t.mb
  let (r, nx) := roundTo rm neg m e q
  (((q + t.mb - t.emin).toNat * 2 ^ t.mb) + r, nx)

/-- Whether a nonzero value is tiny: rounded to the precision with an unbounded exponent it is below the smallest normal value (02 R51). -/
def Flt.tiny (t : Flt) (rm : Rm) (neg : Bool) (m : Nat) (e : Int) : Bool :=
  let top := topExp m e
  if t.emin ≤ top then false
  else if top < t.emin - 1 then true
  else (roundTo rm neg m e (top - t.mb)).1 < 2 ^ (t.mb + 1)

/-- A value that no code of the format reaches: what overflow writes in each mode (02 R48). -/
def Flt.overflow (t : Flt) (rm : Rm) (neg : Bool) : Nat :=
  if t.topNormal then t.signed neg t.maxCode
  else
    match rm with
    | .rne | .rna => t.signed neg t.infCode
    | .rtz => t.signed neg t.maxCode
    | .rup => t.signed neg (if neg then t.maxCode else t.infCode)
    | .rdn => t.signed neg (if neg then t.infCode else t.maxCode)

/-- fround of 05 R143: an exact result into a format, with its flags (02 R47-R52). A NaN keeps its sign; a signalling one sets NV. -/
def fround (t : Flt) (md : FpMode) (x : Val) : Nat × BitVec 5 :=
  match x with
  | .nan neg sig => (t.signed neg t.nanCode, if sig then flNV else 0)
  | .inf neg => if t.topNormal then (t.signed neg t.nanCode, flNV) else (t.signed neg t.infCode, 0)
  | .fin neg 0 _ => (t.signed neg 0, 0)
  | .fin neg (m + 1) e =>
    if topExp (m + 1) e > (2 ^ t.eb : Nat) then (t.overflow md.rm neg, flOF ||| flNX)
    else
      let flushes := md.flushOut && t != e4m3 && t != e5m2
      let tiny := t.tiny md.rm neg (m + 1) e
      if flushes && tiny then (t.signed neg 0, flUF ||| flNX)
      else
        let (c, nx) := t.roundCode md.rm neg (m + 1) e
        if c > t.maxCode then (t.overflow md.rm neg, flOF ||| flNX)
        else (t.signed neg c, if nx then (if tiny then flUF ||| flNX else flNX) else 0)

/-- The code alone, under RNE and preserve (02 R53). -/
def froundPlain (t : Flt) (x : Val) : Nat := (fround t FpMode.plain x).1

def Val.isNan : Val → Bool
  | .nan .. => true
  | .inf _ => false
  | .fin .. => false
def Val.isSig : Val → Bool
  | .nan _ s => s
  | .inf _ => false
  | .fin .. => false
def Val.isInf : Val → Bool
  | .inf _ => true
  | .nan .. => false
  | .fin .. => false
def Val.isZero : Val → Bool
  | .fin _ 0 _ => true
  | .fin _ (_ + 1) _ => false
  | .nan .. => false
  | .inf _ => false
def Val.neg? : Val → Bool
  | .nan n _ => n
  | .inf n => n
  | .fin n _ _ => n
def Val.negate : Val → Val
  | .nan n s => .nan n s
  | .inf n => .inf (!n)
  | .fin n m e => .fin (!n) m e

/-- A signed magnitude as an integer in units of 2^q, for q at most its exponent. -/
def signedAt (neg : Bool) (m : Nat) (e q : Int) : Int :=
  let a : Int := m * 2 ^ (e - q).toNat
  if neg then -a else a

/-- A value scaled by a power of two. -/
def Val.scale (x : Val) (k : Int) : Val :=
  match x with
  | .fin n m e => .fin n m (e + k)
  | .nan n s => .nan n s
  | .inf n => .inf n

/-- The least exponent among nonzero finite terms. -/
def minExp : List Val → Option Int
  | [] => none
  | .fin _ (_ + 1) e :: r =>
    match minExp r with
    | none => some e
    | some q => some (min e q)
  | _ :: r => minExp r

/-- The exact sum of finite terms in units of 2^q. -/
def sumAt (q : Int) (ts : List Val) : Int :=
  ts.foldl
    (fun acc t =>
      match t with
      | .fin n (m + 1) e => acc + signedAt n (m + 1) e q
      | _ => acc) 0

/-- The exact sum of terms, with the flag of an invalid operation: a signalling NaN, or infinities of opposite sign among the terms
whatever the others are (02 R52, R69, R70; 05 R155).
An exact zero is -0 where every term is -0, +0 where every term is +0, and otherwise +0, but -0 under RDN (02 R50). -/
def sumVals (rm : Rm) (ts : List Val) : Val × BitVec 5 :=
  let opp := ts.any (· == .inf false) && ts.any (· == .inf true)
  let fl : BitVec 5 := if ts.any Val.isSig || opp then flNV else 0
  if ts.any Val.isNan || opp then (.nan false false, fl)
  else if ts.any Val.isInf then (.inf (ts.any (· == .inf true)), 0)
  else
    let q := (minExp ts).getD 0
    let z := sumAt q ts
    if z = 0 then (.fin (ts.all Val.neg? || (rm == .rdn && ts.any Val.neg?)) 0 0, 0) else (.fin (z < 0) z.natAbs q, 0)

/-- The exact product of two values: 0 * infinity is invalid (02 R52). -/
def mulVals (a b : Val) : Val × BitVec 5 :=
  let n := a.neg? != b.neg?
  let fl : BitVec 5 := if a.isSig || b.isSig then flNV else 0
  if a.isNan || b.isNan then (.nan false false, fl)
  else if (a.isInf && b.isZero) || (a.isZero && b.isInf) then (.nan false false, flNV)
  else
    match a, b with
    | .fin _ m e, .fin _ k g => (.fin n (m * k) (e + g), 0)
    | _, _ => (.inf n, 0)

/-- A + B, A * B and A * B + C, exact, with their flags (05 R145; 02 R69). -/
def addF (t : Flt) (md : FpMode) (a b : Val) : Nat × BitVec 5 :=
  let (s, f1) := sumVals md.rm [a, b]
  let (c, f2) := fround t md s
  (c, f1 ||| f2)
def mulF (t : Flt) (md : FpMode) (a b : Val) : Nat × BitVec 5 :=
  let (p, f1) := mulVals a b
  let (c, f2) := fround t md p
  (c, f1 ||| f2)
def fmaF (t : Flt) (md : FpMode) (a b c : Val) : Nat × BitVec 5 :=
  let (p, f1) := mulVals a b
  let (s, f2) := sumVals md.rm [p, c]
  let (r, f3) := fround t md s
  (r, f1 ||| f2 ||| f3)

/-- a < b for values that are no NaN; zeros are equal. -/
def ltVals (a b : Val) : Bool :=
  match a, b with
  | .nan .., _ => false
  | _, .nan .. => false
  | .inf n, .inf k => n && !k
  | .inf n, .fin .. => n
  | .fin .., .inf k => !k
  | .fin n m e, .fin k l g =>
    let q := min e g
    if m = 0 ∧ l = 0 then false
    else if m = 0 then !k
    else if l = 0 then n
    else if n != k then n
    else if topExp m e ≠ topExp l g then (decide (topExp m e < topExp l g)) != n
    else decide (signedAt n m e q < signedAt k l g q)

/-- Equality of values, -0 equal to +0; a NaN equals nothing. -/
def eqVals (a b : Val) : Bool :=
  !a.isNan && !b.isNan && ((a.isZero && b.isZero) || (!ltVals a b && !ltVals b a))

/-- -0 below +0 (05 R146). -/
def totalLess (a b : Val) : Bool := ltVals a b || (a.isZero && b.isZero && a.neg? && !b.neg?)

/-- IEEE minimum or maximum, or minimumNumber and maximumNumber, of two values (05 R146). -/
def minMax (isMax num : Bool) (a b : Val) : Val × BitVec 5 :=
  let fl : BitVec 5 := if a.isSig || b.isSig then flNV else 0
  if a.isNan && b.isNan then (.nan false false, fl)
  else if a.isNan then (if num then b else .nan false false, fl)
  else if b.isNan then (if num then a else .nan false false, fl)
  else if isMax then (if totalLess a b then b else a, fl) else (if totalLess b a then b else a, fl)

/-- The minimum or maximum written in a format: it is one of the operands, so only flushing changes it (05 R146). -/
def minMaxF (t : Flt) (md : FpMode) (isMax num : Bool) (a b : Val) : Nat × BitVec 5 :=
  let (x, f1) := minMax isMax num a b
  let (c, f2) := fround t md x
  (c, f1 ||| f2)

/-- The class mask of 05 R148. -/
def classOf (t : Flt) (code : Nat) : Nat :=
  match t.val code with
  | .nan _ sig => if sig then 256 else 512
  | .inf n => if n then 1 else 128
  | .fin n m _ => if m = 0 then (if n then 8 else 16) else if t.subnormal code then (if n then 4 else 32) else (if n then 2 else 64)

/-- A value rounded to an integer: its magnitude (05 R149, R152). -/
def roundInt (rm : Rm) (neg : Bool) (m : Nat) (e : Int) : Nat × Bool := if m = 0 then (0, false) else roundTo rm neg m e 0

/-- FRND (05 R149): an integral value in the same format, with the sign of A. -/
def frndF (t : Flt) (md : FpMode) (a : Val) : Nat × BitVec 5 :=
  match a with
  | .nan _ sig => (t.nanCode, if sig then flNV else 0)
  | .inf n => (t.signed n t.infCode, 0)
  | .fin n m e =>
    if m = 0 ∨ t.bias + t.mb < topExp m e then ((fround t md a).1, 0)
    else (t.signed n ((fround t FpMode.plain (.fin false (roundInt md.rm n m e).1 0)).1), 0)

/-- FSCALE (05 R150). -/
def fscaleF (t : Flt) (md : FpMode) (a : Val) (b : Int) : Nat × BitVec 5 :=
  match a with
  | .nan _ sig => (t.nanCode, if sig then flNV else 0)
  | .inf n => (t.signed n t.infCode, 0)
  | .fin n m e => if m = 0 then (t.signed n 0, 0) else fround t md (.fin n m (e + b))

/-- A floating value to an integer range: NaN gives 0, an integer outside it the nearest bound, both with NV; NX where it rounds (05 R152). -/
def toIntF (rm : Rm) (lo hi : Int) (a : Val) : Int × BitVec 5 :=
  match a with
  | .nan .. => (0, flNV)
  | .inf n => (if n then lo else hi, flNV)
  | .fin n m e =>
    if m ≠ 0 ∧ 64 < topExp m e then (if n then lo else hi, flNV)
    else
      let (q, nx) := roundInt rm n m e
      let z : Int := if n then -(q : Int) else q
      if z < lo then (lo, flNV) else if hi < z then (hi, flNV) else (z, if nx then flNX else 0)

/-- An integer as an exact value. -/
def intVal (z : Int) : Val := .fin (z < 0) z.natAbs 0

/-! N4 blocks and nested elements (02 R54-R67). -/

/-- The tiny float that a nested element with mb mantissa bits is: two exponent bits, bias 1, no special codes (02 R54, R58). -/
def nestFlt (mb : Nat) : Flt := ⟨2, mb, 1, true⟩

/-- The value of a nested element code of mb mantissa bits, in units (02 R54, R58). -/
def nestVal (mb code : Nat) : Val :=
  let neg := code / 2 ^ (mb + 2) % 2 == 1
  let e := code / 2 ^ mb % 4
  let m := code % 2 ^ mb
  if e = 0 then .fin neg m (-(mb : Int)) else .fin neg (2 ^ mb + m) ((e : Int) - 1 - mb)

/-- The code of a value in units, RNE: ties to the even mantissa (02 R57, R66, R67); at most the largest magnitude code. -/
def nestCode (mb : Nat) (x : Val) : Nat :=
  match x with
  | .fin neg m e =>
    let c := if m = 0 then 0 else min ((nestFlt mb).roundCode .rne neg m e).1 (2 ^ (mb + 2) - 1)
    if neg then 2 ^ (mb + 2) + c else c
  | .nan .. => 0
  | .inf _ => 0

/-- n4_value of 02 R56. -/
def n4Val (code scale special : Nat) : Val :=
  if scale = 0xFF then .nan false false
  else if code % 16 = 8 ∧ special ≠ 0 ∧ special ≠ 0x80 then (e4m3.val special).scale ((scale : Int) - 127)
  else (nestVal 1 (code % 16)).scale ((scale : Int) - 127)

/-- |a| < |b| and the larger magnitude, for finite values. -/
def Val.abs : Val → Val
  | .fin _ m e => .fin false m e
  | .inf _ => .inf false
  | .nan n s => .nan n s

/-- ceil(log2(m / 6)), at least -127 (02 R57): the least e with m <= 6 * 2^e. -/
def scaleExp (x : Val) : Int :=
  match x with
  | .fin _ 0 _ => -127
  | .fin _ (m + 1) e =>
    let t := topExp (m + 1) e - 2
    max (-127) (if !ltVals (.fin false 6 t) (.fin false (m + 1) e) then t else t + 1)
  | .nan .. => -127
  | .inf _ => -127

/-- The first position of the greatest magnitude, and the greatest magnitude of the others (02 R57). -/
def maxAbs (xs : List Val) : Val := xs.foldl (fun acc x => if ltVals acc x.abs then x.abs else acc) (.fin false 0 0)
def firstMax (xs : List Val) : Nat := (xs.findIdx? (fun x => eqVals x.abs (maxAbs xs))).getD 0

/-- SCALE := e + 127 (02 R57; 12 R272), of an N4 or a nested block. No rule says what the byte holds where that exceeds 0xFE, which values from an N4 tile
can reach: there it is a free byte (log entry 73). -/
def scaleByte (e : Int) : Nat := if e + 127 ≤ 0xFE then (e + 127).toNat else (Config.overScale (e + 127).toNat).toNat

/-- quantise_n4 (02 R57): the scale byte, the special byte, the codes. -/
def quantiseN4 (xs : List Val) : Nat × Nat × List Nat :=
  if xs.any (fun x => x.isNan || x.isInf) then (0xFF, 0, xs.map (fun _ => 0))
  else
    let m1 := maxAbs xs
    let j := firstMax xs
    let m2 := maxAbs (xs.eraseIdx j)
    let e1 := scaleExp m1
    let e2 := scaleExp m2
    let ratio := m1.scale (-e2)
    let fits : Bool :=
      match ratio with
      | .fin _ (m + 1) e => decide ((roundTo .rne false (m + 1) e (topExp (m + 1) e - 3)).1 * 2 ^ (topExp (m + 1) e).toNat ≤ 448 * 8)
      | _ => false
    let special := ltVals (.fin false 6 0) ratio && fits
    let e := if special then e2 else e1
    let sp := if special then froundPlain e4m3 ((xs.getD j (.fin false 0 0)).scale (-e)) else 0
    let codes := (List.range xs.length).map (fun i =>
      if special ∧ i = j then 8
      else
        let c := nestCode 1 ((xs.getD i (.fin false 0 0)).scale (-e))
        if special ∧ c = 8 then 0 else c)
    (scaleByte e, sp, codes)

/-- Mantissa bits of the element that k planes form, its width (02 R58, R59). -/
def planeBits (k : Nat) : Nat := match k with | 0 => 0 | 1 => 1 | 2 => 5 | 3 => 13 | _ => 29
def planeWidth (k : Nat) : Nat := match k with | 0 => 0 | 1 => 4 | 2 => 8 | 3 => 16 | _ => 32
/-- Bytes of plane p of a block of 32 (02 R59). -/
def planeBytes (p : Nat) : Nat := match p with | 0 => 16 | 1 => 16 | 2 => 32 | _ => 64

/-- TRUNC and RNE reads of k of the P planes of a word (02 R62, R63): the code at the width of k planes. -/
def readPlanes (k p : Nat) (rne : Bool) (w : W32) : Nat :=
  let n := planeWidth k
  let code := w.toNat / 2 ^ (32 - n)
  if rne ∧ k < p then
    let nw := planeWidth (k + 1)
    let ext := w.toNat / 2 ^ (32 - nw) % 2 ^ (nw - n)
    let g := ext / 2 ^ (nw - n - 1) % 2
    let st := ext % 2 ^ (nw - n - 1)
    let mag := code % 2 ^ (n - 1)
    if g = 1 ∧ (st ≠ 0 ∨ code % 2 = 1) ∧ mag ≠ 2 ^ (n - 1) - 1 then code + 1 else code
  else code

/-- A code at the width of k planes as a word, the lower planes zero (02 R64). -/
def widen (k code : Nat) : W32 := BitVec.ofNat 32 (code * 2 ^ (32 - planeWidth k))

/-- The value of an element read through k planes at a scale (02 R65). -/
def nestedVal (k code scale : Nat) : Val := if scale = 0xFF then .nan false false else (nestVal (planeBits k) code).scale ((scale : Int) - 127)

/-- A value that rounds to more than 6 units at a width of mb mantissa bits (02 R61, R67). -/
def overSix (mb : Nat) (x : Val) : Bool :=
  match x with
  | .fin neg (m + 1) e => 3 * 2 ^ mb + 2 ^ (mb - 1) < ((nestFlt mb).roundCode .rne neg (m + 1) e).1
  | .fin _ 0 _ => false
  | .inf _ => true
  | .nan .. => false

/-- Rescaling a block of codes at the stored width (02 R66). -/
def rescale (mb scale : Nat) (codes : List Nat) : Nat × List Nat :=
  if scale = 0xFF then (scale, codes)
  else if scale = 0xFE then (0xFF, codes.map (fun _ => 0))
  else (scale + 1, codes.map (fun c => nestCode mb ((nestVal mb c).scale (-1))))

/-- The new value of an element of a plane update, in units of the scale (02 R67). -/
def planeSum (mb scale code : Nat) (u : Val) : Val := (sumVals .rne [nestVal mb code, u.scale (127 - (scale : Int))]).1

/-- A plane update (02 R67): old codes and the updates as exact values; the block is rescaled until every new value is within 6
units, at most 256 times. An exact zero is +0. -/
def planeUpdate (mb : Nat) : Nat → Nat → List Nat → List Val → Nat × List Nat
  | 0, scale, codes, _ => (scale, codes)
  | fuel + 1, scale, codes, upd =>
    if scale = 0xFF then (scale, codes)
    else if (List.zipWith (fun c u => overSix mb (planeSum mb scale c u)) codes upd).any id then
      let (s1, c1) := rescale mb scale codes
      planeUpdate mb fuel s1 c1 upd
    else (scale, List.zipWith (fun c u => let x := planeSum mb scale c u; if x.isZero then 0 else nestCode mb x) codes upd)

/-! Trees of sums (02 R71, R72). -/

/-- One level of a tree: the lower position is the first operand. -/
def pairUp {α : Type} (op : α → α → α) : List α → List α
  | a :: b :: r => op a b :: pairUp op r
  | [a] => [a]
  | [] => []

/-- tree(x) of a list of 2^n values. -/
def tree {α : Type} (op : α → α → α) : Nat → List α → List α
  | 0, xs => xs
  | n + 1, xs => tree op n (pairUp op xs)

/-- prefix(x, i), from the block of 2^b down; base is where the next block starts. -/
def prefixFrom {α : Type} (op : α → α → α) (xs : List α) (i : Nat) : Nat → Nat → Option α → Option α
  | 0, _, acc => acc
  | b + 1, base, acc =>
    if (i + 1) / 2 ^ b % 2 = 1 then
      match tree op b ((xs.drop base).take (2 ^ b)), acc with
      | t :: _, none => prefixFrom op xs i b (base + 2 ^ b) (some t)
      | t :: _, some a => prefixFrom op xs i b (base + 2 ^ b) (some (op a t))
      | [], _ => acc
    else prefixFrom op xs i b base acc

/-- The identity of a reduction, by the SUB of 04 R122. -/
def redId (sub : Nat) : W32 :=
  match sub with
  | 0 => 0 | 1 => 0x7FFFFFFF | 2 => 0x80000000 | 3 => 0xFFFFFFFF | 4 => 0 | 5 => 0xFFFFFFFF | 6 => 0 | 7 => 0
  | 8 => 0x80000000 | 9 => 0x7F800000 | _ => 0xFF800000

/-- One application of a reduction, with its flags (04 R122; 02 R71), also those of a minimum or maximum (05 R163); -0 is added under RDN as R50 says
(log entry 74). -/
def redOp (sub : Nat) (md : FpMode) (a b : W32 × BitVec 5) : W32 × BitVec 5 :=
  let x := a.1
  let y := b.1
  let fl := a.2 ||| b.2
  let fp (r : Nat × BitVec 5) : W32 × BitVec 5 := (BitVec.ofNat 32 r.1, fl ||| r.2)
  let va := f32.read md x.toNat
  let vb := f32.read md y.toNat
  match sub with
  | 0 => (x + y, fl)
  | 1 => (if x.toInt ≤ y.toInt then x else y, fl)
  | 2 => (if x.toInt ≤ y.toInt then y else x, fl)
  | 3 => (if x.toNat ≤ y.toNat then x else y, fl)
  | 4 => (if x.toNat ≤ y.toNat then y else x, fl)
  | 5 => (x &&& y, fl)
  | 6 => (x ||| y, fl)
  | 7 => (x ^^^ y, fl)
  | 8 => fp (addF f32 md va vb)
  | 9 => fp (minMaxF f32 md false false va vb)
  | _ => fp (minMaxF f32 md true false va vb)

/-- tree() of 2^n values under a reduction. -/
def redTree (sub : Nat) (md : FpMode) (n : Nat) (xs : List W32) : W32 × BitVec 5 :=
  ((tree (redOp sub md) n (xs.map (fun x => (x, (0 : BitVec 5))))).head?).getD (redId sub, 0)

/-- prefix(x, i) of 2^n values under a reduction, inclusive or exclusive. -/
def redScan (sub : Nat) (md : FpMode) (n : Nat) (xs : List W32) (exc : Bool) (i : Nat) : W32 × BitVec 5 :=
  if exc then
    match i with
    | 0 => (redId sub, 0)
    | k + 1 => (prefixFrom (redOp sub md) (xs.map (fun x => (x, (0 : BitVec 5)))) k (n + 1) 0 none).getD (redId sub, 0)
  else (prefixFrom (redOp sub md) (xs.map (fun x => (x, (0 : BitVec 5)))) i (n + 1) 0 none).getD (redId sub, 0)

end Sys2Proof.Machine
end

