-- ==== Sys2Proof/Machine/Barriers.lean ====
section
/-!
DEFINITION. Barriers (04 R113-R122): arrivals, completion of a phase, the results of GVOTE and GRED, the exit of a member, and the
counters of a cohort that is swapped out (15 R344, R345).
-/
namespace Sys2Proof.Machine

def kindNone : Nat := 0
def kindPlain : Nat := 1
def kindVote (sub : Nat) : Nat := 256 + sub
def kindRed (sub mod : Nat) : Nat := 2 ^ 20 + sub + 256 * mod

/-- The contribution of a warp index among the arrivals of a completed phase: its latest (04 R113). -/
def contribOf (arr : List Arrival) (w : Nat) : Option W32 := ((arr.filter (fun a => a.widx == w)).getLast?).map (·.contrib)

/-- The rounding and subnormal handling in the MOD of a GRED (04 R122). -/
def gredMode (mod : Nat) : FpMode := FpMode.of (mod / 4 % 8) (mod / 32 % 4)

/-- The result of a completed phase and the flags it raises (04 R121, R122): of the additions of a tree, and of the minima and maxima of one, which
R122 does not name (log entry 74). -/
def phaseResult (kind : Nat) (arr : List Arrival) : W32 × BitVec 5 :=
  if 2 ^ 20 ≤ kind then
    let sub := (kind - 2 ^ 20) % 256
    redTree sub (gredMode ((kind - 2 ^ 20) / 256)) 5 ((List.range 32).map (fun w => (contribOf arr w).getD (redId sub)))
  else if 256 ≤ kind then
    match kind - 256 with
    | 0 => (if (List.range 32).all (fun w => (contribOf arr w).getD 1 == 1) then 1 else 0, 0)
    | 1 => (if (List.range 32).any (fun w => (contribOf arr w).getD 0 == 1) then 1 else 0, 0)
    | _ => (ofBits 32 ((List.range 32).filter (fun w => (contribOf arr w).getD 0 == 1)), 0)
  else (0, 0)

/-- A phase completes (04 R113). -/
def Barrier.done (b : Barrier) : Bool := b.need ≤ b.arr && 0 < b.need && b.pend == 0

/-- The barrier after a completion, and what its phase gives. A member that exited after arriving leaves now (04 R120). -/
def Barrier.complete (b : Barrier) : Barrier × W32 × BitVec 5 :=
  let taken := b.arrivals.take b.need
  let rest := b.arrivals.drop b.need
  let kind := match rest with | [] => kindNone | a :: _ => a.kind
  ({ b with phase := b.phase + 1, arr := b.arr - b.need, kind := kind, arrivals := rest, need := b.need - b.leaving, leaving := 0 },
    phaseResult b.kind taken)

/-- A wait on a phase is over: the phase number has left the token (04 R114). -/
def phasePassed (phase token : W32) : Bool := (phase - token).toNat != 0 && (phase - token).toNat < 2 ^ 31

/-- Delivering a result to a register in some lanes: the values an operation writes. -/
def resultVals (dest : Opnd) (lanes : Lanes) (x : W32) : List (Nat × W32) × List (Nat × W64) :=
  match dest with
  | .v r => ((bitList lanes).map (fun l => (r * 32 + l, x)), [])
  | .s r => ([], [(r, x.setWidth 64)])
  | .sp _ => ([], [])

/-- Setting the program counters of lanes ahead by a length. -/
def Warp.advance (w : Warp) (ls : Lanes) (len : Nat) : Warp :=
  { w with lpc := w.lpc.setMany ((bitList ls).map (fun l => (l, w.lpc.get l + BitVec.ofNat 32 len))) }

/-- Signed type of the result written to a scalar: GRED .I32 sign-extends (01 R28; 04 R122). -/
def extendRes (signed : Bool) (x : W32) : W64 := if signed then x.signExtend 64 else x.setWidth 64

/-- A warp that waits on a completed phase is released with its result (04 R113, R117). -/
def Warp.releaseFrom (entry : Nat) (phase : W32) (kind : Nat) (x : W32) (fl : BitVec 5) (w : Warp) : Warp :=
  match w.wait with
  | .barrier e token lanes dest op len =>
    if e = entry ∧ token = phase then
      let (vv, sv) := resultVals dest lanes x
      let sv1 := sv.map (fun p => (p.1, extendRes (2 ^ 20 ≤ kind && (kind - 2 ^ 20) % 256 ≤ 2) x))
      let w1 := { (w.advance lanes len) with wait := .ready }
      let w2 := (w1.updOp op (fun o => { o with vvals := vv, svals := sv1 })).deliver op
      if 2 ^ 20 ≤ kind then w2.orFlags fl else w2
    else w
  | .ready | .sleep _ | .fence .. | .page .. | .trap _ => w

/-- Changing every warp of a cohort, resident or saved. -/
def State.mapCohort (s : State) (r : WRef) (g : Warp → Warp) : State :=
  let mine (w : Warp) : Bool := w.ref.die == r.die && w.ref.cluster == r.cluster && w.ref.cslot == r.cslot
  let f (w : Warp) : Warp := if w.live && mine w then g w else w
  { s with
    w := f s.w, warps := s.warps.map f
    t := { s.t with saved := s.t.saved.map (fun x => { x with warps := x.warps.map (fun w => if mine w then g w else w) }) } }

/-- The 16 bytes of a barrier in a save area (15 R345): KIND of the frame is the low byte of the model's kind code. -/
def Barrier.frame (b : Barrier) : List Byte :=
  bytesOf 16 (b.phase.toNat + b.arr % 64 * 2 ^ 32 + b.need % 64 * 2 ^ 40 + b.kind % 256 * 2 ^ 48 + b.ovf.toNat * 2 ^ 56 +
    (b.pend % (2 ^ 28 : Nat)).toNat * 2 ^ 64)

/-- The 8 bytes of a stage in a save area (15 R345). -/
def StageState.code : StageState → Nat
  | .empty => 0 | .filling => 1 | .committed => 2 | .full => 3
def Stage.frame (g : Stage) : List Byte :=
  bytesOf 8 (g.st.code + g.phase.toNat * 4 + g.ovf.toNat * 8 + g.rcnt % 64 * 16 + (g.pend % (2 ^ 28 : Nat)).toNat * 2 ^ 36)

/-- Putting a barrier back: in a cohort that is swapped out its save area is kept the same (15 R344, R345). -/
def State.setBarrier (s : State) (r : WRef) (e : Nat) (b : Barrier) : State :=
  let s1 := s.updCohort r (fun c => { c with barriers := c.barriers.set e b })
  match s1.cohortOf r with
  | some c => if c.away then (s1.agentWrite (agentCore c.die) c.ctx (c.saveAddr.toNat + 0x1000 + 16 * e) b.frame).getD s1 else s1
  | none => s1

/-- The frame of a warp in a cohort's save area (15 R345). -/
def Cohort.frameVa (c : Cohort) (widx : Nat) : Nat := c.saveAddr.toNat + 0x102000 + 0x57000 * widx

/-- The bytes of a store of 32-bit values by key, in key order. -/
def lanesBytes (m : Store 32) (base n : Nat) : List Byte := (List.range n).flatMap (fun i => bytesOf 4 (m.get (base + i)).toNat)

/-- The flags of a frame: privileged, suspended on PAGE, replay received, slot counts. -/
def Warp.frameFlags (w : Warp) (user : Bool) : Nat :=
  (w.priv && !user).toNat + (match w.wait with | .page _ a => if a = 1 then 6 else 2 | .ready => 0 | .barrier .. => 0 | .sleep _ => 0 | .fence .. => 0 | .trap _ => 0) +
    ((List.range 6).map (fun n => (w.sb.get n).toNat * 2 ^ (4 * n + 8))).sum

/-- The parts of its frame that the release of a warp changes: program counters, flags of the frame, FPSTATUS and the destination. -/
def Warp.releaseParts (w : Warp) (dest : Opnd) (lanes : Lanes) : List (Nat × List Byte) :=
  [(0x0000, lanesBytes w.lpc 0 32), (0x010C, bytesOf 4 (w.frameFlags false)), (0x0198, bytesOf 8 w.csr.fpstatus.toNat)] ++
    match dest with
    | .v r => (bitList lanes).map (fun l => (0x2000 + 128 * r + 4 * l, bytesOf 4 (w.v.get (32 * r + l)).toNat))
    | .s r => [(0x0800 + 8 * r, bytesOf 8 (w.s.get r).toNat)]
    | .sp _ => []

/-- A saved warp that a phase releases: its frame in memory follows (15 R344, R345). -/
def State.releaseSaved (s : State) (c : Cohort) (g : Warp → Warp) (w : Warp) : State :=
  match w.wait, (g w).wait with
  | .barrier _ _ lanes dest _ _, .ready =>
    ((g w).releaseParts dest lanes).foldl
      (fun acc p => (acc.agentWrite (agentCore c.die) c.ctx (c.frameVa w.widx + p.1) p.2).getD acc) s
  | _, _ => s

/-- Releasing the warps of a cohort that wait on a completed phase, resident or saved (04 R113). -/
def State.releaseCohort (s : State) (r : WRef) (g : Warp → Warp) : State :=
  let s1 :=
    match s.cohortOf r with
    | none => s
    | some c => if c.away then ((s.t.saved.flatMap (fun (x : Saved) => x.warps)).filter (fun (w : Warp) => w.ref.die == c.die && w.ref.cluster == c.cluster && w.ref.cslot == c.cslot)).foldl (fun acc w => acc.releaseSaved c g w) s else s
  s1.mapCohort r g

/-- Testing a barrier for completion, and testing again: each completion or departure lowers ARR or NEED (04 R113, R120). -/
def State.testBarrier (s : State) (r : WRef) (e : Nat) : Nat → State
  | 0 => s
  | fuel + 1 =>
    match (s.cohortOf r).bind (fun c => c.barriers[e]?) with
    | none => s
    | some b =>
      if b.done then
        let (b1, x, fl) := b.complete
        ((s.setBarrier r e b1).releaseCohort r (Warp.releaseFrom e b.phase b.kind x fl)).testBarrier r e fuel
      else s

/-- The barrier that a group slot of a warp names: none for a slot whose valid bit is clear and on a stack core (04 R118). -/
def Warp.groupEntry (w : Warp) (slot : Nat) : Option Nat :=
  if w.onStackCore || !w.csr.groups.getLsbD (16 * slot + 15) then none else some (fieldOf w.csr.groups (16 * slot + 7) (16 * slot))

/-- Whether an arrival of a kind may be counted (04 R115): the fault's code where it may not. -/
def Barrier.arriveErr (b : Barrier) (kind : Nat) : Option (BitVec 8) :=
  if b.ovf then some 0x15
  else if b.kind ≠ kindNone ∧ b.kind ≠ kind then some 0x03
  else if b.arr = 63 then some 0x15
  else none

/-- Counting an arrival (04 R115). -/
def Barrier.arrive (b : Barrier) (kind widx : Nat) (x : W32) : Barrier :=
  { b with kind := kind, arr := b.arr + 1, arrivals := b.arrivals ++ [⟨widx, kind, x⟩] }

/-- A copy completion subtracts its bytes from PEND, or sets OVF (04 R116). -/
def Barrier.copied (b : Barrier) (n : Nat) : Barrier :=
  if b.pend - n < -(2 ^ 27 : Int) then { b with ovf := true } else { b with pend := b.pend - n }

/-- The bytes of a completion that names a barrier of a cohort. -/
def State.copyDone (s : State) (r : WRef) (e n : Nat) : State :=
  match (s.cohortOf r).bind (fun c => c.barriers[e]?) with
  | none => s
  | some b => (s.setBarrier r e (b.copied n)).testBarrier r e 128

/-- Whether a warp index is a member of a group table entry (01 R17). -/
def Cohort.member (c : Cohort) (e w : Nat) : Bool := w < c.nwarps && (c.groups.getD e 0).getLsbD w

/-- The exit of a member warp (04 R120). A member has arrived in the current phase where any arrival of its since the last completion is counted, one
that R113 has carried over included (log entry 74). -/
def State.leaveBarriers (s : State) (r : WRef) : State :=
  match s.cohortOf r with
  | none => s
  | some c =>
    (List.range c.barriers.length).foldl
      (fun acc e =>
        if c.member e r.widx then
          match (acc.cohortOf r).bind (fun c => c.barriers[e]?) with
          | none => acc
          | some b =>
            let b1 := if b.arrivals.any (fun a => a.widx == r.widx) then { b with leaving := b.leaving + 1 } else { b with need := b.need - 1 }
            (acc.setBarrier r e b1).testBarrier r e 128
        else acc) s

end Sys2Proof.Machine
end

