-- ==== Sys2Proof/Machine/Tasks.lean ====
section
/-!
DEFINITION. The life of a task (18 R380-R383): decrements, launches and kills, its end with a completion record; the exit of a warp
and the end of a cohort (01 R43; 17 R353).
-/
namespace Sys2Proof.Machine

/-- The closed cursor: STRIDE 1 and every other field 0 (10 R244). -/
def closedCursor : BitVec 128 := 0x4000

/-- A cursor of a lane. -/
def Warp.cursor (w : Warp) (c l : Nat) : BitVec 128 := w.cur.get (c * 32 + l) ^^^ closedCursor
def Warp.setCursor (w : Warp) (c l : Nat) (x : BitVec 128) : Warp := { w with cur := w.cur.set (c * 32 + l) (x ^^^ closedCursor) }

/-- The list of a vertex in one direction; an empty one where none is held (10 R232, R233). -/
def Graphs.list (g : Graphs) (ctx idx : Nat) (dir : Bool) (v : Nat) : GList :=
  (g.lists.find? (fun x => x.ctx == ctx && x.idx == idx && x.dir == dir && x.vertex == v)).getD ⟨ctx, idx, dir, v, [], 0, false⟩
def Graphs.setList (g : Graphs) (x : GList) : Graphs :=
  { g with lists := putBy (fun y => y.ctx == x.ctx && y.idx == x.idx && y.dir == x.dir && y.vertex == x.vertex) x g.lists }

/-- Closing a cursor: its list's count of open cursors falls by one (10 R244). -/
def Graphs.closeCursor (g : Graphs) (ctx : Nat) (x : BitVec 128) : Graphs :=
  if fieldOf x 7 6 = 0 then g
  else
    let l := g.list ctx (fieldOf x 31 20) (x.getLsbD 8) (fieldOf x 63 32)
    g.setList { l with opens := l.opens - 1 }

/-- Closing every cursor of a warp. -/
def State.closeCursors (s : State) (w : Warp) : State :=
  { s with g := w.cur.foldl (fun acc p => acc.closeCursor w.ctx (p.2 ^^^ closedCursor)) s.g }

/-- The 16 bytes of a completion record (18 R380). -/
def completionBytes (time : Nat) (task : W32) (reason status : Nat) (miss : Bool) : List Byte :=
  bytesOf 16 (time % 2 ^ 64 * 2 ^ 64 + task.toNat * 2 ^ 32 + reason % 256 * 2 ^ 16 + miss.toNat * 256 + status % 256)

/-- The name under which the cleaning of a task's regions gets its completion times. -/
def WRef.ofTask (ctx : Nat) (id : W32) : WRef := ⟨98, ctx, id.toNat, 0⟩

def State.task (s : State) (ctx : Nat) (id : W32) : Option Task := s.t.tasks.find? (fun x => x.ctx == ctx && x.id == id)
def State.updTask (s : State) (ctx : Nat) (id : W32) (g : Task → Task) : State :=
  { s with t := { s.t with tasks := updFirst (fun x => x.ctx == ctx && x.id == id) g s.t.tasks } }
def State.dropTask (s : State) (ctx : Nat) (id : W32) : State :=
  { s with t := { s.t with tasks := s.t.tasks.filter (fun x => !(x.ctx == ctx && x.id == id)) } }

/-- What follows an agent's write: its vector is raised, its task's number is free. -/
def State.followUp (s : State) (a : After) : State :=
  let s1 := match a.vec with | none => s | some v => s.msi v
  match a.task with | none => s1 | some x => s1.dropTask x.1 x.2

/-- What is to follow the agent's write with a number happens now, or once the write has reached its homes (18 R380, R382; 19 R397). -/
def State.afterWrite (s : State) (a : After) : State :=
  if s.m.writing a.write then { s with t := { s.t with after := s.t.after ++ [a] } } else s.followUp a

/-- What waited for agents' writes that have now reached their homes. -/
def State.settle (s : State) : State :=
  let done (a : After) : Bool := !s.m.writing a.write
  (s.t.after.filter done).foldl State.followUp { s with t := { s.t with after := s.t.after.filter (fun a => !done a) } }

/-- Writing a completion record, and after it the queue's vector and, where the task's number is freed with it, the task (18 R380, R382): an address that
cannot be written drops the record. -/
def State.complete (s : State) (ctx : Nat) (cpl : W64) (task : W32) (reason status : Nat) (miss irq : Bool) (queue : Nat) (frees : Bool) : State :=
  let s0 := if frees then s.updTask ctx task (fun k => { k with st := .ending }) else s
  let s1 := if cpl.toNat % 16 ≠ 0 ∨ cpl = 0 then s0 else (s0.agentWrite (agentCore 0) ctx cpl.toNat (completionBytes s.time task reason status miss)).getD s0
  s1.afterWrite ⟨s.fresh, if irq then some queue else none, if frees then some (ctx, task) else none⟩

/-- A call that has sent nothing yet: a request for a slot, or a slot. -/
def Call.asks (c : Call) : Bool := c.st == .asking || c.st == .reserved

/-- Messages, requests, calls and statuses that name a warp of a cohort name no warp from now on: they complete for nobody. A call that is not sent
goes with its warp, and so does the slot reserved for it (14 R310). A register write to such a warp arrives all the same, and is refused (14 R303). -/
def State.detach (s : State) (gone : WRef → Bool) : State :=
  let f (r : WRef) : WRef := if gone r then WRef.none else r
  { s with
    m := { s.m with
      msgs := s.m.msgs.map (fun g => { g with
        warp := f g.warp
        kind := match g.kind with
          | .write d k p c ws t => .write d k p c (ws.map f) t
          | .fill ps a => .fill ps a
          | .read ps => .read ps
          | .act a => .act a
          | .atomic os => .atomic os })
      acks := s.m.acks.map (fun a => { a with warp := f a.warp }) }
    e := { s.e with
      reqs := s.e.reqs.map (fun q => { q with warp := f q.warp })
      seqs := s.e.seqs.map (fun q => { q with warp := f q.warp })
      lumens := s.e.lumens.filter (fun q => !gone q.warp) }
    f := { s.f with
      puts := s.f.puts.map (fun p => { p with src := f p.src })
      statuses := s.f.statuses.map (fun p => { p with src := f p.src })
      calls := (s.f.calls.filter (fun c => !(gone c.caller && c.asks))).map (fun c => { c with caller := f c.caller }) }
    g := { s.g with
      msgs := s.g.msgs.map (fun g => { g with warp := f g.warp })
      mirrors := s.g.mirrors.map (fun g => { g with warp := f g.warp }) }
    cores := s.cores.map (fun c => { c with racq := c.racq.filter (fun r => !gone r) }) }

/-- Warps that are resident or swapped out. -/
def State.everyWarp (s : State) : List Warp := s.allWarps ++ s.t.saved.flatMap (·.warps)

/-- The grants of warps that have gone are invalid (14 R296, R298). -/
def Fabric.revoke (f : Fabric) (gone : WRef → Bool) : Fabric :=
  { f with grants := f.grants.map (fun (g : Grant) => if gone g.ref then ({ g with valid := false } : Grant) else g) }

/-- Returning a cohort's banks to cache mode and forgetting the cohort (17 R353), with the cursors and grants that its warps still have (01 R43; log entry
26). -/
def State.dropCohort (s : State) (c : Cohort) : State :=
  let s0 := if c.away then s else c.banks.foldl (fun acc b => acc.setBank (c.die * 48 + c.cluster) b 0) s
  let gone (r : WRef) : Bool := sameCohort c r
  let s1 := (s0.everyWarp.filter (fun w => gone w.ref && !w.onStackCore)).foldl State.closeCursors { s0 with f := s0.f.revoke gone }
  ({ s1 with
      cohorts := s1.cohorts.filter (fun x => !(x.die == c.die && x.cluster == c.cluster && x.cslot == c.cslot))
      t := { s1.t with saved := s1.t.saved.filter (fun x => !(x.die == c.die && x.cluster == c.cluster && x.cslot == c.cslot)) }
      w := if gone s1.w.ref && !s1.w.onStackCore then { s1.w with live := false } else s1.w
      warps := s1.warps.filter (fun w => !(gone w.ref && !w.onStackCore)) }).detach gone |> fun s2 =>
    (List.range 4).foldl (fun acc k => acc.refill ⟨c.die, c.cluster, k⟩ 8) s2

/-- The remote functions of a task end with it (log entry 26). -/
def State.dropFunctions (s : State) (ctx : Nat) (task : W32) : State :=
  let gone (w : Warp) : Bool := w.onStackCore && w.ctx == ctx && w.taskId == task
  let mine := s.allWarps.filter gone
  let s := (mine.foldl State.closeCursors s).detach (fun r => mine.any (fun w => w.ref == r))
  { s with
    w := if gone s.w then { s.w with live := false } else s.w
    warps := s.warps.filter (fun w => !gone w)
    f := { s.f with calls := s.f.calls.filter (fun c => !(c.ctx == ctx && c.taskId == task)) } }

/-- Every cohort of a task stops unsaved, and none is placed any more (15 R328; 18 R381). -/
def State.stopTask (s : State) (ctx : Nat) (id : W32) : State :=
  let mine := s.cohorts.filter (fun c => c.ctx == ctx && c.task == id)
  let s1 := (mine.foldl State.dropCohort s).dropFunctions ctx id
  { s1 with
    t := { s1.t with unplaced := s1.t.unplaced.filter (fun u => !(u.ctx == ctx && u.task == id)) }
    w := if s1.w.ctx = ctx ∧ s1.w.taskId = id ∧ !s1.w.onStackCore then { s1.w with live := false } else s1.w
    warps := s1.warps.filter (fun w => !(w.ctx == ctx && w.taskId == id && !w.onStackCore)) }

/-- A task ends as failed or killed: every cohort is stopped unsaved, the record is written, no edge is applied (18 R381). -/
def State.endTask (s : State) (ctx : Nat) (id : W32) (status : Nat) : State :=
  let s1 := s.stopTask ctx id
  let s2 := { s1 with
    h := { s1.h with records := s1.h.records.map (fun (r : RecSt) => if r.who == some (Paged.fatal ctx id) then { r with who := none } else r) } }
  match s2.task ctx id with
  | none => s2
  | some k => if k.st = .ending then s2 else s2.complete ctx k.cpl id 0 status k.miss k.irq k.queue true

/-- The highest ready stamp used so far: the order in which tasks became ready (18 R384). -/
def State.nextReady (s : State) : Nat := s.t.tasks.foldl (fun acc k => max acc (k.ready + 1)) 1

/-- A task becomes ready: its cohorts go to their distributors (18 R384), which no longer wait to steal (18 R385). -/
def State.makeReady (s : State) (ctx : Nat) (id : W32) : State :=
  match s.task ctx id with
  | none => s
  | some k =>
    let us := (List.range k.ncoh).map (fun c => (⟨c % 4, ctx, id, c⟩ : Unplaced))
    let n := s.nextReady
    let s1 := s.updTask ctx id (fun x => { x with st := .ready, ready := n })
    { s1 with t := { s1.t with
        unplaced := s1.t.unplaced ++ us, stealAt := s1.t.stealAt.filter (fun p => !us.any (fun u => u.die == p.1)) } }

/-- What a status reaches: the register of a warp's operation, which is then delivered (14 R324). -/
def State.giveStatus (s : State) (who : Option (WRef × Nat)) (status : Nat) : State :=
  match who with
  | none => s
  | some (r, op) =>
    let x : W32 := BitVec.ofNat 32 status
    s.mapCohort r (fun w =>
      if w.ref = r then
        (w.updOp op (fun o => { o with
          vvals := o.dests.flatMap (fun d => if d.1 < 640 then (bitList d.2).map (fun l => (d.1 * 32 + l, x)) else [])
          svals := o.dests.flatMap (fun d => if d.1 < 640 then [] else [(d.1 - 640, x.setWidth 64)]) })).deliver op
      else w)

/-- One event of a task that is not checking (18 R381), and the status it gives; a task that is ending takes no event, like one in draining (log entry 80). -/
def State.taskEvent (s : State) (ctx : Nat) (id : W32) (e : TaskEvent) : State :=
  match s.task ctx id, e with
  | none, .decrement who => s.giveStatus who 1
  | none, .launch who => s.giveStatus who 1
  | none, .kill => s
  | some k, .decrement who =>
    match k.st with
    | .checking => s.updTask ctx id (fun x => { x with pending := x.pending ++ [e] })
    | .waiting =>
      if k.counter = 0 then s.giveStatus who 3
      else
        let s1 := (s.updTask ctx id (fun x => { x with counter := x.counter - 1 })).giveStatus who 0
        if k.counter = 1 ∧ k.held = false then s1.makeReady ctx id else s1
    | .ready | .running | .draining | .ending => s.giveStatus who 2
  | some k, .launch who =>
    match k.st with
    | .checking => s.updTask ctx id (fun x => { x with pending := x.pending ++ [e] })
    | .waiting => if k.held then (s.makeReady ctx id).giveStatus who 0 else s.giveStatus who 4
    | .ready | .running | .draining | .ending => s.giveStatus who 2
  | some k, .kill =>
    match k.st with
    | .checking => s.updTask ctx id (fun x => { x with pending := x.pending ++ [e] })
    | .waiting | .ready | .running => s.endTask ctx id 3
    | .draining | .ending => s

/-- A warp has exited (01 R43): cursors closed, grants revoked, results in flight discarded; the last warp ends its cohort, and the
last cohort takes the task to draining (18 R381). -/
def State.warpExit (s : State) (r : WRef) : State :=
  match s.findRef r with
  | none => s
  | some w =>
    if w.onStackCore then s
    else
      let s1 := (s.closeCursors w).updRef r (fun x => { x with exited := true, ops := [], cur := [], wait := .ready })
      let s2 := { s1 with
        f := s1.f.revoke (· == r)
        cores := s1.cores.map (fun (c : CoreSt) => { c with racq := c.racq.filter (fun q => q != r) })
        e := { s1.e with lumens := s1.e.lumens.filter (fun q => q.warp != r) } }
      let s3 := s2.leaveBarriers r
      let s4 := s3.updRef r (fun x => { x with live := false })
      let s5 := ({ s4 with warps := s4.warps.filter (·.live) } : State).refill w.id.core 8
      match s5.cohortOf r with
      | none => s5
      | some c =>
        if s5.allWarps.any (fun x => !x.onStackCore && sameCohort c x.ref) then s5
        else
          let s6 := s5.dropCohort c
          let s7 := s6.updTask c.ctx c.task (fun k => { k with left := k.left - 1, ran := if k.ran.contains (c.die * 48 + c.cluster) then k.ran else k.ran ++ [c.die * 48 + c.cluster] })
          match s7.task c.ctx c.task with
          | some k => if k.left = 0 then s7.updTask c.ctx c.task (fun k => { k with st := .draining }) else s7
          | none => s7

end Sys2Proof.Machine
end

