-- ==== Sys2Proof/Machine/Ops.lean ====
section
/-!
DEFINITION. Taking an exception (15 R328-R334): the fault record, its posting to the host, suspension on PAGE, trap entry and the
return from it, the end of a remote function by a fault, and the end of a task by a fatal one. Log entry 20 says how fields of the
record that no rule gives are filled.
-/
namespace Sys2Proof.Machine

/-- The kinds of record (15 R330). -/
def kindTrap : Nat := 0
def kindPage : Nat := 1
def kindFatal : Nat := 2

/-- CLUSTER, CORE of a record: 63 on a stack core (15 R330). -/
def recCluster (w : Warp) : Nat := if w.onStackCore then 63 else w.id.core.cluster

/-- The 512 bits of a fault record (15 R330). -/
def faultRecord (time : Nat) (devId : BitVec 8) (w : Warp) (kind : Nat) (x : FaultInfo) : BitVec 512 :=
  let word (hi lo v : Nat) : Nat := v % 2 ^ (hi + 1 - lo) * 2 ^ lo
  BitVec.ofNat 512
    (word 511 448 time + word 447 416 w.taskId.toNat + word 415 384 w.cohortId.toNat + word 383 376 devId.toNat +
      word 375 371 w.id.core.die + word 370 365 (recCluster w) + word 364 363 w.id.core.core + word 362 359 w.id.slot +
      word 358 354 w.widx + word 353 352 kind + word 351 320 x.ticket.toNat + word 319 288 x.flanes.toNat +
      word 287 256 x.xlanes.toNat + word 255 224 x.mark.toNat + word 223 216 x.rcode.toNat + word 215 212 x.agent.toNat +
      word 211 210 x.acc.toNat + word 209 209 x.defer.toNat + word 208 208 w.priv.toNat + word 207 200 x.opc.toNat +
      word 199 198 x.len.toNat + word 197 192 x.cause.toNat + word 159 128 x.roffset.toNat + word 127 64 x.addr.toNat +
      word 63 32 x.offset.toNat + word 13 13 x.multi.toNat + word 12 8 x.lane.toNat + word 7 0 x.code.toNat)

/-- Word n of a record. -/
def recWord (r : BitVec 512) (n : Nat) : W64 := BitVec.ofNat 64 (fieldOf r (64 * n + 63) (64 * n))

/-- Records of the ring (19 R396). -/
def HostIf.fbSize (h : HostIf) : Nat := 2 ^ (fieldOf h.fbCfg 3 0 + 6)

/-- Whether the buffer takes a record now: enabled, not full, its entry placeable (19 R397; 17 R360). -/
def HostIf.fbOpen (h : HostIf) : Bool :=
  h.fbCfg.getLsbD 16 && (h.fbHead - h.fbTail).toNat != h.fbSize && (barePlaces (fieldOf h.fbBase 51 12 * 4096 + h.fbHead.toNat % h.fbSize * 64) 64).isSome

/-- Posting the oldest record that waits (19 R397). A task whose fatal fault it records ends then. -/
def State.postOne (s : State) : State :=
  match s.h.records.find? (fun r => r.posted.isNone) with
  | none => s
  | some r =>
    if s.h.fbOpen then
      let pa := fieldOf s.h.fbBase 51 12 * 4096 + s.h.fbHead.toNat % s.h.fbSize * 64
      let s1 := (s.bareWrite pa (bytesOf 64 r.bits.toNat)).getD s
      let s2 := ({ s1 with h := { s1.h with
          records := updFirst (fun x => x.num == r.num) (fun x => { x with posted := some s.h.fbHead.toNat }) s1.h.records
          fbHead := s.h.fbHead + 1 } }).afterWrite ⟨s.fresh, some 64, none⟩
      match r.who with
      | some (.fatal ctx task) => s2.endTask ctx task 1
      | some (.warp _) | some (.request _) | some (.call _) | none => s2
    else s

/-- Posting every record that can be posted. -/
def State.postAll (s : State) : Nat → State
  | 0 => s
  | n + 1 => (s.postOne).postAll n

/-- Raising a record of some bits for the host buffer: it is posted at once where the buffer takes it. -/
def State.raiseBits (s : State) (bits : BitVec 512) (who : Option Paged) (x : FaultInfo) : State :=
  let r : RecSt := { num := s.fresh, bits := bits, who := who, info := x, posted := none, answered := false }
  let s1 := { s with fresh := s.fresh + 1, h := { s.h with records := s.h.records ++ [r] } }
  s1.postAll s1.h.records.length

/-- Raising a record about a warp. -/
def State.raiseRecord (s : State) (w : Warp) (kind : Nat) (who : Option Paged) (x : FaultInfo) : State :=
  s.raiseBits (faultRecord s.time s.m.devId w kind x) who x

/-- The end of a task by a fatal fault whose record has some bits (15 R328; 19 R397): every cohort of the task stops at once, the record goes to the host, and
the task has failed once it is posted. -/
def State.fatalBits (s : State) (ctx : Nat) (task : W32) (bits : BitVec 512) (x : FaultInfo) : State :=
  (s.stopTask ctx task).raiseBits bits (some (.fatal ctx task)) x

/-- A fatal fault of a warp. -/
def State.fatal (s : State) (w : Warp) (x : FaultInfo) : State :=
  s.fatalBits w.ctx w.taskId (faultRecord s.time s.m.devId w kindFatal x) x

/-! Filling registers that a restore left absent (15 R346). -/

/-- Why a frame cannot be read: it does not translate, or it is poisoned. -/
def State.frameErr (s : State) (core : CoreId) (ctx va n : Nat) : Option TErr :=
  match s.m.places core ctx va n .read with
  | .error e => some e
  | .ok ps =>
    if ps.any (fun p => s.m.byteHeld p.loc) then some waitErr else if ps.any s.m.placePoison then some ⟨0x0A, 0⟩ else ps.findSome? s.farErr

/-- The first byte of some at which a frame cannot be read, and why. -/
def State.firstErr (s : State) (core : CoreId) (ctx va n : Nat) : Option (TErr × Nat) :=
  (List.range n).findSome? (fun i => (s.frameErr core ctx (va + i) 1).map (fun e => (e, va + i)))

/-- The first byte of some whose translation fails for an access, and why. -/
def State.placeErr (s : State) (core : CoreId) (ctx : Nat) (need : Need) (va n : Nat) : Option (TErr × Nat) :=
  (List.range n).findSome? (fun i =>
    match s.m.translate core ctx (BitVec.ofNat 64 (va + i)) need with
    | .error e => some (e, va + i)
    | .ok _ => none)

/-- Where a register lies in a frame, and its bytes. -/
def regOffset (code : Nat) : Nat := if code < 640 then 0x2000 + 128 * code else 0x800 + 8 * (code - 640)
def regBytes (code : Nat) : Nat := if code < 640 then 128 else 8

/-- A register with the content of some bytes. -/
def Warp.putReg (w : Warp) (code : Nat) (bs : List Byte) : Warp :=
  if code < 640 then { w with v := w.v.setMany ((List.range 32).map (fun l => (code * 32 + l, BitVec.ofNat 32 (numAt bs (4 * l) 4)))) }
  else { w with s := w.s.set (code - 640) (BitVec.ofNat 64 (numAt bs 0 8)) }

/-- Filling an absent register of a warp from its frame (15 R346): POISON marks it where its bytes are uncorrectable; none where the frame does
not translate. -/
def State.fillReg (s : State) (w : Warp) (code : Nat) : Option Warp :=
  match s.m.places (agentCore w.id.core.die) w.ctx (w.frame.toNat + regOffset code) (regBytes code) .read with
  | .error _ => none
  | .ok ps =>
    let w1 := { (w.putReg code (s.m.placeBytes ps)) with absent := w.absent &&& ~~~(BitVec.ofNat 704 (2 ^ code)) }
    some (if ps.any (fun p => s.m.placePoison p || (s.farErr p).isSome) then
        { w1 with marks := w1.marks ++ [{ reg := code, lanes := BitVec.allOnes 32, info := { code := 0x0A } }] }
      else w1)

/-- The bytes of absent registers among some wait for a thermal hold (17 R372). -/
def State.fillHeld (s : State) (w : Warp) (codes : List Nat) : Bool :=
  s.m.holding && codes.any (fun r =>
    w.absent.getLsbD r && s.m.agentHeld (agentCore w.id.core.die) w.ctx (w.frame.toNat + regOffset r) (regBytes r))

/-- Filling the absent registers among some. -/
def State.fillRegs (s : State) (w : Warp) (codes : List Nat) : Option Warp := (codes.filter (fun r => w.absent.getLsbD r)).foldlM s.fillReg w

/-- The fatal fault of a frame that cannot be translated (15 R346). -/
def State.frameFatal (s : State) (w : Warp) : State :=
  let e := (s.firstErr (agentCore w.id.core.die) w.ctx w.frame.toNat 0x16000).getD (pageErr 1, w.frame.toNat)
  s.fatal w { code := e.1.code, cause := e.1.cause, addr := BitVec.ofNat 64 e.2 }

/-- The byte an acquire load of scope V reads at a place (06 R176): from the cluster's L1 where it is dirty, else at the home, which may hold it back
(17 R372), refuse it or be out of reach (19 R403, R405); whether it is poisoned. Scratch bytes come from the bank. -/
def State.acquireByte (s : State) (w : Warp) (t : Target) : Except TErr (Byte × Bool) :=
  match t with
  | .bank k => .ok (s.m.bankGet k, s.m.bankPoisoned k 1)
  | .mem p =>
    let dirty := (if p.l1 then s.m.l1Find w.cl (lineOf p.loc) else none).filter (fun x => x.dirty.getLsbD (p.loc % 128))
    match dirty with
    | some x => .ok (byteOf x.data (p.loc % 128), x.poison.getLsbD (p.loc % 128))
    | none =>
      if s.m.byteHeld p.loc then .error waitErr
      else
        match s.farErr p with
        | some e => if e.code = 0x0A then .ok (0, true) else .error e
        | none => .ok (s.m.homeByte p.loc p.key, s.m.placePoison p)

/-- Bytes read so, each with its poison, or the fault that comes first, at the first address that has it (15 R329, R330). -/
def State.acquireBytes (s : State) (w : Warp) (va : W64) (n : Nat) : Except (TErr × W64) (List (Byte × Bool)) :=
  collectErr ((List.range n).map (fun i =>
    let a := va + BitVec.ofNat 64 i
    match s.resolve w a .read with
    | .error e => .error (e, a)
    | .ok t =>
      match s.acquireByte w t with
      | .error e => .error (e, a)
      | .ok x => .ok x))

/-- The handler's offset for a code: the word of the table at TRAPBASE, or none where there is no handler or the word cannot be read
(15 R332). -/
def State.handlerOf (s : State) (w : Warp) (code : BitVec 8) : Option W32 :=
  if fieldOf w.csr.trapbase 54 8 = 0 then none
  else
    match s.acquireBytes w (w.csr.trapbase + BitVec.ofNat 64 (4 * code.toNat)) 4 with
    | .error _ => none
    | .ok cells =>
      let x := numAt (cells.map (·.1)) 0 4
      if cells.any (·.2) || x = 0 then none else some (BitVec.ofNat 32 x)

/-- What a trap needs waits for the end of a thermal hold: its handler's word, or s63 where a restore left it absent (17 R372; 15 R346). -/
def State.trapHeld (s : State) (w : Warp) (code : BitVec 8) : Bool :=
  (match s.acquireBytes w (w.csr.trapbase + BitVec.ofNat 64 (4 * code.toNat)) 4 with
    | .error (e, _) => fieldOf w.csr.trapbase 54 8 != 0 && e == waitErr
    | .ok _ => false) || s.fillHeld w [703]

/-- What trap entry does to the warp (15 R332): shadow copies, the trap registers, s63 exchanged with TRAPSWAP, privileged mode, every
lane that has not exited at the handler and running. -/
def Warp.enterTrap (w : Warp) (rec : BitVec 512) (handler : W32) : Warp :=
  let alive : Lanes := ~~~(w.lanesIn 3)
  let w1 := { w with
    tlpc := w.lpc, tlstate := w.lstate, priv := true, s := w.s.set 63 w.csr.trapswap
    csr := { w.csr with
      trapinfo := recWord rec 0, trapaddr := recWord rec 1, trapremote := recWord rec 2, trapaux := recWord rec 3
      traplanes := recWord rec 4, trapswap := w.s.get 63 } }
  (w1.putLanes alive 0).jump alive handler

/-- Trap entry of the focus warp (15 R332): in privileged mode, without a handler, or where the handler's word cannot be read, the
fault is fatal. An absent s63 is filled before it is exchanged (15 R346). -/
def State.trapEntry (s : State) (x : FaultInfo) : State :=
  if s.w.priv then s.fatal s.w x
  else if s.trapHeld s.w x.code then s.updW (fun w => { w with wait := .trap x })
  else
    match s.handlerOf s.w x.code, s.fillRegs s.w [703] with
    | none, _ => s.fatal s.w x
    | some _, none => s.frameFatal s.w
    | some h, some w1 => s.updW (fun w => w1.enterTrap (faultRecord s.time s.m.devId w kindTrap x) h)

/-- The return from a trap (15 R334): the shadow copies come back, s63 and TRAPSWAP are exchanged, user mode. With skip, lanes of
XLANES that stand at the faulting instruction pass over it first. Lanes that exited in the handler stay exited (01 R43). -/
def Warp.trapReturn (w : Warp) (skip : Bool) : Warp :=
  let off : W32 := BitVec.ofNat 32 (fieldOf w.csr.trapinfo 63 32)
  let bytes : W32 := BitVec.ofNat 32 (8 + 4 * fieldOf w.csr.trapaux 7 6)
  let x : Lanes := BitVec.ofNat 32 (fieldOf w.csr.traplanes 31 0)
  let skipped := (List.range 32).filter (fun l => skip && x.getLsbD l && w.tlpc.get l == off)
  let pcs := w.tlpc.setMany (skipped.map (fun l => (l, off + bytes)))
  let gone := w.lanesIn 3
  ({ w with
    lpc := pcs, tlpc := pcs, lstate := w.tlstate, priv := false, s := w.s.set 63 w.csr.trapswap
    csr := { w.csr with trapswap := w.s.get 63 } } : Warp).putLanes gone 3

/-- The call that a stack-core warp runs, changed. -/
def State.updCall (s : State) (id : Nat) (g : Call → Call) : State :=
  { s with f := { s.f with calls := updFirst (fun c => c.id == id) g s.f.calls } }

/-- A remote function of the focus warp ends with a status (14 R310, R311): the echo leaves, the warp is free, and what it has under way completes for nobody. -/
def State.endFunction (s : State) (status : Nat) (code : BitVec 8) (offset : W32) (echo : List (List W32)) : State :=
  match s.w.call with
  | none => s
  | some c =>
    (((s.closeCursors s.w).detach (· == s.w.ref)).updCall c.call (fun k => { k with st := .echoing, status := status, code := code, roffset := offset, echo := echo })).updW
      (fun w => { w with live := false, call := none, ops := [] })

/-- Suspending the focus warp on a PAGE (15 R328; 14 R310): the record goes to the host, LPC keeps the instruction. -/
def State.suspend (s : State) (x : FaultInfo) : State :=
  let n := s.fresh
  let who : Paged := match s.w.call with | some c => .call c.call | none => .warp s.w.ref
  let s1 := s.raiseRecord s.w kindPage (some who) x
  let s2 := s1.updW (fun w => { w with wait := .page n 0 })
  match s.w.call with
  | some c => s2.updCall c.call (fun k => { k with st := .servicing })
  | none => s2

/-- A fault of the focus warp goes where 15 R328 sends it: PAGE to the host, on a stack core into the echo, else to the handler. -/
def State.raise (s : State) (x : FaultInfo) : State :=
  let y := { x with agent := if s.w.onStackCore && x.agent = 0 then 3 else x.agent }
  if y.code = 0x07 ∧ y.defer = false then s.suspend y
  else if s.w.onStackCore then s.endFunction 1 y.code y.offset []
  else s.trapEntry y

end Sys2Proof.Machine
end

