-- ==== Sys2Proof/Machine/Operands.lean ====
section
/-!
DEFINITION. The issue of a warp instruction (01 R20, R37-R42; 03 R79-R82, R94, R95; 14 R300; 15 R329): which registers an instruction
reads and writes, the checks made before it executes and their order, what holds it at issue, and what its end does. The meanings
supply only the effect. Log entries 6 and 7 say what the order of holds and checks is and that a held instruction is tried again.
-/
namespace Sys2Proof.Machine

/-- The register codes (03 R90) that an operand of a class covers. -/
def regsOf (c : OpCls) : Opnd → List Nat
  | .v r => (List.range c.count).map (r + ·)
  | .s r =>
    match c with
    | .range n | .srange n => (List.range n).map (640 + r + ·)
    | .spair | .quad => [640 + r, 640 + r + 1]
    | .unused => []
    | _ => [640 + r]
  | .sp _ => []

/-- What an instruction does with one operand field. -/
inductive Use where
  | read | write | both
  /-- named without being read or written: a range to arm, grant or poll -/
  | named
  deriving DecidableEq, Repr

/-- The uses of D, A, B, C and E. -/
structure Uses where
  d : Use := .write
  a : Use := .read
  b : Use := .read
  c : Use := .read
  e : Use := .read
  deriving DecidableEq, Repr

/-- What each instruction does with its operand fields, where it is not "write D, read the others". -/
def usesOf : Instr → Uses
  | .st _ | .spill _ | .msta _ | .rret _ => { d := .read }
  | .tld _ | .tst _ | .tgath _ | .tscat _ | .xcopy _ => { d := .read, e := .write }
  | .icmp f => { d := if f.modBits 8 8 = 0 then .both else .write }
  | .fcmp f => { d := if f.modBits 15 15 = 0 then .both else .write }
  | .pack f => { d := if f.sub = 2 then .write else .both }
  | .movi f =>
    { d := match f.d with
        | .s _ => if f.fmt == .f128i && f.mod == 3 then .both else .write
        | .v _ => .write
        | .sp _ => .write }
  | .addc _ | .subb _ => { e := .write }
  | .glde _ | .gfind _ => { e := .both }
  | .gnext _ => { a := .both }
  | .rarm _ | .rpoll _ | .rgrant _ => { a := .named }
  | .rcall f => { d := .named, e := if f.modBits 12 12 = 1 then .named else .read }
  | _ => {}

/-- Registers of an instruction under a test of the use of each field. -/
def regsWhere (i : Instr) (f : Fields) (p : Use → Bool) : List Nat :=
  let sh := shapeOf i
  let u := usesOf i
  let pick (us : Use) (c : OpCls) (o : Opnd) : List Nat := if p us then regsOf c o else []
  pick u.d sh.d f.d ++ pick u.a sh.a f.a ++ pick u.b sh.b f.b ++ pick u.c sh.c f.c ++ pick u.e sh.e f.e

def Use.reads : Use → Bool
  | .read => true | .both => true | .write => false | .named => false
def Use.writes : Use → Bool
  | .write => true | .both => true | .read => false | .named => false

/-- The sources of an instruction. RCALL.NF names the status register first in E and reads the scalars after it (14 R308). -/
def readsOf (i : Instr) (f : Fields) : List Nat :=
  regsWhere i f Use.reads ++
    match i with
    | .rcall g => if g.modBits 12 12 = 1 then (regsOf (shapeOf i).e g.e).drop 1 else []
    | _ => []
def writesOf (i : Instr) (f : Fields) : List Nat := regsWhere i f Use.writes

/-- The registers that an instruction changes, now or by what it starts (01 R39): also s63 of TRET, every register of CTXLOAD, and the echo and status
registers of RCALL. -/
def changesOf (i : Instr) (f : Fields) : List Nat :=
  writesOf i f ++
    match i with
    | .tret _ => [703]
    | .ctxload _ => List.range 704
    | .rcall g => regsOf (shapeOf i).d g.d ++ if g.modBits 12 12 = 1 then (regsOf (shapeOf i).e g.e).take 1 else []
    | _ => []
def namedOf (i : Instr) (f : Fields) : List Nat := regsWhere i f (fun _ => true)

/-- The register code of a guard (03 R80). -/
def Guard.code (g : Guard) : Nat := if g.scalar then 640 + g.reg.toNat else g.reg.toNat
def guardRegs (f : Fields) : List Nat := (f.g0.toList ++ f.g1.toList).map Guard.code

/-- The virtual address of an offset from CODEBASE. -/
def Warp.codeVa (w : Warp) (p : W32) : W64 := w.csr.codebase + p.setWidth 64

/-- Where an instruction issues. -/
structure Ctx where
  f : Fields
  opc : Nat
  len : Nat
  /-- the issue address -/
  p : W32
  /-- the running lanes at it, and those whose guard is true -/
  x : Lanes
  g : Lanes
  /-- the number that an outstanding result of this issue has -/
  id : Nat
  deriving DecidableEq, Repr

/-- The slot that SET names. -/
def slotOf (f : Fields) : Option Nat := if f.slot.toNat < 6 then some f.slot.toNat else none

/-- When results can be read (04 R108; 05 R144; 14 R326). -/
inductive Lat where
  /-- written now; readable after this many cycles -/
  | cycles (n : Nat)
  /-- the effect says what is outstanding -/
  | later
  deriving DecidableEq, Repr

/-- What an effect leaves: the state, values for vector registers (key register * 32 + lane) and scalars, an outstanding operation, and
whether it set the program counters of the executing lanes itself, or those of all lanes. -/
structure Res where
  st : State
  vv : List (Nat × W32) := []
  sv : List (Nat × W64) := []
  op : Option Op := none
  jumped : Bool := false
  all : Bool := false

/-- The end of an effect: done; held at issue, with what the wait itself changes; or a fault, raised in a state that differs from the one
before the instruction only where the effect says so. -/
inductive Eff where
  | ok (r : Res)
  | hold (h : State → State)
  | fault (x : FaultInfo) (h : State → State)

/-- An operation with nothing outstanding yet. -/
def Ctx.op (c : Ctx) : Op :=
  { id := c.id, slot := slotOf c.f, parts := 0, ready := none, dests := [], vvals := [], svals := [], marks := [], isWrite := false, acq := false
    cursor := none, reading := [], old := [], aims := [], offset := c.p, opc := BitVec.ofNat 8 c.opc }

/-- The lowest lane of a set. -/
def lowLane (ls : Lanes) : Nat := (bitList ls).headD 0

/-- The fields of a fault raised at an instruction by some of its executing lanes (15 R330). -/
def Ctx.info (c : Ctx) (code cause : Nat) (lanes : Lanes) (addr : W64) : FaultInfo :=
  { code := BitVec.ofNat 8 code, cause := BitVec.ofNat 6 cause, lane := BitVec.ofNat 5 (lowLane lanes), multi := decide (2 ≤ (bitList lanes).length)
    flanes := lanes, xlanes := c.g, addr := addr, offset := c.p, opc := BitVec.ofNat 8 c.opc, len := BitVec.ofNat 2 c.f.fmt.len }

/-- A fault of the whole instruction: every executing lane has it. -/
def Ctx.whole (c : Ctx) (code cause : Nat) : Eff := .fault (c.info code cause c.g 0) (fun s => s)

/-- Roles that may issue an opcode (01 R16): copy 0, matrix 1, vector 2. -/
def roleAllowed (opc role : Nat) : Bool :=
  if 0xC0 ≤ opc ∧ opc ≤ 0xC5 then role == 0
  else if 0xC7 ≤ opc ∧ opc ≤ 0xC9 then role == 2
  else if 0xD0 ≤ opc ∧ opc ≤ 0xD5 then role == 1
  else if 0x50 ≤ opc ∧ opc ≤ 0x7F then role == 2
  else true

/-- The privileged instructions (15 R334, R339, R342, R343, R348). -/
def privileged : Instr → Bool
  | .tret _ | .tlbinv _ | .keyset _ | .keydestroy _ | .ctxsave _ | .ctxload _ => true
  | _ => false

/-- Whether user mode may reach a CSR (01 R33; 15 R333). -/
def csrUser (n : Nat) (write : Bool) : Bool := if write then n ≤ 4 else n < 0x100

/-- A privilege check of the instruction fails (15 R329, step 3). -/
def privilegeFails (w : Warp) : Instr → Bool
  | .csrr f => !w.priv && !csrUser f.mod.toNat false
  | .csrw f => !w.priv && !csrUser f.mod.toNat true
  | .bankcfg _ => w.widx != 0
  | i => privileged i && !w.priv

/-- The tile that an instruction names (12 R284-R290). -/
def tileNamed : Instr → Option Nat
  | .mma f | .mzero f | .mlda f | .msta f => some (f.modBits 3 0)
  | .msync _ | .mrdp _ => none
  | _ => none

/-- The convergence register that a collective names (01 R25). -/
def collectiveOf : Instr → Option Nat
  | .sign f => some (f.modBits 2 0)
  | .mma f => some (f.modBits 8 6)
  | .gopen f => if f.modBits 3 3 = 1 then some (f.modBits 6 4) else none
  | _ => none

/-- A write of a CSR that the machine does not have in privileged mode either (15 R340): TRAPINFO and the read-only trap registers. -/
def csrIllegal : Instr → Bool
  | .csrw f => [0x101, 0x102, 0x103, 0x104, 0x106].contains f.mod.toNat
  | _ => false

/-- Steps 1 to 4 of 15 R329 for a decoded instruction: the code of the first that fails. -/
def preFault (w : Warp) (i : Instr) (f : Fields) (ent : OpEntry) : Option Nat :=
  if !i.wellFormed then some 0x01
  else if (w.onStackCore && w.call.isNone) && (ent.opc = 0xE8 || ent.opc = 0xE9) then some 0x01
  else if !w.onStackCore && (ent.opc = 0xE8 || ent.opc = 0xE9) then some 0x01
  else if (namedOf i f).any w.regMissing then some 0x04
  else if w.onStackCore && (!ent.remote || (collectiveOf i).isSome) then some 0x12
  else if privilegeFails w i then some 0x02
  else if csrIllegal i then some 0x01
  else if !w.onStackCore && !roleAllowed ent.opc w.role then some 0x06
  else if (tileNamed i).any (fun t => w.tiles ≤ t) then some 0x04
  else none

/-- The slots of a WAIT mask (01 R38). -/
def waitSlots (f : Fields) : List Nat := bitList f.wait

/-- Held by the scoreboard: a waited slot counts results, or SET's count is at 15 (01 R38). -/
def slotHeld (w : Warp) (f : Fields) : Bool :=
  (waitSlots f).any (fun n => w.sb.get n != 0) || (slotOf f).any (fun n => w.sb.get n == 15)

/-- A register of a list is armed (14 R300) or absent (15 R346). -/
def anyArmed (w : Warp) (rs : List Nat) : Bool := rs.any (fun r => w.arr.get r == 1)
def anyAbsent (w : Warp) (rs : List Nat) : Bool := rs.any (fun r => w.absent.getLsbD r)

/-- A register of a list is still being read by a SPILL (01 R39). -/
def anySpilling (w : Warp) (rs : List Nat) : Bool := w.ops.any (fun o => o.reading.any (fun r => rs.contains r))

/-- A write that leaves some lanes of an absent register as they were needs its old value too. -/
def partialWrites (i : Instr) (rs : List Nat) (g : Lanes) : List Nat :=
  let always : Bool :=
    match i with
    | .shpush _ | .compact _ | .tld _ | .tst _ | .tgath _ | .tscat _ | .xcopy _ | .nbseq _ => true
    | _ => false
  if always || g != BitVec.allOnes 32 then rs.filter (· < 640) else []

/-- The lanes of a register that a read over some lanes reaches: a scalar is read whole. -/
def reached (r : Nat) (ls : Lanes) : Lanes := if r < 640 then ls else BitVec.allOnes 32

/-- The mark of the lowest-numbered marked register among those read (15 R329, step 5); ls gives the lanes a register is read in. -/
def firstMark (w : Warp) (rs : List Nat) (ls : Nat → Lanes) : Option Mark :=
  let hit := w.marks.filter (fun k => rs.contains k.reg && k.lanes &&& reached k.reg (ls k.reg) != 0)
  let low (k : Mark) : Nat := k.reg * 32 + lowLane (k.lanes &&& reached k.reg (ls k.reg))
  hit.foldl (fun acc k => match acc with | none => some k | some b => if low k < low b then some k else some b) none

/-- The fault that a mark raises at the instruction that reads it (06 R180): MARK holds the offset of the marking instruction. -/
def Ctx.markFault (c : Ctx) (w : Warp) (k : Mark) (ls xs : Lanes) : FaultInfo :=
  let hit := (w.marks.filter (fun j => j.reg == k.reg)).foldl (fun acc j => acc ||| j.lanes) 0 &&& reached k.reg ls
  { k.info with
    defer := true, lane := BitVec.ofNat 5 (lowLane hit), multi := decide (2 ≤ (bitList hit).length), flanes := hit, xlanes := xs
    offset := c.p, opc := BitVec.ofNat 8 c.opc, len := BitVec.ofNat 2 c.f.fmt.len }

/-- The deferred fault that waits on a slot of the WAIT mask (06 R180). -/
def slotFault (w : Warp) (f : Fields) : Option Deferred := w.deferred.find? (fun d => d.slot.any (fun n => (waitSlots f).contains n))

/-- The fault of a deferred entry at the instruction that raises it. -/
def Ctx.deferFault (c : Ctx) (d : Deferred) : FaultInfo :=
  { d.info with
    defer := true, ticket := d.ticket.getD 0, offset := c.p, opc := BitVec.ofNat 8 c.opc, len := BitVec.ofNat 2 c.f.fmt.len, xlanes := c.g }

def Warp.forgetDeferred (w : Warp) (d : Deferred) : Warp := { w with deferred := w.deferred.erase d }

/-- Lanes in which a register of a list is read early (01 R40). -/
def earlyLanes (w : Warp) (rs : List Nat) (ls : Nat → Lanes) : Lanes :=
  rs.foldl (fun acc r => acc ||| ofBits 32 ((bitList (reached r (ls r))).filter (fun l => w.early r l))) 0

/-- Full registers that an instruction reads become idle (14 R300). -/
def Warp.consume (w : Warp) (rs : List Nat) : Warp :=
  { w with arr := rs.foldl (fun acc r => if acc.get r = 2 then acc.set r 0 else acc) w.arr }

/-- The cycles an issue takes (01 R37). -/
def Warp.spend (w : Warp) (f : Fields) : Warp :=
  { w with cycle := w.cycle + max 1 f.stall.toNat, ahead := max 1 f.stall.toNat, idleSince := w.cycle, heldAt := 0 }

/-- Held at issue: the instruction is tried again a cycle later (log entry 7). -/
def State.held (s : State) : State := s.updW (fun w => { w with cycle := w.cycle + 1, ahead := 1, heldAt := s.tick })

/-- The fault of step 5 or 6 of 15 R329 that reading the guards in the lanes at the issue address, and sources in given lanes, raises: that of the
lowest-numbered marked register, or STALL_SHORT. -/
def Ctx.readFault (c : Ctx) (w : Warp) (rs : List Nat) (ls : Nat → Lanes) : Option FaultInfo :=
  let gs := guardRegs c.f
  let all (r : Nat) : Lanes := (if gs.contains r then c.x else 0) ||| (if rs.contains r then ls r else 0)
  match firstMark w (gs ++ rs) all with
  | some k => some (c.markFault w k (all k.reg) (if gs.contains k.reg then c.x else c.g))
  | none =>
    let e := earlyLanes w (gs ++ rs) all
    if w.checkSb && e != 0 then
      some { c.info 0x05 0 e 0 with xlanes := if earlyLanes w gs (fun _ => c.x) != 0 then c.x else c.g }
    else none

/-- The words that some registers hold, in the lanes named. -/
def Warp.wordsAt (w : Warp) (ds : List (Nat × Lanes)) : List W32 :=
  ds.flatMap (fun d => if d.1 < 640 then (bitList d.2).map (fun l => w.v.get (d.1 * 32 + l)) else halves (w.s.get (d.1 - 640)))

/-- Whether the focus warp can issue at all. -/
def Warp.issuable (w : Warp) : Bool := w.live && !w.exited && w.wait == .ready && w.running != 0

/-- Recording what an effect leaves: results in the registers, an operation that still pends, the lanes' way on. -/
def Ctx.finish (c : Ctx) (lat : Lat) (r : Res) : State :=
  let s := r.st
  let w0 := if r.jumped || r.all then s.w else s.w.advance c.g c.len
  let w1 := w0.writeRegs r.vv r.sv
  let w2 : Warp :=
    match r.op with
    | some o =>
      let w := o.dests.foldl (fun acc d => acc.noteWrite d.1 d.2) w1
      { (w.slotUp o.slot) with ops := w.ops ++ [o] }
    | none =>
      match lat with
      | .cycles n =>
        if r.vv = [] ∧ r.sv = [] then w1
        else
          let o : Op := { c.op with ready := some (w1.cycle + n), dests := destsOf r.vv r.sv, old := w0.wordsAt (destsOf r.vv r.sv) }
          { (w1.slotUp o.slot) with ops := w1.ops ++ [o] }
      | .later => w1
  let w3 := if r.all then w2 else w2.advance (c.x &&& ~~~c.g) c.len
  { s with w := w3.spend c.f, fresh := s.fresh + 1 }

/-- How an instruction issues: the latency of its results, the lanes it reads a source register in, whether every deferred fault is raised at it
(FENCE and EXIT, 06 R180), and whether it acts although no lane executes. -/
structure Plan where
  lat : Lat := .cycles 4
  src : State → Lanes → Nat → Lanes := fun _ g _ => g
  deferAll : Bool := false

/-- The effect of an instruction for the lanes of c.g, operands already checked for marks and early reads, and its end. The fault code 0 is no fault: the
instruction waits for a thermal hold (17 R372). -/
def runEffect (i : Instr) (pl : Plan) (c : Ctx) (eff : Ctx → State → Eff) (s : State) : State :=
  let rs := readsOf i c.f
  let ws := writesOf i c.f
  let ls := pl.src s c.g
  let def? := if pl.deferAll then s.w.deferred.head? else none
  if anyArmed s.w (rs ++ ws) || anyAbsent s.w (rs ++ partialWrites i ws c.g) || anySpilling s.w (changesOf i c.f) then s.held
  else
    match def? with
    | some d => (s.updW (fun w => w.forgetDeferred d)).raise (c.deferFault d)
    | none =>
      match c.readFault s.w rs ls with
      | some x => s.raise x
      | none =>
        match eff c (s.updW (fun w => w.consume (rs ++ guardRegs c.f))) with
        | .ok r => c.finish pl.lat r
        | .hold h => (h s).held
        | .fault x h => if x.code = 0 then s.held else (h s).raise x

/-- The checks before any register is read, and the guards (15 R329; 01 R38; 03 R82): the continuation gets the executing lanes, and checks the
guards with the sources. -/
def issueWith (i : Instr) (f : Fields) (ent : OpEntry) (s0 : State) (k : Ctx → State → State) : State :=
  if !s0.w.issuable then s0
  else
    let s := s0.updW Warp.deliverDue
    let p := s.w.issuePc
    let c : Ctx := { f := f, opc := ent.opc, len := f.fmt.bytes, p := p, x := s.w.lanesAt p, g := s.w.lanesAt p, id := s.fresh + 1 }
    match preFault s.w i f ent with
    | some code => s.raise (c.info code 0 c.x 0)
    | none =>
      if slotHeld s.w f || anyArmed s.w (guardRegs f) || anyAbsent s.w (guardRegs f) then s.held
      else
        match slotFault s.w f with
        | some d => (s.updW (fun w => w.forgetDeferred d)).raise (c.deferFault d)
        | none => k { c with g := s.guardLanes f c.x } s

/-- The issue of an instruction that acts for its executing lanes at once; where no lane executes it is passed over. -/
def runWarp (i : Instr) (pl : Plan) (eff : Ctx → State → Eff) (s : State) : State :=
  match opEntry i with
  | none => s
  | some (ent, f) =>
    issueWith i f ent s (fun c s1 =>
      if c.g = 0 then
        match c.readFault s1.w [] (fun _ => 0) with
        | some x => s1.raise x
        | none => c.finish .later { st := s1.updW (fun w => w.consume (guardRegs f)) }
      else runEffect i pl c eff s1)

/-- Convergence registers (01 R25). -/
def Warp.decl (w : Warp) (k : Nat) : Lanes := w.kdecl.get k
def Warp.signed (w : Warp) (k : Nat) : Lanes := w.ksigned.get k

/-- A convergence register is complete: some lane has signed and every declared lane has (01 R25). -/
def Warp.converged (w : Warp) (k : Nat) : Bool := w.signed k != 0 && (w.decl k &&& ~~~w.signed k) == 0

/-- The signers of k wait at its address and every declared lane has signed (01 R25). -/
def Warp.collects (w : Warp) (k : Nat) : Bool := w.converged k && (w.signed k &&& ~~~(w.lanesIn 2)) == 0

/-- A completed collective executes once for its signers at the address they signed (01 R25): those whose guard was true as they signed
execute; all run on at the next instruction. A fault undoes the completion: the signers run again at the address. A collective that is held leaves
`back`. Its slots are waited for as those of any issue (01 R38). -/
def runCollective (i : Instr) (f : Fields) (ent : OpEntry) (pl : Plan) (k : Nat) (eff : Ctx → State → Eff) (back s : State) : State :=
  let signers := s.w.signed k
  let p := s.w.kaddr.get k
  let s1 := s.updW (fun w => { (w.putLanes signers 0) with ksigned := w.ksigned.set k 0 })
  let g := s.w.kguard.get k &&& signers
  let c : Ctx := { f := f, opc := ent.opc, len := f.fmt.bytes, p := p, x := signers, g := g, id := s1.fresh + 1 }
  let rs := readsOf i f
  let all (x : FaultInfo) : FaultInfo := { x with xlanes := signers }
  match preFault s.w i f ent, slotFault s.w f with
  | some code, _ => s1.raise (all (c.info code 0 c.x 0))
  | none, d? =>
    if slotHeld s.w f then back.held
    else
      match d? with
      | some d => (s1.updW (fun w => w.forgetDeferred d)).raise (all (c.deferFault d))
      | none =>
        if g = 0 then c.finish .later { st := s1 }
        else if anyArmed s1.w (rs ++ writesOf i f) || anyAbsent s1.w (rs ++ partialWrites i (writesOf i f) g) || anySpilling s1.w (changesOf i f) then
          back.held
        else
          match { c with f := { f with g0 := none, g1 := none } }.readFault s1.w rs (fun _ => g) with
          | some x => s1.raise (all x)
          | none =>
            match eff c (s1.updW (fun w => w.consume rs)) with
            | .ok r => c.finish pl.lat r
            | .hold h => (h back).held
            | .fault x h => if x.code = 0 then back.held else (h s1).raise (all x)

/-- Signing (01 R25): undeclared lanes pass; declared lanes sign, with the guards they read (03 R82), and wait, or, while another address is being
signed, raise NONUNIFORM. Where the collective that they complete is held, they have not signed yet and try again. -/
def signWith (i : Instr) (pl : Plan) (k : Nat) (eff : Ctx → State → Eff) (s : State) : State :=
  match opEntry i with
  | none => s
  | some (ent, f) =>
    issueWith i f ent s (fun c s1 =>
      let declared := c.x &&& s1.w.decl k
      match c.readFault s1.w [] (fun _ => 0) with
      | some x => s1.raise x
      | none =>
      if declared = 0 then { s1 with w := ((s1.w.consume (guardRegs f)).advance c.x c.len).spend f }
      else if s1.w.signed k ≠ 0 ∧ s1.w.kaddr.get k ≠ c.p then s1.raise { (c.info 0x03 0 declared 0) with xlanes := declared }
      else
        let w1 := s1.w.consume (guardRegs f)
        let w2 : Warp := (w1.putLanes declared 2).advance (c.x &&& ~~~declared) c.len
        let w3 : Warp := { w2 with
          ksigned := w2.ksigned.set k (w2.signed k ||| declared), kaddr := w2.kaddr.set k c.p
          kguard := w2.kguard.set k ((if w2.signed k = 0 then 0 else w2.kguard.get k) ||| (declared &&& c.g)) }
        let s2 := { s1 with w := w3 }
        if w3.converged k then runCollective i f ent pl k eff s1 s2 else { s2 with w := w3.spend f })

/-- A register that an instruction names through several lanes must agree in them (01 R26): the value, or none where it does not. -/
def agree {α : Type} [DecidableEq α] (xs : List α) : Option α :=
  match xs with
  | [] => none
  | x :: r => if r.all (· == x) then some x else none

/-- A uniform operand over the executing lanes (01 R26). -/
def Ctx.uni32 (c : Ctx) (s : State) (o : Opnd) : Option W32 := agree ((bitList c.g).map (s.read32 o))
def Ctx.uni64 (c : Ctx) (s : State) (o : Opnd) : Option W64 := agree ((bitList c.g).map (s.read64 o))

/-- Writing one value a lane to a 32-bit destination (01 R28; 04 R107): a vector register in each lane; a scalar once, sign-extended where
the type is signed, NONUNIFORM where lanes disagree; ZERO discards. -/
def Ctx.putTo (c : Ctx) (o : Opnd) (signed : Bool) (vals : List (Nat × W32)) (r : Res) : Eff :=
  match o with
  | .v d => .ok { r with vv := r.vv ++ vals.map (fun p => (d * 32 + p.1, p.2)) }
  | .s d =>
    match agree (vals.map (·.2)) with
    | some x => .ok { r with sv := r.sv ++ [(d, if signed then x.signExtend 64 else x.setWidth 64)] }
    | none => if vals = [] then .ok r else c.whole 0x03 0
  | .sp _ => .ok r

/-- The same to D. -/
def Ctx.put32 (c : Ctx) (signed : Bool) (vals : List (Nat × W32)) (r : Res) : Eff := c.putTo c.f.d signed vals r

/-- Going on with what an effect has left so far. -/
def Eff.andThen (e : Eff) (k : Res → Eff) : Eff :=
  match e with
  | .ok r => k r
  | .hold h => .hold h
  | .fault x h => .fault x h

/-- Writing one 64-bit value a lane: an even pair, a scalar, or nothing. -/
def Ctx.put64 (c : Ctx) (vals : List (Nat × W64)) (r : Res) : Eff :=
  match c.f.d with
  | .v d =>
    .ok { r with
      vv := r.vv ++ vals.flatMap (fun (p : Nat × W64) =>
        [(d * 32 + p.1, p.2.setWidth 32), ((d + 1) * 32 + p.1, BitVec.setWidth 32 (p.2 >>> (32 : Nat)))]) }
  | .s d =>
    match agree (vals.map (·.2)) with
    | some x => .ok { r with sv := r.sv ++ [(d, x)] }
    | none => if vals = [] then .ok r else c.whole 0x03 0
  | .sp _ => .ok r

/-- A 32-bit or 64-bit result by a lane function over the executing lanes. -/
def Ctx.lanes32 (c : Ctx) (signed : Bool) (s : State) (h : Nat → W32) : Eff := c.put32 signed ((bitList c.g).map (fun l => (l, h l))) { st := s }
def Ctx.lanes64 (c : Ctx) (s : State) (h : Nat → W64) : Eff := c.put64 ((bitList c.g).map (fun l => (l, h l))) { st := s }
def Ctx.lanesW (c : Ctx) (w64 signed : Bool) (s : State) (h : Nat → W64) : Eff :=
  if w64 then c.lanes64 s h else c.lanes32 signed s (fun l => (h l).setWidth 32)

/-- The outcome of an instruction that issues: always a next state. -/
def nextOf (s : State) : Host.Outcome State Fault Refusal := .next s

end Sys2Proof.Machine
end

