-- ==== Sys2Proof/Machine/Fetch.lean ====
section
/-!
DEFINITION. Instruction fetch (03 R74, R75, R77, R94): the bytes at the issue address, read at their home through the page tables with
execute permission, and the instruction they are; the faults of a fetch. Log entry 16: which bytes a fetch may read that is not coherent with stores.
-/
namespace Sys2Proof.Machine

/-- Bytes of the 32-byte block at or after an address: at most 16. -/
def fetchLen (p : W32) : Nat := min 16 (32 - p.toNat % 32)

/-- What a fetch at an offset gives: an instruction, or the code and cause of a fault with OPC and LEN where bytes were read; code 0 where the fetch waits for a
thermal hold (17 R372). -/
inductive Fetched where
  | instr (i : Instr)
  | fault (code cause opc len : Nat)
  deriving Repr

/-- A replaced byte at an address of a warp's context can no longer be fetched (03 R77): its task started after a task-graph edge whose regions cover the address,
or the host stored it and then submitted the task's launch. -/
def State.codeSettled (s : State) (w : Warp) (va : W64) (o : OldBytes) : Bool :=
  match s.task w.ctx w.taskId with
  | none => false
  | some k =>
    if o.host then decide (o.time < k.rung)
    else k.born.any (fun t => decide (o.time < t)) &&
      k.inRegions.any (fun r => r.1.toNat ≤ va.toNat && va.toNat < r.1.toNat + r.2.toNat)

/-- Bytes of a location that stores on their way or in an L1 hold. -/
def MemSys.comingBytes (m : MemSys) (loc : Nat) : List Byte :=
  m.msgs.filterMap (fun g => match g.kind with
    | .write d mask _ _ _ _ => if g.line == lineOf loc && mask.getLsbD (loc % 128) then some (byteOf d (loc % 128)) else none
    | .fill .. => none
    | .read .. => none
    | .act _ => none
    | .atomic _ => none) ++
    (m.l1.filter (fun x => x.line == lineOf loc && x.dirty.getLsbD (loc % 128))).map (fun x => byteOf x.data (loc % 128))

/-- A byte of code as a fetch returns it (03 R77; log entry 16): what the home holds; where stores are in progress or the byte is not settled, the new one or any
that was there before. -/
def State.codeByte (s : State) (w : Warp) (va : W64) (p : Phys) : Byte :=
  let new := s.m.homeByte p.loc p.key
  let others := (s.m.oldCode.filter (fun o => o.line == lineOf p.loc && o.mask.getLsbD (p.loc % 128) && !s.codeSettled w va o)).map
    (fun o => byteOf o.data (p.loc % 128)) ++ s.m.comingBytes p.loc
  if others = [] then new
  else (new :: others).getD (Config.codePick (s.tick * 32 + va.toNat % 32) % (others.length + 1)) new

/-- Reading and decoding the instruction at an offset from CODEBASE (03 R75, R94). A block that reads as poison raises POISON, and so does another device that
cannot be reached, or ACCESS where it refuses (19 R403, R405); a page mapped into the scratch window raises ACCESS (06 R168). An offset that is no multiple
of 4 raises ILLEGAL_ENCODING (log entry 79). -/
def State.fetch (s : State) (w : Warp) (p : W32) : Fetched :=
  match s.m.translate w.id.core w.ctx (w.codeVa p) .exec with
  | .error e => .fault e.code.toNat e.cause.toNat 0 0
  | .ok ph =>
    let n := fetchLen p
    if inScratch (w.codeVa p) then .fault 0x08 2 0 0
    else if (List.range n).any (fun i => s.m.byteHeld (ph.loc + i)) then .fault 0 0 0 0
    else if (List.range n).any (fun i => s.m.placePoison { ph with loc := ph.loc + i }) then .fault 0x0A 0 0 0
    else if let some e := s.farErr ph then .fault e.code.toNat e.cause.toNat 0 0
    else
      let bs := (List.range n).map (fun i => s.codeByte w (w.codeVa p + BitVec.ofNat 64 i) { ph with loc := ph.loc + i })
      match (if p.toNat % 4 = 0 then decode bs else .error .tooShort) with
      | .ok (i, _) => .instr i
      | .error _ => .fault 0x01 0 (leNat (bs.take 2) / 4 % 256) (leNat (bs.take 1) % 4)

/-- A warp that waits on nothing beyond its issue, or for what a trap needs, which its issue tries again (15 R332; 17 R372). -/
def Warp.resumable (w : Warp) : Bool :=
  match w.wait with
  | .ready | .trap _ => true
  | .barrier .. | .sleep _ | .fence .. | .page .. => false

/-- A warp that waits on nothing but what its next instruction may wait on (18 R387): resident, its cohort not being saved, with a lane that runs or is
parked, a collective to execute, or no lane left. -/
def State.awake (s : State) (w : Warp) : Bool :=
  w.live && !w.exited && w.resumable && !((s.cohortOf w.ref).any (fun c => c.stopping) && !w.onStackCore) &&
    (w.lanesIn 2 == 0 || w.running != 0 || w.lanesIn 1 != 0 || (List.range 8).any w.collects)

/-- The fault that a fetch raises at the issue address for its lanes (15 R330: an execute access of the instruction's address). -/
def State.fetchFault (s : State) (p : W32) (lanes : Lanes) (code cause opc len : Nat) : State :=
  s.raise
    { code := BitVec.ofNat 8 code, cause := BitVec.ofNat 6 cause, lane := BitVec.ofNat 5 (lowLane lanes)
      multi := decide (2 ≤ (bitList lanes).length), flanes := lanes, xlanes := lanes, addr := if code = 0x01 then 0 else s.w.codeVa p
      acc := if code = 0x01 then 0 else 2, offset := p, opc := BitVec.ofNat 8 opc, len := BitVec.ofNat 2 len }

end Sys2Proof.Machine
end

