-- ==== Sys2Proof/Machine/Access.lean ====
section
/-!
DEFINITION. What the memory instructions share: the operand-value faults and which of them is raised (15 R329), where the lanes'
accesses go (06 R167-R169), the pieces of a load, the bytes of a store, the messages that go to homes, and the fence part of a
release (06 R176, R189). Log entry 29 says how a warp's accesses to one line are kept in order.
-/
namespace Sys2Proof.Machine

/-- The place of an operand-value fault in the order of 15 R329, step 8; a wait comes first. -/
def faultRank (code : Nat) : Nat :=
  match code with
  | 0 => 0 | 0x09 => 1 | 0x07 => 2 | 0x08 => 3 | 0x0C => 4 | 0x0B => 5 | 0x0D => 6 | 0x0E => 7 | _ => 8

/-- The fault raised where several lanes fault (15 R329): the first in the order, in its lowest lane; FLANES holds every lane that
faults. -/
def Ctx.worst (c : Ctx) (acc : Nat) (fs : List (Nat × TErr × W64)) : Option FaultInfo :=
  let lanes : Lanes := ofBits 32 (fs.map (fun f => f.1))
  let best := fs.foldl
    (fun (b : Option (Nat × TErr × W64)) f =>
      match b with
      | none => some f
      | some g => if faultRank f.2.1.code.toNat < faultRank g.2.1.code.toNat then some f else b) none
  best.map (fun f =>
    { c.info f.2.1.code.toNat f.2.1.cause.toNat lanes f.2.2 with
      lane := BitVec.ofNat 5 f.1, multi := decide (2 ≤ (bitList lanes).length), acc := BitVec.ofNat 2 acc })

/-- Where an access of n bytes goes (06 R169, R179): ALIGN, then PAGE, then ACCESS. -/
def State.aim (s : State) (n : Nat) (need : Need) (va : W64) : Except TErr Target :=
  if va.toNat % n ≠ 0 then .error ⟨0x09, 0⟩ else s.resolve s.w va need

/-- A lane's access: its lane, its address and where it goes. -/
structure Aim where
  lane : Nat
  va : W64
  tgt : Target
  deriving DecidableEq, Repr

/-- Where the accesses of the lanes go, all checked before any takes effect (06 R179). -/
def Ctx.aims (c : Ctx) (s : State) (n : Nat) (need : Need) (acc : Nat) (eas : List (Nat × W64)) : Except FaultInfo (List Aim) :=
  let tried := eas.map (fun e => (e, s.aim n need e.2))
  let bad := tried.filterMap (fun t => match t.2 with | .error x => some (t.1.1, x, t.1.2) | .ok _ => none)
  match c.worst acc bad with
  | some x => .error x
  | none => .ok (tried.filterMap (fun t => match t.2 with | .ok g => some ⟨t.1.1, t.1.2, g⟩ | .error _ => none))

/-- The translations of the accesses enter the TLBs. -/
def State.touchAll (s : State) (vas : List W64) : State := vas.foldl (fun acc va => acc.touch acc.w.id.core acc.w.ctx va) s

/-- An effective address A + ext(B) + sext(IMM) of a lane (06 R173, R190). -/
def State.ea (s : State) (f : Fields) (bx : Bool) (imm : W64) (l : Nat) : W64 :=
  let b := s.read32 f.b l
  s.read64 f.a l + (if bx then b.signExtend 64 else b.setWidth 64) + imm

/-- An acquire of the warp has not returned: later accesses wait (06 R176, R194). -/
def Warp.acquiring (w : Warp) : Bool := w.ops.any (fun o => o.acq && o.parts != 0)

/-- A message of the warp to a line is still on its way. -/
def State.lineBusy (s : State) (line : Nat) : Bool := s.m.msgs.any (fun g => g.warp == s.w.ref && g.lines.contains line)

/-- The lines in memory that accesses go to. -/
def aimLines (as : List Aim) : List Nat :=
  (as.filterMap (fun a => match a.tgt with | .mem p => some (lineOf p.loc) | .bank _ => none)).dedup

/-- The LEVEL hint with EVICT 11 as "allocates nowhere" (03 R89). -/
def levelOf (f : Fields) : Nat := if f.evict = 3 then 3 else f.level.toNat

/-- Whether a miss of this access may allocate a line in the cluster's L1 (03 R89; 15 R336; 17 R356). -/
def State.allocates (s : State) (f : Fields) (p : Phys) : Bool := p.l1 && !s.w.onStackCore && s.m.hasL1 s.w.cl && levelOf f = 0

/-- Sending a message of the focus warp to the home of a place. -/
def State.post (s : State) (f : Fields) (op : Nat) (p : Phys) (kind : MsgKind) : State :=
  let g : Msg :=
    { id := s.fresh, warp := if op = 0 then WRef.none else s.w.ref, cluster := s.w.cl, line := lineOf p.loc, pa := p.pa / 128 * 128
      slice := p.slice, ctx := s.w.ctx, key := p.key, cls := f.evict, op := op, level := levelOf f, flare := s.alone, kind := kind
      tries := 0 }
  { s with m := { s.m with msgs := s.m.msgs ++ [g] }, fresh := s.fresh + 1 }

/-- A line of an L1 that is used goes to the end of the list, which is in the order of last use (17 R355). -/
def MemSys.l1Touch (m : MemSys) (cl line : Nat) : MemSys :=
  match m.l1Find cl line with
  | none => m
  | some x => { m with l1 := m.l1.filter (fun y => !(y.cluster == cl && y.line == line)) ++ [x] }

/-! Loads. -/

/-- The registers that a piece of a load fills, by code. -/
def Piece.regs (p : Piece) : List Nat :=
  let n := if p.scalar then (p.size + 7) / 8 else (p.size + 3) / 4
  (List.range n).map (fun j => (if p.scalar then 640 else 0) + p.reg + j)

/-- The values a piece gives its registers from the little-endian number read (06 R174). -/
def Piece.vals (p : Piece) (x : Nat) : List (Nat × W32) × List (Nat × W64) :=
  let y : Nat := if p.sext ∧ 2 ^ (8 * p.size - 1) ≤ x then x + (2 ^ 64 - 2 ^ (8 * p.size)) else x
  if p.lanes = 0 then ([], [])
  else if p.scalar then ([], (List.range ((p.size + 7) / 8)).map (fun j => (p.reg + j, BitVec.ofNat 64 (y / 2 ^ (64 * j)))))
  else
    ((bitList p.lanes).flatMap (fun l => (List.range ((p.size + 3) / 4)).map (fun j => ((p.reg + j) * 32 + l, BitVec.ofNat 32 (y / 2 ^ (32 * j))))),
      [])

/-- The marks of a piece that a deferred fault meets, POISON unless it says otherwise (06 R180): one a lane, with the lane's address. -/
def Piece.marks (p : Piece) (offset : W32) (opc : BitVec 8) (code : BitVec 8 := 0x0A) (cause : BitVec 6 := 0) : List Mark :=
  let info (l : Nat) : FaultInfo := { code := code, cause := cause, mark := offset, opc := opc, addr := p.va, lane := BitVec.ofNat 5 l }
  if p.lanes = 0 then []
  else p.regs.flatMap (fun r => (bitList p.lanes).map (fun l => { reg := r, lanes := BitVec.ofNat 32 (2 ^ l), info := info l }))

/-- Little-endian number of some bytes. -/
def numOf (bs : List Byte) : Nat := numAt bs 0 bs.length

/-- A load under way: what it has read so far and the pieces that must go to homes. -/
structure Loaded where
  vv : List (Nat × W32) := []
  sv : List (Nat × W64) := []
  marks : List Mark := []
  miss : List (Phys × Piece) := []

/-- One piece: from the bank, from the cluster's L1 where every byte may be returned (07 R205), or still to come. A warp's load goes
to the home behind its own messages to the line. -/
def State.loadPiece (s : State) (c : Ctx) (home : Bool) (acc : Loaded) (a : Aim × Piece) : Loaded :=
  let got (bs : List Byte) (poison : Bool) : Loaded :=
    let v := a.2.vals (numOf bs)
    { acc with vv := acc.vv ++ v.1, sv := acc.sv ++ v.2, marks := acc.marks ++ (if poison then a.2.marks c.p (BitVec.ofNat 8 c.opc) else []) }
  match a.1.tgt with
  | .bank k => got (s.m.bankBytes k a.2.size) (s.m.bankPoisoned k a.2.size)
  | .mem p =>
    let far : Loaded := { acc with miss := acc.miss ++ [(p, a.2)] }
    if home || !p.l1 || s.w.onStackCore || s.lineBusy (lineOf p.loc) then far
    else
      match s.m.l1Find s.w.cl (lineOf p.loc) with
      | none => far
      | some x =>
        if (List.range a.2.size).all (fun i => x.hits s.time (p.loc % 128 + i)) then
          got (bytesFrom x.data (p.loc % 128) a.2.size) ((List.range a.2.size).any (fun i => x.poison.getLsbD (p.loc % 128 + i)))
        else far

/-- The lines of L1 that a load hits are used, with their class as the hint says (06 R178). -/
def State.noteHits (s : State) (f : Fields) (as : List Aim) : State :=
  (aimLines as).foldl
    (fun acc line =>
      match acc.m.l1Find acc.w.cl line with
      | none => acc
      | some x => { acc with m := (acc.m.l1Set { x with cls := clsAfter x.cls f.evict }).l1Touch acc.w.cl line }) s

/-- Sending what missed, one message a line (06 R175). -/
def State.sendMisses (s : State) (f : Fields) (op : Nat) (home : Bool) (miss : List (Phys × Piece)) : State :=
  let lines := (miss.map (fun x => lineOf x.1.loc)).dedup
  lines.foldl
    (fun acc line =>
      let mine := miss.filter (fun x => lineOf x.1.loc == line)
      match mine with
      | [] => acc
      | (p, _) :: _ =>
        let pieces := mine.map (fun x => { x.2 with off := x.1.loc % 128 })
        acc.post f op p (if home then .read pieces else .fill pieces (acc.allocates f p))) s

/-- The registers and lanes that pieces fill. -/
def pieceDests (ps : List Piece) : List (Nat × Lanes) :=
  let rs := (ps.flatMap (fun p => if p.lanes = 0 then [] else p.regs)).dedup
  rs.map (fun r => (r, ps.foldl (fun acc p => if p.regs.contains r then acc ||| p.lanes else acc) 0))

/-- A load of pieces, once every address is good. -/
def State.load (s : State) (c : Ctx) (acq home : Bool) (as : List (Aim × Piece)) : Eff :=
  if s.w.acquiring then .hold (fun s => s)
  else
    let got := as.foldl (s.loadPiece c home) {}
    let s1 := (s.touchAll (as.map (·.1.va))).noteHits c.f (as.map (·.1))
    let s2 := s1.sendMisses c.f c.id home got.miss
    let n := (got.miss.map (fun x => lineOf x.1.loc)).dedup.length
    .ok { st := s2
          op := some { c.op with
            parts := n, dests := pieceDests (as.map (·.2)), vvals := got.vv, svals := got.sv, marks := got.marks, acq := acq } }

/-! Stores. -/

/-- Dirty bytes of the warp are in its cluster's L1 (06 R189; 07 R207). -/
def State.hasDirty (s : State) (w : Warp) : Bool :=
  !w.onStackCore && s.m.l1.any (fun x => x.cluster == w.cl && x.dirty != 0 && x.dirtying.getLsbD (slotBit w.id))

/-- Writing back the lines that the warp dirtied. -/
def State.flushOwn (s : State) (w : Warp) : State := s.writeBackAll w.cl false (fun x => x.dirty != 0 && x.dirtying.getLsbD (slotBit w.id))

/-- The fence part of a release at a scope (06 R176, R189, R194): held until the warp's earlier writes are complete and, at D and wider,
its lines are written back and TIME has reached HORIZON; then any deferred fault is raised, and what follows happens. -/
def State.fencePart (s : State) (c : Ctx) (scope : Nat) (k : Eff) : Eff :=
  if s.writesPending s.w then .hold (fun s => s)
  else if 2 ≤ scope ∧ s.hasDirty s.w = true then .hold (fun s => s.flushOwn s.w)
  else if 2 ≤ scope ∧ s.time < s.w.csr.horizon.toNat then .hold (fun s => s)
  else
    match s.w.deferred.head? with
    | some d => .fault (c.deferFault d) (fun s => s.updW (fun w => w.forgetDeferred d))
    | none => k

/-- A store's access: its bytes and where they go. -/
structure Put where
  tgt : Target
  bytes : List Byte
  deriving DecidableEq, Repr

/-- The bytes of puts that go to one line, as positions in it, in lane order. -/
def putsIn (line : Nat) (ps : List Put) : List (Nat × Byte) :=
  ps.flatMap (fun x => match x.tgt with | .mem p => if lineOf p.loc = line then runOf (p.loc % 128) x.bytes else [] | .bank _ => [])

/-- The place of the first put to a line. -/
def placeIn (line : Nat) (ps : List Put) : Option Phys :=
  ps.findSome? (fun x => match x.tgt with | .mem p => if lineOf p.loc = line then some p else none | .bank _ => none)

/-- Writing through to the home of a line: the cluster's own copy is written back and dropped first (06 R176, R194; 07 R212). -/
def State.throughLine (s : State) (f : Fields) (op : Nat) (p : Phys) (kind : MsgKind) : State :=
  let s1 :=
    match s.m.l1Find s.w.cl (lineOf p.loc) with
    | some x => if s.w.onStackCore then s else s.writeBack x true false
    | none => s
  s1.post f op p kind

/-- Whether a store to a place goes through to the home (06 R175; 15 R336; 17 R356). -/
def State.goesThrough (s : State) (f : Fields) (forced : Bool) (p : Phys) : Bool :=
  forced || !p.l1 || s.w.onStackCore || !s.m.hasL1 s.w.cl || (levelOf f != 0 && (s.m.l1Find s.w.cl (lineOf p.loc)).isNone)

/-- The puts to one line of memory: into L1, or a message to the home. -/
def State.storeLine (s : State) (f : Fields) (op : Nat) (forced : Bool) (ps : List Put) (line : Nat) : State :=
  match placeIn line ps with
  | none => s
  | some p =>
    let d := gatherBytes 128 1024 (putsIn line ps)
    if s.goesThrough f forced p then s.throughLine f op p (.write d.1 d.2 0 (some op) [s.w.ref] false)
    else
      let s1 := s.l1Room s.w.cl line (p.pa / 128 * 128)
      { s1 with
        m := (s1.m.l1Store s.w.cl line (p.pa / 128 * 128) p.slice s.w.ctx p.key f.evict (slotBit s.w.id) d.1 d.2 (some op)).l1Touch s.w.cl line }

/-- The lines of memory that puts go to. -/
def putLines (ps : List Put) : List Nat :=
  (ps.filterMap (fun x => match x.tgt with | .mem p => some (lineOf p.loc) | .bank _ => none)).dedup

/-- The bank bytes that puts write. -/
def putBank (ps : List Put) : List (Nat × Byte) :=
  ps.flatMap (fun x => match x.tgt with | .bank k => runOf k x.bytes | .mem _ => [])

/-- Applying puts: bank bytes now, lines of memory into L1 or on their way (06 R175). -/
def State.storePuts (s : State) (f : Fields) (op : Nat) (forced : Bool) (ps : List Put) : State :=
  let s1 := { s with m := s.m.bankWrites (putBank ps) }
  (putLines ps).foldl (fun acc line => acc.storeLine f op forced ps line) s1

/-- How many messages an operation has on its way. -/
def State.partsOf (s : State) (op : Nat) : Nat := (s.m.msgs.filter (fun g => g.op == op && g.warp == s.w.ref)).length

/-- A write with messages on their way is an operation that completes with the last of them (06 R177). -/
def Ctx.writeOp (c : Ctx) (s : State) : Option Op :=
  if s.partsOf c.id = 0 then none else some { c.op with parts := s.partsOf c.id, isWrite := true }

/-- A store of puts, once every address is good: held behind an acquire and behind the warp's own messages to its lines. -/
def State.store (s : State) (c : Ctx) (forced : Bool) (vas : List W64) (ps : List Put) : Eff :=
  if s.w.acquiring || (putLines ps).any s.lineBusy then .hold (fun s => s)
  else
    let s1 := (s.touchAll vas).storePuts c.f c.id forced ps
    .ok { st := s1, op := c.writeOp s1 }

/-- An operation that keeps the lanes of its accesses, with addresses and lines, for the record of a deferred fault (15 R330). -/
def Eff.aimed (e : Eff) (as : List (Nat × W64 × Nat)) : Eff :=
  match e with
  | .ok r => .ok { r with op := r.op.map (fun o => { o with aims := as }) }
  | .hold h => .hold h
  | .fault x h => .fault x h
def Aim.named (a : Aim) : Nat × W64 × Nat := (a.lane, a.va, match a.tgt with | .mem p => lineOf p.loc | .bank _ => 0)

/-- RESUME (01 R34, R35): VALID, OPC and PROGRESS. -/
def resumeWord (opc progress : Nat) : W64 := BitVec.ofNat 64 (2 ^ 31 + opc * 256 + progress)
def Warp.progress (w : Warp) (opc : Nat) : Nat :=
  if w.csr.resume.getLsbD 31 ∧ fieldOf w.csr.resume 15 8 = opc then fieldOf w.csr.resume 6 0 else 0
def Warp.setResume (w : Warp) (x : W64) : Warp := { w with csr := { w.csr with resume := x } }

end Sys2Proof.Machine
end

