-- ==== Sys2Proof/Machine/Integer.lean ====
section
/-!
DEFINITION. The integer, bit and address instructions (04 R125-R139).
-/
namespace Sys2Proof.Machine

/-- The type codes T of 04 R125: width 64, signed. -/
def tWide (f : Fields) : Bool := 2 ≤ f.sub.toNat
def tSigned (f : Fields) : Bool := f.sub.toNat % 2 = 0

/-- A result latency that is longer for 64-bit forms (04 R108). -/
def lat46 (w64 : Bool) : Plan := { lat := .cycles (if w64 then 6 else 4) }

/-- A value of a width as an integer, signed or not. -/
def intOf (w64 signed : Bool) (x : W64) : Int :=
  if w64 then (if signed then x.toInt else (x.toNat : Int))
  else (if signed then (x.setWidth 32).toInt else ((x.setWidth 32).toNat : Int))

/-- Clamping to the range of a type (04 R125). -/
def clampTo (bits : Nat) (signed : Bool) (z : Int) : Int :=
  let lo : Int := if signed then -(2 ^ (bits - 1) : Nat) else 0
  let hi : Int := if signed then (2 ^ (bits - 1) : Nat) - 1 else (2 ^ bits : Nat) - 1
  if z < lo then lo else if hi < z then hi else z

def bitsW (w64 : Bool) : Nat := if w64 then 64 else 32

/-- A two-source integer result of a type: the exact value wraps, or with sat is clamped (02 R45; 04 R125). -/
def binInt (f : Fields) (sat : Bool) (h : Int → Int → Int) (c : Ctx) (s : State) : Eff :=
  let w := tWide f
  let g := tSigned f
  c.lanesW w g s (fun l =>
    let z := h (intOf w g (s.readW w f.a l)) (intOf w g (s.readW w f.b l))
    BitVec.ofInt 64 (if sat then clampTo (bitsW w) g z else z))

/-- MOV (04 R126). -/
def execMov (f : Fields) (s : State) : Host.Outcome State Fault Refusal :=
  nextOf (runWarp (.mov f) (lat46 (f.sub = 1)) (fun c s => c.lanesW (f.sub = 1) false s (fun l => s.readW (f.sub = 1) f.a l)) s)

/-- The forms of MOVI (04 R126). -/
def moviEff (f : Fields) (c : Ctx) (s : State) : Eff :=
  let i28 : BitVec 28 := f.imm.setWidth 28
  if f.fmt == .f96i then
    match f.sub.toNat with
    | 0 => c.lanes32 true s (fun _ => i28.signExtend 32)
    | 1 => c.lanes32 false s (fun _ => i28.setWidth 32)
    | 2 => c.lanes64 s (fun _ => i28.signExtend 64)
    | _ => c.lanes32 false s (fun _ => i28.setWidth 32 * 16)
  else
    match f.mod.toNat with
    | 0 => c.lanes32 false s (fun _ => f.imm)
    | 1 => c.lanes64 s (fun _ => f.imm.signExtend 64)
    | 2 => c.lanes64 s (fun _ => f.imm.setWidth 64)
    | _ =>
      match f.d with
      | .v d => .ok { st := s, vv := (bitList c.g).map (fun l => ((d + 1) * 32 + l, f.imm)) }
      | .s d => .ok { st := s, sv := [(d, (f.imm ++ ((s.w.readS s.tick d).setWidth 32) : W64))] }
      | .sp _ => .ok { st := s }

/-- Whether a MOVI writes 64 bits. -/
def moviWide (f : Fields) : Bool := if f.fmt == .f96i then f.sub == 2 else f.mod != 0

/-- MOVI (04 R126). -/
def execMovi (f : Fields) (s : State) : Host.Outcome State Fault Refusal := nextOf (runWarp (.movi f) (lat46 (moviWide f)) (moviEff f) s)

/-- SEL (04 R126). -/
def execSel (f : Fields) (s : State) : Host.Outcome State Fault Refusal :=
  nextOf (runWarp (.sel f) (lat46 (f.sub = 1)) (fun c s =>
    c.lanesW (f.sub = 1) false s (fun l =>
      if (s.read32 f.c l).getLsbD (f.modBits 4 0) then s.readW (f.sub = 1) f.a l else s.readW (f.sub = 1) f.b l)) s)

/-- IADD, ISUB, IMIN, IMAX (04 R127). -/
def execIadd (f : Fields) (s : State) : Host.Outcome State Fault Refusal :=
  nextOf (runWarp (.iadd f) (lat46 (tWide f)) (binInt f (f.mod = 1) (· + ·)) s)
def execIsub (f : Fields) (s : State) : Host.Outcome State Fault Refusal :=
  nextOf (runWarp (.isub f) (lat46 (tWide f)) (binInt f (f.mod = 1) (· - ·)) s)
def execImin (f : Fields) (s : State) : Host.Outcome State Fault Refusal :=
  nextOf (runWarp (.imin f) (lat46 (tWide f)) (binInt f false min) s)
def execImax (f : Fields) (s : State) : Host.Outcome State Fault Refusal :=
  nextOf (runWarp (.imax f) (lat46 (tWide f)) (binInt f false max) s)

/-- IABS (04 R127). -/
def execIabs (f : Fields) (s : State) : Host.Outcome State Fault Refusal :=
  nextOf (runWarp (.iabs f) (lat46 (tWide f)) (fun c s =>
    let w := tWide f
    c.lanesW w true s (fun l =>
      let z : Int := ((intOf w true (s.readW w f.a l)).natAbs : Int)
      BitVec.ofInt 64 (if f.mod = 1 then clampTo (bitsW w) true z else z))) s)

/-- A sum or difference with carry or borrow: D, and the bit that goes to E (04 R128). -/
def carryEff (f : Fields) (sub : Bool) (c : Ctx) (s : State) : Eff :=
  let w : Bool := f.sub = 1
  let exact (l : Nat) : Int :=
    let a := intOf w false (s.readW w f.a l)
    let b := intOf w false (s.readW w f.b l)
    let k : Int := ((s.read32 f.c l).getLsbD 0).toNat
    if sub then a - b - k else a + b + k
  let out (l : Nat) : W32 := if (if sub then decide (exact l < 0) else decide ((2 ^ bitsW w : Nat) ≤ exact l)) then 1 else 0
  (c.lanesW w false s (fun l => BitVec.ofInt 64 (exact l))).andThen (fun r => c.putTo f.e false ((bitList c.g).map (fun l => (l, out l))) r)

/-- ADDC, SUBB (04 R128). -/
def execAddc (f : Fields) (s : State) : Host.Outcome State Fault Refusal := nextOf (runWarp (.addc f) (lat46 (f.sub = 1)) (carryEff f false) s)
def execSubb (f : Fields) (s : State) : Host.Outcome State Fault Refusal := nextOf (runWarp (.subb f) (lat46 (f.sub = 1)) (carryEff f true) s)

/-- The bit form of a comparison sets one bit of D and keeps the others; the full form makes D all ones or all zeros (04 R129). -/
def cmpResult (c : Ctx) (s : State) (full : Bool) (bit : Nat) (t : Nat → Bool) : Eff :=
  if full then
    match c.f.d with
    | .s d =>
      match agree ((bitList c.g).map t) with
      | some b => .ok { st := s, sv := [(d, if b then BitVec.allOnes 64 else 0)] }
      | none => c.whole 0x03 0
    | .v d => .ok { st := s, vv := (bitList c.g).map (fun l => (d * 32 + l, if t l then BitVec.allOnes 32 else 0)) }
    | .sp _ => .ok { st := s }
  else
    match c.f.d with
    | .s d =>
      match agree ((bitList c.g).map t) with
      | some b => .ok { st := s, sv := [(d, setField (s.w.readS s.tick d) bit bit b.toNat)] }
      | none => c.whole 0x03 0
    | .v d => .ok { st := s, vv := (bitList c.g).map (fun l => (d * 32 + l, setField (s.w.readV s.tick d l) bit bit (t l).toNat)) }
    | .sp _ => .ok { st := s }

/-- The conditions of ICMP (04 R129). -/
def icmpTest (cond : Nat) (a b : Int) : Bool :=
  match cond with
  | 0 => a == b | 1 => a != b | 2 => decide (a < b) | 3 => decide (a ≤ b) | 4 => decide (b < a) | _ => decide (b ≤ a)

/-- ICMP (04 R129). -/
def execIcmp (f : Fields) (s : State) : Host.Outcome State Fault Refusal :=
  nextOf (runWarp (.icmp f) (lat46 (tWide f)) (fun c s =>
    let w := tWide f
    let g := tSigned f
    cmpResult c s (f.modBits 8 8 = 1) (f.modBits 7 3) (fun l =>
      icmpTest (f.modBits 2 0) (intOf w g (s.readW w f.a l)) (intOf w g (s.readW w f.b l)))) s)

/-- Latency of the multiplications (04 R108). -/
def latMul (f : Fields) : Plan := { lat := .cycles (if tWide f then 10 else 6) }

/-- IMUL (04 R130): the low half, or the clamped product. -/
def execImul (f : Fields) (s : State) : Host.Outcome State Fault Refusal :=
  nextOf (runWarp (.imul f) (latMul f) (binInt f (f.mod = 1) (· * ·)) s)

/-- IMULH (04 R130): the high half of the exact product. -/
def execImulh (f : Fields) (s : State) : Host.Outcome State Fault Refusal :=
  nextOf (runWarp (.imulh f) (latMul f) (binInt f false (fun a b => a * b / ((2 ^ bitsW (tWide f) : Nat) : Int))) s)

/-- IMAD (04 R130). -/
def execImad (f : Fields) (s : State) : Host.Outcome State Fault Refusal :=
  nextOf (runWarp (.imad f) (latMul f) (fun c s =>
    let w := tWide f
    let g := tSigned f
    c.lanesW w g s (fun l =>
      let z := intOf w g (s.readW w f.a l) * intOf w g (s.readW w f.b l) + intOf w g (s.readW w f.c l)
      BitVec.ofInt 64 (if f.mod = 1 then clampTo (bitsW w) g z else z))) s)

/-- IMADW (04 R130): 32 by 32 into 64 bits. -/
def execImadw (f : Fields) (s : State) : Host.Outcome State Fault Refusal :=
  nextOf (runWarp (.imadw f) { lat := .cycles 6 } (fun c s =>
    let g : Bool := f.sub = 0
    c.lanes64 s (fun l =>
      BitVec.ofInt 64 (intOf false g (s.readW false f.a l) * intOf false g (s.readW false f.b l) + (s.read64 f.c l).toInt))) s)

/-- Bound of DIV and REM (04 R108). -/
def latDiv (f : Fields) : Plan := { lat := .cycles (if tWide f then 72 else 40) }

/-- DIV (04 R131): truncated toward zero; a zero divisor gives all ones. -/
def execDivOp (f : Fields) (s : State) : Host.Outcome State Fault Refusal :=
  nextOf (runWarp (.divOp f) (latDiv f) (binInt f false (fun a b => if b = 0 then -1 else Int.tdiv a b)) s)

/-- REM (04 R131): the sign of A; a zero divisor gives A. -/
def execRemOp (f : Fields) (s : State) : Host.Outcome State Fault Refusal :=
  nextOf (runWarp (.remOp f) (latDiv f) (binInt f false (fun a b => if b = 0 then a else Int.tmod a b)) s)

/-- A shift of A by the amount in B (04 R132). -/
def shiftEff (f : Fields) (h : Nat → W64 → Nat → W64) (c : Ctx) (s : State) : Eff :=
  let w : Bool := f.sub = 1
  c.lanesW w false s (fun l => h (bitsW w) (s.readW w f.a l) (s.read32 f.b l).toNat)

/-- SHL, SHR, SAR, ROT on a value of a width (04 R132). -/
def shlOf (w : Nat) (a : W64) (n : Nat) : W64 := if w ≤ n then 0 else a <<< n
def shrOf (w : Nat) (a : W64) (n : Nat) : W64 := if w ≤ n then 0 else a >>> n
def sarOf (w : Nat) (a : W64) (n : Nat) : W64 := BitVec.ofInt 64 (intOf (w == 64) true a / ((2 ^ min n w : Nat) : Int))
def rotOf (w : Nat) (a : W64) (n : Nat) : W64 := if w = 64 then a.rotateLeft (n % 64) else ((a.setWidth 32).rotateLeft (n % 32)).setWidth 64

def execShl (f : Fields) (s : State) : Host.Outcome State Fault Refusal := nextOf (runWarp (.shl f) (lat46 (f.sub = 1)) (shiftEff f shlOf) s)
def execShr (f : Fields) (s : State) : Host.Outcome State Fault Refusal := nextOf (runWarp (.shr f) (lat46 (f.sub = 1)) (shiftEff f shrOf) s)
def execSar (f : Fields) (s : State) : Host.Outcome State Fault Refusal := nextOf (runWarp (.sar f) (lat46 (f.sub = 1)) (shiftEff f sarOf) s)
def execRot (f : Fields) (s : State) : Host.Outcome State Fault Refusal := nextOf (runWarp (.rot f) (lat46 (f.sub = 1)) (shiftEff f rotOf) s)

/-- A funnel shift of A:B by C[4:0] (04 R133). -/
def funnelEff (f : Fields) (left : Bool) (c : Ctx) (s : State) : Eff :=
  c.lanes32 false s (fun l =>
    let x : W64 := s.read32 f.a l ++ s.read32 f.b l
    let n := (s.read32 f.c l).toNat % 32
    if left then ((x <<< n) >>> (32 : Nat)).setWidth 32 else (x >>> n).setWidth 32)

def execFshl (f : Fields) (s : State) : Host.Outcome State Fault Refusal := nextOf (runWarp (.fshl f) (lat46 false) (funnelEff f true) s)
def execFshr (f : Fields) (s : State) : Host.Outcome State Fault Refusal := nextOf (runWarp (.fshr f) (lat46 false) (funnelEff f false) s)

/-- A bitwise operation (04 R134). -/
def bitEff (f : Fields) (h : W64 → W64 → W64) (c : Ctx) (s : State) : Eff :=
  let w : Bool := f.sub = 1
  c.lanesW w false s (fun l => h (s.readW w f.a l) (s.readW w f.b l))

def execAndOp (f : Fields) (s : State) : Host.Outcome State Fault Refusal := nextOf (runWarp (.andOp f) (lat46 (f.sub = 1)) (bitEff f (· &&& ·)) s)
def execOrOp (f : Fields) (s : State) : Host.Outcome State Fault Refusal := nextOf (runWarp (.orOp f) (lat46 (f.sub = 1)) (bitEff f (· ||| ·)) s)
def execXorOp (f : Fields) (s : State) : Host.Outcome State Fault Refusal := nextOf (runWarp (.xorOp f) (lat46 (f.sub = 1)) (bitEff f (· ^^^ ·)) s)
def execNotOp (f : Fields) (s : State) : Host.Outcome State Fault Refusal :=
  nextOf (runWarp (.notOp f) (lat46 (f.sub = 1)) (fun c s => c.lanesW (f.sub = 1) false s (fun l => ~~~(s.readW (f.sub = 1) f.a l))) s)

/-- LTAB (04 R134): bit A + 2 B + 4 C of the table, at every bit position. -/
def ltabOf (t : Nat) (a b d : W64) : W64 :=
  let pick (i : Nat) : W64 :=
    if t / 2 ^ i % 2 = 1 then
      (if i % 2 = 1 then a else ~~~a) &&& (if i / 2 % 2 = 1 then b else ~~~b) &&& (if i / 4 = 1 then d else ~~~d)
    else 0
  (List.range 8).foldl (fun acc i => acc ||| pick i) 0
def execLtab (f : Fields) (s : State) : Host.Outcome State Fault Refusal :=
  nextOf (runWarp (.ltab f) (lat46 (f.sub = 1)) (fun c s =>
    let w : Bool := f.sub = 1
    c.lanesW w false s (fun l => ltabOf (f.modBits 7 0) (s.readW w f.a l) (s.readW w f.b l) (s.readW w f.c l))) s)

/-- Counts over the low w bits of a value (04 R135). -/
def popcOf (w : Nat) (x : W64) : Nat := ((List.range w).filter (fun i => x.getLsbD i)).length
def ctzOf (w : Nat) (x : W64) : Nat := ((List.range w).find? (fun i => x.getLsbD i)).getD w
def clzOf (w : Nat) (x : W64) : Nat := ((List.range w).find? (fun i => x.getLsbD (w - 1 - i))).getD w
def brevOf (w : Nat) (x : W64) : W64 := ofBits 64 ((List.range w).filter (fun i => x.getLsbD (w - 1 - i)))

/-- A 32-bit count of A. -/
def countEff (f : Fields) (h : Nat → W64 → Nat) (c : Ctx) (s : State) : Eff :=
  let w : Bool := f.sub = 1
  c.lanes32 false s (fun l => BitVec.ofNat 32 (h (bitsW w) (s.readW w f.a l)))

def execPopc (f : Fields) (s : State) : Host.Outcome State Fault Refusal := nextOf (runWarp (.popc f) (lat46 (f.sub = 1)) (countEff f popcOf) s)
def execClz (f : Fields) (s : State) : Host.Outcome State Fault Refusal := nextOf (runWarp (.clz f) (lat46 (f.sub = 1)) (countEff f clzOf) s)
def execCtz (f : Fields) (s : State) : Host.Outcome State Fault Refusal := nextOf (runWarp (.ctz f) (lat46 (f.sub = 1)) (countEff f ctzOf) s)
def execBrev (f : Fields) (s : State) : Host.Outcome State Fault Refusal :=
  nextOf (runWarp (.brev f) (lat46 (f.sub = 1)) (fun c s => c.lanesW (f.sub = 1) false s (fun l => brevOf (bitsW (f.sub = 1)) (s.readW (f.sub = 1) f.a l))) s)

/-- bfe of 04 R136 on an operand of unbounded width. -/
def bfeOf (e : Int) (pos len : Nat) (signed : Bool) : Int :=
  if len = 0 then 0
  else
    let x := e / ((2 ^ pos : Nat) : Int) % ((2 ^ len : Nat) : Int)
    if signed && decide (((2 ^ (len - 1) : Nat) : Int) ≤ x) then x - ((2 ^ len : Nat) : Int) else x
/-- BFE (04 R136): SUB 0 .N32, 1 .I32, 2 .N64, 3 .I64. -/
def execBfe (f : Fields) (s : State) : Host.Outcome State Fault Refusal :=
  nextOf (runWarp (.bfe f) (lat46 (tWide f)) (fun c s =>
    let w := tWide f
    let g : Bool := f.sub.toNat % 2 = 1
    c.lanesW w g s (fun l =>
      let k := s.read32 f.b l
      BitVec.ofInt 64 (bfeOf (intOf w g (s.readW w f.a l)) (fieldOf k 7 0) (fieldOf k 15 8) g))) s)

/-- bfi of 04 R136. -/
def bfiOf (a b : W64) (pos len : Nat) : W64 :=
  let mask := BitVec.ofNat 64 ((2 ^ len - 1) * 2 ^ pos)
  (a &&& ~~~mask) ||| (BitVec.ofNat 64 (b.toNat * 2 ^ pos) &&& mask)
def execBfi (f : Fields) (s : State) : Host.Outcome State Fault Refusal :=
  nextOf (runWarp (.bfi f) (lat46 (f.sub = 1)) (fun c s =>
    let w : Bool := f.sub = 1
    c.lanesW w false s (fun l =>
      let k := s.read32 f.c l
      bfiOf (s.readW w f.a l) (s.readW w f.b l) (fieldOf k 7 0) (fieldOf k 15 8))) s)

/-- One byte of PRMB (04 R137). -/
def prmbByte (x : W64) (k : W32) (j : Nat) : Byte :=
  let b := byteOf x (fieldOf k (5 * j + 2) (5 * j))
  match fieldOf k (5 * j + 4) (5 * j + 3) with
  | 0 => b | 1 => 0 | 2 => if b.getLsbD 7 then 0xFF else 0 | _ => 0xFF
def execPrmb (f : Fields) (s : State) : Host.Outcome State Fault Refusal :=
  nextOf (runWarp (.prmb f) (lat46 false) (fun c s =>
    c.lanes32 false s (fun l =>
      let x : W64 := s.read32 f.b l ++ s.read32 f.a l
      let k := s.read32 f.c l
      prmbByte x k 3 ++ prmbByte x k 2 ++ prmbByte x k 1 ++ prmbByte x k 0)) s)

/-- LEA (04 R138). -/
def execLea (f : Fields) (s : State) : Host.Outcome State Fault Refusal :=
  nextOf (runWarp (.lea f) { lat := .cycles 6 } (fun c s =>
    c.lanes64 s (fun l =>
      let b := s.read32 f.b l
      s.read64 f.a l + (if f.modBits 3 3 = 1 then b.signExtend 64 else b.setWidth 64) * BitVec.ofNat 64 (2 ^ f.modBits 2 0))) s)

/-- Bits and signedness of an integer type of 04 R139. -/
def itype (n : Nat) : Nat × Bool :=
  match n with
  | 0 => (8, true) | 1 => (16, true) | 2 => (32, true) | 3 => (64, true) | 4 => (8, false) | 5 => (16, false) | 6 => (32, false) | _ => (64, false)

/-- The low bits of a value, read as a type. -/
def readInt (t : Nat × Bool) (x : W64) : Int :=
  let n := x.toNat % 2 ^ t.1
  if t.2 && 2 ^ (t.1 - 1) ≤ n then (n : Int) - (2 ^ t.1 : Nat) else n

/-- CVTI (04 R139). -/
def execCvti (f : Fields) (s : State) : Host.Outcome State Fault Refusal :=
  let d := itype (f.subBits 2 0)
  let a := itype (f.subBits 5 3)
  nextOf (runWarp (.cvti f) (lat46 (d.1 = 64 || a.1 = 64)) (fun c s =>
    c.lanesW (d.1 = 64) d.2 s (fun l =>
      let z := readInt a (s.readW (a.1 = 64) f.a l)
      BitVec.ofInt 64 (readInt d (BitVec.ofInt 64 (if f.mod = 1 then clampTo d.1 d.2 z else z))))) s)

end Sys2Proof.Machine
end

