-- ==== Sys2Proof/Machine/Memory.lean ====
section
/-!
DEFINITION. Loads, stores, spills, prefetch, cache maintenance, fences and atomics (06 R173-R195), but for LDN and STN, which stand
in Planes.lean. Log entries 17, 19 and 29 say how the model orders and completes accesses.
-/
namespace Sys2Proof.Machine

/-- IMM of an F128I memory form, sign-extended (06 R173). -/
def memImm (f : Fields) : W64 := f.imm.signExtend 64

/-- The effective addresses of LD, ST, LDU, PF and the line forms, by executing lane. -/
def eaList (f : Fields) (c : Ctx) (s : State) : List (Nat × W64) := (bitList c.g).map (fun l => (l, s.ea f (f.subBits 7 7 = 1) (memImm f) l))

/-- The piece that a load's lanes receive. -/
def loadPieceOf (f : Fields) (lanes : Lanes) (va : W64) : Piece :=
  let base : Piece := { lanes := lanes, off := 0, size := 2 ^ f.subBits 2 0, reg := 0, scalar := false, sext := f.subBits 3 3 = 1, va := va }
  match f.d with
  | .v r => { base with reg := r }
  | .s r => { base with reg := r, scalar := true, lanes := BitVec.allOnes 32 }
  | .sp _ => { base with lanes := 0 }

/-- The scope of an acquire sends it to the home (06 R176). -/
def acqHome (f : Fields) : Bool := f.mod = 1 && 2 ≤ f.subBits 6 4

/-- LD (06 R173-R176). -/
def ldEff (f : Fields) (c : Ctx) (s : State) : Eff :=
  match c.aims s (2 ^ f.subBits 2 0) .read 0 (eaList f c s) with
  | .error x => .fault x (fun s => s)
  | .ok as => s.load c (f.mod = 1) (acqHome f) (as.map (fun a => (a, loadPieceOf f (BitVec.ofNat 32 (2 ^ a.lane)) a.va)))
def execLd (f : Fields) (s : State) : Host.Outcome State Fault Refusal := nextOf (runWarp (.ld f) { lat := .later } (ldEff f) s)

/-- LDU (06 R175): A and B uniform, one read for every executing lane. -/
def lduEff (f : Fields) (c : Ctx) (s : State) : Eff :=
  if (c.uni64 s f.a).isNone || (c.uni32 s f.b).isNone then c.whole 0x03 0
  else
    match c.aims s (2 ^ f.subBits 2 0) .read 0 (eaList f c s) with
    | .error x => .fault x (fun s => s)
    | .ok as => s.load c (f.mod = 1) (acqHome f) ((as.take 1).map (fun a => (a, loadPieceOf f c.g a.va)))
def execLdu (f : Fields) (s : State) : Host.Outcome State Fault Refusal := nextOf (runWarp (.ldu f) { lat := .later } (lduEff f) s)

/-- The bytes that a lane stores (06 R174). -/
def State.dataBytes (s : State) (o : Opnd) (n l : Nat) : List Byte :=
  let x : Nat :=
    if n ≤ 4 then (s.read32 o l).toNat
    else if n = 8 then (s.read64 o l).toNat
    else
      match o with
      | .v r => (s.read64 (.v r) l).toNat + 2 ^ 64 * (s.read64 (.v (r + 2)) l).toNat
      | .s r => (s.read64 (.s r) l).toNat + 2 ^ 64 * (s.read64 (.s (r + 1)) l).toNat
      | .sp _ => 0
  bytesOf n x

/-- Every access goes to the scratch window. -/
def allBank (as : List Aim) : Bool := as.all (fun a => match a.tgt with | .bank _ => true | .mem _ => false)

/-- ST (06 R173-R177): a release does the fence part first; at D and wider it goes through to the home. -/
def stEff (f : Fields) (c : Ctx) (s : State) : Eff :=
  let n := 2 ^ f.subBits 2 0
  match c.aims s n .write 1 (eaList f c s) with
  | .error x => .fault x (fun s => s)
  | .ok as =>
    let scope := if allBank as then min 1 (f.subBits 6 4) else f.subBits 6 4
    let put := (s.store c (f.mod = 2 && 2 ≤ scope) (as.map (·.va)) (as.map (fun a => ⟨a.tgt, s.dataBytes f.d n a.lane⟩))).aimed (as.map Aim.named)
    if s.w.acquiring then .hold (fun s => s)
    else if f.mod = 2 then s.fencePart c scope put
    else put
def execSt (f : Fields) (s : State) : Host.Outcome State Fault Refusal := nextOf (runWarp (.st f) { lat := .later } (stEff f) s)

/-! SPILL and FILL (06 R184, R185). -/

/-- Whether the range is scalar, its first register, and a register's bytes in memory. -/
def rangeScalar (f : Fields) : Bool := match f.d with | .s _ => true | .v _ => false | .sp _ => false
def rangeFirst (f : Fields) : Nat := match f.d with | .s r => r | .v r => r | .sp _ => 0
def rangeStep (f : Fields) : Nat := if rangeScalar f then 8 else 128

/-- The base address of SPILL and FILL; A is ZERO or a scalar. -/
def State.rangeBase (s : State) (f : Fields) : W64 := s.read64 f.a 0 + memImm f

/-- The accesses of register j: one a lane, or one for a scalar. -/
def regAims (f : Fields) (c : Ctx) (s : State) (need : Need) (acc j : Nat) : Except FaultInfo (List Aim) :=
  let va := s.rangeBase f + BitVec.ofNat 64 (rangeStep f * j)
  if rangeScalar f then c.aims s 8 need acc [(lowLane c.g, va)]
  else c.aims s 4 need acc ((bitList c.g).map (fun l => (l, va + BitVec.ofNat 64 (4 * l))))

/-- The registers from j0 whose bytes translate, with their accesses, and the fault that stops the transfer. -/
def rangeAims (f : Fields) (c : Ctx) (s : State) (need : Need) (acc : Nat) : List Nat → List (Nat × List Aim) × Option (Nat × FaultInfo)
  | [] => ([], none)
  | j :: r =>
    match regAims f c s need acc j with
    | .error x => ([], some (j, x))
    | .ok as => let t := rangeAims f c s need acc r; ((j, as) :: t.1, t.2)

/-- The registers to transfer, from the recorded progress. -/
def rangeTodo (f : Fields) (c : Ctx) (s : State) : List Nat :=
  (List.range (f.subBits 5 0 + 1)).filter (fun j => s.w.progress c.opc ≤ j)

/-- The puts of one register. -/
def spillPuts (f : Fields) (s : State) (x : Nat × List Aim) : List Put :=
  x.2.map (fun a => ⟨a.tgt, if rangeScalar f then bytesOf 8 (s.w.readS s.tick (rangeFirst f + x.1)).toNat else bytesOf 4 (s.w.readV s.tick (rangeFirst f + x.1) a.lane).toNat⟩)

/-- An alignment fault of the base (06 R184). -/
def rangeMisaligned (f : Fields) (c : Ctx) (s : State) (acc : Nat) : Option FaultInfo :=
  if (s.rangeBase f).toNat % rangeStep f ≠ 0 then some { c.info 0x09 0 c.g (s.rangeBase f) with acc := BitVec.ofNat 2 acc } else none

/-- The end of a transfer that a fault stops: the progress is recorded, what is done stays and what is under way goes on without its slot, full registers
are not used up. -/
def stopAt (c : Ctx) (r : Res) (j : Nat) (x : FaultInfo) : Eff :=
  .fault x (fun s =>
    let w := { (r.st.w.setResume (resumeWord c.opc j)) with arr := s.w.arr }
    { r.st with fresh := r.st.fresh + 1, w :=
      match r.op with
      | none => w
      | some o => let w1 := o.dests.foldl (fun acc d => acc.noteWrite d.1 d.2) w; { w1 with ops := w1.ops ++ [{ o with slot := none }] } })

/-- SPILL. -/
def spillEff (f : Fields) (c : Ctx) (s : State) : Eff :=
  match rangeMisaligned f c s 1 with
  | some x => .fault x (fun s => s)
  | none =>
    let t := rangeAims f c s .write 1 (rangeTodo f c s)
    let ps := t.1.flatMap (spillPuts f s)
    match (s.store c false (t.1.flatMap (fun x => (x.2.take 1).map (·.va))) ps).aimed (t.1.flatMap (fun x => x.2.map Aim.named)) with
    | .hold h => .hold h
    | .fault x h => .fault x h
    | .ok r =>
      match t.2 with
      | some (j, x) => stopAt c r j x
      | none =>
        .ok { r with
          st := r.st.updW (fun w => w.setResume 0)
          op := r.op.map (fun o => { o with reading := (rangeTodo f c s).map (fun j => (if rangeScalar f then 640 else 0) + rangeFirst f + j) }) }
def execSpill (f : Fields) (s : State) : Host.Outcome State Fault Refusal := nextOf (runWarp (.spill f) { lat := .later } (spillEff f) s)

/-- The piece of a register that an access of FILL fills. -/
def fillPiece (f : Fields) (x : Nat × Aim) : Piece :=
  { lanes := if rangeScalar f then BitVec.allOnes 32 else BitVec.ofNat 32 (2 ^ x.2.lane), off := 0, size := if rangeScalar f then 8 else 4
    reg := rangeFirst f + x.1, scalar := rangeScalar f, sext := false, va := x.2.va }

/-- FILL: a load of the range (07 R205), register by register. -/
def fillEff (f : Fields) (c : Ctx) (s : State) : Eff :=
  match rangeMisaligned f c s 0 with
  | some x => .fault x (fun s => s)
  | none =>
    let t := rangeAims f c s .read 0 (rangeTodo f c s)
    match s.load c false false (t.1.flatMap (fun x => x.2.map (fun a => (a, fillPiece f (x.1, a))))) with
    | .hold h => .hold h
    | .fault x h => .fault x h
    | .ok r =>
      match t.2 with
      | some (j, x) => stopAt c r j x
      | none => .ok { r with st := r.st.updW (fun w => w.setResume 0) }
def execFill (f : Fields) (s : State) : Host.Outcome State Fault Refusal := nextOf (runWarp (.fill f) { lat := .later } (fillEff f) s)

/-! Prefetch and cache maintenance (06 R186-R188). -/

/-- PF (06 R186): the lines of the lanes whose address may be read, into the caches that LEVEL names. -/
def pfEff (f : Fields) (c : Ctx) (s : State) : Eff :=
  let places := (eaList f c s).filterMap (fun e => if inScratch e.2 then none else s.m.locate s.w.id.core s.w.ctx e.2 .read)
  let firsts := ((places.map (fun p => lineOf p.loc)).dedup).filterMap (fun line => places.find? (fun p => lineOf p.loc == line))
  if levelOf f = 3 then .ok { st := s }
  else .ok { st := (firsts.filter (fun p => p.loc < hostBase)).foldl (fun acc p => acc.post f 0 p (.fill [] (acc.allocates f p))) s }
def execPf (f : Fields) (s : State) : Host.Outcome State Fault Refusal := nextOf (runWarp (.pf f) { lat := .later } (pfEff f) s)

/-- Whether a line of memory overlaps the run. -/
def PageRun.has (r : PageRun) (line : Nat) : Bool :=
  let p := physOf r.pte r.level (BitVec.ofNat 64 r.lo)
  let loc := line * 128
  if p.tgt ≠ 0 then p.loc / 128 ≤ line && loc < p.loc + (r.hi - r.lo)
  else
    let pa := paOfChan p.isch (locStack loc) (locChannel loc) (locCa loc)
    memKind loc == memKind p.loc && locOf p.isch p.sel pa == loc && p.pa / 128 * 128 ≤ pa && pa < p.pa + (r.hi - r.lo)

/-- The place of a line of the run. -/
def PageRun.place (r : PageRun) (line : Nat) : Phys :=
  let p := physOf r.pte r.level (BitVec.ofNat 64 r.lo)
  let loc := line * 128
  if p.tgt ≠ 0 then { p with loc := loc, pa := p.pa + (loc - p.loc) }
  else
    let pa := paOfChan p.isch (locStack loc) (locChannel loc) (locCa loc)
    { p with loc := loc, pa := pa, slice := sliceOf p.isch p.sel pa }

/-- A run of the domain window of the device itself that an export holds, as a run of its own memory (15 R336; 19 R403). -/
def MemSys.ownRun (m : MemSys) (r : PageRun) : PageRun :=
  let p := physOf r.pte r.level (BitVec.ofNat 64 r.lo)
  let x := m.ownPlace p
  if x.tgt = p.tgt then r else { r with pte := setField (setField r.pte 7 6 0) 63 56 x.key }

/-- The address ranges that CLEAN and INVL name: the line of each lane, or one range (06 R187). -/
def cleanRanges (f : Fields) (c : Ctx) (s : State) : List (Nat × Nat × Nat) :=
  if f.sub = 1 then
    let a := (s.read64 f.a 0 + memImm f).toNat
    let n := (s.read64 f.b 0).toNat
    if n = 0 then [] else [(lowLane c.g, a / 128 * 128, a + n)]
  else (bitList c.g).map (fun l => let a := (s.ea f false (memImm f) l).toNat; (l, a / 128 * 128, a / 128 * 128 + 128))

/-- The pages of the ranges, or the fault (06 R187: PAGE only). -/
def cleanPages (f : Fields) (c : Ctx) (s : State) : Except FaultInfo (List PageRun) :=
  let tried := (cleanRanges f c s).map (fun r => (r.1, s.m.pagesOf s.w.id.core s.w.ctx r.2.2 (r.2.2 / 65536 - r.2.1 / 65536 + 2) r.2.1))
  let bad := tried.filterMap (fun t => match t.2 with | .error e => some (t.1, e.1, BitVec.ofNat 64 e.2) | .ok _ => none)
  match c.worst 0 bad with
  | some x => .error (if f.sub = 1 then { x with flanes := c.g, lane := BitVec.ofNat 5 (lowLane c.g), multi := decide (2 ≤ (bitList c.g).length) } else x)
  | none => .ok (((tried.filterMap (fun t => match t.2 with | .ok r => some r | .error _ => none)).flatten).map s.m.ownRun)

/-- Lines that hold bytes for CLEAN.MEM below the L1s: in an L2 slice, in a memory-side cache or on their way to one of them. -/
def MemSys.linesBelow (m : MemSys) : List Nat :=
  let blocks := m.sectors.map (fun (x : Sector) => x.block) ++ (m.packets.filter Packet.isWrite).map Packet.block
  (m.l2.map (fun (x : L2Line) => x.line) ++ (m.msgs.filter Msg.writes).flatMap Msg.lines ++ blocks.flatMap (fun b => (List.range 4).map (fun i => b * 4 + i))).dedup

/-- CLEAN and INVL (06 R187): the lines of the cluster's L1 in the ranges are written back, for INVL dropped; with .MEM the homes also
write the lines to memory. -/
def cleanEff (f : Fields) (drop : Bool) (c : Ctx) (s : State) : Eff :=
  match cleanPages f c s with
  | .error x => .fault x (fun s => s)
  | .ok runs =>
    let toMem : Bool := f.mod = 1
    let here : List L1Line := if s.w.onStackCore then [] else s.m.l1.filter (fun x => x.cluster == s.w.cl && runs.any (fun r => r.has x.line))
    let s1 := (here.filter (fun x => drop || toMem || x.dirty != 0)).foldl (fun acc x => acc.writeBackFor acc.w.ref c.id x drop toMem) s
    let below := if toMem then (s.m.linesBelow.filter (fun k => !here.any (fun x => x.line == k))) else []
    let s2 := below.foldl
      (fun acc k => match runs.find? (fun r => r.has k) with
        | some r => acc.post f c.id (r.place k) (.write 0 0 0 none [acc.w.ref] true)
        | none => acc) s1
    if s.w.acquiring then .hold (fun s => s) else .ok { st := s2, op := c.writeOp s2 }
def execClean (f : Fields) (s : State) : Host.Outcome State Fault Refusal := nextOf (runWarp (.clean f) { lat := .later } (cleanEff f false) s)
def execInvl (f : Fields) (s : State) : Host.Outcome State Fault Refusal := nextOf (runWarp (.invl f) { lat := .later } (cleanEff f true) s)

/-- CCTL (06 R188): every line the warp dirtied, every dirty line, or every line of the cluster's L1. -/
def cctlEff (f : Fields) (c : Ctx) (s : State) : Eff :=
  let pick (x : L1Line) : Bool :=
    x.cluster == s.w.cl &&
      match f.sub.toNat with
      | 0 => x.dirtying.getLsbD (slotBit s.w.id) && x.dirty != 0
      | 1 => x.dirty != 0
      | _ => true
  let here : List L1Line := if s.w.onStackCore then [] else s.m.l1.filter pick
  let s1 := here.foldl (fun acc x => acc.writeBackFor acc.w.ref c.id x (2 ≤ f.sub.toNat) false) s
  if s.w.acquiring then .hold (fun s => s) else .ok { st := s1, op := c.writeOp s1 }
def execCctl (f : Fields) (s : State) : Host.Outcome State Fault Refusal := nextOf (runWarp (.cctl f) { lat := .later } (cctlEff f) s)

/-! Fences (06 R189). -/

/-- FENCE: at D and wider the warp's lines are written back; the warp waits until FENCE_COMPLETE. No write-back precedes an acquire (06 R176). -/
def fenceEff (f : Fields) (c : Ctx) (s : State) : Eff :=
  let s1 := if 2 ≤ f.sub.toNat && !s.w.onStackCore then s.flushOwn s.w else s
  if s.w.acquiring then .hold (fun s => s)
  else .ok { st := s1.updW (fun w => { w with wait := .fence f.sub.toNat c.g c.len }), jumped := true }
def execFence (f : Fields) (s : State) : Host.Outcome State Fault Refusal := nextOf (runWarp (.fence f) { lat := .later } (fenceEff f) s)

/-- A step of another agent on a warp: the warp comes into the focus for it and goes back. -/
def State.onWarp (s : State) (i : WarpId) (k : State → State) : State := (k (s.focus i)).focus s.w.id

/-- The conditions under which a fence is complete (06 R189). -/
def State.fenceDone (s : State) (w : Warp) (scope : Nat) : Bool := !s.writesPending w && (scope < 2 || w.csr.horizon.toNat ≤ s.time)

/-- The context of the instruction a warp is at, for the record of a fault raised while it waits. -/
def Warp.fenceCtx (w : Warp) (opc : Nat) (fmt : Fmt) (lanes : Lanes) : Ctx :=
  { f := { fmt := fmt, stall := 0, slot := 7, wait := 0, g0 := none, g1 := none, gcomb := false, sub := 0, evict := 0, level := 0, d := .v 0, a := .v 0
           b := .v 0, c := .v 0, e := .v 0, mod := 0, imm := 0 }
    opc := opc, len := fmt.bytes, p := w.minPc lanes, x := lanes, g := lanes, id := 0 }

/-- FENCE_COMPLETE: TIME has reached HORIZON; deferred faults are raised at the fence, or the lanes go on. -/
def execFenceComplete (i : WarpId) (s : State) : Host.Outcome State Fault Refusal :=
  match s.findWarp i with
  | none => nextOf s
  | some w =>
    match w.wait with
    | .fence scope lanes len =>
      if s.fenceDone w scope then
        nextOf (s.onWarp i (fun s =>
          let s1 := s.updW (fun w => { w with wait := .ready })
          match w.deferred with
          | d :: _ => (s1.updW (fun w => w.forgetDeferred d)).raise ((w.fenceCtx 0x9B (if len = 8 then .f64 else .f96) lanes).deferFault d)
          | [] => s1.updW (fun w => w.advance lanes len)))
      else nextOf s
    | .ready | .barrier .. | .sleep _ | .page .. | .trap _ => nextOf s

/-! Atomics (06 R190-R195). -/

/-- A pair of 16-bit additions under RNE (02 R73). -/
def addPair (t : Flt) (a b : Nat) : Nat :=
  let h (i : Nat) : Nat := (addF t FpMode.plain (t.val (a / 2 ^ (16 * i) % 2 ^ 16)) (t.val (b / 2 ^ (16 * i) % 2 ^ 16))).1
  h 0 + 2 ^ 16 * h 1

/-- The new value of an integer operation on w-bit words (06 R191). -/
def atomInt (fn w m c : Nat) : Nat :=
  let sg (x : Nat) : Int := if 2 ^ (w - 1) ≤ x then (x : Int) - (2 ^ w : Nat) else x
  match fn with
  | 0 => (m + c) % 2 ^ w
  | 1 => if sg m ≤ sg c then m else c
  | 2 => if sg m ≤ sg c then c else m
  | 3 => min m c
  | 4 => max m c
  | 5 => Nat.land m c
  | 6 => Nat.lor m c
  | 7 => Nat.xor m c
  | 8 => c
  | 9 => if c ≤ m then 0 else m + 1
  | _ => if m = 0 ∨ c < m then c else m - 1

/-- The new value of a floating operation (06 R192). -/
def atomFlt (fn : Nat) (num : Bool) (m c : Nat) : Nat :=
  match fn with
  | 0 => (addF f32 FpMode.plain (f32.val m) (f32.val c)).1
  | 1 => addPair bf16 m c
  | 2 => addPair f16 m c
  | 3 => (minMaxF f32 FpMode.plain false num (f32.val m) (f32.val c)).1
  | _ => (minMaxF f32 FpMode.plain true num (f32.val m) (f32.val c)).1

/-- What an atomic writes over the old value m; none where CAS does not write (06 R191-R193). -/
def AtomOp.new (o : AtomOp) (m : Nat) : Option Nat :=
  let w := if o.wide then 64 else 32
  let c := o.c.toNat % 2 ^ w
  let e := o.e.toNat % 2 ^ w
  if o.opc = 0xA2 then (if m = c then some e else none)
  else if o.opc = 0xA1 ∨ o.opc = 0xA4 then some (atomFlt o.fn o.num m c)
  else some (atomInt o.fn w m c)

def AtomOp.size (o : AtomOp) : Nat := if o.wide then 8 else 4

/-- The piece that receives the old value. -/
def AtomOp.piece (o : AtomOp) : Piece :=
  { lanes := if o.dest.isSome then BitVec.ofNat 32 (2 ^ o.lane) else 0, off := o.off, size := o.size, reg := o.dest.getD 0, scalar := false, sext := false
    va := o.va }

/-- A lane's atomic operation. -/
def atomOf (f : Fields) (c : Ctx) (s : State) (l : Nat) : AtomOp :=
  let wide : Bool := if c.opc = 0xA2 then f.subBits 0 0 = 1 else if c.opc = 0xA0 ∨ c.opc = 0xA3 then f.subBits 4 4 = 1 else false
  { lane := l, off := 0, wide := wide, opc := BitVec.ofNat 8 c.opc, fn := f.subBits 3 0, num := f.modBits 5 5 = 1, c := s.readW wide f.c l
    e := if c.opc = 0xA2 then s.readW wide f.e l else 0
    dest := if c.opc ≤ 0xA2 then (match f.d with | .v r => some r | .s _ => none | .sp _ => none) else none
    va := s.ea f (f.subBits 5 5 = 1) 0 l }

/-- An atomic on a bank, lane by lane (06 R194): the old value and whether it was poison, which leaves the bytes as they are. -/
def MemSys.atomBank (m : MemSys) (k : Nat) (o : AtomOp) : MemSys × Nat × Bool :=
  let old := numOf (m.bankBytes k o.size)
  if m.bankPoisoned k o.size then (m, old, true)
  else
    match o.new old with
    | some x => (m.bankWrites (runOf k (bytesOf o.size x)), old, false)
    | none => (m, old, false)

/-- The deferred fault of an instruction with no register result (06 R180). -/
def Ctx.deferOf (c : Ctx) (code cause : Nat) (lane : Nat) (va : W64) : Deferred :=
  { slot := slotOf c.f, ticket := none
    info := { code := BitVec.ofNat 8 code, cause := BitVec.ofNat 6 cause, lane := BitVec.ofNat 5 lane, flanes := BitVec.ofNat 32 (2 ^ lane), xlanes := c.g
              addr := va, mark := c.p, acc := 3 } }

/-- The lanes whose atomics lie in banks, applied in ascending order: old values as a load delivers them, deferred faults. -/
def atomBanks (c : Ctx) (s : State) (as : List (Aim × AtomOp)) : State × Loaded :=
  as.foldl
    (fun acc a =>
      match a.1.tgt with
      | .mem _ => acc
      | .bank k =>
        let r := acc.1.m.atomBank k a.2
        let p := a.2.piece
        let v := p.vals r.2.1
        let s1 := { acc.1 with m := r.1 }
        let s2 := if r.2.2 && a.2.dest.isNone then s1.updW (fun w => { w with deferred := w.deferred ++ [c.deferOf 0x0A 0 a.1.lane a.1.va] }) else s1
        (s2, { acc.2 with vv := acc.2.vv ++ v.1, marks := acc.2.marks ++ (if r.2.2 then p.marks c.p (BitVec.ofNat 8 c.opc) else []) }))
    (s, {})

/-- The operations that lie in one line, in ascending lane order (06 R194). -/
def atomsIn (line : Nat) (as : List (Aim × AtomOp)) : List AtomOp :=
  as.filterMap (fun a => match a.1.tgt with
    | .mem p => if lineOf p.loc = line then some { a.2 with off := p.loc % 128 } else none
    | .bank _ => none)

/-- Sending the operations to their homes, one message a line. -/
def sendAtoms (f : Fields) (op : Nat) (as : List (Aim × AtomOp)) (s : State) : State :=
  (aimLines (as.map (·.1))).foldl
    (fun acc line =>
      match placeIn line (as.map (fun a => ⟨a.1.tgt, []⟩)) with
      | some p => acc.throughLine f op p (.atomic (atomsIn line as))
      | none => acc) s

/-- ATOM, ATOMF, CAS, RED and REDF (06 R190-R195). -/
def atomEff (f : Fields) (c : Ctx) (s : State) : Eff :=
  let ops := (bitList c.g).map (fun l => (l, atomOf f c s l))
  let n := (((ops.head?).map (fun x => x.2.size)).getD 4)
  match c.aims s n .both 3 ((bitList c.g).map (fun l => (l, s.ea f (f.subBits 5 5 = 1) 0 l))) with
  | .error x => .fault x (fun s => s)
  | .ok as =>
    let xs := as.map (fun a => (a, atomOf f c s a.lane))
    let ord := f.modBits 4 3
    let scope := if allBank as then min 1 (f.modBits 2 0) else f.modBits 2 0
    let go : Eff :=
      if (aimLines as).any s.lineBusy then .hold (fun s => s)
      else
        let b := atomBanks c (s.touchAll (as.map (·.va))) xs
        let s1 := sendAtoms f c.id xs b.1
        let n := s1.partsOf c.id
        let ps := xs.map (fun x => x.2.piece)
        if c.opc ≤ 0xA2 then
          .ok { st := s1
                op := some { c.op with
                  parts := n, dests := pieceDests ps, vvals := b.2.vv, marks := b.2.marks, isWrite := n ≠ 0, acq := ord % 2 = 1 } }
        else .ok { st := s1, op := c.writeOp s1 }
    if s.w.acquiring then .hold (fun s => s)
    else if 2 ≤ ord then s.fencePart c scope go
    else go
def execAtom (f : Fields) (s : State) : Host.Outcome State Fault Refusal := nextOf (runWarp (.atom f) { lat := .later } (atomEff f) s)
def execAtomf (f : Fields) (s : State) : Host.Outcome State Fault Refusal := nextOf (runWarp (.atomf f) { lat := .later } (atomEff f) s)
def execCas (f : Fields) (s : State) : Host.Outcome State Fault Refusal := nextOf (runWarp (.cas f) { lat := .later } (atomEff f) s)
def execRed (f : Fields) (s : State) : Host.Outcome State Fault Refusal := nextOf (runWarp (.red f) { lat := .later } (atomEff f) s)
def execRedf (f : Fields) (s : State) : Host.Outcome State Fault Refusal := nextOf (runWarp (.redf f) { lat := .later } (atomEff f) s)

end Sys2Proof.Machine
end

