-- ==== Sys2Proof/Machine/Packets.lean ====
section
/-!
DEFINITION. Stack packets and the base dies (17 R362-R368, R372, R373): sending a packet, the order in which a unit serves requests, the
memory-side cache and DRAM, scrubbing and thermal holds. Log entry 30 says what the model does where R366 does not say who sends a packet.
-/
namespace Sys2Proof.Machine

/-- Sending a request for the block of a location; nothing where every tag of its channel is in use. -/
def State.sendPacket (s : State) (loc type size ctx key : Nat) (flare : Bool) (data : BitVec 4096) (mask : BitVec 512) (poison : Bool)
    (cls : BitVec 2 := 0) (alloc : Bool := true) : Option State :=
  (s.m.send s.time loc type size ctx key flare data mask poison cls alloc).map (fun m1 => { s with m := m1 })

/-- The packet of a unit that an event names: its channel times 1,024 plus its tag. -/
def Packet.isNamed (p : Packet) (unit n : Nat) : Bool := p.unit == unit && p.channel == n / 1024 && p.tag == n % 1024
def MemSys.packet (m : MemSys) (unit n : Nat) : Option Packet := m.packets.find? (fun p => p.isNamed unit n)
def MemSys.dropPacket (m : MemSys) (unit n : Nat) : MemSys := { m with packets := m.packets.filter (fun p => !p.isNamed unit n) }

/-- Types 0 to 5 are requests. -/
def Packet.isReq (p : Packet) : Bool := p.type ≤ 5

/-- A request that needs the DRAM of its unit: its sector is absent, or it is written back (17 R372). -/
def MemSys.needsDram (m : MemSys) (p : Packet) : Bool :=
  match p.type with
  | 0 | 1 | 2 => (m.sector p.block).isNone
  | 3 | 4 => true
  | _ => false

/-- Packets that reached their unit before a packet. -/
def MemSys.before (m : MemSys) (p : Packet) : List Packet := m.packets.takeWhile (fun q => !q.same p)

/-- First of its block, and not stopped by a thermal hold (17 R367, R372). -/
def MemSys.openReq (m : MemSys) (p : Packet) : Bool :=
  p.isReq && !(m.before p).any (fun q => q.isReq && q.block == p.block) && !(m.holds.any (fun h => h.stack == p.unit) && m.needsDram p)

/-- An unflared request that has waited 2 microseconds (17 R367). -/
def Packet.starved (p : Packet) (t : Nat) : Bool := !p.flare && p.since + 2000 ≤ t

/-- The base die may serve a request now (17 R367): same-block order, flared reads first, the starvation bound; a row of a sequence waits for
every ordinary request that was queued for its channel before it, and those go in arrival order, the flared first (17 R369). -/
def MemSys.turn (m : MemSys) (t : Nat) (p : Packet) : Bool :=
  let mates := m.packets.filter (fun q => q.isReq && q.unit == p.unit && q.channel == p.channel && q.tag != p.tag)
  let earlier (q : Packet) : Bool := (m.before p).any (fun x => x.same q)
  m.openReq p &&
    (if p.flare then !mates.any (fun q => earlier q && q.starved t && m.openReq q)
      else !mates.any (fun q => q.flare && m.openReq q && !(p.starved t && !earlier q))) &&
    (p.type != 4 || !mates.any (fun q => q.type ≤ 3 && earlier q && m.openReq q)) &&
    (p.flare || 4 ≤ p.type || !mates.any (fun q => q.type == 4) || !mates.any (fun q => q.type ≤ 3 && !q.flare && earlier q && m.openReq q))

/-- A read (17 R362, R363): where the sector is absent it is allocated if the hints allow (03 R89); the reply carries the block's bytes and whether it is
poisoned. -/
def MemSys.serveRead (m : MemSys) (p : Packet) : MemSys :=
  (m.readSector p.block p.ctx p.cls p.alloc).reply { p with type := 6, data := m.blockData p.block p.key, poison := m.blockPoison p.block }

/-- A sector writeback (17 R362, R363): a dirty sector is encrypted and written to DRAM with its metadata. -/
def MemSys.serveWriteback (m : MemSys) (p : Packet) : MemSys :=
  let m1 :=
    match m.sector p.block with
    | some x => (m.storeSector x).setSector { x with dirty := false }
    | none => m
  m1.reply { p with type := 7 }

/-- A speculative sector is not written back (17 R370). -/
def MemSys.speculative (m : MemSys) (b : Nat) : Bool := ((m.sector b).bind (·.spec)).isSome

/-- Serving one request by its type. -/
def MemSys.serve (m : MemSys) (p : Packet) : MemSys :=
  match p.type with
  | 0 => m.serveRead p
  | 1 | 2 => m.serveWrite p
  | 3 => if m.speculative p.block then m else m.serveWriteback p
  | 4 | 5 => m.reply { p with type := 7 }
  | _ => m

/-- The errors corrected for a unit since its count last rose, in number free, enter the count that the host reads (17 R365; 19 R396). -/
def State.corrected (s : State) (unit : Nat) : State :=
  let x := s.h.ecc.get unit
  { s with h := { s.h with ecc := s.h.ecc.set unit (x / 0x100000000 * 0x100000000 + (x + BitVec.ofNat 64 (Config.correctedErrors s.tick)) % 0x100000000) } }

/-- The request with a tag, where it has a type and its turn has come, is served, and the errors its unit corrected meanwhile are counted; otherwise
nothing happens (log entry 3). -/
def State.serveTag (s : State) (unit tag : Nat) (type : Nat → Bool) : State :=
  match s.m.packet unit tag with
  | none => s
  | some p => if type p.type && s.m.turn s.time p then ({ s with m := s.m.serve p } : State).corrected unit else s

/-- READ (17 R366). -/
def execReadPacket (unit tag : Nat) (s : State) : Host.Outcome State Fault Refusal := .next (s.serveTag unit tag (· == 0))
/-- FULL_WRITE (17 R366). -/
def execFullWrite (unit tag : Nat) (s : State) : Host.Outcome State Fault Refusal := .next (s.serveTag unit tag (· == 1))
/-- MASKED_WRITE (17 R366). -/
def execMaskedWrite (unit tag : Nat) (s : State) : Host.Outcome State Fault Refusal := .next (s.serveTag unit tag (· == 2))
/-- SECTOR_WRITEBACK (17 R366). -/
def execSectorWriteback (unit tag : Nat) (s : State) : Host.Outcome State Fault Refusal := .next (s.serveTag unit tag (· == 3))
/-- SEQUENCE_ROW (17 R366, R369): the row may be processed. -/
def execSequenceRow (unit tag : Nat) (s : State) : Host.Outcome State Fault Refusal := .next (s.serveTag unit tag (· == 4))
/-- REFRESH_HOLD_RELEASE (17 R366). -/
def execRefreshHoldRelease (unit tag : Nat) (s : State) : Host.Outcome State Fault Refusal := .next (s.serveTag unit tag (· == 5))

/-- STARVATION_BOUND (17 R367): an unflared request that has waited 2 microseconds is served. -/
def execStarvationBound (unit tag : Nat) (s : State) : Host.Outcome State Fault Refusal :=
  match s.m.packet unit tag with
  | none => .next s
  | some p => .next (if p.starved s.time then s.serveTag unit tag (fun _ => true) else s)

/-- READ_REPLY (17 R366, R367): matched by its tag, it fills the line at its home. -/
def execReadReply (unit tag : Nat) (s : State) : Host.Outcome State Fault Refusal :=
  match s.m.packet unit tag with
  | none => .next s
  | some p =>
    if p.type = 6 then
      let m1 :=
        match s.m.l2Find p.line with
        | some x => s.m.l2Set (x.fill (BitVec.ofNat 1024 (p.data.toNat / 2 ^ (1024 * (p.line % 4)))) p.poison)
        | none => s.m
      .next { s with m := m1.dropPacket unit tag }
    else .next s

/-- WRITE_ACKNOWLEDGE (17 R366). -/
def execWriteAcknowledge (unit tag : Nat) (s : State) : Host.Outcome State Fault Refusal :=
  match s.m.packet unit tag with
  | none => .next s
  | some p => .next (if p.type = 7 then { s with m := s.m.dropPacket unit tag } else s)

/-- SCRUB (17 R363): a block whose recorded generation is not its slot's gets its poison flag; once every block has been visited the full pass
is reported, and generations left before it may be used again (15 R342). -/
def execScrub (unit block : Nat) (s : State) : Host.Outcome State Fault Refusal :=
  if unitOf (block * 512) ≠ unit ∨ hostBase ≤ block * 512 then .next s
  else
    let x := s.m.blk block
    let m1 := if x.gen ≠ s.m.keyGen x.key then s.m.setBlk { x with poison := true } else s.m
    let seen := if m1.scrubbed.contains (unit, block) then m1.scrubbed else m1.scrubbed ++ [(unit, block)]
    let m2 : MemSys :=
      if m1.blocks.all (fun y => seen.any (fun z => z.2 == y.block)) then { m1 with scrubbed := [], keys := m1.keys.map (fun k => { k with stale := [] }) }
      else { m1 with scrubbed := seen }
    .next (({ s with m := m2 } : State).corrected unit)

/-- CRITICAL_TEMPERATURE_ASSERT (17 R372). -/
def execCriticalTemperatureAssert (stack : Nat) (s : State) : Host.Outcome State Fault Refusal :=
  if 16 ≤ stack ∨ s.m.holds.any (fun h => h.stack == stack) = true then .next s
  else .next { s with m := { s.m with holds := s.m.holds ++ [⟨stack, s.time, false⟩] } }

/-- CRITICAL_TEMPERATURE_CLEAR (17 R372, R373, R374): the hold ends; the watchdog's count goes on where it stood, a hold that was posted, or that has lasted
2 ms and is posted now, is followed by THERMAL_RELEASE, and agents' writes that waited for a page walk are made. -/
def execCriticalTemperatureClear (stack : Nat) (s : State) : Host.Outcome State Fault Refusal :=
  match s.m.holds.find? (fun h => h.stack == stack) with
  | none => .next s
  | some h =>
    let s1 := { s with
      m := { s.m with holds := s.m.holds.filter (fun x => x.stack != stack) }
      e := { s.e with lastRow := s.e.lastRow.map (fun (x : Nat × Nat) => if x.1 == stack then (x.1, x.2 + (s.time - h.since)) else x) } }
    let s2 := if h.posted then s1.event 2 stack else if h.since + 2000000 ≤ s.time then (s1.event 1 stack).event 2 stack else s1
    .next ((s2.sendPacket (stack * 2 ^ 36) 5 0 0 0 false 0 0 false).getD s2).makeLater.settle

/-- THERMAL_HOLD (17 R373): a hold of 2 ms posts one event. -/
def execThermalHold (stack : Nat) (s : State) : Host.Outcome State Fault Refusal :=
  match s.m.holds.find? (fun h => h.stack == stack) with
  | none => .next s
  | some h =>
    if h.posted = false ∧ h.since + 2000000 ≤ s.time then
      .next (({ s with m := { s.m with holds := s.m.holds.map (fun (x : Hold) => if x.stack == stack then { x with posted := true } else x) } }).event 1 stack)
    else .next s

end Sys2Proof.Machine
end

