-- ==== Sys2Proof/Machine/HomeOps.lean ====
section
/-!
DEFINITION. What the steps of the memory system share (07 R196-R212; 17 R355-R364): replies to operations, messages and what holds them,
answering loads, granting leases, applying writes and atomics at homes, and sending completion times.
-/
namespace Sys2Proof.Machine

/-- Changing the warp that a reference names, resident or saved. -/
def State.updAny (s : State) (r : WRef) (g : Warp → Warp) : State := s.mapCohort r (fun w => if w.ref = r then g w else w)

/-- Values that came back for a scalar, kept as those of the lanes of a vector register with its code: they are compared when the last has come,
and where they differ the scalar is marked with NONUNIFORM (10 R237). -/
def Op.settle (o : Op) : Op :=
  o.dests.foldl
    (fun acc d =>
      let mine := o.vvals.filter (fun p => p.1 / 32 == d.1)
      if d.1 < 640 || mine = [] then acc
      else
        let rest := acc.vvals.filter (fun p => p.1 / 32 != d.1)
        match agree (mine.map Prod.snd) with
        | some x => { acc with vvals := rest, svals := acc.svals ++ [(d.1 - 640, x.setWidth 64)] }
        | none =>
          { acc with
            vvals := rest, marks := acc.marks ++ [{ reg := d.1, lanes := d.2, info := { code := 0x03, mark := o.offset, opc := o.opc } }] }) o

/-- A reply of an operation: what it adds is kept, and with the last reply an operation that has no register to write is done (01 R38). -/
def Warp.gotPart (w : Warp) (id : Nat) (g : Op → Op) : Warp :=
  let w1 := w.updOp id (fun o => let y := g o; if y.parts ≤ 1 then { y with parts := 0 }.settle else { y with parts := y.parts - 1 })
  match w1.findOp id with
  | none => w1
  | some o => if o.parts = 0 ∧ o.dests = [] then w1.deliver id else w1

/-! Messages. -/

def State.msgOf (s : State) (k : Nat) : Option Msg := s.m.msgs.find? (fun g => g.id == k)
def State.dropMsg (s : State) (k : Nat) : State := s.updM (fun m => { m with msgs := m.msgs.filter (fun g => g.id != k) })
def State.setMsg (s : State) (g : Msg) : State := s.updM (fun m => { m with msgs := updFirst (fun x => x.id == g.id) (fun _ => g) m.msgs })

/-- The L2 line of an access that L2 may not keep (03 R89): one that the access allocated itself has its bit in the message's `tries`. -/
def Msg.lineBit (g : Msg) : Nat := g.lines.idxOf g.line
def Msg.passing (g : Msg) : Bool := 2 ≤ g.level && g.tries.testBit g.lineBit

/-- The class of the domain's channels that a message travels in (19 R404): loads, stores, writebacks, atomics. -/
def Msg.channel (g : Msg) : Nat :=
  match g.kind with
  | .fill .. => 0
  | .read .. => 0
  | .write .. => if g.wb then 2 else 1
  | .atomic _ => 3
  | .act a => if a.writes then 1 else 0

/-- The other device whose memory a message asks for. -/
def Msg.peer (g : Msg) : Option Nat := if memKind (g.line * 128) = .peer then some ((g.line * 128 - peerBase) / 2 ^ 52) else none

/-- Messages of one class to one device arrive in the order in which they were sent (19 R404): one that its home does not hold back goes first. -/
def State.outOfTurn (s : State) (g : Msg) : Bool :=
  g.peer.isSome && (s.m.msgs.takeWhile (fun x => x.id != g.id)).any (fun x => x.peer == g.peer && x.channel == g.channel && !s.owned x.line)

/-- A message that must arrive first is in front of a message: one of the same cluster to the same line (06 R171), or of the same class to the same device. -/
def State.behind (s : State) (g : Msg) : Bool :=
  (s.m.msgs.takeWhile (fun x => x.id != g.id)).any (fun x => x.cluster == g.cluster && x.lines.any g.lines.contains) || s.outOfTurn g

/-- Asking the memory-side cache for the bytes of a line (17 R357); a line for which its set has no room waits. -/
def State.fetchLine (s : State) (g : Msg) : State :=
  if s.m.reading g.line || !(s.m.l2Room s.time g.line g.slice).l2Fits g.line g.slice then s
  else
    let s1 := s.updM (fun m => (m.l2Room s.time g.line g.slice).l2Set (m.l2Line g.line g.slice g.ctx g.key 0))
    match s1.sendPacket (g.line * 128) 0 3 g.ctx g.key g.flare 0 (lineMask g.line (BitVec.allOnes 128)) false g.cls (g.level < 3) with
    | none => s
    | some s2 =>
      if 2 ≤ g.level && (s.m.l2Find g.line).isNone then
        s2.updM (fun m => { m with msgs := updFirst (fun x => x.id == g.id) (fun x => { x with tries := Nat.lor x.tries (2 ^ g.lineBit) }) m.msgs })
      else s2

/-- A line that an access allocated and L2 may not keep leaves it, its dirty bytes to the memory-side cache or, with LEVEL 11, past it (03 R89). -/
def State.passLine (s : State) (g : Msg) : State :=
  match s.m.l2Find g.line with
  | none => s
  | some x =>
    if x.owner.isSome then s
    else
      match s.m.pushLine s.time x (g.level < 3) g.cls with
      | none => s
      | some m1 => { s with m := m1.forgetL2 s.time (fun y => y.line == g.line) }

/-- Whether the home lacks bytes of a mask. -/
def MemSys.lacks (m : MemSys) (line : Nat) (mask : BitVec 128) : Bool :=
  match m.l2Find line with
  | none => mask != 0
  | some x => mask &&& ~~~x.valid != 0

/-! Keys (07 R222; 15 R339, R342, R343). -/

/-- An access translated before some instruction, by the number that instruction has, is not yet applied or answered. -/
def State.inFlight (s : State) (n : Nat) : Bool :=
  s.m.msgs.any (fun g => g.id < n) || s.e.reqs.any (fun q => q.id < n && q.staged.isSome) || s.e.seqs.any (fun q => q.id < n && !q.finished) ||
    s.allWarps.any (fun w => w.streams.any (fun e => e.op < n))

/-- Bytes of this device kept under a key slot: a line of it. -/
def keyedLine (k line key : Nat) : Bool := key == k && line * 128 < hostBase

/-- Every cache drops, without writeback, each dirty line tagged with the context of a key slot, with every copy under lease of it, and what it holds under the
slot; the blocks whose bytes are lost read as poison (07 R221, R222; log entry 25). -/
def MemSys.dropKey (m : MemSys) (t k : Nat) : MemSys :=
  let ctx := (m.keyOf k).map (·.ctx)
  let mine (line key c : Nat) (dirty : Bool) : Bool := line * 128 < hostBase && (keyedLine k line key || (dirty && ctx == some c))
  let lines := (m.l1.filter (fun x => mine x.line x.key x.ctx (x.dirty != 0))).map (·.line) ++
    (m.l2.filter (fun x => mine x.line x.key x.ctx (x.dirty != 0))).map (·.line)
  let below := (m.sectors.filter (fun x => x.dirty && mine (4 * x.block) x.key x.ctx true)).map (·.block) ++
    (m.packets.filter (fun p => p.isWrite && mine (4 * p.block) p.key p.ctx true)).map (·.block)
  let lost := (m.l1.filter (fun x => x.dirty != 0 && mine x.line x.key x.ctx true)).map (fun x => (x.line / 4, x.key)) ++
    (m.l2.filter (fun x => x.dirty != 0 && mine x.line x.key x.ctx true)).map (fun x => (x.line / 4, x.key)) ++
    (m.sectors.filter (fun x => x.dirty && mine (4 * x.block) x.key x.ctx true)).map (fun x => (x.block, x.key)) ++
    (m.packets.filter (fun p => p.isWrite && mine (4 * p.block) p.key p.ctx true)).map (fun p => (p.block, p.key))
  let m1 := m.forgetL2 t (fun x => lines.contains x.line || (below.contains (x.line / 4) && x.dirty == 0 && x.owner.isNone))
  let m2 := { m1 with
    l1 := (m1.l1.filter (fun x => !(lines.contains x.line || (below.contains (x.line / 4) && x.dirty == 0)))).map (fun (x : L1Line) =>
      if below.contains (x.line / 4) then { x with valid := x.dirty, leaseEnd := 0 } else x)
    sectors := m1.sectors.filter (fun x => !mine (4 * x.block) x.key x.ctx x.dirty)
    packets := m1.packets.filter (fun p => !(p.isWrite && mine (4 * p.block) p.key p.ctx true)) }
  lost.dedup.foldl (fun acc b => acc.setBlk ⟨b.1, b.2, m.keyGen b.2, true⟩) m2

/-- Closing a slot (15 R343, step 1): translations through it fail from now on. -/
def MemSys.closeKey (m : MemSys) (k n : Nat) : MemSys :=
  { m with keys := updFirst (fun x => x.slot == k && x.closing.isNone) (fun x => { x with closing := some n }) m.keys }

/-- The end of the KEYDESTROY with a number (15 R343, step 2). -/
def MemSys.finishKey (m : MemSys) (t n : Nat) : MemSys :=
  match m.keys.find? (fun x => x.closing == some n) with
  | none => m
  | some x =>
    let m1 := m.dropKey t x.slot
    { m1 with keys := updFirst (fun y => y.slot == x.slot) (fun y => { y with loaded := false, closing := none, keys := 0 }) m1.keys }

/-- KEYSET's status, and the memory after it (15 R342; 19 R401): log entry 39 says which status comes first. A generation that the slot
leaves must be scrubbed away before it comes back. -/
def MemSys.keySet (m : MemSys) (session : Option (BitVec 256)) (k ctx : Nat) (blob : List Byte) : MemSys × Nat :=
  let x := (m.keyOf k).getD ⟨k, false, none, 0, ctx, 0, []⟩
  let next := (x.gen + 1) % 2 ^ 15
  if x.closing.isSome then (m, 3)
  else if x.loaded then (m, 1)
  else
    match session.bind (fun key => if numAt blob 12 4 = k then unwrapBlob key blob else none) with
    | none => (m, 2)
    | some keys =>
      if x.stale.contains next then (m, 4)
      else
        let y : KeySlot := { x with loaded := true, gen := next, ctx := ctx, keys := keys, stale := x.gen :: x.stale }
        ({ m with keys := putBy (fun z => z.slot == k) y m.keys, scrubbed := [] }, 0)

/-! Loads. -/

/-- The bytes of a line that pieces cover. -/
def pieceMask (ps : List Piece) : BitVec 128 := ofBits 128 (ps.flatMap (fun p => (List.range p.size).map (p.off + ·)))

/-- Bytes laid over those of a line. -/
def layOver (d : BitVec 1024 × BitVec 128) (data : BitVec 1024) (mask poison : BitVec 128) : BitVec 1024 × BitVec 128 :=
  (mergeBytes d.1 data mask, (d.2 &&& ~~~mask) ||| (poison &&& mask))

/-- The bytes a load of a cluster returns (06 R171, R176; 07 R205): what the home holds, under the cluster's writebacks of the line that set out behind the load, whose
bytes were dirty in its L1 when the load did, under the dirty bytes of its L1. -/
def State.overDirty (s : State) (g : Msg) (d : BitVec 1024) (poison : BitVec 128) : BitVec 1024 × BitVec 128 :=
  let sent := (s.m.msgs.filter (fun h => h.wb && h.cluster == g.cluster && h.line == g.line)).foldl
    (fun acc h => match h.kind with
      | .write data mask pz _ _ _ => layOver acc data mask pz
      | .fill .. => acc
      | .read .. => acc
      | .act _ => acc
      | .atomic _ => acc) (d, poison)
  match s.m.l1Find g.cluster g.line with
  | none => sent
  | some x => layOver sent x.data x.dirty x.poison

/-- Answering a load's pieces: values, and marks where a byte is poisoned or the whole access failed. -/
def State.giveLoad (s : State) (g : Msg) (ps : List Piece) (d : BitVec 1024) (poison : BitVec 128) (err : Option (Nat × Nat)) : State :=
  let vals := ps.map (fun p => p.vals (numOf (bytesFrom d p.off p.size)))
  let bad (p : Piece) : Bool := err.isSome || (List.range p.size).any (fun i => poison.getLsbD (p.off + i))
  let code : BitVec 8 := BitVec.ofNat 8 ((err.map Prod.fst).getD 0x0A)
  let cause : BitVec 6 := BitVec.ofNat 6 ((err.map Prod.snd).getD 0)
  (s.updAny g.warp (fun w => w.gotPart g.op (fun o => { o with
    vvals := o.vvals ++ vals.flatMap Prod.fst, svals := o.svals ++ vals.flatMap Prod.snd
    marks := o.marks ++ (ps.filter bad).flatMap (fun p => p.marks o.offset o.opc code cause) }))).dropMsg g.id

/-- What a fill does in the cluster's L1 (07 R200, R205; 17 R355): the line with its lease, dirty bytes kept; or, where nothing is allocated,
the clean bytes of its copy are dropped. -/
def MemSys.fillL1 (m : MemSys) (g : Msg) (alloc : Bool) (d : BitVec 1024) (poison : BitVec 128) (lease scope : Nat) : MemSys :=
  match m.l1Find g.cluster g.line with
  | none =>
    if alloc then
      m.l1Set
        { cluster := g.cluster, line := g.line, pa := g.pa, data := d, valid := BitVec.allOnes 128, dirty := 0, poison := poison, dirtying := 0
          slice := g.slice, leaseEnd := lease, leaseScope := scope, cls := clsAfter 0 g.cls, ctx := g.ctx, key := g.key, cover := none }
    else m
  | some x =>
    if alloc then
      m.l1Set { x with
        data := mergeBytes d x.data x.dirty, valid := BitVec.allOnes 128, poison := (poison &&& ~~~x.dirty) ||| (x.poison &&& x.dirty)
        leaseEnd := lease, leaseScope := scope, cls := clsAfter x.cls g.cls }
    else if x.dirty = 0 then m.l1Drop g.cluster g.line
    else m.l1Set { x with valid := x.dirty, poison := x.poison &&& x.dirty, leaseEnd := 0 }

/-- Granting a lease at the home (07 R200, R201): the line as it is after the grant, the lease's end, its scope. -/
def L2Line.grant (x : L2Line) (t cluster : Nat) : L2Line × Nat × Nat :=
  let scope := scopeTo (cluster / 48) x.slice
  let till := t + x.lambda
  ({ x with
      lambda := min 4096 (2 * x.lambda)
      leaseD := if scope = 2 then max x.leaseD till else x.leaseD, leaseV := if scope = 2 then x.leaseV else max x.leaseV till },
    till, scope)

/-- A write of a message's cluster to its line is still on its way: what its load reads may not stay in the L1 (06 R171). -/
def State.outdated (s : State) (g : Msg) : Bool :=
  s.m.msgs.any (fun h => h.id != g.id && h.cluster == g.cluster && h.lines.contains g.line && h.writes)

/-- A load at the home of device memory (07 R200, R205). -/
def State.serveLoad (s : State) (g : Msg) (ps : List Piece) (alloc : Bool) : State :=
  if s.owned g.line then s
  else if s.m.lacks g.line (if alloc || ps.isEmpty then BitVec.allOnes 128 else pieceMask ps) then s.fetchLine g
  else
    let x := s.m.l2Line g.line g.slice g.ctx g.key 0
    let pz : BitVec 128 := x.poison ||| (if s.m.blockPoison (g.line / 4) then BitVec.allOnes 128 else 0)
    let (d, poison) := s.overDirty g x.data pz
    let keep : Bool := alloc && s.m.hasL1 g.cluster && !s.outdated g
    let (y, till, scope) := x.grant s.time g.cluster
    let z : L2Line := { (if keep then y else x) with cls := clsAfter x.cls g.cls }
    let s0 := if keep then s.l1Room g.cluster g.line g.pa else s
    let s1 : State := { s0 with m := (s0.m.l2Set z).fillL1 g keep x.data pz till scope }
    let s1 := if g.passing then s1.passLine g else s1
    if ps.isEmpty && g.op == 0 then s1.dropMsg g.id else s1.giveLoad g ps d poison none

/-- The bytes of a line of host memory or of another device, and their poison. -/
def MemSys.farLine (m : MemSys) (line : Nat) : BitVec 1024 × BitVec 128 :=
  (BitVec.ofNat 1024 (numOf (m.homeBytes (line * 128) 128 0)), if m.blockPoison (line / 4) then BitVec.allOnes 128 else 0)

/-- A load of host memory (07 R196) or of another device's memory (19 R403, R405); the latter's lines may be kept under a lease. -/
def State.serveFar (s : State) (g : Msg) (ps : List Piece) (alloc : Bool) : State :=
  if s.owned g.line then s else
  let (d, pz) := s.m.farLine g.line
  let err := s.peerErr (g.line * 128)
  let keep : Bool := alloc && err.isNone && s.m.hasL1 g.cluster && !s.outdated g
  let s1 := if keep then s.l1Room g.cluster g.line g.pa else s
  let m1 := s1.m.fillL1 g keep d pz (s.time + Config.peerLease s.tick % 4097) 4
  let got := s.overDirty g d pz
  ({ s1 with m := m1 }).giveLoad g ps got.1 got.2 err

/-! Writes. -/

/-- The completion time goes to the warps it concerns, to the message's own with its operation (07 R204). -/
def State.sendAcks (s : State) (g : Msg) (ws : List WRef) (wct : Nat) : State :=
  ws.foldl
    (fun acc w =>
      if w = WRef.none then acc
      else
        let a : Ack := { id := acc.fresh, warp := w, op := if w = g.warp then g.op else 0, wct := wct }
        { acc with m := { acc.m with acks := acc.m.acks ++ [a] }, fresh := acc.fresh + 1 }) s

/-- A deferred fault of a write that has no register to mark (06 R180), at each warp it concerns: for the warp that sent it, with the lanes whose bytes
lie in the line and the lowest one's address (15 R330). -/
def State.deferTo (s : State) (g : Msg) (ws : List WRef) (code cause : Nat) : State :=
  ws.foldl
    (fun acc w =>
      acc.updAny w (fun x =>
        let o := if w = g.warp then x.findOp g.op else none
        let as := ((o.map (·.aims)).getD []).filter (fun a => a.2.2 == g.line)
        let ls : Lanes := ofBits 32 (as.map (fun a => a.1))
        let info : FaultInfo :=
          { code := BitVec.ofNat 8 code, cause := BitVec.ofNat 6 cause, mark := (o.map (·.offset)).getD 0, acc := 1, lane := BitVec.ofNat 5 (lowLane ls)
            flanes := ls, addr := ((as.find? (fun a => a.1 == lowLane ls)).map (fun a => a.2.1)).getD 0 }
        { x with deferred := x.deferred ++ [{ slot := o.bind (·.slot), ticket := none, info := info }] })) s

/-- Bytes applied to a line at its home (07 R202), for a running sequence too (17 R370). A line that L2 did not hold stays out of it where the hints say so (03
R89). -/
def State.applyAt (s : State) (g : Msg) (d : BitVec 1024) (mask poison : BitVec 128) (cover : Option Nat) : State × Nat :=
  let r := s.m.applyWrite s.time g.line g.slice g.ctx g.key g.cls d mask poison (scopeTo (g.cluster / 48) g.slice) cover
  let s1 := ({ s with m := r.1 }).pushSeq g.line
  (if 2 ≤ g.level && (s.m.l2Find g.line).isNone then s1.passLine g else s1, r.2)

/-- Bytes of a line land where they are written: at the home on the device, in host memory, or on another device (07 R196, R202), where a refusal or an unreachable
device leaves the bytes there as they are and defers its fault to the warps (19 R403, R405). -/
def State.land (s : State) (g : Msg) (d : BitVec 1024) (mask poison : BitVec 128) (cover : Option Nat) (ws : List WRef) : State :=
  if hostBase ≤ g.line * 128 then
    match s.peerErr (g.line * 128) with
    | some (code, cause) => (s.deferTo g ws code cause).sendAcks g ws s.time
    | none => (s.updM (fun m => m.pokeLine s.time g.line d mask poison cover)).sendAcks g ws (s.m.farWct s.time g.line)
  else
    let r := s.applyAt g d mask poison cover
    r.1.sendAcks g ws r.2

/-- The bytes of a write message land, and the message is done; one of CLEAN.MEM goes on, with its completion time and no bytes (06 R187). -/
def State.landMsg (s : State) (g : Msg) : State :=
  match g.kind with
  | .write d mask poison cover ws toMem =>
    if toMem && g.line * 128 < hostBase then
      if mask = 0 then s
      else let r := s.applyAt g d mask poison cover; r.1.setMsg { g with kind := .write 0 0 0 none ws true, wct := r.2 }
    else (s.land g d mask poison cover ws).dropMsg g.id
  | .fill .. => s
  | .read .. => s
  | .act _ => s
  | .atomic _ => s

/-- The dirty bytes that an L1 holds of a line reach its home at once, after the cluster's earlier writes of it that are still on their way (07 R198); the copy is
dropped, or keeps them clean. -/
def State.homeNow (s : State) (x : L1Line) (drop : Bool) : State :=
  let s1 := if x.dirty = 0 then s else (s.m.msgs.filter (fun g => g.cluster == x.cluster && g.line == x.line)).foldl State.landMsg s
  let s2 := s1.updM (fun m => m.l1Back x drop)
  if x.dirty = 0 then s2 else s2.landMsg (s2.backMsg WRef.none 0 x false)

/-- Another cluster's writeback of the line that arrives in the same cycle as a writeback (07 R211): other writes reach the home whole (07 R210). -/
def State.partner (s : State) (g : Msg) : Option Msg :=
  s.m.msgs.find? (fun h => g.wb && h.wb && h.line == g.line && h.cluster != g.cluster && !s.behind h &&
    match h.kind with
    | .write _ _ _ _ _ toMem => !toMem
    | .fill .. => false
    | .read .. => false
    | .act _ => false
    | .atomic .. => false)

/-- A write at the home of device memory, alone or with its partner as one action. -/
def State.applyMsg (s : State) (g : Msg) (d : BitVec 1024) (mask poison : BitVec 128) (cover : Option Nat) (ws : List WRef) : State :=
  let alone : State := (s.land g d mask poison cover ws).dropMsg g.id
  match s.partner g with
  | none => alone
  | some h =>
    match h.kind with
    | .write d2 k2 p2 _ ws2 _ =>
      if Config.mergePick (s.tick * 256) then
        let mine : BitVec 128 := ofBits 128 ((bitList (mask &&& k2)).filter (fun i => Config.mergePick (s.tick * 256 + 1 + i)))
        let r1 := s.applyAt h d2 k2 p2 none
        let r2 := r1.1.applyAt g d ((mask &&& ~~~k2) ||| mine) poison cover
        (((r2.1.sendAcks h ws2 r2.2).dropMsg h.id).sendAcks g ws r2.2).dropMsg g.id
      else alone
    | .fill .. => alone
    | .read .. => alone
    | .act _ => alone
    | .atomic .. => alone

/-- CLEAN.MEM at the home (06 R187; 17 R357): the bytes are applied, with their completion time (07 R202), the line goes to the memory-side cache and its sector
to DRAM. -/
def State.toMemory (s : State) (g : Msg) (d : BitVec 1024) (mask poison : BitVec 128) (cover : Option Nat) : State :=
  let r := if mask = 0 then (s, g.wct) else s.applyAt g d mask poison cover
  let s1 := r.1
  let s2? := match s1.m.l2Find g.line with | none => some s1 | some x => (s1.m.pushLine s1.time x).map (fun m1 => { s1 with m := m1 })
  let s3? := s2?.bind (fun s2 =>
    if (s2.m.sector (g.line / 4)).isSome || s2.m.packets.any (fun p => p.isWrite && p.block == g.line / 4) then
      s2.sendPacket (g.line * 128) 3 3 g.ctx g.key false 0 0 false
    else some s2)
  match s3? with
  | none => s
  | some s3 => s3.setMsg { g with kind := match g.kind with | .write _ _ _ _ ws t => .write 0 0 0 none ws t | k => k, tries := 1, wct := r.2 }

/-! Atomics. -/

/-- An old value that an atomic returned, and whether it was poison. -/
structure AtomGot where
  op : AtomOp
  old : Nat
  poison : Bool
  deriving DecidableEq, Repr

/-- The operations of one message on a line, in ascending lane order (06 R194): the bytes after them, the bytes written, what they return. A
poisoned operand leaves its bytes as they are (06 R180). -/
def atomLine (ops : List AtomOp) (d : BitVec 1024) (poison : BitVec 128) : BitVec 1024 × BitVec 128 × List AtomGot :=
  ops.foldl
    (fun acc o =>
      let old := numOf (bytesFrom acc.1 o.off o.size)
      if (List.range o.size).any (fun i => poison.getLsbD (o.off + i)) then (acc.1, acc.2.1, acc.2.2 ++ [⟨o, old, true⟩])
      else
        match o.new old with
        | none => (acc.1, acc.2.1, acc.2.2 ++ [⟨o, old, false⟩])
        | some x =>
          let w := gatherBytes 128 1024 (runOf o.off (bytesOf o.size x))
          (mergeBytes acc.1 w.1 w.2, acc.2.1 ||| w.2, acc.2.2 ++ [⟨o, old, false⟩]))
    (d, 0, [])

/-- The old values go to the warp's operation; an operation that failed marks its register or defers its fault (06 R180). -/
def State.giveAtoms (s : State) (g : Msg) (rs : List AtomGot) (code cause : Nat) : State :=
  s.updAny g.warp (fun w =>
    let o := w.findOp g.op
    let info (a : AtomOp) : FaultInfo :=
      { code := BitVec.ofNat 8 code, cause := BitVec.ofNat 6 cause, lane := BitVec.ofNat 5 a.lane, flanes := BitVec.ofNat 32 (2 ^ a.lane), addr := a.va
        mark := (o.map (·.offset)).getD 0, acc := 3 }
    let w1 := w.updOp g.op (fun o => { o with
      vvals := o.vvals ++ rs.flatMap (fun r => (r.op.piece.vals r.old).1)
      marks := o.marks ++ (rs.filter (·.poison)).flatMap (fun r => r.op.piece.marks o.offset o.opc (BitVec.ofNat 8 code) (BitVec.ofNat 6 cause)) })
    { w1 with
      deferred := w1.deferred ++ (rs.filter (fun r => r.poison && r.op.dest.isNone)).map (fun r =>
        { slot := o.bind (·.slot), ticket := none, info := info r.op }) })

/-- The cluster's dirty bytes of a line precede an access that acts at the home, and its copy goes (07 R212); the home may be another device's. -/
def State.flushCopy (s : State) (g : Msg) : State :=
  match s.m.l1Find g.cluster g.line with
  | none => s
  | some x => s.homeNow x true

/-- An atomic at the home of device memory (06 R194; 07 R202). -/
def State.atomicHome (s : State) (g : Msg) (ops : List AtomOp) : State :=
  let s1 := s.flushCopy g
  let need : BitVec 128 := ofBits 128 (ops.flatMap (fun o => (List.range o.size).map (o.off + ·)))
  if s1.m.lacks g.line need then s1.fetchLine g
  else
    let x := s1.m.l2Line g.line g.slice g.ctx g.key 0
    let r := atomLine ops x.data (x.poison ||| (if s1.m.blockPoison (g.line / 4) then BitVec.allOnes 128 else 0))
    let w := s1.applyAt g r.1 r.2.1 0 none
    let w := (if g.passing then w.1.passLine g else w.1, w.2)
    ((w.1.giveAtoms g r.2.2 0x0A 0).sendAcks g [g.warp] w.2).dropMsg g.id

/-- The operations on bytes of host memory or of another device, all at once. -/
def State.atomicFar (s0 : State) (g : Msg) (ops : List AtomOp) (wct : Nat) : State :=
  let s := s0.flushCopy g
  let d := s.m.farLine g.line
  let r := atomLine ops d.1 d.2
  let s1 := s.updM (fun m => m.pokeLine s.time g.line r.1 r.2.1)
  ((s1.giveAtoms g r.2.2 0x0A 0).sendAcks g [g.warp] wct).dropMsg g.id

/-- Every operation of a message fails. -/
def State.atomicFails (s : State) (g : Msg) (ops : List AtomOp) (code cause : Nat) : State :=
  ((s.giveAtoms g (ops.map (fun o => ⟨o, 0, true⟩)) code cause).sendAcks g [g.warp] 0).dropMsg g.id

/-- Operations that PCIe AtomicOps perform (06 R195): ADD, EXCH and CAS. -/
def AtomOp.direct (o : AtomOp) : Bool := o.opc == 0xA2 || ((o.opc == 0xA0 || o.opc == 0xA3) && (o.fn == 0 || o.fn == 8))

/-- A host atomic in front of a message, for the same line (19 R395: one at a time, in arrival order). -/
def State.hostQueue (s : State) (g : Msg) : Bool :=
  (s.m.msgs.takeWhile (fun x => x.id != g.id)).any (fun x => x.line == g.line &&
    match x.kind with
    | .atomic .. => true
    | .fill .. => false
    | .read .. => false
    | .act _ => false
    | .write .. => false)

/-- Going on with the rest of a host message's operations; with none left the message is done. -/
def State.atomsLeft (s : State) (g : Msg) (ops : List AtomOp) : State :=
  match ops with
  | [] => (s.sendAcks g [g.warp] 0).dropMsg g.id
  | _ :: _ => s.setMsg { g with kind := .atomic ops, tries := 0 }

/-! Evictions. -/

/-- A line is the victim of its set (17 R355): no line of its bank and set has an earlier class, or the same class and an earlier use. -/
def MemSys.isVictim (m : MemSys) (x : L1Line) : Bool :=
  let mates := m.l1Mates x.cluster x.pa
  let older := mates.takeWhile (fun y => y.line != x.line)
  !mates.any (fun y => clsRank y.cls < clsRank x.cls) && !older.any (fun y => clsRank y.cls == clsRank x.cls)

end Sys2Proof.Machine
end

