-- ==== Sys2Proof/Machine/Records.lean ====
section
/-!
DEFINITION. Tensor records (12 R257-R262): CRC-32C, the fields and their checks, the addresses of elements and blocks, and reading a
record at its home. Log entry 31 says what the model does where the record rules name no fault.
-/
namespace Sys2Proof.Machine

/-- CRC-32C, reflected polynomial 0x1EDC6F41 (12 R261). -/
def crcBit (c : W32) : W32 := (c >>> (1 : Nat)) ^^^ (if c.getLsbD 0 then 0x82F63B78 else 0)
def crcByte (c : W32) (b : Byte) : W32 := (List.range 8).foldl (fun acc _ => crcBit acc) (c ^^^ b.setWidth 32)
def crc32c (bs : List Byte) : W32 := ~~~(bs.foldl crcByte 0xFFFFFFFF)

/-- Bits hi down to lo of the 512 bits of a record. -/
def recField (r hi lo : Nat) : Nat := r / 2 ^ lo % 2 ^ (hi + 1 - lo)

/-- The fields of a record (12 R257). -/
def TRec.of (r : Nat) : TRec :=
  { base := BitVec.ofNat 64 (recField r 54 0), fmt := recField r 59 56, rank := recField r 62 60, sbase := BitVec.ofNat 64 (recField r 118 64)
    planes := recField r 121 120 + 1, gsh := recField r 125 122
    poff := [recField r 151 128, recField r 175 152, recField r 199 176], rows := 64 / 2 ^ recField r 201 200, trans := recField r 202 202 == 1
    ext := [recField r 255 224, recField r 287 256, recField r 319 288, recField r 351 320, recField r 383 352]
    str := [recField r 407 384, recField r 431 408, recField r 455 432, recField r 479 456] }

/-- The fields keep R257 and R258. -/
def recFieldsOk (r : Nat) : Bool :=
  let t := TRec.of r
  recField r 207 203 == 0 && recField r 127 126 == 0 && recField r 119 119 == 0 && recField r 63 63 == 0 && recField r 55 55 == 0 &&
    t.fmt ≤ 7 && 1 ≤ t.rank && t.rank ≤ 5 &&
    (List.range 5).all (fun d => if d < t.rank then t.ext.getD d 0 != 0 else t.ext.getD d 0 == 0 && t.str.getD (d - 1) 0 == 0) &&
    (t.fmt == 7 || t.planes == 1) && (t.fmt == 6 || t.fmt == 7 || t.sbase == 0) && t.gsh ≤ 9 && t.base.toNat % 128 == 0 &&
    t.sbase.toNat % (if t.fmt = 7 then 128 else if t.fmt = 6 then 2 else 1) == 0

def sealErr (cause : Nat) : TErr := ⟨0x0C, BitVec.ofNat 6 cause⟩

/-- Bytes of an element of the unblocked formats 0 to 5. -/
def eltBytes (fmt : Nat) : Nat := match fmt with | 0 => 4 | 1 => 2 | 2 => 2 | _ => 1

/-- Addresses are taken modulo 2^64. -/
def addrOf (n : Nat) : W64 := BitVec.ofNat 64 n

/-- The addresses of 12 R259. -/
def TRec.eltAddr (t : TRec) (b e : Nat) : W64 := addrOf (t.base.toNat + 32 * eltBytes t.fmt * b + eltBytes t.fmt * e)
def TRec.n4Addr (t : TRec) (b : Nat) : W64 := addrOf (t.base.toNat + 16 * b)
def TRec.n4Head (t : TRec) (b : Nat) : W64 := addrOf (t.sbase.toNat + 2 * b)
def TRec.blockAddr (t : TRec) (p b : Nat) : W64 :=
  let g := 2 ^ t.gsh
  addrOf (t.base.toNat + 4096 * (if p = 0 then 0 else t.poff.getD (p - 1) 0) + 128 * g * (b / g) + planeBytes p * (b % g))
def TRec.scaleAddr (t : TRec) (b : Nat) : W64 :=
  let g := 2 ^ t.gsh
  addrOf (t.sbase.toNat + 128 * g * (b / g) + b % g)

/-- The block that indices i0 to i4 lie in (12 R259). -/
def TRec.block (t : TRec) (is : List Nat) : Nat :=
  is.headD 0 / 32 + ((List.range 4).map (fun d => if d + 1 < t.rank then is.getD (d + 1) 0 * t.str.getD d 0 else 0)).foldl (· + ·) 0

/-- The extent of a dimension in range tests: 1 at and above the rank (12 R270). -/
def TRec.extent (t : TRec) (d : Nat) : Nat := if d < t.rank then t.ext.getD d 0 else 1

/-- Whether indices lie within every extent. -/
def TRec.within (t : TRec) (is : List Nat) : Bool := (List.range 5).all (fun d => is.getD d 0 < t.extent d)

/-- Reading and checking a record at its home (12 R258, R261): ALIGN, PAGE, ACCESS, then SEAL. -/
def State.recordAt (s : State) (core : CoreId) (ctx : Nat) (va : W64) : Except TErr TRec :=
  if va.toNat % 64 ≠ 0 then .error ⟨0x09, 0⟩
  else if inScratch va then .error (accessErr 4)
  else
    match s.m.translate core ctx va .read with
    | .error e => .error e
    | .ok p =>
      if p.tgt = 1 then .error (accessErr 4)
      else if (List.range 64).any (fun i => s.m.byteHeld (p.loc + i)) then .error waitErr
      else if (List.range 64).any (fun i => s.m.placePoison { p with loc := p.loc + i }) then .error ⟨0x0A, 0⟩
      else if let some e := s.farErr p then .error e
      else
        let bs := s.m.homeBytes p.loc 64 p.key
        if (crc32c (bs.take 60)).toNat ≠ numAt bs 60 4 then .error (sealErr 1)
        else if recFieldsOk (numAt bs 0 64) then .ok (TRec.of (numAt bs 0 64))
        else .error (sealErr 2)

/-- The place of a byte of tensor data, which lies outside the scratch window. -/
def State.dataPlace (s : State) (core : CoreId) (ctx : Nat) (need : Need) (va : W64) : Except TErr Phys :=
  if inScratch va then .error (accessErr 2) else s.m.translate core ctx va need

/-- The places of a block of a nested record (12 R260), or the first fault with its address: SEAL 3 where its planes and scale have different homes. -/
def State.nblock (s : State) (core : CoreId) (ctx : Nat) (need : Need) (t : TRec) (b : Nat) : Except (TErr × W64) NBlock :=
  let vas := t.scaleAddr b :: (List.range t.planes).map (fun p => t.blockAddr p b)
  match collectErr (vas.map (fun a => (s.dataPlace core ctx need a).mapError (fun e => (e, a)))) with
  | .error e => .error e
  | .ok [] => .error (sealErr 3, t.scaleAddr b)
  | .ok (sc :: ps) =>
    if ps.all (fun p => p.slice == sc.slice && p.tgt == sc.tgt && (p.loc < hostBase || p.loc / 2 ^ 52 == sc.loc / 2 ^ 52)) then .ok ⟨sc, ps⟩
    else .error (sealErr 3, t.scaleAddr b)

end Sys2Proof.Machine
end

