-- ==== Sys2Proof/Machine/Nested.lean ====
section
/-!
DEFINITION. Nested blocks at their homes (02 R58-R67; 06 R182, R183; 12 R262, R282): what LDN returns, what STN, the plane updates and
TSEAL write, each as one action on all planes and the scale of a block.
-/
namespace Sys2Proof.Machine

/-- The 32-bit words of a block's elements from the bytes of its planes (02 R59, R60). -/
def nestWord (pls : List (List Byte)) (i : Nat) : Nat :=
  let nib (p : Nat) : Nat := ((pls.getD p []).getD (i / 2) 0).toNat / (if i % 2 = 0 then 1 else 16) % 16
  nib 0 * 2 ^ 28 + nib 1 * 2 ^ 24 + ((pls.getD 2 []).getD i 0).toNat * 2 ^ 16 + numAt (pls.getD 3 []) (2 * i) 2
def nestWords (pls : List (List Byte)) : List Nat := (List.range 32).map (nestWord pls)

/-- The bytes of plane p of a block (02 R60). -/
def planeOf (p : Nat) (ws : List Nat) : List Byte :=
  let nib (sh i : Nat) : Nat := ws.getD i 0 / 2 ^ sh % 16
  match p with
  | 0 => (List.range 16).map (fun j => BitVec.ofNat 8 (nib 28 (2 * j) + 16 * nib 28 (2 * j + 1)))
  | 1 => (List.range 16).map (fun j => BitVec.ofNat 8 (nib 24 (2 * j) + 16 * nib 24 (2 * j + 1)))
  | 2 => ws.map (fun w => BitVec.ofNat 8 (w / 2 ^ 16))
  | _ => ws.flatMap (fun w => bytesOf 2 w)

/-- What LDN returns for an element's word at a scale (06 R182). -/
def ldnValue (k p : Nat) (rne raw : Bool) (scale w : Nat) : W32 :=
  let code := readPlanes k p rne (BitVec.ofNat 32 w)
  if raw then widen k code else BitVec.ofNat 32 (froundPlain f32 (nestedVal k code scale))

/-- The code of 6 units at a width of mb mantissa bits. -/
def sixUnits (mb : Nat) : Nat := 3 * 2 ^ mb + 2 ^ (mb - 1)

/-- A code whose magnitude is at most 6 units. -/
def capSix (mb code : Nat) : Nat := code / 2 ^ (mb + 2) % 2 * 2 ^ (mb + 2) + min (code % 2 ^ (mb + 2)) (sixUnits mb)

/-- The element that a lane of STN stores at the width of k planes; none for a NaN (06 R183). -/
def stnCode (k : Nat) (raw : Bool) (scale : Nat) (c : W32) : Option Nat :=
  let mb := planeBits k
  if raw then some (capSix mb (c.toNat / 2 ^ (32 - planeWidth k)))
  else
    match f32.val c.toNat with
    | .nan .. => none
    | .inf neg => some (if neg then 2 ^ (mb + 2) + sixUnits mb else sixUnits mb)
    | .fin neg m e => some (capSix mb (nestCode mb ((Val.fin neg m e).scale (127 - (scale : Int)))))

/-- What STN leaves of a block: the scale and the words (06 R183): a NaN in any lane makes it a NaN block with every code zero (02 R66; log entry
32); in a block that is one already, the codes of the lanes' elements are written, +0 for a NaN. -/
def stnBlock (k : Nat) (raw : Bool) (scale : Nat) (words : List Nat) (lanes : List NLane) : Nat × List Nat :=
  let codes := lanes.map (fun l => (l.elt, stnCode k raw scale l.c))
  if scale ≠ 0xFF ∧ codes.any (fun x => x.2.isNone) = true then (0xFF, words.map (fun _ => 0))
  else (scale, codes.foldl (fun ws x => ws.set x.1 (x.2.getD 0 * 2 ^ (32 - planeWidth k))) words)

/-- The update of a lane as an exact value (12 R282); a raw one is in units of the scale. -/
def planeDelta (what : PlaneOp) (scale : Nat) (l : NLane) : Val :=
  match what with
  | .upd => f32.val l.c.toNat
  | .raw => (nestVal 29 l.c.toNat).scale ((scale : Int) - 127)
  | .axpy => (mulVals (f32.val l.e.toNat) (f32.val l.c.toNat)).1
  | .resc => .fin false 0 0

/-- One lane of a plane update on a block of codes at the stored width of p planes (12 R282). -/
def planeLane (what : PlaneOp) (p : Nat) (sc : Nat × List Nat) (l : NLane) : Nat × List Nat :=
  let mb := planeBits p
  match what with
  | .resc => rescale mb sc.1 sc.2
  | .upd | .raw | .axpy =>
    let d := planeDelta what sc.1 l
    if d.isNan || d.isInf then (0xFF, sc.2.map (fun _ => 0))
    else if sc.1 = 0xFF then sc
    else planeUpdate mb 257 sc.1 sc.2 ((List.range 32).map (fun i => if i = l.elt then d else .fin false 0 0))

/-- A plane update of a block: the scale and the words after it. -/
def planeBlock (what : PlaneOp) (p scale : Nat) (words : List Nat) (lanes : List NLane) : Nat × List Nat :=
  let sh := 2 ^ (32 - planeWidth p)
  let r := lanes.foldl (planeLane what p) (scale, words.map (· / sh))
  (r.1, r.2.map (· * sh))

/-! At the home. -/

/-- The regions of a block: its scale byte and its planes. -/
def NBlock.regions (b : NBlock) : List (Phys × Nat) := (b.scale, 1) :: (List.range b.planes.length).map (fun p => (b.planes.getD p b.scale, planeBytes p))

/-- The places of the bytes of a region: a region lies in one line. -/
def regionPlaces (r : Phys × Nat) : List Phys := (List.range r.2).map (fun i => { r.1 with loc := r.1.loc + i })

/-- The home lacks bytes of a region. -/
def MemSys.lacksRegion (m : MemSys) (r : Phys × Nat) : Bool :=
  r.1.loc < hostBase && m.lacks (lineOf r.1.loc) (ofBits 128 ((List.range r.2).map (fun i => r.1.loc % 128 + i)))

/-- What must be there before an act on regions: the state with its reads under way, or none where all is there. -/
def State.missing (s : State) (g : Msg) (rs : List (Phys × Nat)) : Option State :=
  if rs.any (fun r => s.owned (lineOf r.1.loc)) then some s
  else
    let out := rs.filter s.m.lacksRegion
    if out = [] then none
    else some (out.foldl (fun acc r => acc.fetchLine { g with line := lineOf r.1.loc, slice := r.1.slice, key := r.1.key }) s)

/-- The bytes of a region at the home, and whether one is poisoned. -/
def State.regionBytes (s : State) (r : Phys × Nat) : List Byte := s.m.placeBytes (regionPlaces r)
def State.regionPoison (s : State) (r : Phys × Nat) : Bool := (regionPlaces r).any s.m.placePoison

def State.blockScale (s : State) (b : NBlock) : Nat := numAt (s.regionBytes (b.scale, 1)) 0 1
def State.blockWords (s : State) (b : NBlock) : List Nat := nestWords ((b.regions.drop 1).map s.regionBytes)

/-- Writing a block: every plane and the scale as one action (02 R67); the completion time comes back. -/
def State.putNest (s : State) (g : Msg) (b : NBlock) (scale : Nat) (words : List Nat) : State × Nat :=
  let ws := (regionPlaces (b.scale, 1)).zip (bytesOf 1 scale) ++
    (List.range b.planes.length).flatMap (fun p => (regionPlaces (b.planes.getD p b.scale, planeBytes p)).zip (planeOf p words))
  let r := s.m.putBytes s.time g.ctx (g.cluster / 48) none ws g.cls
  (({ s with m := r.1 }).pushSeqs (ws.map Prod.fst), r.2)

/-- The lines of an act that it found in L2 take the class of its EVICT hint; those it allocated leave L2 where LEVEL says so (03 R89; 06 R178). -/
def State.hintLines (s : State) (g : Msg) (lines : List Nat) : State :=
  lines.foldl
    (fun acc line =>
      let s1 := acc.updM (fun m => match m.l2Find line with | none => m | some x => m.l2Set { x with cls := clsAfter x.cls g.cls })
      if { g with line := line }.passing && line * 128 < hostBase then s1.passLine { g with line := line } else s1) s

/-- Lanes of an act, as a mask. -/
def laneMask (ls : List NLane) : Lanes := ofBits 32 (ls.map (·.lane))

/-- The end of an act without a register result that failed: its fault is deferred, nothing is written (06 R180). -/
def State.actFails (s : State) (g : Msg) (lanes : Lanes) (code cause : Nat) : State :=
  ((s.updAny g.warp (fun w =>
    let o := w.findOp g.op
    let info : FaultInfo :=
      { code := BitVec.ofNat 8 code, cause := BitVec.ofNat 6 cause, lane := BitVec.ofNat 5 (lowLane lanes), flanes := lanes
        addr := (o.bind (fun o => (o.aims.find? (fun a => a.1 == lowLane lanes)).map (fun a => a.2.1))).getD 0
        mark := (o.map (·.offset)).getD 0, acc := 3 }
    { w with deferred := w.deferred ++ [{ slot := o.bind (·.slot), ticket := none, info := info }] })).sendAcks g [g.warp] 0).dropMsg g.id

/-- Answering LDN. -/
def State.giveNest (s : State) (g : Msg) (reg : Nat) (vals : List (Nat × W32)) (err : Option (Nat × Nat)) : State :=
  (s.updAny g.warp (fun w => w.gotPart g.op (fun o => { o with
    vvals := o.vvals ++ vals.map (fun p => (reg * 32 + p.1, p.2))
    marks := o.marks ++
      match err with
      | none => []
      | some (code, cause) => vals.map (fun p =>
          { reg := reg, lanes := BitVec.ofNat 32 (2 ^ p.1)
            info :=
              { code := BitVec.ofNat 8 code, cause := BitVec.ofNat 6 cause, mark := o.offset, opc := o.opc, lane := BitVec.ofNat 5 p.1
                addr := ((o.aims.find? (fun a => a.1 == p.1)).map (fun a => a.2.1)).getD 0 } }) }))).dropMsg g.id

/-- The cluster's copies of a block's lines are written back and dropped (06 R183; 12 R283). -/
def State.flushNest (s : State) (g : Msg) (b : NBlock) : State :=
  b.lines.foldl
    (fun acc line =>
      match (b.scale :: b.planes).find? (fun p => lineOf p.loc == line) with
      | none => acc
      | some p => acc.flushCopy { g with line := line, slice := p.slice, key := p.key }) s

/-- An act that changes a block; one with a poisoned region stays as it is, and POISON is deferred (06 R180; 12 R283; log entry 82). -/
def State.changeNest (s : State) (g : Msg) (b : NBlock) (lanes : List NLane) (f : Nat → List Nat → Nat × List Nat) : State :=
  match s.peerErr b.scale.loc with
  | some (code, cause) => s.actFails g (laneMask lanes) code cause
  | none =>
    let s1 := s.flushNest g b
    match s1.missing g b.regions with
    | some s2 => s2
    | none =>
      if b.regions.any s1.regionPoison then s1.actFails g (laneMask lanes) 0x0A 0
      else
        let r := f (s1.blockScale b) (s1.blockWords b)
        let w := s1.putNest g b r.1 r.2
        ((w.1.hintLines g b.lines).sendAcks g [g.warp] w.2).dropMsg g.id

/-- LDN at the home (06 R182): one snapshot of the scale and the planes it reads. -/
def State.readNest (s : State) (g : Msg) (b : NBlock) (k : Nat) (rne raw : Bool) (reg : Nat) (lanes : List NLane) : State :=
  let p := b.planes.length
  let used := b.regions.take (1 + (if rne then min (k + 1) p else k))
  match s.peerErr b.scale.loc with
  | some e => s.giveNest g reg (lanes.map (fun l => (l.lane, 0))) (some e)
  | none =>
    match s.missing g used with
    | some s2 => s2
    | none =>
      let ws := s.blockWords b
      let vals := lanes.map (fun l => (l.lane, ldnValue k p rne raw (s.blockScale b) (ws.getD l.elt 0)))
      (s.hintLines g (used.map (fun r => lineOf r.1.loc)).dedup).giveNest g reg vals (if used.any s.regionPoison then some (0x0A, 0) else none)

/-- TSEAL at the home (12 R262). -/
def State.sealRecord (s : State) (g : Msg) (p : Phys) (lane : Nat) : State :=
  match s.peerErr p.loc with
  | some (code, cause) => s.actFails g (BitVec.ofNat 32 (2 ^ lane)) code cause
  | none =>
    let s1 := s.flushCopy g
    match s1.missing g [(p, 60)] with
    | some s2 => s2
    | none =>
      if s1.regionPoison (p, 60) then s1.actFails g (BitVec.ofNat 32 (2 ^ lane)) 0x0A 0
      else
        let ws := ((regionPlaces (p, 64)).drop 60).zip (bytesOf 4 (crc32c (s1.regionBytes (p, 60))).toNat)
        let r := s1.m.putBytes s1.time g.ctx (g.cluster / 48) none ws
        ((({ s1 with m := r.1 }).pushSeqs (ws.map Prod.fst)).sendAcks g [g.warp] r.2).dropMsg g.id

/-- An act at its home, once nothing of its cluster is in front of it and no engine or blocking sequence holds it. -/
def State.actHome (s : State) (g : Msg) (a : HomeAct) : State :=
  if s.behind g || (a.writes && a.lines.any (fun l => s.owned l || s.seqBlocks l)) then s
  else
    match a with
    | .ldn b k rne raw reg lanes => s.readNest g b k rne raw reg lanes
    | .stn b k raw lanes => s.changeNest g b lanes (fun sc ws => stnBlock k raw sc ws lanes)
    | .plane b what lanes => s.changeNest g b lanes (fun sc ws => planeBlock what b.planes.length sc ws lanes)
    | .seal p lane => s.sealRecord g p lane

end Sys2Proof.Machine
end

