-- ==== Sys2Proof/Machine/Planes.lean ====
section
/-!
DEFINITION. LDN, STN, the plane updates and TSEAL at issue (06 R181-R183; 12 R262, R281-R283): the record and the blocks are checked for
every lane, then one message a block goes to its home.
-/
namespace Sys2Proof.Machine

/-- A lane's block: its lane, the block's number and place. -/
structure BlockAim where
  lane : NLane
  num : Nat
  blk : NBlock
  deriving DecidableEq, Repr

/-- The lane of an aim with the record's address, for fault records (15 R330). -/
def BlockAim.named (ra : W64) (a : BlockAim) : Nat × W64 × Nat := (a.lane.lane, ra, lineOf a.blk.scale.loc)

/-- The record of a warp's instruction and the blocks that its lanes name, or the fault (15 R329). -/
def Ctx.nestAims (c : Ctx) (s : State) (need : Need) (acc : Nat) (ra : W64) (lanes : List (NLane × Nat)) : Except FaultInfo (TRec × List BlockAim) :=
  let all (e : TErr) : List (Nat × TErr × W64) := lanes.map (fun l => (l.1.lane, e, ra))
  let fail (fs : List (Nat × TErr × W64)) : Except FaultInfo (TRec × List BlockAim) :=
    match c.worst acc fs with
    | some x => .error x
    | none => .error (c.info 0x0C 4 c.g ra)
  match s.recordAt s.w.id.core s.w.ctx ra with
  | .error e => fail (all e)
  | .ok t =>
    if t.fmt ≠ 7 then fail (all (sealErr 4))
    else
      let tried := lanes.map (fun l => (l, s.nblock s.w.id.core s.w.ctx need t l.2))
      let bad := tried.filterMap (fun x => match x.2 with | .error e => some (x.1.1.lane, e.1, e.2) | .ok _ => none)
      if bad ≠ [] then fail bad
      else .ok (t, tried.filterMap (fun x => match x.2 with | .error _ => none | .ok b => some ⟨x.1.1, x.1.2, b⟩))

/-- The lanes of the aims that name the block of the first, and the first's block. -/
def blockLanes (as : List BlockAim) (num : Nat) : List NLane := (as.filter (fun a => a.num == num)).map (·.lane)

/-- One message a block. -/
def State.postNest (s : State) (f : Fields) (op : Nat) (as : List BlockAim) (act : NBlock → List NLane → HomeAct) : State :=
  ((as.map (·.num)).dedup).foldl
    (fun acc n =>
      match as.find? (fun a => a.num == n) with
      | none => acc
      | some a => acc.post f op a.blk.scale (.act (act a.blk (blockLanes as n)))) s

/-- The warp's own messages to the lines of the blocks, or an acquire, hold the instruction (log entry 29). -/
def State.nestBusy (s : State) (as : List BlockAim) : Bool := s.w.acquiring || as.any (fun a => a.blk.lines.any s.lineBusy)

/-- A lane's element and operands, with the number of its block; PLRESC names the block itself. -/
def nestLane (f : Fields) (s : State) (whole : Bool) (l : Nat) : NLane × Nat :=
  let b := (s.read32 f.b l).toNat
  if whole then (⟨l, 0, 0, 0⟩, b) else (⟨l, b % 32, s.read32 f.c l, s.read32 f.e l⟩, b / 32)

/-- A record that reads as poison (06 R179, R180; 12 R283): the fault is deferred, at the register where there is one. -/
def poisonedRecord (c : Ctx) (s : State) (dest : Option Nat) (x : FaultInfo) : Eff :=
  let y := { x with mark := c.p }
  match dest with
  | some reg => .ok { st := s, op := some { c.op with dests := [(reg, c.g)], marks := [{ reg := reg, lanes := c.g, info := y }] } }
  | none => .ok { st := s.updW (fun w => { w with deferred := w.deferred ++ [{ slot := c.op.slot, ticket := none, info := y }] }) }

/-- The end of the checks where one fails. -/
def nestFails (c : Ctx) (s : State) (dest : Option Nat) (x : FaultInfo) : Eff :=
  if x.code = 0x0A then poisonedRecord c s dest x else .fault x (fun s => s)

/-- LDN (06 R181, R182). -/
def ldnEff (f : Fields) (c : Ctx) (s : State) : Eff :=
  match c.uni64 s f.a with
  | none => c.whole 0x03 0
  | some ra =>
    let reg := match f.d with | .v r => r | .s _ => 0 | .sp _ => 0
    match c.nestAims s .read 0 ra ((bitList c.g).map (nestLane f s false)) with
    | .error x => nestFails c s (some reg) x
    | .ok (t, as) =>
      if s.nestBusy as then .hold (fun s => s)
      else
        let k := min (f.subBits 1 0 + 1) t.planes
        let s1 := (s.touch s.w.id.core s.w.ctx ra).postNest f c.id as (fun b ls => .ldn b k (f.subBits 2 2 = 1) (f.subBits 3 3 = 1) reg ls)
        .ok { st := s1, op := some { c.op with parts := s1.partsOf c.id, dests := [(reg, c.g)], aims := as.map (BlockAim.named ra) } }
def execLdn (f : Fields) (s : State) : Host.Outcome State Fault Refusal := nextOf (runWarp (.ldn f) { lat := .later } (ldnEff f) s)

/-- What STN and the plane updates share: the checks, then the messages. -/
def changeEff (f : Fields) (whole : Bool) (need : Need) (acc : Nat) (act : TRec → NBlock → List NLane → HomeAct) (c : Ctx) (s : State) : Eff :=
  match c.uni64 s f.a with
  | none => c.whole 0x03 0
  | some ra =>
    match c.nestAims s need acc ra ((bitList c.g).map (nestLane f s whole)) with
    | .error x => nestFails c s none x
    | .ok (t, as) =>
      if s.nestBusy as then .hold (fun s => s)
      else
        let s1 := (s.touch s.w.id.core s.w.ctx ra).postNest f c.id as (act t)
        (Eff.ok { st := s1, op := c.writeOp s1 }).aimed (as.map (BlockAim.named ra))

/-- STN (06 R181, R183). -/
def execStn (f : Fields) (s : State) : Host.Outcome State Fault Refusal :=
  nextOf (runWarp (.stn f) { lat := .later }
    (changeEff f false .write 1 (fun t b ls => .stn b (min (f.subBits 1 0 + 1) t.planes) (f.subBits 3 3 = 1) ls)) s)

/-- PLUPD (12 R281, R282). -/
def execPlupd (f : Fields) (s : State) : Host.Outcome State Fault Refusal :=
  nextOf (runWarp (.plupd f) { lat := .later }
    (changeEff f false .both 3 (fun _ b ls => .plane b (if f.subBits 3 3 = 1 then .raw else .upd) ls)) s)

/-- PLAXPY (12 R281, R282). -/
def execPlaxpy (f : Fields) (s : State) : Host.Outcome State Fault Refusal :=
  nextOf (runWarp (.plaxpy f) { lat := .later } (changeEff f false .both 3 (fun _ b ls => .plane b .axpy ls)) s)

/-- PLRESC (12 R281, R282). -/
def execPlresc (f : Fields) (s : State) : Host.Outcome State Fault Refusal :=
  nextOf (runWarp (.plresc f) { lat := .later } (changeEff f true .both 3 (fun _ b ls => .plane b .resc ls)) s)

/-- A fault of the leader alone, the lowest executing lane (12 R266). -/
def Ctx.lead (c : Ctx) (e : TErr) (acc : Nat) (va : W64) : Eff :=
  .fault { c.info e.code.toNat e.cause.toNat (BitVec.ofNat 32 (2 ^ lowLane c.g)) va with acc := BitVec.ofNat 2 acc } (fun s => s)

/-- The fault of the leader that comes first among some in the order of 15 R329, each with its kind of access and its address. -/
def Ctx.leadFirst (c : Ctx) (xs : List (TErr × Nat × W64)) (k : Eff) : Eff :=
  match firstOf (fun (x : TErr × Nat × W64) => faultRank x.1.code.toNat) xs with
  | some x => c.lead x.1 x.2.1 x.2.2
  | none => k

/-- How an instruction of the leader issues: it reads the leader's registers. -/
def leadPlan : Plan := { lat := .later, src := fun _ g _ => BitVec.ofNat 32 (2 ^ lowLane g) }

/-- TSEAL (12 R262): the record's place, then a message to its home. -/
def tsealEff (f : Fields) (c : Ctx) (s : State) : Eff :=
  let ra := s.read64 f.a (lowLane c.g)
  if ra.toNat % 64 ≠ 0 then c.lead ⟨0x09, 0⟩ 1 ra
  else if inScratch ra then c.lead (accessErr 4) 1 ra
  else
    match s.m.translate s.w.id.core s.w.ctx ra .both with
    | .error e => c.lead e 1 ra
    | .ok p =>
      if p.tgt = 1 then c.lead (accessErr 4) 1 ra
      else if s.w.acquiring || s.lineBusy (lineOf p.loc) then .hold (fun s => s)
      else
        let s1 := (s.touch s.w.id.core s.w.ctx ra).post f c.id p (.act (.seal p (lowLane c.g)))
        (Eff.ok { st := s1, op := c.writeOp s1 }).aimed [(lowLane c.g, ra, lineOf p.loc)]
def execTseal (f : Fields) (s : State) : Host.Outcome State Fault Refusal := nextOf (runWarp (.tseal f) leadPlan (tsealEff f) s)

end Sys2Proof.Machine
end

