-- ==== Sys2Proof/Machine/Rings.lean ====
section
/-!
DEFINITION. Stage rings (12 R277-R280; 17 R354): the state of a stage, completions that count toward a fill, and the ring instructions.
-/
namespace Sys2Proof.Machine

def isStage (ring idx : Nat) (g : Stage) : Bool := g.ring == ring && g.idx == idx

/-- A committed stage whose pending bytes are 0 becomes full, and the warps that wait for its new phase are released (12 R279). -/
def Stage.test (g : Stage) : Stage :=
  if g.st = .committed ∧ g.pend = 0 then
    { g with
      st := .full, phase := !g.phase, rcnt := 0, freed := g.freed ++ g.waiting.filter (fun x => x.2 == !g.phase)
      waiting := g.waiting.filter (fun x => x.2 != !g.phase) }
  else g

/-- A warp waits for a phase, or waits no more. -/
def Stage.leave (g : Stage) (w : Nat) : Stage := { g with waiting := g.waiting.filter (fun x => x.1 != w), freed := g.freed.filter (fun x => x.1 != w) }
def Stage.wait (g : Stage) (w : Nat) (phase : Bool) : Stage := { g.leave w with waiting := (g.leave w).waiting ++ [(w, phase)] }

/-- Putting a stage back: in a cohort that is swapped out its save area is kept the same (15 R344, R345). -/
def State.setStage (s : State) (r : WRef) (g : Stage) : State :=
  let s1 := s.updCohort r (fun c => { c with stages := updFirst (isStage g.ring g.idx) (fun _ => g) c.stages })
  match s1.cohortOf r with
  | some c => if c.away then (s1.agentWrite (agentCore c.die) c.ctx (c.saveAddr.toNat + 0x100 + 128 * g.ring + 8 * g.idx) g.frame).getD s1 else s1
  | none => s1

/-- The stage of a cohort's ring. -/
def State.stageOf (s : State) (r : WRef) (ring idx : Nat) : Option Stage := (s.cohortOf r).bind (fun c => c.stages.find? (isStage ring idx))

/-- A completion subtracts its bytes from PEND, or sets OVF (12 R279; 04 R116). -/
def Stage.copied (g : Stage) (n : Nat) : Stage :=
  if g.pend - n < -(2 ^ 27 : Int) then { g with ovf := true } else ({ g with pend := g.pend - n } : Stage).test

/-- The bytes of a completion that names a stage. -/
def State.stageDone (s : State) (r : WRef) (ring idx n : Nat) : State :=
  match s.stageOf r ring idx with
  | none => s
  | some g => s.setStage r (g.copied n)

/-- The checks that every ring instruction makes (12 R279, R280): the declaration and the stage, or the code and cause of the fault. -/
def State.ringAt (s : State) (n idx : Nat) : Except TErr (RingDecl × Stage) :=
  match (s.cohortOf s.w.ref).bind (fun c => (c.rings.getD n none)) with
  | none => .error ⟨0x0D, 1⟩
  | some d =>
    if d.nstg ≤ idx then .error ⟨0x0D, 2⟩
    else
      match s.stageOf s.w.ref n idx with
      | none => .error ⟨0x0D, 2⟩
      | some g => .ok (d, g)

/-- A ring instruction: the stage operand is uniform; the effect gets the declaration and the stage. -/
def ringEff (f : Fields) (c : Ctx) (s : State) (k : RingDecl → Stage → Eff) : Eff :=
  match c.uni32 s f.a with
  | none => c.whole 0x03 0
  | some a =>
    match s.ringAt (f.modBits 2 0) (a.toNat % 16) with
    | .error e => c.whole e.code.toNat e.cause.toNat
    | .ok (d, g) => k d g

/-- The bank that a stage starts in, by its number in the cluster, and the offset just past the stage (17 R354). -/
def State.stageBank (s : State) (d : RingDecl) (g : Stage) : Option Nat :=
  (s.cohortOf s.w.ref).bind (fun c => c.banks[d.bank + g.idx * d.sbytes / 65536]?)
def stageEnd (d : RingDecl) (g : Stage) : BitVec 16 := BitVec.ofNat 16 ((g.idx + 1) * d.sbytes)

/-- Advancing HEAD or TAIL of a FIFO-mode bank past a stage (17 R354). -/
def State.pastStage (s : State) (head : Bool) (d : RingDecl) (g : Stage) : State :=
  match s.stageBank d g with
  | none => s
  | some b =>
    let k := s.w.cl * 16 + b
    if s.m.bankMode.get k = 2 then
      s.updM (fun m => if head then { m with bankHead := m.bankHead.set k (stageEnd d g) } else { m with bankTail := m.bankTail.set k (stageEnd d g) })
    else s

/-- RING.ACQ (12 R278): held while the stage is not empty; D gets the stage's address. -/
def ringAcqEff (f : Fields) (c : Ctx) (s : State) : Eff :=
  ringEff f c s (fun d g =>
    if g.ovf then c.whole 0x15 0
    else if g.st ≠ .empty then .hold (fun s => s)
    else c.lanes64 (s.setStage s.w.ref { g with st := .filling, acq := c.id }) (fun _ => BitVec.ofNat 64 (0x7FFFFFFF000000 + 65536 * d.bank + g.idx * d.sbytes)))
def execRingAcq (f : Fields) (s : State) : Host.Outcome State Fault Refusal := nextOf (runWarp (.ringAcq f) { lat := .cycles 6 } (ringAcqEff f) s)

/-- RING.COMMIT (12 R278, R279): orders as FENCE.C does. -/
def ringCommitEff (f : Fields) (c : Ctx) (s : State) : Eff :=
  match c.uni32 s f.b with
  | none => c.whole 0x03 0
  | some b =>
    ringEff f c s (fun d g =>
      if g.st ≠ .filling then c.whole 0x0D 3
      else if g.ovf || decide (2 ^ 27 - 1 < g.pend + b.toNat) then c.whole 0x15 0
      else if s.writesPending s.w then .hold (fun s => s)
      else .ok { st := (s.setStage s.w.ref ({ g with st := .committed, pend := g.pend + b.toNat } : Stage).test).pastStage true d g })
def execRingCommit (f : Fields) (s : State) : Host.Outcome State Fault Refusal := nextOf (runWarp (.ringCommit f) {} (ringCommitEff f) s)

/-- RING.WAIT (12 R278, R279): not ready until the stage is full at the phase; a fill that ends while the warp waits releases it at that moment. -/
def ringWaitEff (f : Fields) (c : Ctx) (s : State) : Eff :=
  match c.uni32 s f.b with
  | none => c.whole 0x03 0
  | some b =>
    ringEff f c s (fun _ g =>
      if g.freed.contains (s.w.ref.widx, b.getLsbD 0) then .ok { st := s.setStage s.w.ref (g.leave s.w.ref.widx) }
      else if g.ovf then c.whole 0x15 0
      else if g.st = .full ∧ g.phase = b.getLsbD 0 then .ok { st := s }
      else .hold (fun s => s.setStage s.w.ref (g.wait s.w.ref.widx (b.getLsbD 0))))
def execRingWait (f : Fields) (s : State) : Host.Outcome State Fault Refusal := nextOf (runWarp (.ringWait f) {} (ringWaitEff f) s)

/-- RING.REL (12 R278): counts a release; the last of NCONS empties the stage. -/
def ringRelEff (f : Fields) (c : Ctx) (s : State) : Eff :=
  ringEff f c s (fun d g =>
    if g.st ≠ .full then c.whole 0x0D 4
    else if g.ovf then c.whole 0x15 0
    else if s.writesPending s.w then .hold (fun s => s)
    else if g.rcnt + 1 = d.ncons then .ok { st := (s.setStage s.w.ref { g with st := .empty, rcnt := g.rcnt + 1 }).pastStage false d g }
    else .ok { st := s.setStage s.w.ref { g with rcnt := g.rcnt + 1 } })
def execRingRel (f : Fields) (s : State) : Host.Outcome State Fault Refusal := nextOf (runWarp (.ringRel f) {} (ringRelEff f) s)

end Sys2Proof.Machine
end

