-- ==== Sys2Proof/Machine/Engines.lean ====
section
/-!
DEFINITION. What the streamer and the sequencer share (12 R266-R268, R276; 14 R317): tickets, the limit of 64 requests, the completion
target, faults deferred to a ticket, and XWAIT.
-/
namespace Sys2Proof.Machine

/-- The completion target of a request as it is kept: for a barrier the entry that the warp's group slot names, all ones for none. -/
def keepTarget (w : Warp) (ck : Nat) (t : W32) : W32 :=
  if ck = 2 then match w.groupEntry (fieldOf t 1 0) with | some e => BitVec.ofNat 32 e | none => 0xFFFFFFFF else t

/-- What a completion does to its target, once (12 R267). -/
def State.actOn (s : State) (who : WRef) (ctx ck : Nat) (t : W32) (n : Nat) : State :=
  match ck with
  | 1 => s.stageDone who (fieldOf t 2 0) (fieldOf t 7 4) n
  | 2 => if t = 0xFFFFFFFF then s else s.copyDone who t.toNat n
  | 3 => s.taskEvent ctx t (.decrement none)
  | _ => s

/-- Requests of a warp that are accepted and not completed. -/
def State.requestsOf (s : State) (who : WRef) : Nat := (s.e.reqs.filter (fun q => q.warp == who)).length + (s.e.seqs.filter (fun q => q.warp == who)).length
def State.engineFull (s : State) : Bool := 64 ≤ s.requestsOf s.w.ref

/-- The next ticket of the focus warp (12 R266). -/
def Warp.nextTicket (w : Warp) : W32 := w.ticket + 1

/-- The registers and lanes of a 32-bit destination in given lanes. -/
def destOf (o : Opnd) (ls : Lanes) : List (Nat × Lanes) :=
  match o with
  | .v r => [(r, ls)]
  | .s r => [(640 + r, BitVec.allOnes 32)]
  | .sp _ => []

/-- The leader's lane (12 R266). -/
def Ctx.leader (c : Ctx) : Lanes := BitVec.ofNat 32 (2 ^ lowLane c.g)

/-- Assigning the ticket: the counter rises, and the register gets it in the leader's lane, readable 4 cycles later (12 R266). -/
def State.giveTicket (s : State) (c : Ctx) (o : Opnd) : State :=
  let t := s.w.nextTicket
  let d := destOf o c.leader
  let v := resultVals o c.leader t
  let w1 := d.foldl (fun acc x => acc.noteWrite x.1 x.2) { s.w with ticket := t }
  if d = [] then { s with w := w1 }
  else
    let q : Op := { c.op with id := s.fresh + 2, slot := none, ready := some (w1.cycle + 4), dests := d, vvals := v.1, svals := v.2 }
    { s with w := { w1 with ops := w1.ops ++ [q] }, fresh := s.fresh + 1 }

/-- A request's fault without a register result: deferred with its slot and ticket, in the leader's lane, with the address that failed (12 R268; 14
R323; 15 R330). -/
def State.deferTicket (s : State) (who : WRef) (op : Nat) (ticket : W32) (lane code cause : Nat) (agent : BitVec 4) (addr : W64) (acc : Nat) : State :=
  s.updAny who (fun w =>
    let o := w.findOp op
    let info : FaultInfo :=
      { code := BitVec.ofNat 8 code, cause := BitVec.ofNat 6 cause, lane := BitVec.ofNat 5 lane, flanes := BitVec.ofNat 32 (2 ^ lane), addr := addr
        acc := BitVec.ofNat 2 acc, mark := (o.map (·.offset)).getD 0, agent := agent, ticket := ticket }
    { w with deferred := w.deferred ++ [{ slot := o.bind (·.slot), ticket := some ticket, info := info }] })

/-- A ticket that an XWAIT covers (12 R276). -/
def covered (a t : W32) : Bool := (a - t).toNat < 2 ^ 31

/-- XWAIT (12 R276): not ready until every request it covers has completed; then a fault deferred for one of them is raised. -/
def xwaitEff (f : Fields) (c : Ctx) (s : State) : Eff :=
  match c.uni32 s f.a with
  | none => c.whole 0x03 0
  | some a =>
    if s.e.reqs.any (fun q => q.warp == s.w.ref && covered a q.ticket) || s.e.seqs.any (fun q => q.warp == s.w.ref && covered a q.ticket) then .hold (fun s => s)
    else
      match s.w.deferred.find? (fun d => d.ticket.any (covered a)) with
      | some d => .fault (c.deferFault d) (fun s => s.updW (fun w => w.forgetDeferred d))
      | none => .ok { st := s }
def execXwait (f : Fields) (s : State) : Host.Outcome State Fault Refusal := nextOf (runWarp (.xwait f) {} (xwaitEff f) s)

end Sys2Proof.Machine
end

