-- ==== Sys2Proof/Machine/Graph.lean ====
section
/-!
DEFINITION. Graph memory (10 R231-R251, R423; 07 R218): handles and homes, the twelve graph instructions at issue, what a list's home does with
them, mirror updates, death times, mirror credit and reclamation. In events a graph is numbered context * 4096 + INDEX. Log entry 36 says how
space is counted where R423 leaves it open, log entry 37 what a refused GRMW returns.
-/
namespace Sys2Proof.Machine

/-! Handles and homes. -/

/-- The home of a vertex's lists (10 R232). -/
def GEntry.home (e : GEntry) (x : Nat) : Nat := (x * 0x6F4D1B53 + e.idx * 0xA12C4E39 + e.gen) % 2 ^ 32 / 2 ^ 28

def Graphs.entry (g : Graphs) (ctx idx : Nat) : Option GEntry := g.entries.find? (fun e => e.used && e.ctx == ctx && e.idx == idx)

/-- The graph of a valid handle (10 R231). -/
def State.graphOf (s : State) (ctx : Nat) (h : W64) : Option GEntry :=
  match s.g.entry ctx (fieldOf h 11 0) with
  | none => none
  | some e => if fieldOf h 31 12 = 0 ∧ e.gen = fieldOf h 63 32 then some e else none

def GSlot.isLive (x : GSlot) : Bool := x.life == .live

/-- The slot of a live edge to a neighbour. -/
def GList.find (x : GList) (n : W32) : Option GSlot := x.slots.find? (fun q => q.isLive && q.nbr == n)

/-- Changing it. -/
def GList.change (x : GList) (n : W32) (f : GSlot → GSlot) : GList := { x with slots := updFirst (fun q => q.isLive && q.nbr == n) f x.slots }

/-- A cursor's state (10 R244). -/
def cursorWord (h pos vertex idx stride offset : Nat) (dir : Bool) (st : Nat) : BitVec 128 :=
  BitVec.ofNat 128 (h % 2 ^ 32 * 2 ^ 96 + pos % 2 ^ 32 * 2 ^ 64 + vertex % 2 ^ 32 * 2 ^ 32 + idx % 2 ^ 12 * 2 ^ 20 + stride % 2 ^ 6 * 2 ^ 14 +
    offset % 2 ^ 5 * 2 ^ 9 + dir.toNat * 2 ^ 8 + st % 4 * 2 ^ 6)
def curPos (x : BitVec 128) : Nat := fieldOf x 95 64
def curHorizon (x : BitVec 128) : Nat := fieldOf x 127 96
def curState (x : BitVec 128) : Nat := fieldOf x 7 6

/-! Space (10 R423). -/

def Graphs.share (g : Graphs) (ctx idx stack : Nat) : Share :=
  (g.shares.find? (fun x => x.ctx == ctx && x.idx == idx && x.stack == stack)).getD ⟨ctx, idx, stack, 0, 0⟩
def Graphs.setShare (g : Graphs) (x : Share) : Graphs :=
  { g with shares := putBy (fun y => y.ctx == x.ctx && y.idx == x.idx && y.stack == x.stack) x g.shares }
def Graphs.credit (g : Graphs) (ctx idx o i : Nat) : Credit :=
  (g.credits.find? (fun x => x.ctx == ctx && x.idx == idx && x.outHome == o && x.inHome == i)).getD ⟨ctx, idx, o, i, 0⟩
def Graphs.setCredit (g : Graphs) (x : Credit) : Graphs :=
  { g with credits := putBy (fun y => y.ctx == x.ctx && y.idx == x.idx && y.outHome == x.outHome && y.inHome == x.inHome) x g.credits }

/-- Chunks of a list of n slots (10 R233). -/
def chunksOf (n : Nat) : Nat := (n + 59) / 60

/-- Taking the chunk that the next slot of a list needs, where it needs one. -/
def Graphs.takeChunk (g : Graphs) (ctx idx stack len : Nat) : Option Graphs :=
  if len % 60 ≠ 0 then some g
  else
    let x := g.share ctx idx stack
    if x.free = 0 then none else some (g.setShare { x with free := x.free - 1 })

/-! At issue. -/

/-- The checks of every graph instruction that names a handle (10 R237, R238), with the operands that name vertices. -/
def graphEff (f : Fields) (c : Ctx) (s : State) (vs : List Opnd) (k : GEntry → Eff) : Eff :=
  if s.w.acquiring then .hold (fun s => s)
  else
    match c.uni64 s f.a with
    | none => c.whole 0x03 0
    | some h =>
      match s.graphOf s.w.ctx h with
      | none => c.whole 0x0B 1
      | some e =>
        let bad := ofBits 32 ((bitList c.g).filter (fun l => vs.any (fun o => e.nv ≤ (s.read32 o l).toNat)))
        if bad ≠ 0 then .fault (c.info 0x0B 2 bad 0) (fun s => s) else k e

/-- Sending an operation to the home of one list. -/
def State.postGraph (s : State) (op ctx idx : Nat) (dir : Bool) (vertex : Nat) (kind : GKind) (lanes : List GLane) (dest : Opnd)
    (pred : Option (Nat × Nat)) : State :=
  let m : GMsg :=
    { id := s.fresh, warp := s.w.ref, op := op, ctx := ctx, idx := idx, dir := dir, vertex := vertex, kind := kind, lanes := lanes, dest := dest
      pred := pred }
  { s with g := { s.g with msgs := s.g.msgs ++ [m] }, fresh := s.fresh + 1 }

/-- One message for each list that lanes name by its vertex, the lanes in ascending order (10 R235). -/
def State.postLists (s : State) (op ctx idx : Nat) (dir : Bool) (kind : GKind) (lanes : List (Nat × GLane)) (dest : Opnd)
    (pred : Option (Nat × Nat)) : State :=
  ((lanes.map Prod.fst).dedup).foldl
    (fun acc v => acc.postGraph op ctx idx dir v kind ((lanes.filter (fun x => x.1 == v)).map Prod.snd) dest pred) s

/-- The registers of a destination: one, or an even pair. -/
def graphDests (o : Opnd) (pair : Bool) (ls : Lanes) : List (Nat × Lanes) :=
  match o with
  | .v r => if pair then [(r, ls), (r + 1, ls)] else [(r, ls)]
  | .s r => [(640 + r, BitVec.allOnes 32)]
  | .sp _ => []

/-- A predicate destination: the register's old value with the bit clear, for each executing lane (10 R237). -/
def predVals (c : Ctx) (s : State) (o : Opnd) (bit : Nat) : List (Nat × W32) :=
  match o with
  | .v r => (bitList c.g).map (fun l => (r * 32 + l, s.read32 o l &&& ~~~(BitVec.ofNat 32 (2 ^ bit))))
  | .s _ => []
  | .sp _ => []
def predOf (o : Opnd) (bit : Nat) : Option (Nat × Nat) := match o with | .v r => some (r, bit) | .s _ => none | .sp _ => none
def predDest (o : Opnd) (ls : Lanes) : List (Nat × Lanes) := match o with | .v r => [(r, ls)] | .s _ => [] | .sp _ => []

/-- The lanes of an instruction with the vertex that B names, and two more values. -/
def graphLanes (f : Fields) (c : Ctx) (s : State) (x w : Opnd) : List (Nat × GLane) :=
  (bitList c.g).map (fun l => ((s.read32 f.b l).toNat, ⟨l, s.read32 x l, s.read32 w l⟩))

/-- An update of edges (10 R239, R240): one reply a lane. -/
def updateEff (f : Fields) (kind : GKind) (w : Opnd) (pair : Bool) (c : Ctx) (s : State) : Eff :=
  graphEff f c s [f.b, f.c] (fun e =>
    .ok { st := s.postLists c.id e.ctx e.idx false kind (graphLanes f c s f.c w) f.d none
          op := some { c.op with parts := (bitList c.g).length, dests := graphDests f.d pair c.g, isWrite := true } })

/-- GADD (10 R240). -/
def execGadd (f : Fields) (s : State) : Host.Outcome State Fault Refusal := nextOf (runWarp (.gadd f) { lat := .later } (updateEff f .add f.e false) s)
/-- GDEL (10 R240). -/
def execGdel (f : Fields) (s : State) : Host.Outcome State Fault Refusal :=
  nextOf (runWarp (.gdel f) { lat := .later } (updateEff f .del (.sp .zero) false) s)
/-- GSETW (10 R240). -/
def execGsetw (f : Fields) (s : State) : Host.Outcome State Fault Refusal := nextOf (runWarp (.gsetw f) { lat := .later } (updateEff f .setw f.e false) s)
/-- GRMW (10 R241). -/
def execGrmw (f : Fields) (s : State) : Host.Outcome State Fault Refusal :=
  nextOf (runWarp (.grmw f) { lat := .later } (updateEff f (.rmw f.sub.toNat) f.e true) s)

/-- The key of a lane's value of a destination among the values of an operation. -/
def destKey (o : Opnd) (lane : Nat) : Option Nat := match o with | .v r => some (r * 32 + lane) | .s r => some ((640 + r) * 32 + lane) | .sp _ => none

/-- GDELV (10 R242): a walk of the out-list, of the mirror list, or of both. -/
def gdelvEff (f : Fields) (c : Ctx) (s : State) : Eff :=
  graphEff f c s [f.b] (fun e =>
    let lanes := graphLanes f c s (.sp .zero) (.sp .zero)
    let go (s : State) (dir : Bool) : State := s.postLists c.id e.ctx e.idx dir .delv lanes f.d none
    let s1 := if f.sub = 0 then go s false else if f.sub = 1 then go s true else go (go s false) true
    .ok { st := s1
          op := some { c.op with
            parts := s1.g.msgs.length - s.g.msgs.length, dests := graphDests f.d false c.g, isWrite := true
            vvals := (bitList c.g).filterMap (fun l => (destKey f.d l).map (fun k => (k, 0))) } })
def execGdelv (f : Fields) (s : State) : Host.Outcome State Fault Refusal := nextOf (runWarp (.gdelv f) { lat := .later } (gdelvEff f) s)

/-- A read by vertex and rank (10 R243): one reply a list. -/
def lookEff (f : Fields) (kind : GKind) (vs : List Opnd) (x : Opnd) (pair : Bool) (pred : Opnd) (bit : Nat) (c : Ctx) (s : State) : Eff :=
  graphEff f c s vs (fun e =>
    let s1 := s.postLists c.id e.ctx e.idx (f.subBits 0 0 == 1) kind (graphLanes f c s x (.sp .zero)) f.d (predOf pred bit)
    .ok { st := s1
          op := some { c.op with
            parts := s1.g.msgs.length - s.g.msgs.length, dests := graphDests f.d pair c.g ++ predDest pred c.g, vvals := predVals c s pred bit } })

/-- GDEG (10 R243). -/
def execGdeg (f : Fields) (s : State) : Host.Outcome State Fault Refusal :=
  nextOf (runWarp (.gdeg f) { lat := .later } (lookEff f .deg [f.b] (.sp .zero) false (.sp .zero) 0) s)
/-- GLDE (10 R243). -/
def execGlde (f : Fields) (s : State) : Host.Outcome State Fault Refusal :=
  nextOf (runWarp (.glde f) { lat := .later } (lookEff f .lde [f.b] f.c true f.e (f.modBits 4 0)) s)
/-- GFIND (10 R243). -/
def execGfind (f : Fields) (s : State) : Host.Outcome State Fault Refusal :=
  nextOf (runWarp (.gfind f) { lat := .later } (lookEff f .find [f.b, f.c] f.c true f.e (f.modBits 4 0)) s)

/-- An earlier operation of the warp on a cursor (8: on all) in some of the lanes has not completed (10 R245). -/
def Warp.cursorBusy (w : Warp) (cur : Nat) (ls : Lanes) : Bool :=
  w.ops.any (fun o => o.cursor.any (fun x => (x.1 == cur || x.1 == 8 || cur == 8) && x.2 &&& ls != 0))

/-- Closing cursors of some lanes: they are closed in the warp, and their lists' homes are told (10 R249). -/
def State.closeLanes (s : State) (op : Nat) (curs : List Nat) (ls : Lanes) : State :=
  let opened := (curs.flatMap (fun k => (bitList ls).map (fun l => (k, l)))).filter (fun p => curState (s.w.cursor p.1 p.2) != 0)
  let lists := (opened.map (fun p => let x := s.w.cursor p.1 p.2; (fieldOf x 31 20, x.getLsbD 8, fieldOf x 63 32)))
  let s1 := s.updW (fun w => opened.foldl (fun acc p => acc.setCursor p.1 p.2 closedCursor) w)
  lists.dedup.foldl
    (fun acc x => acc.postGraph op acc.w.ctx x.1 x.2.1 x.2.2 .close ((lists.filter (· == x)).map (fun _ => (⟨0, 0, 0⟩ : GLane))) (.sp .zero) none) s1

/-- GOPEN at issue, plain or for the signers of a split (10 R246). -/
def gopenEff (f : Fields) (c : Ctx) (s : State) : Eff :=
  let cur := f.modBits 2 0
  let split : Bool := f.modBits 3 3 == 1
  if s.w.cursorBusy cur c.g then .hold (fun s => s)
  else if split && (c.uni32 s f.b).isNone then c.whole 0x03 0
  else
    graphEff f c s [f.b] (fun e =>
      let ls := bitList c.g
      let lanes := ls.zipIdx.map (fun p => ((s.read32 f.b p.1).toNat, (⟨p.1, if split then BitVec.ofNat 32 p.2 else 0, 0⟩ : GLane)))
      let s1 := s.closeLanes 0 [cur] c.g
      let s2 := s1.postLists c.id e.ctx e.idx (f.subBits 0 0 == 1) (.openc cur (if split then ls.length else 1)) lanes f.d none
      .ok { st := s2
            op := some { c.op with
              parts := s2.g.msgs.length - s1.g.msgs.length, dests := graphDests f.d false c.g, cursor := some (cur, c.g) } })

/-- GOPEN (10 R246). -/
def execGopen (f : Fields) (s : State) : Host.Outcome State Fault Refusal :=
  nextOf (if f.modBits 3 3 = 1 then signWith (.gopen f) { lat := .later } (f.modBits 6 4) (gopenEff f) s
    else runWarp (.gopen f) { lat := .later } (gopenEff f) s)

/-- GNEXT (10 R247): to the home of each lane's list. -/
def gnextEff (f : Fields) (c : Ctx) (s : State) : Eff :=
  let cur := f.modBits 2 0
  let bit := f.modBits 7 3
  let bad := ofBits 32 ((bitList c.g).filter (fun l => curState (s.w.cursor cur l) == 0))
  if s.w.acquiring || s.w.cursorBusy cur c.g then .hold (fun s => s)
  else if bad ≠ 0 then .fault (c.info 0x0B 3 bad 0) (fun s => s)
  else
    let key (l : Nat) : Nat × Bool × Nat := let x := s.w.cursor cur l; (fieldOf x 31 20, x.getLsbD 8, fieldOf x 63 32)
    let lists := ((bitList c.g).map key).dedup
    let s1 := lists.foldl
      (fun acc x => acc.postGraph c.id acc.w.ctx x.1 x.2.1 x.2.2 (.next cur)
        (((bitList c.g).filter (fun l => key l == x)).map (fun l => ⟨l, 0, 0⟩)) f.d (predOf f.a bit)) s
    .ok { st := s1
          op := some { c.op with
            parts := lists.length, dests := graphDests f.d true c.g ++ predDest f.a c.g, vvals := predVals c s f.a bit, cursor := some (cur, c.g) } }
def execGnext (f : Fields) (s : State) : Host.Outcome State Fault Refusal := nextOf (runWarp (.gnext f) { lat := .later } (gnextEff f) s)

/-- GCLOSE (10 R249): it completes when the homes acknowledge. -/
def gcloseEff (f : Fields) (c : Ctx) (s : State) : Eff :=
  let all : Bool := f.subBits 3 3 == 1
  let cur := if all then 8 else f.subBits 2 0
  if s.w.acquiring || s.w.cursorBusy cur c.g then .hold (fun s => s)
  else
    let s1 := s.closeLanes c.id (if all then List.range 8 else [cur]) c.g
    let n := s1.g.msgs.length - s.g.msgs.length
    .ok { st := s1, op := if n = 0 then none else some { c.op with parts := n, cursor := some (cur, c.g) } }
def execGclose (f : Fields) (s : State) : Host.Outcome State Fault Refusal := nextOf (runWarp (.gclose f) { lat := .later } (gcloseEff f) s)

/-- GCUR (10 R249): POS and H of the lane's cursor, all ones for a closed one. -/
def execGcur (f : Fields) (s : State) : Host.Outcome State Fault Refusal :=
  nextOf (runWarp (.gcur f) {} (fun c s =>
    let cur := f.modBits 2 0
    if s.w.cursorBusy cur c.g then .hold (fun s => s)
    else
      c.lanes64 s (fun l =>
        let x := s.w.cursor cur l
        if curState x = 0 then BitVec.allOnes 64 else BitVec.ofNat 64 (curPos x + curHorizon x * 2 ^ 32))) s)

/-! At the homes. -/

/-- Putting values of a lane among those of an operation; registers from the destination up. -/
def State.giveLane (s : State) (who : WRef) (op : Nat) (dest : Opnd) (lane : Nat) (xs : List W32) : State :=
  match destKey dest lane with
  | none => s
  | some k => s.updAny who (fun w => w.updOp op (fun o => { o with vvals := xs.zipIdx.map (fun p => (k + 32 * p.2, p.1)) ++ o.vvals }))

/-- Adding to a lane's value, and adding replies to come. -/
def State.countLane (s : State) (who : WRef) (op : Nat) (dest : Opnd) (lane n more : Nat) : State :=
  s.updAny who (fun w => w.updOp op (fun o => { o with
    parts := o.parts + more
    vvals := o.vvals.map (fun p => if destKey dest lane = some p.1 then (p.1, p.2 + BitVec.ofNat 32 n) else p) }))

/-- Setting a lane's predicate bit. -/
def State.givePred (s : State) (g : GMsg) (lane : Nat) : State :=
  match g.pred with
  | none => s
  | some (r, bit) =>
    s.updAny g.warp (fun w => w.updOp g.op (fun o => { o with
      vvals := o.vvals.map (fun p => if p.1 = r * 32 + lane then (p.1, p.2 ||| BitVec.ofNat 32 (2 ^ bit)) else p) }))

/-- A lane's destinations marked with POISON (10 R238). -/
def State.poisonLane (s : State) (g : GMsg) (lane : Nat) : State :=
  s.updAny g.warp (fun w => w.updOp g.op (fun o => { o with
    marks := o.marks ++ (o.dests.filter (fun d => d.2.getLsbD lane)).map (fun d =>
      { reg := d.1, lanes := if d.1 < 640 then BitVec.ofNat 32 (2 ^ lane) else d.2
        info := { code := 0x0A, mark := o.offset, opc := o.opc, lane := BitVec.ofNat 5 lane } }) }))

/-- A completion time on its way to the warp (10 R235; 07 R218). -/
def State.graphAck (s : State) (who : WRef) (op : Nat) : State :=
  if who = WRef.none then s
  else { s with m := { s.m with acks := s.m.acks ++ [{ id := s.fresh, warp := who, op := op, wct := s.time + margin 2 }] }, fresh := s.fresh + 1 }

/-- Forwarding a mirror update, or asking the out-home for a removal. -/
def State.forward (s : State) (g : GMsg) (lane : Nat) (u v : Nat) (kind : MKind) : State :=
  let m : MirrorMsg := { id := s.fresh, warp := g.warp, op := g.op, lane := lane, dest := g.dest, ctx := g.ctx, idx := g.idx, u := u, v := v, kind := kind }
  { s with g := { s.g with mirrors := s.g.mirrors ++ [m] }, fresh := s.fresh + 1 }

def State.setList (s : State) (x : GList) : State := { s with g := s.g.setList x }

/-- The payload that GRMW writes (10 R241). -/
def rmwNew (fn : Nat) (m w : W32) : W32 :=
  match fn with
  | 0 => m + w
  | 1 => if m.slt w then m else w
  | 2 => if m.slt w then w else m
  | 3 => if m.ult w then m else w
  | 4 => if m.ult w then w else m
  | 5 => m &&& w
  | 6 => m ||| w
  | 7 => m ^^^ w
  | 8 => w
  | 9 => BitVec.ofNat 32 (addF f32 FpMode.plain (f32.val m.toNat) (f32.val w.toNat)).1
  | n => BitVec.ofNat 32 (minMaxF f32 FpMode.plain (n == 11) false (f32.val m.toNat) (f32.val w.toNat)).1

/-- An update that nothing is forwarded for: its reply. -/
def State.settled (s : State) (g : GMsg) (l : GLane) (xs : List W32) : State := (s.giveLane g.warp g.op g.dest l.lane xs).graphAck g.warp g.op

/-- Mirror slots of a vertex's in-list, those on their way to it included. -/
def Graphs.inSlots (g : Graphs) (ctx idx v : Nat) : Nat :=
  (g.list ctx idx true v).slots.length + (g.mirrors.filter (fun m => m.ctx == ctx && m.idx == idx && m.v == v && (match m.kind with
    | .append _ => true
    | .setw _ => false
    | .kill => false
    | .asked => false))).length

/-- Appending an edge at the out-home (10 R233, R238, R240, R423): none while the out-home waits for the in-home's answer about mirror credit. -/
def State.append (s : State) (g : GMsg) (e : GEntry) (l : GLane) (x : GList) : Option State :=
  let o := e.home g.vertex
  let i := e.home l.x.toNat
  let cr := s.g.credit g.ctx g.idx o i
  if 2 ^ 32 - 2 ≤ x.slots.length ∨ 2 ^ 32 - 2 ≤ s.g.inSlots g.ctx g.idx l.x.toNat then some (s.settled g l [2])
  else
    match s.g.takeChunk g.ctx g.idx o x.slots.length with
    | none => some (s.settled g l [2])
    | some g1 =>
      if cr.unused = 0 then (if (s.g.share g.ctx g.idx i).free = 0 then some (s.settled g l [2]) else none)
      else
        let s1 := ({ s with g := g1.setCredit { cr with unused := cr.unused - 1 } }).setList { x with slots := x.slots ++ [({ nbr := l.x, payload := l.w, life := .live } : GSlot)] }
        some ((s1.giveLane g.warp g.op g.dest l.lane [0]).forward g l.lane g.vertex l.x.toNat (.append l.w))

/-- One lane of an update at the out-home (10 R238-R241). -/
def State.updateLane (s : State) (g : GMsg) (e : GEntry) (l : GLane) : Option State :=
  let x := s.g.list g.ctx g.idx false g.vertex
  let sent (x1 : GList) (vals : List W32) (k : MKind) : Option State :=
    some (((s.setList x1).giveLane g.warp g.op g.dest l.lane vals).forward g l.lane g.vertex l.x.toNat k)
  match g.kind with
  | .add =>
    if x.bad then some (s.settled g l [3])
    else
      match x.find l.x with
      | some _ => sent (x.change l.x (fun q => { q with payload := l.w })) [1] (.setw l.w)
      | none => s.append g e l x
  | .del =>
    if x.bad then some (s.settled g l [3])
    else
      match x.find l.x with
      | some _ => sent (x.change l.x (fun q => { q with life := .dying })) [1] .kill
      | none => some (s.settled g l [0])
  | .setw =>
    if x.bad then some (s.settled g l [3])
    else
      match x.find l.x with
      | some _ => sent (x.change l.x (fun q => { q with payload := l.w })) [1] (.setw l.w)
      | none => some (s.settled g l [0])
  | .rmw fn =>
    if x.bad then some (s.settled g l [Config.unstated (s.tick * 32 + l.lane), 3])
    else
      match x.find l.x with
      | some q => sent (x.change l.x (fun q => { q with payload := rmwNew fn q.payload l.w })) [q.payload, 1] (.setw (rmwNew fn q.payload l.w))
      | none => some (s.settled g l [0, 0])
  | _ => some s

/-- The walk of GDELV over a mirror list for one lane (10 R242): removals asked of the out-homes. -/
def State.askLane (s : State) (g : GMsg) (l : GLane) : State :=
  let x := s.g.list g.ctx g.idx true g.vertex
  let ns := if x.bad then [] else (x.slots.filter (·.isLive)).map (·.nbr)
  (ns.foldl (fun acc n => acc.forward g l.lane n.toNat g.vertex .asked) s).countLane g.warp g.op g.dest l.lane 0 ns.length

/-- The next removal of GDELV's walk of an out-list, from slot 0 on; none at its end (10 R242). Everything below the slot the walk has reached is dead, and the
message's first lane finds every edge; other operations may come between two removals. A poisoned list has none (log entry 84). -/
def State.walkOut (s : State) (g : GMsg) : Option State :=
  let x := s.g.list g.ctx g.idx false g.vertex
  match g.lanes, x.slots.find? (·.isLive) with
  | l :: _, some q =>
    if x.bad then none
    else some (((s.setList (x.change q.nbr (fun q => { q with life := .dying }))).forward g l.lane g.vertex q.nbr.toNat .kill).countLane g.warp g.op g.dest l.lane 1 1)
  | [], _ => none
  | _ :: _, none => none

/-- A read by rank or neighbour for one lane (10 R243). -/
def State.lookLane (s : State) (g : GMsg) (l : GLane) : State :=
  let x := s.g.list g.ctx g.idx g.dir g.vertex
  let live := x.slots.filter (·.isLive)
  if x.bad then s.poisonLane g l.lane
  else
    match g.kind with
    | .lde =>
      match live[l.x.toNat]? with
      | some q => (s.giveLane g.warp g.op g.dest l.lane [q.nbr, q.payload]).givePred g l.lane
      | none => s.giveLane g.warp g.op g.dest l.lane [0xFFFFFFFF, 0]
    | .find =>
      match live.findIdx? (fun q => q.nbr == l.x) with
      | some r => (s.giveLane g.warp g.op g.dest l.lane [BitVec.ofNat 32 r, ((live[r]?).map (·.payload)).getD 0]).givePred g l.lane
      | none => s.giveLane g.warp g.op g.dest l.lane [0xFFFFFFFF, 0]
    | _ => s.giveLane g.warp g.op g.dest l.lane [BitVec.ofNat 32 live.length]

/-- The warp of a reference, resident or saved, that has not exited. -/
def State.warpNow (s : State) (r : WRef) : Option Warp :=
  s.everyWarp.find? (fun w => w.ref == r && w.live && !w.exited)

/-- Opening a cursor for one lane (10 R246): nothing for a warp that has exited, POISON for a poisoned list (10 R238; log entry 84). -/
def State.openLane (s : State) (g : GMsg) (cur stride : Nat) (l : GLane) : State :=
  let x := s.g.list g.ctx g.idx g.dir g.vertex
  if (s.warpNow g.warp).isNone then s
  else if x.bad then s.poisonLane g l.lane
  else if 65535 ≤ x.opens then s.giveLane g.warp g.op g.dest l.lane [2]
  else
    let word := cursorWord x.slots.length l.x.toNat g.vertex g.idx stride l.x.toNat g.dir 1
    ((s.setList { x with opens := x.opens + 1 }).updAny g.warp (fun w => w.setCursor cur l.lane word)).giveLane g.warp g.op g.dest l.lane [0]

/-- Setting a slot's death time (10 R234): of a neighbour's dying slots the oldest. -/
def GList.die (x : GList) (n : W32) (t : Nat) : GList :=
  { x with slots := updFirst (fun q => q.life == .dying && q.nbr == n) (fun q => { q with life := .dead t }) x.slots }

/-- A list as its cursors see it: the death times that exist count although they are still on their way to the out-home (10 R248). -/
def State.withDeaths (s : State) (x : GList) : GList :=
  if x.dir then x
  else (s.g.deaths.filter (fun d => d.ctx == x.ctx && d.idx == x.idx && d.u == x.vertex)).foldl (fun acc d => acc.die (BitVec.ofNat 32 d.v) d.wct) x

/-- A slot that a cursor returns at time t (10 R247). -/
def GSlot.visible (x : GSlot) (t : Nat) : Bool :=
  match x.life with
  | .live => true
  | .dying => true
  | .dead d => decide (t < d)

/-- The first slot from a position in steps of a stride, below a horizon, that a cursor returns. -/
def GList.nextSlot (x : GList) (t pos h stride : Nat) : Option Nat :=
  (List.range h).find? (fun i => pos ≤ i && (i - pos) % stride == 0 && (x.slots[i]?).any (fun q => q.visible t))

/-- The position of an exhausted walk: the first step that reaches the horizon. -/
def pastHorizon (pos h stride : Nat) : Nat := if h ≤ pos then pos else pos + (h - pos + stride - 1) / stride * stride

/-- GNEXT for one lane (10 R247). -/
def State.nextLane (s : State) (g : GMsg) (cur : Nat) (l : GLane) : State :=
  match s.warpNow g.warp with
  | none => s
  | some w =>
    let x := s.g.list g.ctx g.idx g.dir g.vertex
    let q := w.cursor cur l.lane
    let step := max 1 (fieldOf q 19 14)
    let put (pos st : Nat) : State := s.updAny g.warp (fun w => w.setCursor cur l.lane (setField (setField q 95 64 pos) 7 6 st))
    if x.bad then s.poisonLane g l.lane
    else
      match (s.withDeaths x).nextSlot s.time (curPos q) (curHorizon q) step with
      | some i =>
        let y := (x.slots[i]?).getD ⟨0, 0, .live⟩
        ((put (i + step) (curState q)).giveLane g.warp g.op g.dest l.lane [y.nbr, y.payload]).givePred g l.lane
      | none => (put (pastHorizon (curPos q) (curHorizon q) step) 2).giveLane g.warp g.op g.dest l.lane [0xFFFFFFFF, 0]

/-- A reply to an operation that returns no completion time. -/
def State.graphReply (s : State) (g : GMsg) : State := if g.op = 0 then s else s.updAny g.warp (fun w => w.gotPart g.op (fun o => o))

/-- A graph operation at the home of its list: none where it must wait for mirror credit. -/
def State.applyGraph (s : State) (g : GMsg) (e : GEntry) : Option State :=
  match g.kind with
  | .add | .del | .setw | .rmw _ => g.lanes.foldlM (fun acc l => acc.updateLane g e l) s
  | .delv => some ((if g.dir then g.lanes.foldl (fun acc l => acc.askLane g l) s else s).graphAck g.warp g.op)
  | .deg | .lde | .find => some ((g.lanes.foldl (fun acc l => acc.lookLane g l) s).graphReply g)
  | .openc cur stride => some ((g.lanes.foldl (fun acc l => acc.openLane g cur stride l) s).graphReply g)
  | .next cur => some ((g.lanes.foldl (fun acc l => acc.nextLane g cur l) s).graphReply g)
  | .close =>
    let x := s.g.list g.ctx g.idx g.dir g.vertex
    some ((s.setList { x with opens := x.opens - g.lanes.length }).graphReply g)

/-- A graph engine whose stack is held keeps its operations waiting (10 R238; 17 R372). -/
def State.engineHeld (s : State) (stack : Nat) : Bool := s.m.holds.any (fun h => h.stack == stack)

/-- The homes that an update travels between (10 R235). -/
def Graphs.between (g : Graphs) (m : MirrorMsg) : Option (Nat × Nat) := (g.entry m.ctx m.idx).map (fun e => (e.home m.u, e.home m.v))

/-- An update of the same direction between the same homes was sent before it, of whichever graph (10 R235). -/
def Graphs.overtakes (g : Graphs) (m : MirrorMsg) : Bool :=
  (g.mirrors.takeWhile (fun x => x.id != m.id)).any (fun x => (x.kind == .asked) == (m.kind == .asked) && g.between x == g.between m)

/-- A removal that an in-home asked for, at the out-home (10 R242). -/
def State.applyAsked (s : State) (m : MirrorMsg) (e : GEntry) : State :=
  if s.engineHeld (e.home m.u) || s.g.overtakes m then s
  else
    let s1 := { s with g := { s.g with mirrors := s.g.mirrors.filter (fun x => x.id != m.id) } }
    let x := s1.g.list m.ctx m.idx false m.u
    let g : GMsg := { id := 0, warp := m.warp, op := m.op, ctx := m.ctx, idx := m.idx, dir := false, vertex := m.u, kind := .delv, lanes := [], dest := m.dest, pred := none }
    if x.bad || (x.find (BitVec.ofNat 32 m.v)).isNone then s1.graphAck m.warp m.op
    else
      ((s1.setList (x.change (BitVec.ofNat 32 m.v) (fun q => { q with life := .dying }))).countLane m.warp m.op m.dest m.lane 1 0).forward g m.lane m.u m.v .kill

/-- GRAPH_OUT_HOME_APPLY (10 R232, R235): an operation of a warp, after the warp's earlier ones on the same list; of a walk of GDELV over an out-list one removal
each time. -/
def execGraphOutHomeApply (k : Nat) (s : State) : Host.Outcome State Fault Refusal :=
  match s.g.msgs.find? (fun g => g.id == k) with
  | some g =>
    match s.g.entry g.ctx g.idx with
    | none => .next s
    | some e =>
      let earlier := s.g.msgs.takeWhile (fun x => x.id != k)
      if s.engineHeld (e.home g.vertex) || earlier.any (fun x => x.warp == g.warp && x.ctx == g.ctx && x.idx == g.idx && x.dir == g.dir && x.vertex == g.vertex) then .next s
      else
        match (if g.kind = .delv ∧ g.dir = false then s.walkOut g else none) with
        | some s1 => .next s1
        | none =>
          match ({ s with g := { s.g with msgs := s.g.msgs.filter (fun x => x.id != k) } }).applyGraph g e with
          | none => .next s
          | some s1 => .next s1
  | none =>
    match s.g.mirrors.find? (fun m => m.id == k && m.kind == .asked) with
    | none => .next s
    | some m =>
      match s.g.entry m.ctx m.idx with
      | none => .next s
      | some e => .next (s.applyAsked m e)

/-- A mirror update on the in-list (10 R240). -/
def GList.mirror (x : GList) (u : W32) (wct : Nat) : MKind → GList
  | .append w => { x with slots := x.slots ++ [⟨u, w, .live⟩] }
  | .setw w => x.change u (fun q => { q with payload := w })
  | .kill => x.change u (fun q => { q with life := .dead wct })
  | .asked => x

/-- MIRROR_UPDATE_APPLY (10 R234, R235): updates from one home to another in the order in which the first applied them; the completion time goes
back to the warp, and that of a removal to the out-home. A poisoned mirror list drops it (log entry 84). -/
def execMirrorUpdateApply (k : Nat) (s : State) : Host.Outcome State Fault Refusal :=
  match s.g.mirrors.find? (fun m => m.id == k && m.kind != .asked) with
  | none => .next s
  | some m =>
    match s.g.entry m.ctx m.idx with
    | none => .next s
    | some e =>
      if s.engineHeld (e.home m.v) || s.g.overtakes m then .next s
      else
        let wct := s.time + margin 2
        let x := s.g.list m.ctx m.idx true m.v
        let s1 := { s with g := { s.g with mirrors := s.g.mirrors.filter (fun x => x.id != k) } }
        let s2 := if x.bad then s1 else s1.setList (x.mirror (BitVec.ofNat 32 m.u) wct m.kind)
        let s3 :=
          if m.kind = .kill then
            { s2 with g := { s2.g with deaths := s2.g.deaths ++ [({ id := s2.fresh, ctx := m.ctx, idx := m.idx, u := m.u, v := m.v, wct := wct } : DeathMsg)] }, fresh := s2.fresh + 1 }
          else s2
        .next (s3.graphAck m.warp m.op)

/-- DEATH_TIME_SET (10 R234): the pending death time becomes the removal's completion time; the oldest death of an edge first. -/
def execDeathTimeSet (k : Nat) (s : State) : Host.Outcome State Fault Refusal :=
  match s.g.deaths.find? (fun d => d.id == k) with
  | none => .next s
  | some d =>
    let earlier := s.g.deaths.takeWhile (fun x => x.id != k)
    if earlier.any (fun x => x.ctx == d.ctx && x.idx == d.idx && x.u == d.u && x.v == d.v) then .next s
    else
      let s1 := { s with g := { s.g with deaths := s.g.deaths.filter (fun y => y.id != k) } }
      .next (s1.setList ((s.g.list d.ctx d.idx false d.u).die (BitVec.ofNat 32 d.v) d.wct))

/-- MIRROR_CREDIT_RESERVE (10 R423): the in-home reserves a chunk of 60 slots while its share has one, at most 1,024 slots outstanding. -/
def execMirrorCreditReserve (g outHome inHome : Nat) (s : State) : Host.Outcome State Fault Refusal :=
  let ctx := g / 4096
  let idx := g % 4096
  let cr := s.g.credit ctx idx outHome inHome
  let sh := s.g.share ctx idx inHome
  if (s.g.entry ctx idx).isNone || 16 ≤ outHome || 16 ≤ inHome || s.engineHeld inHome || 1024 < cr.unused + 60 || sh.free == 0 then .next s
  else .next { s with g := (s.g.setShare { sh with free := sh.free - 1, mirror := sh.mirror + 1 }).setCredit { cr with unused := cr.unused + 60 } }

/-- Chunks that mirror slots of a share still need: its in-lists' slots and the credit not yet used, 60 a chunk (log entry 36). -/
def Graphs.mirrorNeed (g : Graphs) (e : GEntry) (stack : Nat) : Nat :=
  let slots := (g.lists.filter (fun l => l.ctx == e.ctx && l.idx == e.idx && l.dir && e.home l.vertex == stack)).map (fun l => l.slots.length)
  let credit := (g.credits.filter (fun c => c.ctx == e.ctx && c.idx == e.idx && c.inHome == stack)).map (·.unused)
  chunksOf (slots.sum + credit.sum)

/-- LIST_RECLAMATION (10 R250, R423): with no open cursor, dead slots whose death times have passed go, and chunks that this leaves empty return to the share; for
a mirror list no more than the share's reservation allows. -/
def execListReclamation (g dir vertex : Nat) (s : State) : Host.Outcome State Fault Refusal :=
  let ctx := g / 4096
  let idx := g % 4096
  match s.g.entry ctx idx with
  | none => .next s
  | some e =>
    let x := s.g.list ctx idx (dir == 1) vertex
    let keep := x.slots.filter (fun q => match q.life with | .live => true | .dying => true | .dead d => decide (s.time < d))
    if x.opens ≠ 0 ∨ keep.length = x.slots.length ∨ s.engineHeld (e.home vertex) = true then .next s
    else
      let g1 := s.g.setList { x with slots := keep }
      let sh := s.g.share ctx idx (e.home vertex)
      let empty := chunksOf x.slots.length - chunksOf keep.length
      let n := if dir = 1 then min empty (sh.mirror - g1.mirrorNeed e (e.home vertex)) else empty
      .next { s with g := g1.setShare { sh with free := sh.free + n, mirror := if dir = 1 then sh.mirror - n else sh.mirror } }

end Sys2Proof.Machine
end

