-- ==== Sys2Proof/Machine/Frames.lean ====
section
/-!
DEFINITION. Warp frames and the save area (15 R345, R346), the filling of absent registers, and arrivals at registers (14 R300, R304; 15
R347), resident or saved. Log entry 38 says where the fields that R345 keeps private to the device live.
-/
namespace Sys2Proof.Machine

/-! The layout (15 R345). -/

/-- The CSRs of a frame in order. -/
def Csrs.listed (c : Csrs) : List W64 :=
  [c.fpmode, c.fpstatus, c.partition, c.checksb, c.echotimeout, c.groups, c.extblk, c.warpcfg, c.codebase, c.horizon, c.resume, c.trapbase,
    c.trapinfo, c.trapaddr, c.trapaux, c.traplanes, c.trapswap, c.trapremote]

/-- The value FPMODE takes: a reserved RM leaves the field as it was (01 R34). -/
def fpmodeOf (old x : W64) : W64 := if x.toNat % 8 ≤ 4 then x &&& 0x1F else (x &&& 0x18) ||| (old &&& 7)

/-- The value PARTITION takes: a reserved TW leaves it as it was (01 R34). -/
def partitionOf (old x : W64) : W64 := if 1 ≤ x.toNat % 8 ∧ x.toNat % 8 ≤ 5 then x &&& 7 else old

/-- The registers that a frame holds: reserved bits are not loaded (00 R10; 01 R34; 15 R330, R333). -/
def Csrs.ofList (l : List W64) : Csrs :=
  let g (i : Nat) : W64 := l.getD i 0
  { fpmode := fpmodeOf 0 (g 0), fpstatus := g 1 &&& 0x1F, partition := partitionOf 5 (g 2), checksb := g 3 &&& 1, echotimeout := g 4 &&& 0xFFFFFFFFFF
    groups := g 5 &&& 0x80FF80FF80FF80FF, extblk := g 6 &&& 0xF, warpcfg := g 7 &&& 0x37F, codebase := g 8 &&& 0x7FFFFFFFFF0000, horizon := g 9
    resume := g 10 &&& 0x8000FF7F, trapbase := g 11 &&& 0x7FFFFFFFFFFF00, trapinfo := g 12 &&& 0xFFFFFFFF00003FFF, trapaddr := g 13, trapaux := g 14
    traplanes := g 15, trapswap := g 16, trapremote := g 17 &&& 0xFFFFFFFF }

/-- The registers that a warp holds: base and acquired blocks, scalars. -/
def Warp.vcount (w : Warp) : Nat := 128 + 64 * w.blocksHeld
def Warp.heldCodes (w : Warp) : List Nat := List.range w.vcount ++ (List.range 64).map (640 + ·)

/-- A byte of the arrival states: four registers. -/
def Warp.arrByte (w : Warp) (i : Nat) : Byte := BitVec.ofNat 8 ((List.range 4).map (fun j => (w.arr.get (4 * i + j)).toNat * 4 ^ j)).sum

/-- An entry of the grant table in a frame: its fields, and the valid bit above them. -/
def grantBytes (g : Option Grant) : List Byte := bytesOf 16 ((g.map (fun x => x.fields.toNat + x.valid.toNat * 2 ^ 96)).getD 0)

/-- The regions of a warp's frame. A frame of CTXSAVE holds the user's lanes and s63 (15 R348). -/
def Warp.frame0 (w : Warp) (grants : List Grant) (user : Bool) : List (Nat × List Byte) :=
  let s63 := if user then w.csr.trapswap else w.s.get 63
  let entry (e : Nat) : Option Grant := grants.find? (fun g => g.ref == w.ref && g.entry == e)
  [(0x0000, lanesBytes (if user then w.tlpc else w.lpc) 0 32), (0x0080, lanesBytes w.yaddr 0 32),
    (0x0100, bytesOf 8 (if user then w.tlstate else w.lstate).toNat ++ bytesOf 4 w.seen.toNat ++ bytesOf 4 (w.frameFlags user)),
    (0x0110, (List.range 8).flatMap (fun k => bytesOf 16 ((w.decl k).toNat + (w.signed k).toNat * 2 ^ 32 + (w.kaddr.get k).toNat * 2 ^ 64))),
    (0x0190, w.csr.listed.flatMap (fun x => bytesOf 8 x.toNat)), (0x0290, (List.range 176).map w.arrByte),
    (0x0340, (List.range 16).flatMap (fun e => grantBytes (entry e))), (0x0440, lanesBytes w.tlpc 0 32 ++ bytesOf 8 w.tlstate.toNat),
    (0x0800, (List.range 63).flatMap (fun i => bytesOf 8 (w.s.get i).toNat) ++ bytesOf 8 s63.toNat),
    (0x1000, (List.range 8).flatMap (fun c => (List.range 32).flatMap (fun l => bytesOf 16 (w.cursor c l).toNat))),
    (0x2000, lanesBytes w.v 0 (32 * w.vcount))] ++
    (List.range w.tiles).flatMap (fun t =>
      [(0x16000 + 0x4100 * t, lanesBytes w.acc (4096 * t) 4096), (0x16000 + 0x4100 * t + 0x4000, bytesOf 8 (w.accPoison.get t).toNat)])

/-- Writing regions at a base address: none where a byte does not translate. -/
def State.writeRegions (s : State) (core : CoreId) (ctx base : Nat) (rs : List (Nat × List Byte)) : Option State :=
  rs.foldlM (fun acc r => acc.agentWrite core ctx (base + r.1) r.2) s

/-! Reading a frame. -/

/-- Numbers of n bytes at successive offsets of a frame. -/
def frameNums (bs : List Byte) (n count : Nat) : List Nat := (List.range count).map (fun i => numAt bs (n * i) n)

/-- GRANULE_FILL (15 R346): the absent registers of a granule of eight are filled: v8g to v8g+7 for g below 80, scalars from there. -/
def execGranuleFill (i : WarpId) (granule : Nat) (s : State) : Host.Outcome State Fault Refusal :=
  match s.findWarp i with
  | none => .next s
  | some w =>
    if s.fillHeld w ((List.range 8).map (8 * granule + ·)) then .next s else
    match s.fillRegs w ((List.range 8).map (8 * granule + ·)) with
    | some w1 => .next (s.updWarp i (fun _ => w1))
    | none => .next (s.frameFatal w)

/-! Arrivals (14 R300). -/

/-- What arrives at a register: 32-bit values of lanes, or a 64-bit value. -/
structure Arriving where
  code : Nat
  lanes : Lanes
  vals : List W32
  sval : W64
  deriving DecidableEq, Repr

/-- The value writes of an arrival. -/
def Arriving.writes (a : Arriving) : List (Nat × W32) × List (Nat × W64) :=
  if a.code < 640 then ((bitList a.lanes).map (fun l => (a.code * 32 + l, a.vals.getD l 0)), []) else ([], [(a.code - 640, a.sval)])

/-- An armed register takes a value, and so does an idle one under the arm-on-write right. -/
def Warp.takes (w : Warp) (code : Nat) (aow : Bool) : Bool := w.arr.get code == 1 || (w.arr.get code == 0 && aow)

/-- The register file takes a value: the register is full. -/
def Warp.fillArrival (w : Warp) (a : Arriving) : Warp :=
  let w1 := w.writeRegs a.writes.1 a.writes.2
  { w1 with arr := w1.arr.set a.code 2 }

/-- A register of a frame takes a value: it is full, and as absent as it was. -/
def Warp.frameArrival (w : Warp) (a : Arriving) : Warp :=
  let w1 := w.noteWrite a.code (if a.code < 640 then a.lanes else BitVec.allOnes 32)
  { w1 with arr := w1.arr.set a.code 2, absent := w.absent }

/-- The bytes of a register in a frame that an arrival replaces, by offset. -/
def Arriving.frame (a : Arriving) : List (Nat × List Byte) :=
  if a.code < 640 then (bitList a.lanes).map (fun l => (regOffset a.code + 4 * l, bytesOf 4 (a.vals.getD l 0).toNat))
  else [(regOffset a.code, bytesOf 8 a.sval.toNat)]

/-- Keeping the arrival state of a register in a frame. -/
def State.noteArr (s : State) (w : Warp) (frame code : Nat) : State :=
  (s.agentWrite (agentCore w.id.core.die) w.ctx (frame + 0x290 + code / 4) [w.arrByte (code / 4)]).getD s

/-- The frame of a saved warp. -/
def State.savedFrame (s : State) (r : WRef) : Nat := ((s.cohortOf r).map (fun c => c.frameVa r.widx)).getD 0
def State.savedWarp (s : State) (r : WRef) : Option Warp := (s.t.saved.flatMap (·.warps)).find? (fun w => w.ref == r)

/-- An arrival at a warp's register (14 R300, R303, R304; 15 R347): the state and the status 0, 1 or 2. A value for some lanes of an absent
register goes to the frame, a whole one to the register. -/
def State.arriveReg (s : State) (r : WRef) (a : Arriving) (aow : Bool) : State × Nat :=
  match s.findRef r with
  | some w =>
    if !w.takes a.code aow then (s, 2)
    else if w.absent.getLsbD a.code && a.code < 640 && a.lanes != BitVec.allOnes 32 then
      let s1 := (s.writeRegions (agentCore w.id.core.die) w.ctx w.frame.toNat a.frame).getD s
      (s1.updRef r (fun w => w.frameArrival a), 1)
    else (s.updRef r (fun w => w.fillArrival a), 0)
  | none =>
    match s.savedWarp r with
    | none => (s, 2)
    | some w =>
      if !w.takes a.code aow then (s, 2)
      else
        let s1 := (s.writeRegions (agentCore w.id.core.die) w.ctx (s.savedFrame r) a.frame).getD s
        ((s1.updAny r (fun w => w.frameArrival a)).noteArr (w.frameArrival a) (s.savedFrame r) a.code, 1)

/-- Marking an armed register with a fault (14 R311, R312). -/
def State.markArmed (s : State) (r : WRef) (code : Nat) (x : FaultInfo) : State :=
  match s.warpNow r with
  | none => s
  | some w =>
    if w.arr.get code ≠ 1 then s
    else
      let g (w : Warp) : Warp :=
        { w with arr := w.arr.set code 3, marks := w.marks ++ [{ reg := code, lanes := BitVec.allOnes 32, info := x }] }
      let s1 := s.updAny r g
      if (s.findRef r).isSome then s1 else s1.noteArr (g w) (s.savedFrame r) code

end Sys2Proof.Machine
end

