-- ==== Sys2Proof/Machine/Fabric.lean ====
section
/-!
DEFINITION. The register fabric (14 R295-R305, R324, R325): capabilities and grants, arming and polling, remote register writes and their
statuses, task signals, register blocks. Log entry 28 says what other devices answer.
-/
namespace Sys2Proof.Machine

/-! Capabilities (14 R295, R296). -/

/-- The key number of a context. -/
def MemSys.capKey (m : MemSys) (ctx : Nat) : Nat := ((m.context ctx).map (·.capKey)).getD 0

/-- The low 96 bits of a capability; the tag above them. -/
def capLow (x : BitVec 128) : BitVec 96 := x.setWidth 96
def capTagged (m : MemSys) (ctx : Nat) (x : BitVec 128) : Bool := (x >>> (96 : Nat)).setWidth 32 == Config.capTag (m.capKey ctx) (capLow x)

def capEntry (f : BitVec 96) : Nat := fieldOf f 83 80
def capDev (f : BitVec 96) : Nat := fieldOf f 79 72
def capRef (f : BitVec 96) : WRef := ⟨fieldOf f 71 67, fieldOf f 66 61, fieldOf f 60 55, fieldOf f 54 50⟩
def capFirst (f : BitVec 96) : Nat := fieldOf f 46 37
def capCount (f : BitVec 96) : Nat := fieldOf f 36 27 + 1

/-- The checks that a sender makes (14 R299, cause 1). -/
def capOk (m : MemSys) (ctx : Nat) (x : BitVec 128) : Bool :=
  capTagged m ctx x && (capLow x).getLsbD 48 && (capRef (capLow x)).die ≤ 3 && (capRef (capLow x)).cluster ≤ 47

/-- The fields of a granted capability. -/
def capFields (ref : WRef) (dev entry gen : Nat) (aow scalar : Bool) (first count : Nat) : BitVec 96 :=
  BitVec.ofNat 96 (gen % 2 ^ 12 * 2 ^ 84 + entry % 16 * 2 ^ 80 + dev % 256 * 2 ^ 72 + ref.die % 32 * 2 ^ 67 + ref.cluster % 64 * 2 ^ 61 +
    ref.cslot % 64 * 2 ^ 55 + ref.widx % 32 * 2 ^ 50 + aow.toNat * 2 ^ 49 + 2 ^ 48 + scalar.toNat * 2 ^ 47 + first % 1024 * 2 ^ 37 +
    (count - 1) % 1024 * 2 ^ 27 + gen / 2 ^ 12 % 2 ^ 27)

/-- An entry of a grant table; never granted where none is listed. -/
def Fabric.grant (f : Fabric) (r : WRef) (e : Nat) : Grant := (f.grants.find? (fun g => g.ref == r && g.entry == e)).getD ⟨r, e, false, 0, 0⟩
def Fabric.setGrant (f : Fabric) (g : Grant) : Fabric := { f with grants := putBy (fun x => x.ref == g.ref && x.entry == g.entry) g f.grants }

/-- A retired entry is never used again (14 R296). -/
def Grant.retired (g : Grant) : Bool := 2 ^ 39 - 1 ≤ g.gen

/-- The lowest entry that is neither valid nor retired. -/
def Fabric.freeEntry (f : Fabric) (r : WRef) : Option Nat := (List.range 16).find? (fun e => !(f.grant r e).valid && !(f.grant r e).retired)

/-- The first register of a range, by class and number. -/
def rangeOf (o : Opnd) : Bool × Nat := match o with | .v r => (false, r) | .s r => (true, r) | .sp _ => (true, 0)

/-- The code of a register. -/
def regCode (scalar : Bool) (r : Nat) : Nat := if scalar then 640 + r else r

/-- RGRANT (14 R297). -/
def rgrantEff (f : Fields) (c : Ctx) (s : State) : Eff :=
  match s.f.freeEntry s.w.ref with
  | none => c.whole 0x0E 4
  | some e =>
    let gen := (s.f.grant s.w.ref e).gen + 1
    let (sc, first) := rangeOf f.a
    let fields := capFields s.w.ref s.m.devId.toNat e gen (f.modBits 11 11 == 1) sc first (f.modBits 9 0 + 1)
    let tag := Config.capTag (s.m.capKey s.w.ctx) fields
    let d := match f.d with | .s r => r | .v _ => 0 | .sp _ => 0
    .ok { st := { s with f := s.f.setGrant ⟨s.w.ref, e, true, gen, fields⟩ }
          sv := [(d, fields.setWidth 64), (d + 1, BitVec.ofNat 64 (fields.toNat / 2 ^ 64 + tag.toNat * 2 ^ 32))] }
def execRgrant (f : Fields) (s : State) : Host.Outcome State Fault Refusal := nextOf (runWarp (.rgrant f) { lat := .cycles 6 } (rgrantEff f) s)

/-- A capability held in an even scalar pair. -/
def State.readCap (s : State) (o : Opnd) : BitVec 128 :=
  match o with
  | .s r => (s.w.readS s.tick (r + 1)) ++ (s.w.readS s.tick r)
  | .v _ => 0
  | .sp _ => 0

/-- RREVOKE (14 R298). -/
def rrevokeEff (f : Fields) (c : Ctx) (s : State) : Eff :=
  let put (p : Grant → Bool) : Eff :=
    .ok { st := { s with f := { s.f with grants := s.f.grants.map (fun g => if g.ref == s.w.ref && p g then { g with valid := false } else g) } } }
  if f.sub = 1 then put (fun _ => true)
  else
    let x := s.readCap f.a
    let low := capLow x
    if !capOk s.m s.w.ctx x || capRef low != s.w.ref || capDev low != s.m.devId.toNat then c.whole 0x0E 1
    else
      let g := s.f.grant s.w.ref (capEntry low)
      if !g.valid || g.fields != low then c.whole 0x0E 2 else put (fun y => y.entry == capEntry low)
def execRrevoke (f : Fields) (s : State) : Host.Outcome State Fault Refusal := nextOf (runWarp (.rrevoke f) {} (rrevokeEff f) s)

/-- The RARM event of 14 R300 on some registers: a mark that an arrival left is cleared. -/
def Warp.arm (w : Warp) (codes : List Nat) : Warp :=
  { w with
    arr := codes.foldl (fun acc r => acc.set r 1) w.arr
    marks := w.marks.filter (fun k => !(codes.contains k.reg && w.arr.get k.reg == 3)) }

/-- RARM (14 R301). -/
def execRarm (f : Fields) (s : State) : Host.Outcome State Fault Refusal :=
  nextOf (runWarp (.rarm f) {} (fun _ s => .ok { st := s.updW (fun w => w.arm (regsOf (shapeOf (.rarm f)).a f.a)) }) s)

/-- RPOLL (14 R305). -/
def execRpoll (f : Fields) (s : State) : Host.Outcome State Fault Refusal :=
  nextOf (runWarp (.rpoll f) {} (fun c s =>
    let codes := regsOf (shapeOf (.rpoll f)).a f.a
    let x : W32 := ofBits 32 ((List.range codes.length).filter (fun i => s.w.arr.get (codes.getD i 0) != 1))
    c.lanes32 false s (fun _ => x)) s)

/-! Remote register writes (14 R302-R304). -/

/-- The source of RPUT is read in every lane. -/
def rputPlan (f : Fields) : Plan := { lat := .later, src := fun _ g r => if (regsOf .reg f.c).contains r then BitVec.allOnes 32 else g }

/-- RPUT (14 R302). -/
def rputEff (f : Fields) (c : Ctx) (s : State) : Eff :=
  match c.uni32 s f.b with
  | none => c.whole 0x03 0
  | some off =>
    let x := s.readCap f.a
    let low := capLow x
    let scalar := (rangeOf f.c).1
    if !capOk s.m s.w.ctx x then c.whole 0x0E 1
    else if capCount low ≤ off.toNat || scalar != low.getLsbD 47 then c.whole 0x0E 3
    else
      let p : Rput :=
        { id := s.fresh, src := s.w.ref, op := c.id, dev := capDev low, dst := capRef low, entry := capEntry low, gen := 0, fields := low
          aow := low.getLsbD 49, reg := regCode scalar (capFirst low + off.toNat), lanes := c.g
          vals := if scalar then [] else (List.range 32).map (s.read32 f.c), sval := if scalar then s.read64 f.c 0 else 0 }
      let sent : Eff :=
        .ok { st := { s with f := { s.f with puts := s.f.puts ++ [p] }, fresh := s.fresh + 1 }
              op := some { c.op with parts := 1, dests := destOf f.d c.g } }
      if f.modBits 4 3 = 2 then s.fencePart c (f.modBits 2 0) sent else sent
def execRput (f : Fields) (s : State) : Host.Outcome State Fault Refusal := nextOf (runWarp (.rput f) (rputPlan f) (rputEff f) s)

/-- What a register write meets at its target (14 R296, R299, R300): the state, the status, the cause of a refusal. -/
def State.putAt (s : State) (dst : WRef) (fields : BitVec 96) (a : Arriving) : State × Nat × Nat :=
  match s.warpNow dst with
  | none => (s, 3, 5)
  | some w =>
    let g := s.f.grant dst (capEntry fields)
    if !g.valid || g.fields != fields then (s, 3, 2)
    else if w.regMissing a.code then (s, 3, 6)
    else
      let r := s.arriveReg dst a (fields.getLsbD 49)
      (r.1, r.2, 0)

/-- Another device cannot be reached (19 R405). -/
def State.unreachable (s : State) (dev : Nat) : Bool := s.h.peers.any (fun p => p.dev == dev && p.unreachable)

/-- RPUT_ARRIVAL (14 R300, R303; 19 R404): in issue order between two warps, and in sending order to another device. -/
def execRputArrival (k : Nat) (s : State) : Host.Outcome State Fault Refusal :=
  match s.f.puts.find? (fun p => p.id == k) with
  | none => .next s
  | some p =>
    if (s.f.puts.takeWhile (fun x => x.id != k)).any (fun x => x.dev == p.dev && ((x.src == p.src && x.dst == p.dst) || p.dev != s.m.devId.toNat)) then .next s
    else
      let s1 := { s with f := { s.f with puts := s.f.puts.filter (fun x => x.id != k) } }
      let r : State × Nat × Nat :=
        if p.dev = s.m.devId.toNat then s1.putAt p.dst p.fields ⟨p.reg, p.lanes, p.vals, p.sval⟩
        else if s.unreachable p.dev then (s1, 3, (Config.unstated s.tick).toNat)
        else (s1, Config.peerStatus s.tick % 4, (Config.unstated s.tick).toNat)
      .next { r.1 with
        f := { r.1.f with statuses := r.1.f.statuses ++ [{ id := r.1.fresh, src := p.src, op := p.op, status := r.2.1, cause := r.2.2 }] }
        fresh := r.1.fresh + 1 }

/-- RPUT_STATUS_RETURN (14 R303): the status goes to the register, or, without one, statuses 2 and 3 are deferred as OVERWRITE and CAPABILITY. -/
def execRputStatusReturn (k : Nat) (s : State) : Host.Outcome State Fault Refusal :=
  match s.f.statuses.find? (fun p => p.id == k) with
  | none => .next s
  | some p =>
    let s1 := { s with f := { s.f with statuses := s.f.statuses.filter (fun x => x.id != k) } }
    .next (s1.updAny p.src (fun w =>
      match w.findOp p.op with
      | none => w
      | some o =>
        let x : W32 := BitVec.ofNat 32 p.status
        let info : FaultInfo := { code := if p.status = 2 then 0x0F else 0x0E, cause := BitVec.ofNat 6 p.cause, mark := o.offset, acc := 1 }
        let w1 := if o.dests = [] ∧ 2 ≤ p.status then { w with deferred := w.deferred ++ [{ slot := o.slot, ticket := none, info := info }] } else w
        w1.gotPart p.op (fun o => { o with
          vvals := o.dests.flatMap (fun d => if d.1 < 640 then (bitList d.2).map (fun l => (d.1 * 32 + l, x)) else [])
          svals := o.dests.flatMap (fun d => if d.1 < 640 then [] else [(d.1 - 640, x.setWidth 64)]) })))

/-! Tasks (14 R324). -/

/-- Telling the scheduler, which answers with a status. -/
def tellTask (f : Fields) (c : Ctx) (s : State) (e : Option (WRef × Nat) → TaskEvent) : Eff :=
  match c.uni32 s f.a with
  | none => c.whole 0x03 0
  | some t =>
    let o : Op := { c.op with parts := 1, dests := destOf f.d c.g }
    let s1 := s.updW (fun w =>
      let w1 := o.dests.foldl (fun acc d => acc.noteWrite d.1 d.2) w
      { (w1.slotUp o.slot) with ops := w1.ops ++ [o] })
    .ok { st := s1.taskEvent s.w.ctx t (e (some (s.w.ref, o.id))) }

/-- TASK.SIGNAL and TASK.LAUNCH (14 R324). -/
def execTaskSignal (f : Fields) (s : State) : Host.Outcome State Fault Refusal :=
  nextOf (runWarp (.taskSignal f) { lat := .later } (fun c s => tellTask f c s .decrement) s)
def execTaskLaunch (f : Fields) (s : State) : Host.Outcome State Fault Refusal :=
  nextOf (runWarp (.taskLaunch f) { lat := .later } (fun c s => tellTask f c s .launch) s)

/-! Register blocks (01 R29, R30; 14 R325). -/

def State.coreSt (s : State) (c : CoreId) : CoreSt := (s.cores.find? (fun x => x.core == c)).getD ⟨c, 0, []⟩
def State.setCore (s : State) (x : CoreSt) : State := { s with cores := putBy (fun y => y.core == x.core) x s.cores }

/-- Blocks of a core's extended pool that no warp holds or has reserved (01 R30). -/
def State.freeBlocks (s : State) (c : CoreId) : Nat :=
  32 - ((s.allWarps.filter (fun w => w.id.core == c)).map (fun w => max w.regs w.blocksHeld)).sum

/-- Blocks lo + 1 to hi dropped: they read zero, and lose their arrival states and marks (01 R29; 14 R300). -/
def Warp.clearBlocks (w : Warp) (lo hi : Nat) : Warp :=
  let a := 64 * lo + 128
  let b := 64 * hi + 128
  { w with
    v := w.v.dropRange (32 * a) (32 * b), arr := w.arr.dropRange a b, marks := w.marks.filter (fun k => k.reg < a || b ≤ k.reg)
    absent := w.absent &&& ~~~(ofBits 704 ((List.range (b - a)).map (a + ·))), csr := { w.csr with extblk := setField w.csr.extblk 3 0 hi } }
def Warp.setBlocks (w : Warp) (n : Nat) : Warp := { w with csr := { w.csr with extblk := setField w.csr.extblk 3 0 n } }

/-- RACQ (01 R30; 14 R325): held until the whole request can be met, in the order of the requests of the core. -/
def racqEff (f : Fields) (c : Ctx) (s : State) : Eff :=
  match c.uni32 s f.a with
  | none => c.whole 0x03 0
  | some x =>
    let k := x.toNat % 16
    let n := s.w.blocksHeld
    let q := s.coreSt s.w.id.core
    let need := n + k - max n s.w.regs
    if 8 < n + k then c.whole 0x04 0
    else if k = 0 then .ok { st := s }
    else if 0 < need ∧ ((q.racq.any (fun r => r != s.w.ref) && q.racq.head? != some s.w.ref) || decide (s.freeBlocks s.w.id.core < need)) = true then
      .hold (fun s =>
        let y := s.coreSt s.w.id.core
        if y.racq.contains s.w.ref then s else s.setCore { y with racq := y.racq ++ [s.w.ref] })
    else .ok { st := (s.setCore { q with racq := q.racq.filter (· != s.w.ref) }).updW (fun w => w.clearBlocks n (n + k)) }
def execRacq (f : Fields) (s : State) : Host.Outcome State Fault Refusal := nextOf (runWarp (.racq f) {} (racqEff f) s)

/-- The echoes of the focus warp's calls for registers from lo up to hi will be discarded (14 R325). -/
def State.releaseEchoes (s : State) (lo hi : Nat) : State :=
  { s with f := { s.f with calls := s.f.calls.map (fun (c : Call) =>
      if c.caller == s.w.ref then
        { c with gone := c.gone ++ ((List.range c.echoCnt).map (c.echoReg + ·)).filter (fun r => decide (lo ≤ r) && decide (r < hi)) }
      else c) } }

/-- RREL (14 R325): held while a result is pending into the blocks. -/
def rrelEff (f : Fields) (c : Ctx) (s : State) : Eff :=
  match c.uni32 s f.a with
  | none => c.whole 0x03 0
  | some x =>
    let k := x.toNat % 16
    let n := s.w.blocksHeld
    if n < k then c.whole 0x04 0
    else if k = 0 then .ok { st := s }
    else
      let lo := 64 * (n - k) + 128
      let hi := 64 * n + 128
      if s.w.ops.any (fun o => o.dests.any (fun d => lo ≤ d.1 && d.1 < hi)) then .hold (fun s => s)
      else .ok { st := (s.releaseEchoes lo hi).updW (fun w => (w.clearBlocks (n - k) n).setBlocks (n - k)) }
def execRrel (f : Fields) (s : State) : Host.Outcome State Fault Refusal := nextOf (runWarp (.rrel f) {} (rrelEff f) s)

end Sys2Proof.Machine
end

