-- ==== Sys2Proof/Machine/Lumens.lean ====
section
/-!
DEFINITION. The lumen pools (18 R390-R392): requests, the order of grants, replenishment, and changes of RATE.
-/
namespace Sys2Proof.Machine

def State.pool (s : State) (die : Nat) : Pool := (s.e.pools.find? (fun p => p.die == die)).getD ⟨die, 0, 0, 0, 0⟩
def State.setPool (s : State) (p : Pool) : State := { s with e := { s.e with pools := putBy (fun q => q.die == p.die) p s.e.pools } }

/-- A request has waited through 16 replenishes (18 R392). -/
def LumenReq.old (q : LumenReq) : Bool := 16 ≤ q.age

/-- Whether a request comes before another in the order of grants (18 R392). -/
def LumenReq.first (a b : LumenReq) : Bool :=
  if a.old != b.old then a.old
  else if a.old then a.order < b.order
  else if a.cls ≠ b.cls then b.cls < a.cls
  else if a.act ≠ b.act then a.act < b.act
  else a.order < b.order

/-- The request that leads the order among those that wait on a pool. -/
def State.lumenLeader (s : State) (die : Nat) : Option LumenReq :=
  (s.e.lumens.filter (fun q => q.die == die && !q.granted)).foldl
    (fun acc q => match acc with | none => some q | some b => if q.first b then some q else some b) none

/-- The grant condition (18 R390). -/
def Pool.fits (p : Pool) (n : Nat) : Bool := (min n p.cap : Int) ≤ p.level

/-- Granting in order until a request does not fit (18 R392). -/
def State.grant (s : State) (die : Nat) : Nat → State
  | 0 => s
  | fuel + 1 =>
    match s.lumenLeader die with
    | none => s
    | some q =>
      let p := s.pool die
      if p.fits q.amount then
        let s1 := s.setPool { p with level := p.level - q.amount }
        ({ s1 with e := { s1.e with lumens := updFirst (fun x => x.order == q.order) (fun x => { x with granted := true }) s1.e.lumens } }).grant die fuel
      else s

/-- A warp's request for an instruction: none while it waits; the state without it once it is granted (18 R391, R392). A request arrives the
first time the instruction is tried. -/
def State.lumens (s : State) (die : Nat) (who : WRef) (offset : W32) (amount cls act : Nat) : State × Bool :=
  let mine (q : LumenReq) : Bool := q.warp == who && q.offset == offset
  let s1 :=
    match s.e.lumens.find? mine with
    | some _ => s
    | none =>
      let q : LumenReq := { die := die, warp := who, offset := offset, amount := amount, cls := cls, act := act, order := s.fresh, age := 0, granted := false }
      let s0 := { s with fresh := s.fresh + 1, e := { s.e with lumens := s.e.lumens ++ [q] } }
      if 0 < (s0.pool die).level then s0.grant die s0.e.lumens.length else s0
  if s1.e.lumens.any (fun q => mine q && q.granted) then ({ s1 with e := { s1.e with lumens := s1.e.lumens.filter (fun q => !mine q) } }, true)
  else (s1, false)

/-- Asking for lumens at issue: held until the grant. -/
def withLumens (s : State) (die : Nat) (who : WRef) (offset : W32) (amount cls act : Nat) (k : State → Eff) : Eff :=
  let r := s.lumens die who offset amount cls act
  if r.2 then k r.1 else .hold (fun s => (s.lumens die who offset amount cls act).1)

/-- LUMEN_REPLENISH (18 R390, R392): every 1,000 ns. -/
def execLumenReplenish (die : Nat) (s : State) : Host.Outcome State Fault Refusal :=
  match s.e.pools.find? (fun p => p.die == die) with
  | none => .next s
  | some p =>
    if s.time < p.last + 1000 then .next s
    else
      let s1 := s.setPool { p with level := min p.cap (p.level + p.rate), last := p.last + 1000 }
      let s2 := { s1 with e := { s1.e with lumens := s1.e.lumens.map (fun (q : LumenReq) => if q.die == die && !q.granted then { q with age := q.age + 1 } else q) } }
      .next (s2.grant die s2.e.lumens.length)

/-- RATE_CHANGE (18 R390): the pool's level and granted requests stay. -/
def execRateChange (die rate : Nat) (s : State) : Host.Outcome State Fault Refusal :=
  match s.e.pools.find? (fun p => p.die == die) with
  | none => .next s
  | some p => .next (s.setPool { p with rate := rate })

end Sys2Proof.Machine
end

