-- ==== Sys2Proof/Machine/Sequencer.lean ====
section
/-!
DEFINITION. Near-bank sequences (14 R317-R323; 17 R369-R371, R374; 12 R275): descriptors, what is checked at acceptance, rows, speculation
with its undo log, completion and the watchdog. Log entry 34 says how ranges, signatures and reruns are modelled.
-/
namespace Sys2Proof.Machine

/-- A sequence with nothing done yet. -/
def SeqRun.fresh (kind : SeqOp) : SeqRun :=
  { id := 0, warp := WRef.none, lane := 0, core := ⟨0, 0, 0⟩, ctx := 0, op := 0, ticket := 0, stack := 0, kind := kind, fmt := 0, n := 0, len := 0, stride := 0, src := 0, dst := 0
    hdr := 0, vec := 0, const := 0, ck := 0, target := 0, running := false, finished := false, blocking := false, row := 0, run := 0, undo := []
    reads := [], writes := [], homeWrites := [], bad := [], wct := 0, pages := [], total := 0, asked := false }

/-- The fields of a descriptor, none where one breaks its map (14 R318, R319; log entry 34). -/
def seqOf (r : Nat) : Option SeqRun :=
  let fld (hi lo : Nat) : Nat := r / 2 ^ lo % 2 ^ (hi + 1 - lo)
  let op := fld 7 4
  let fmt := fld 15 12
  let kind : SeqOp := match op with | 0 => .dot | 1 => .scaleAdd | 2 => .zero | _ => .copy
  let fmtOk : Bool := match op with | 0 => 1 ≤ fmt && fmt ≤ 3 | 1 => fmt ≤ 1 | 2 => fmt == 0 | 3 => fmt == 0 | _ => false
  let adr (lo : Nat) : Bool := fld (lo + 63) (lo + 55) == 0 && fld (lo + 63) lo % 16 == 0
  if fmtOk && fld 3 0 == 0 && fld 11 8 == 0 && fld 95 16 == 0 && fld 479 448 == 0 && fld 127 96 % 32 == 0 && 1 ≤ fld 159 128 && fld 159 128 ≤ 2 ^ 20 &&
      fld 191 160 % 16 == 0 && adr 192 && adr 256 && adr 320 && adr 384 && (op != 2 || fld 255 192 == 0) then
    some { SeqRun.fresh kind with
      fmt := fmt, n := fld 159 128, len := fld 127 96, stride := fld 191 160, src := BitVec.ofNat 64 (fld 255 192), dst := BitVec.ofNat 64 (fld 319 256)
      hdr := BitVec.ofNat 64 (fld 383 320), vec := BitVec.ofNat 64 (fld 447 384), const := BitVec.ofNat 32 (fld 511 480) }
  else none

/-- An XCOPY as a sequence: rows of 1,024 destination bytes (12 R275). -/
def xseqOf (x et len : Nat) (dst src : W64) (const : W32) : SeqRun :=
  let kind : SeqOp := match x with | 0 => .copy | 1 => .xscale | 2 => .xadd | 3 => .xcast | _ => .xreduce
  let ld := if x = 3 then len / 2 else len
  { SeqRun.fresh kind with fmt := et, n := (ld + 1023) / 1024, len := 1024, stride := 1024, src := src, dst := dst, const := const, total := ld }

/-- Bytes of an element of a row: 4 for F32, 2 for BF16, 1 else. -/
def SeqRun.eltBytes (q : SeqRun) : Nat :=
  match q.kind with
  | .dot => 4
  | .zero | .copy => 1
  | .xcast => 2
  | .scaleAdd | .xscale | .xadd | .xreduce => if q.fmt = 0 then 4 else 2

/-- Destination bytes of a row. -/
def SeqRun.dstBytes (q : SeqRun) (r : Nat) : Nat :=
  match q.kind with
  | .dot => 4
  | .scaleAdd => q.len * q.eltBytes
  | .zero => q.len
  | .copy => if q.total = 0 then q.len else min 1024 (q.total - 1024 * r)
  | .xscale | .xadd | .xcast | .xreduce => min 1024 (q.total - 1024 * r)

/-- Source bytes of a row. -/
def SeqRun.srcBytes (q : SeqRun) (r : Nat) : Nat :=
  match q.kind with
  | .dot => match q.fmt with | 1 => 2 * q.len | 2 => q.len | _ => q.len / 2
  | .zero => 0
  | .xcast => 2 * q.dstBytes r
  | .scaleAdd | .copy | .xscale | .xadd | .xreduce => q.dstBytes r

/-- Addresses of a row (14 R319; 12 R275). -/
def SeqRun.srcAt (q : SeqRun) (r : Nat) : Nat := q.src.toNat + r * (if q.kind = .xcast then 2048 else q.stride)
def SeqRun.dstAt (q : SeqRun) (r : Nat) : Nat := q.dst.toNat + (if q.kind = .dot then 4 * r else r * q.stride)

/-- The destination bytes of the whole sequence (14 R320; 12 R267). -/
def SeqRun.counted (q : SeqRun) : Nat := ((List.range q.n).map q.dstBytes).foldl (· + ·) 0

/-- Whether a sequence reads its destination. -/
def SeqRun.readsDst (q : SeqRun) : Bool := q.kind == .scaleAdd || q.kind == .xreduce

/-- A range of addresses with what it needs of its pages. -/
structure SeqRange where
  va : Nat
  len : Nat
  need : Need
  deriving DecidableEq, Repr

/-- The ranges that a sequence reads other than its destination, and the ranges it writes. -/
def SeqRun.srcRanges (q : SeqRun) : List SeqRange :=
  (List.range q.n).map (fun r => ⟨q.srcAt r, q.srcBytes r, .read⟩) ++
    match q.kind with
    | .dot => ⟨q.vec.toNat, 4 * q.len, .read⟩ :: (if q.fmt = 3 then [⟨q.hdr.toNat, q.n * q.len / 16, .read⟩] else [])
    | .scaleAdd | .zero | .copy | .xscale | .xadd | .xcast | .xreduce => []
def SeqRun.dstRanges (q : SeqRun) : List SeqRange :=
  (List.range q.n).map (fun r => ⟨q.dstAt r, q.dstBytes r, if q.readsDst then .both else .write⟩)

/-- Two ranges of addresses meet. -/
def SeqRange.meets (a b : SeqRange) : Bool := decide (a.va < b.va + b.len) && decide (b.va < a.va + a.len) && a.len != 0 && b.len != 0
def SeqRun.overlaps (q : SeqRun) : Bool := q.dstRanges.any (fun d => q.srcRanges.any d.meets)

/-- The pages of a range, checked as an access of a unit that holds no window and no host memory (14 R317): PAGE, permission, key, then the
address rule. -/
def State.rangePages (s : State) (core : CoreId) (ctx : Nat) (x : SeqRange) : Except (TErr × Nat) (List PageRun) :=
  if x.len = 0 then .ok []
  else if inScratch (addrOf x.va) || inScratch (addrOf (x.va + x.len - 1)) then .error (accessErr 4, x.va)
  else
    match s.m.pagesOf core ctx (x.va + x.len) (x.len / 65536 + 2) x.va with
    | .error e => .error e
    | .ok runs =>
      match runs.find? (fun r => !permits r.pte x.need) with
      | some r => .error (accessErr 1, r.lo)
      | none =>
        match runs.find? (fun r => pteTgt r.pte == 0 && !s.m.keyLoaded (pteKey r.pte)) with
        | some r => .error (accessErr 3, r.lo)
        | none =>
          match runs.find? (fun r => pteTgt r.pte != 0) with
          | some r => .error (accessErr 4, r.lo)
          | none => .ok runs

/-- The place of an address in translated pages. -/
def placeAt (pages : List PageRun) (va : Nat) : Option Phys := (pages.find? (fun r => r.lo ≤ va && va < r.hi)).map (fun r => physOf r.pte r.level (addrOf va))

/-- The lines that a range touches, as addresses. -/
def SeqRange.lines (x : SeqRange) : List Nat :=
  if x.len = 0 then [] else (List.range ((x.va + x.len - 1) / 128 + 1 - x.va / 128)).map (fun i => max x.va ((x.va / 128 + i) * 128))

/-- The 512-byte blocks of ranges in translated pages. -/
def blocksOf (pages : List PageRun) (xs : List SeqRange) : List Nat :=
  ((xs.flatMap SeqRange.lines).filterMap (fun a => (placeAt pages a).map (fun p => blockOf p.loc))).dedup

/-- Every byte of the ranges lies in one stack (14 R317, R319). -/
def oneStack (pages : List PageRun) (stack : Nat) (xs : List SeqRange) : Bool :=
  (xs.flatMap SeqRange.lines).all (fun a => (placeAt pages a).any (fun p => memKind p.loc == .stack && locStack p.loc == stack))

/-- A sequence with its pages, stack and blocks, or the fault found at acceptance (14 R317): PAGE before ACCESS. -/
def State.placeSeq (s : State) (core : CoreId) (ctx : Nat) (q : SeqRun) : Except (TErr × Nat) SeqRun :=
  let xs := q.srcRanges ++ q.dstRanges
  let tried := xs.map (s.rangePages core ctx)
  let errs := tried.filterMap (fun t => match t with | .error e => some e | .ok _ => none)
  match errs.find? (fun e => e.1 == waitErr), errs.find? (fun e => e.1.code == 0x07), errs.head? with
  | some e, _, _ => .error e
  | none, some e, _ => .error e
  | none, none, some e => .error e
  | none, none, none =>
    let pages := (tried.filterMap (fun t => match t with | .ok r => some r | .error _ => none)).flatten
    match placeAt pages q.dst.toNat with
    | none => .error (accessErr 4, q.dst.toNat)
    | some p =>
      if memKind p.loc = .stack && oneStack pages (locStack p.loc) xs then
        let ws := blocksOf pages q.dstRanges
        .ok { q with
          stack := locStack p.loc, pages := pages, writes := ws, reads := blocksOf pages (if q.readsDst then xs else q.srcRanges), blocking := 512 < ws.length }
      else .error (accessErr 4, q.dst.toNat)

/-- A row is carried out inside the DRAM (17 R371). -/
def SeqRun.inDram (q : SeqRun) (r : Nat) : Bool :=
  let whole (va : Nat) : Option Nat :=
    match placeAt q.pages va, placeAt q.pages (va + 1023) with
    | some a, some b => if a.loc % 1024 = 0 ∧ b.loc = a.loc + 1023 then some a.loc else none
    | _, _ => none
  q.dstBytes r == 1024 &&
    match q.kind, whole (q.dstAt r) with
    | .zero, some _ => true
    | .copy, some d =>
      match whole (q.srcAt r) with
      | some a => locChannel a == locChannel d && bankOfCa (locCa a) == bankOfCa (locCa d) && subarrayOfCa (locCa a) == subarrayOfCa (locCa d)
      | none => false
    | _, _ => false

/-- Lumens of a row (18 R391). -/
def SeqRun.rowLumens (q : SeqRun) (r : Nat) : Nat :=
  match q.kind with
  | .dot => 24
  | .zero => if q.inDram r then 4 else 12
  | .copy => if q.inDram r then 6 else 16
  | .scaleAdd | .xscale | .xadd | .xcast | .xreduce => 20
def SeqRun.lumens (q : SeqRun) : Nat := ((List.range q.n).map q.rowLumens).foldl (· + ·) 0

/-- Accepting a placed sequence of the focus warp (12 R266; 14 R317; 17 R369): held while the warp has 64 requests or the sequencer 64
sequences, then until its lumens are granted. -/
def acceptSeq (c : Ctx) (s : State) (q : SeqRun) (ck : Nat) (target : W32) (ticket : Opnd) : Eff :=
  if s.engineFull || 64 ≤ (s.e.seqs.filter (fun x => x.stack == q.stack && !x.finished)).length then .hold (fun s => s)
  else
    withLumens s (q.stack / 4) s.w.ref c.p q.lumens s.w.prio 7 (fun s1 =>
      let s2 := s1.giveTicket c ticket
      let y : SeqRun := { q with
        id := c.id, warp := s2.w.ref, lane := lowLane c.g, core := s2.w.id.core, ctx := s2.w.ctx, op := c.id, ticket := s2.w.ticket, ck := ck, target := keepTarget s2.w ck target }
      .ok { st := { s2 with e := { s2.e with seqs := s2.e.seqs ++ [y] } }, op := some { c.op with parts := 1 } })

/-- NBSEQ (14 R317): the descriptor is read at its home, every page translated and checked, the lumens requested. -/
def nbseqEff (f : Fields) (c : Ctx) (s : State) : Eff :=
  let lane := lowLane c.g
  let a := s.read64 f.a lane
  if a.toNat % 64 ≠ 0 then c.lead ⟨0x09, 0⟩ 0 a
  else if inScratch a then c.lead (accessErr 4) 0 a
  else
    match s.m.translate s.w.id.core s.w.ctx a .read with
    | .error e => c.lead e 0 a
    | .ok p =>
      if p.tgt = 1 then c.lead (accessErr 4) 0 a
      else if (List.range 64).any (fun i => s.m.byteHeld (p.loc + i)) then c.lead waitErr 0 a
      else if (List.range 64).any (fun i => s.m.placePoison { p with loc := p.loc + i }) then c.lead ⟨0x0A, 0⟩ 0 a
      else
        match seqOf (numOf (s.m.homeBytes p.loc 64 p.key)) with
        | none => c.lead (accessErr 4) 0 a
        | some q =>
          match s.placeSeq s.w.id.core s.w.ctx q with
          | .error e => c.lead e.1 0 (addrOf e.2)
          | .ok y =>
            if q.overlaps then c.lead (accessErr 4) 1 q.dst
            else acceptSeq c s y (f.subBits 1 0) (s.read32 f.c lane) f.d
def execNbseq (f : Fields) (s : State) : Host.Outcome State Fault Refusal := nextOf (runWarp (.nbseq f) leadPlan (nbseqEff f) s)

/-! Rows. -/

/-- Bytes at an address of a sequence, as the homes hold them, and whether one is poisoned. -/
def State.seqRead (s : State) (q : SeqRun) (va n : Nat) : List Byte × Bool :=
  let ps := (List.range n).filterMap (fun i => placeAt q.pages (va + i))
  (s.m.placeBytes ps, ps.any s.m.placePoison)

/-- A result of a row: its address, its bytes, and whether it draws on an uncorrectable block. -/
structure SeqOut where
  va : Nat
  bytes : List Byte
  bad : Bool
  deriving DecidableEq, Repr

/-- Element i of a DOT row as an exact value (14 R319). -/
def State.dotElt (s : State) (q : SeqRun) (r i : Nat) : Val × Bool :=
  match q.fmt with
  | 1 => let x := s.seqRead q (q.srcAt r + 2 * i) 2; (bf16.val (numOf x.1), x.2)
  | 2 => let x := s.seqRead q (q.srcAt r + i) 1; (e4m3.val (numOf x.1), x.2)
  | _ =>
    let x := s.seqRead q (q.srcAt r + i / 2) 1
    let h := s.seqRead q (q.hdr.toNat + 2 * (r * q.len / 32 + i / 32)) 2
    (n4Val (numOf x.1 / (if i % 2 = 0 then 1 else 16) % 16) (numOf h.1 % 256) (numOf h.1 / 256), x.2 || h.2)

/-- A DOT row: the sum over i ascending in an accumulator that starts at +0. -/
def State.dotRow (s : State) (q : SeqRun) (r : Nat) : SeqOut :=
  let acc := (List.range q.len).foldl
    (fun (a : Nat × Bool) i =>
      let w := s.dotElt q r i
      let v := s.seqRead q (q.vec.toNat + 4 * i) 4
      ((fmaF f32 FpMode.plain w.1 (f32.val (numOf v.1)) (f32.val a.1)).1, a.2 || w.2 || v.2))
    (0, false)
  { va := q.dstAt r, bytes := bytesOf 4 acc.1, bad := acc.2 }

/-- One element of the other operations: the number x of the source and the number y of the destination (14 R319; 12 R275). -/
def SeqRun.elt (q : SeqRun) (x y : Nat) : Nat :=
  let t := if q.fmt = 0 then f32 else bf16
  let c := f32.val q.const.toNat
  match q.kind with
  | .scaleAdd => (fmaF t FpMode.plain c (t.val x) (t.val y)).1
  | .zero => 0
  | .copy => x
  | .xscale => (mulF t FpMode.plain (t.val x) c).1
  | .xadd => (addF t FpMode.plain (t.val x) c).1
  | .xcast => froundPlain bf16 (f32.val x)
  | .xreduce => (addF t FpMode.plain (t.val y) (t.val x)).1
  | .dot => 0

/-- A row (14 R319; 12 R275): its results element by element. Where an XCOPY's source overlaps its destination the bytes are free (12 R269). -/
def State.seqRow (s : State) (q : SeqRun) (r : Nat) : List SeqOut :=
  if q.kind = .dot then [s.dotRow q r]
  else
    let z := q.eltBytes
    let zs := if q.kind = .xcast then 4 else z
    let free : Bool := q.total != 0 && q.overlaps
    (List.range (q.dstBytes r / z)).map (fun i =>
      let x := if q.kind = .zero then ([], false) else s.seqRead q (q.srcAt r + zs * i) zs
      let y := if q.readsDst then s.seqRead q (q.dstAt r + z * i) z else ([], false)
      let v := if free then (List.range z).map (fun j => Config.overlapByte (s.tick * 2 ^ 20 + z * i + j)) else bytesOf z (q.elt (numOf x.1) (numOf y.1))
      { va := q.dstAt r + z * i, bytes := v, bad := x.2 || y.2 })

/-- Staging the results in sectors, outside blocking mode speculative ones with the previous contents of each block saved once in a run (17 R370). -/
def State.stageRow (s : State) (q : SeqRun) (outs : List SeqOut) : State × SeqRun :=
  let cells := outs.flatMap (fun o => (List.range o.bytes.length).filterMap (fun i => (placeAt q.pages (o.va + i)).map (fun p => (p, o.bytes.getD i 0, o.bad))))
  let blocks := (cells.map (fun c => blockOf c.1.loc)).dedup
  blocks.foldl
    (fun (acc : State × SeqRun) b =>
      let mine := cells.filter (fun c => blockOf c.1.loc == b)
      match mine with
      | [] => acc
      | (p, _, _) :: _ =>
        let d := gatherBytes 512 4096 (mine.map (fun c => (c.1.loc % 512, c.2.1)))
        let bad := mine.any (fun c => c.2.2)
        let old := (b, acc.1.m.blockData b p.key, acc.1.m.blockPoison b)
        let keep : Bool := acc.2.blocking || acc.2.undo.any (fun u => u.1 == b)
        let m1 := acc.1.m.mergeSector b q.ctx p.key d.1 d.2 bad
        let m2 := match m1.sector b with | some x => if acc.2.blocking then m1 else m1.setSector { x with spec := some q.id } | none => m1
        ({ acc.1 with m := m2.noteKey b p.key },
          { acc.2 with undo := if keep then acc.2.undo else acc.2.undo ++ [old], bad := if bad then b :: acc.2.bad else acc.2.bad }))
    (s, q)

def State.setSeq (s : State) (q : SeqRun) : State := { s with e := { s.e with seqs := updFirst (fun x => x.id == q.id) (fun _ => q) s.e.seqs } }
def State.seqAt (s : State) (k : Nat) : Option SeqRun := s.e.seqs.find? (fun q => q.id == k)

/-- Row progress on a stack: its watchdog counts from now (17 R374). -/
def State.rowTick (s : State) (stack : Nat) : State :=
  { s with e := { s.e with lastRow := putBy (fun x => x.1 == stack) (stack, s.time) s.e.lastRow } }

/-- A stack is in a thermal hold. -/
def State.stackHeld (s : State) (stack : Nat) : Bool := s.m.holds.any (fun h => h.stack == stack)

/-- One place in each channel that a row reads or writes. -/
def SeqRun.rowChannels (q : SeqRun) (r : Nat) : List Phys :=
  let more : List SeqRange :=
    if q.kind = .dot then ⟨q.vec.toNat, 4 * q.len, .read⟩ :: (if q.fmt = 3 then [⟨q.hdr.toNat + r * q.len / 16, q.len / 16, .read⟩] else []) else []
  let lines := (⟨q.dstAt r, q.dstBytes r, .write⟩ :: ⟨q.srcAt r, q.srcBytes r, .read⟩ :: more).flatMap SeqRange.lines
  let ps := lines.filterMap (placeAt q.pages)
  ((ps.map (fun p => locChannel p.loc)).dedup).filterMap (fun c => ps.find? (fun p => locChannel p.loc == c))

/-- Asking the base die for every channel of the next row (17 R366, R369): for all of them or, while one has no free tag, for none. -/
def State.askRow (s : State) (q : SeqRun) : State :=
  match (q.rowChannels q.row).foldlM (fun (acc : State) p => acc.sendPacket p.loc 4 3 q.ctx p.key false (BitVec.ofNat 4096 q.id) 0 false) s with
  | none => s
  | some s1 => s1.setSeq { q with asked := true }

/-- Blocks that two sequences must not both have where one writes them (14 R320; 17 R369). -/
def SeqRun.clash (a b : SeqRun) : Bool := a.writes.any (fun x => b.writes.contains x || b.reads.contains x) || a.reads.any b.writes.contains

/-- SEQUENCE_START (17 R369; 14 R320): at most 8 run; sequences whose ranges overlap run in acceptance order; writes already on their way to
the blocks come first. -/
def execSequenceStart (k : Nat) (s : State) : Host.Outcome State Fault Refusal :=
  match s.seqAt k with
  | none => .next s
  | some q =>
    let mates := s.e.seqs.filter (fun x => x.stack == q.stack && x.id != k && !x.finished)
    let earlier := s.e.seqs.takeWhile (fun x => x.id != k)
    let near := q.reads ++ q.writes
    if q.running || q.finished || s.stackHeld q.stack || 8 ≤ (mates.filter (·.running)).length ||
        mates.any (fun x => x.clash q && (x.running || earlier.contains x)) ||
        s.m.packets.any (fun p => p.isWrite && near.contains p.block) then .next s
    else
      let q1 := { q with running := true }
      let s1 := if mates.any (·.running) then s else s.rowTick q.stack
      let s2 := ((near.flatMap (fun b => (List.range 4).map (fun i => 4 * b + i))).foldl State.pushSeq (s1.setSeq q1)).setSeq q1
      .next (s2.askRow q1)

/-- SEQUENCE_ROW_STEP (17 R369; 14 R319, R322): one row, once the base die has been asked for its channels and has given them. -/
def execSequenceRowStep (k : Nat) (s : State) : Host.Outcome State Fault Refusal :=
  match s.seqAt k with
  | none => .next s
  | some q =>
    let waiting := s.m.packets.any (fun p => p.type == 4 && p.data == BitVec.ofNat 4096 k && p.unit == q.stack)
    if !q.running || q.n ≤ q.row || s.stackHeld q.stack || waiting then .next s
    else if !q.asked then .next (s.askRow q)
    else
      let r := s.stageRow q (s.seqRow q q.row)
      let q1 := { r.2 with row := q.row + 1, asked := false }
      let s1 := (r.1.setSeq q1).rowTick q.stack
      .next (if q1.row < q1.n then s1.askRow q1 else s1)

/-- Restoring every destination block from the undo log (17 R370), in its sector or, where that was evicted, in DRAM; copies of speculative bytes at the homes go. -/
def State.undoSeq (s : State) (q : SeqRun) : State :=
  s.updM (fun m => (q.undo.foldl
    (fun acc u => match acc.sector u.1 with
      | some x => acc.setSector { x with data := u.2.1, poison := u.2.2, spec := none }
      | none => (acc.putBlock u.1 u.2.1).setBlk { acc.blk u.1 with poison := u.2.2 }) m).dropClean (fun b => q.undo.any (fun u => u.1 == b)))

/-- The places of every destination byte. -/
def SeqRun.dstPlaces (q : SeqRun) : List Phys :=
  q.dstRanges.flatMap (fun x => (List.range x.len).filterMap (fun i => placeAt q.pages (x.va + i)))

/-- The destination bytes of a block, as a mask. -/
def SeqRun.dstMask (q : SeqRun) (b : Nat) : BitVec 512 := ofBits 512 ((q.dstPlaces.filter (fun p => blockOf p.loc == b)).map (fun p => p.loc % 512))

/-- Cached copies of a destination line go (14 R320): dirty bytes of L1s are applied first (07 R198); of the home's bytes those outside the destination
reach the block, with their poison (17 R365). A line that an engine owns stays, empty. -/
def State.dropDst (s : State) (q : SeqRun) (line : Nat) : State :=
  let s1 := (s.m.l1.filter (fun x => x.line == line)).foldl (fun acc x => acc.homeNow x true) s
  match s1.m.l2Find line with
  | none => s1
  | some x =>
    let keep := ~~~(q.dstMask (line / 4))
    let out := lineMask line x.dirty &&& keep
    let m1 := if out = 0 then s1.m else s1.m.mergeSector (line / 4) x.ctx x.key (lineData line x.data) out (lineMask line (x.dirty &&& x.poison) &&& keep != 0)
    { s1 with m := if x.owner.isSome then m1.l2Set { x with valid := 0, dirty := 0, poison := 0 } else m1.forgetL2 s1.time (fun y => y.line == line) }

/-- The destination blocks are final: no longer speculative, and in DRAM; a block the sequence covers whole keeps only the poison that it drew. -/
def MemSys.settleSeq (m : MemSys) (q : SeqRun) : MemSys :=
  q.writes.foldl
    (fun acc b =>
      match acc.sector b with
      | none => if q.dstMask b = BitVec.allOnes 512 then acc.setBlk { acc.blk b with poison := q.bad.contains b } else acc
      | some x =>
        let y : Sector := { x with spec := none, dirty := false, poison := if q.dstMask b = BitVec.allOnes 512 then q.bad.contains b else x.poison }
        ((acc.putBlock b y.data).setBlk ⟨b, y.key, y.gen, y.poison⟩).setSector y) m

/-- The signatures of the run meet the home-write signature (17 R370; log entry 21). -/
def SeqRun.conflict (q : SeqRun) (tick : Nat) : Bool := q.homeWrites.any (fun b => q.reads.contains b || q.writes.contains b) || Config.bloomFalseHit tick

/-- SEQUENCE_RUN_END (17 R370; 14 R320, R321): a conflict restores and runs again, after three reruns in blocking mode; otherwise the
destination is final and its completion time known. -/
def execSequenceRunEnd (k : Nat) (s : State) : Host.Outcome State Fault Refusal :=
  match s.seqAt k with
  | none => .next s
  | some q =>
    if !q.running || q.row < q.n || s.stackHeld q.stack then .next s
    else if !q.blocking && q.conflict s.tick then
      let q1 := { q with row := 0, run := q.run + 1, homeWrites := [], undo := [], bad := [], blocking := 3 ≤ q.run }
      .next (((s.undoSeq q).setSeq q1).askRow q1)
    else
      let lines := (q.dstPlaces.map (fun p => lineOf p.loc)).dedup
      let s1 := lines.foldl (fun acc l => acc.dropDst q l) (s.setSeq { q with running := false })
      .next ({ s1 with m := (s1.m.settleSeq q).dropClean q.writes.contains }.setSeq { q with running := false, finished := true, undo := [], wct := s.time + margin 3 })

/-- SEQUENCE_COMPLETION (14 R320): once TIME has passed the completion time HORIZON rises, the target acts and the slot counts down. -/
def execSequenceCompletion (k : Nat) (s : State) : Host.Outcome State Fault Refusal :=
  match s.seqAt k with
  | none => .next s
  | some q =>
    if !q.finished || s.time < q.wct then .next s
    else
      let s1 := { s with e := { s.e with seqs := s.e.seqs.filter (fun x => x.id != k) } }
      let s2 := s1.updAny q.warp (fun w => (w.raiseHorizon q.wct).gotPart q.op (fun o => o))
      .next (s2.actOn q.warp q.ctx q.ck q.target q.counted)

/-- The blocks of the rows that a run has written. -/
def SeqRun.written (q : SeqRun) : List Nat := blocksOf q.pages ((List.range q.row).map (fun r => ⟨q.dstAt r, q.dstBytes r, .write⟩))

/-- A sequence ended by the watchdog (14 R323; 17 R374): its destination blocks already written are poisoned, and none is restored; its requester receives
NEARMEM_RESET. -/
def State.resetSeq (s : State) (q : SeqRun) : State :=
  let s1 := s.updM (fun m => q.written.foldl
    (fun acc b => let m1 := acc.poisonBlock b; match m1.sector b with | some x => m1.setSector { x with spec := none } | none => m1) m)
  (s1.setSeq { q with running := false, finished := true, undo := [], wct := 0 }).deferTicket q.warp q.op q.ticket q.lane 0x14 0 5 0 0

/-- SEQUENCER_WATCHDOG_EXPIRY (17 R374): 1 ms with a sequence running, no row completed and no thermal hold. -/
def execSequencerWatchdogExpiry (stack : Nat) (s : State) : Host.Outcome State Fault Refusal :=
  let runs := s.e.seqs.filter (fun q => q.stack == stack && q.running)
  let last := ((s.e.lastRow.find? (fun x => x.1 == stack)).map Prod.snd).getD 0
  if runs = [] ∨ s.stackHeld stack = true ∨ s.time < last + 1000000 then .next s
  else .next (runs.foldl State.resetSeq s)

end Sys2Proof.Machine
end

