-- ==== Sys2Proof/Machine/Streamer.lean ====
section
/-!
DEFINITION. The streamer (12 R263-R275): canonical tiles, what is checked at acceptance, what each request transfers, its writes line by
line under ownership (07 R214), and its completion. Log entries 12, 18 and 33 say what the model fixes.
-/
namespace Sys2Proof.Machine

/-! Canonical tiles (12 R263-R265). -/

/-- Bytes of an element of a tile type 0 to 5. -/
def tilePitch (dt : Nat) : Nat := match dt with | 0 => 4 | 1 => 2 | 2 => 2 | _ => 1

/-- The bytes of the data area, and the size S(dt). -/
def tileData (dt : Nat) : Nat := if dt = 6 then 2048 else 4096 * tilePitch dt
def tileSize (dt : Nat) : Nat := tileData dt + (if dt = 6 then 256 else 0) + 16

/-- The value of a code of a type 0 to 5. -/
def typeVal (dt x : Nat) : Val :=
  match dt with
  | 0 => f32.val x
  | 1 => f16.val x
  | 2 => bf16.val x
  | 3 => e4m3.val x
  | 4 => e5m2.val x
  | _ => intVal ((BitVec.ofNat 8 x).toInt)

/-- Conversion to a type 0 to 5 (12 R271): RNE, E4M3 and I8 saturating, NaN to 0 in I8. -/
def typeCode (dt : Nat) (x : Val) : Nat :=
  match dt with
  | 0 => froundPlain f32 x
  | 1 => froundPlain f16 x
  | 2 => froundPlain bf16 x
  | 3 => froundPlain e4m3 x
  | 4 => froundPlain e5m2 x
  | _ => (BitVec.ofInt 8 (toIntF .rne (-128) 127 x).1).toNat

/-- Words of 32 bits of some bytes. -/
def wordsOf (bs : List Byte) : List Nat := (List.range (bs.length / 4)).map (fun i => numAt bs (4 * i) 4)

/-- The number of bits in which successive words differ. -/
def flips : List Nat → Nat
  | [] => 0
  | a :: r => (match r with | [] => 0 | b :: _ => (bitList (BitVec.ofNat 32 (Nat.xor a b))).length) + flips r

/-- The activity class of a tile's data bytes (12 R265). -/
def actClass (data : List Byte) : Nat := let ws := wordsOf data; min 7 (16 * flips ws / (32 * (ws.length - 1)))

/-- The trailer (12 R264). -/
def trailerBytes (act dt rows poison : Nat) : List Byte := bytesOf 16 (act + dt * 2 ^ 8 + rows * 2 ^ 16 + poison * 2 ^ 32)

/-! Bytes that a request reads. -/

/-- The bank of a cohort that an offset of the window reaches, by its number in the cluster (06 R168). -/
def Cohort.bankAt (c : Cohort) (off : Nat) : Option Nat := c.banks[off / 65536]?
def windowOff (va : Nat) : Nat := va - 0x7FFFFFFF000000

/-- An offset of the window lies in a stage that a RING.ACQ took again after an operation with a number was issued (12 R280). -/
def Cohort.retaken (c : Cohort) (n off : Nat) : Bool :=
  c.stages.any (fun g => n ≤ g.acq &&
    match c.rings.getD g.ring none with
    | none => false
    | some d => decide (65536 * d.bank + g.idx * d.sbytes ≤ off ∧ off < 65536 * d.bank + (g.idx + 1) * d.sbytes))

/-- A byte of the window of a warp's cohort as an operation with a number reads it: in its bank, or in the save area while the cohort is swapped out (15
R344); a free value where the cohort or its bank is gone (log entry 12), or where the next fill of a stage has begun (12 R280). -/
def State.windowByte (s : State) (who : WRef) (n off : Nat) : Byte × Bool :=
  let gone : Byte × Bool := (Config.overlapByte (s.tick * 2 ^ 24 + off), false)
  match s.cohortOf who with
  | none => gone
  | some c =>
    if c.retaken n off then gone else
    match c.bankAt off with
    | none => gone
    | some b =>
      if c.away then
        match s.agentRead (agentCore c.die) c.ctx (c.saveAddr.toNat + 0x2000 + off) 1 with
        | some bs => (bs.headD 0, false)
        | none => gone
      else
        let k := (c.die * 48 + c.cluster) * 16 + b
        if s.m.bankMode.get k = 0 then gone else (s.m.bankGet (k * 65536 + off % 65536), s.m.bankPoisoned (k * 65536 + off % 65536) 1)

/-- Writing bytes of the window: into banks, the save area, or nowhere. -/
def State.windowPut (s : State) (who : WRef) (ws : List (Nat × Byte)) (poison : List Nat) : State :=
  match s.cohortOf who with
  | none => s
  | some c =>
    if c.away then ws.foldl (fun acc w => (acc.agentWrite (agentCore c.die) c.ctx (c.saveAddr.toNat + 0x2000 + w.1) [w.2]).getD acc) s
    else
      let key (off : Nat) : Option Nat :=
        (c.bankAt off).bind (fun b =>
          let k := (c.die * 48 + c.cluster) * 16 + b
          if s.m.bankMode.get k = 0 then none else some (k * 65536 + off % 65536))
      let m1 := s.m.bankWrites (ws.filterMap (fun w => (key w.1).map (fun k => (k, w.2))))
      { s with m := { m1 with bankPoison := (poison.filterMap key).foldl (fun acc k => acc.set (k / 8) 1) m1.bankPoison } }

/-- The place of a byte for an engine: in a page that it has translated already (15 R339, R343), else by translation. -/
def State.enginePlace (s : State) (core : CoreId) (ctx : Nat) (pages : List PageRun) (a : W64) : Except TErr Phys :=
  match pages.find? (fun r => r.lo ≤ a.toNat && a.toNat < r.hi) with
  | some r => .ok (s.m.ownPlace (physOf r.pte r.level a))
  | none => s.m.translate core ctx a .none

/-- Bytes that an operation of an engine with a number reads at their homes or in the bank, and whether one is poisoned (07 R216): bytes of an
unreachable device are (19 R405). -/
def State.engineRead (s : State) (who : WRef) (core : CoreId) (ctx num : Nat) (pages : List PageRun) (va : W64) (n : Nat) : List Byte × Bool :=
  let cells := (List.range n).map (fun i =>
    let a := va + BitVec.ofNat 64 i
    if inScratch a then s.windowByte who num (windowOff a.toNat)
    else
      match s.enginePlace core ctx pages a with
      | .ok p => (s.m.homeByte p.loc p.key, s.m.placePoison p || (s.peerErr p.loc).isSome)
      | .error _ => (0, false))
  (cells.map Prod.fst, cells.any Prod.snd)
def State.engRead (s : State) (q : XReq) (va : W64) (n : Nat) : List Byte × Bool := s.engineRead q.warp q.core q.ctx q.id [] va n

/-- Some byte of runs that an engine reads waits for the end of a thermal hold (17 R372). -/
def State.engineWaits (s : State) (who : WRef) (core : CoreId) (ctx : Nat) (pages : List PageRun) (rs : List (W64 × Nat)) : Bool :=
  s.m.holding && rs.any (fun r => (List.range r.2).any (fun i =>
    let a := r.1 + BitVec.ofNat 64 i
    if inScratch a then
      match s.cohortOf who with
      | none => false
      | some c => c.away && s.m.agentHeld (agentCore c.die) c.ctx (c.saveAddr.toNat + 0x2000 + windowOff a.toNat) 1
    else
      match s.enginePlace core ctx pages a with
      | .ok p => s.m.byteHeld p.loc
      | .error e => e == waitErr))

/-! Elements of a request. -/

/-- The indices of tile element (r, c) (12 R270, R273): an origin and, for a gather or scatter, the row's index and the column tile. -/
def XReq.index (q : XReq) (t : TRec) (r c : Nat) : List Nat :=
  let co (d : Nat) : Nat := if d < t.rank then (q.coords.getD d 0).toNat else 0
  match q.kind with
  | .tgath _ _ _ ct | .tscat _ _ ct =>
    let row := (q.rows.getD r 0).toNat
    if t.trans then [row, 64 * ct + c, 0, 0, 0] else [64 * ct + c, row, 0, 0, 0]
  | .tld .. | .tst _ | .xcopy .. =>
    if t.trans then [co 0 + r, co 1 + c, co 2, co 3, co 4] else [co 0 + c, co 1 + r, co 2, co 3, co 4]

/-- A block of 32 elements in a half-row of a block format: its number, none where its first element is out of range. -/
def XReq.halfBlock (q : XReq) (t : TRec) (r h : Nat) : Option Nat :=
  let i := q.index t r (32 * h)
  if t.within i then some (t.block i) else none

/-- What a request reads or writes at one element or half-row: address and bytes. -/
structure EngPiece where
  va : W64
  n : Nat
  deriving DecidableEq, Repr

/-- The planes that a read of k digits uses, and one more where it rounds (02 R62, R63). -/
def planesUsed (k planes : Nat) (rne : Bool) : Nat := min (if rne then k + 1 else k) planes

/-- The planes of a nested record that a request touches (02 R62, R63). -/
def XReq.planes (q : XReq) (t : TRec) : Nat :=
  match q.kind with
  | .tld dt k rne | .tgath dt k rne _ => planesUsed (if dt = 6 then 1 else min k t.planes) t.planes rne
  | .tst _ | .tscat .. | .xcopy .. => t.planes

/-- The pieces of the record that a row of a request touches. -/
def XReq.rowPieces (q : XReq) (t : TRec) (r : Nat) : List EngPiece :=
  if t.fmt < 6 then
    (List.range 64).filterMap (fun c =>
      let i := q.index t r c
      if t.within i then some ⟨t.eltAddr (t.block i) (i.headD 0 % 32), eltBytes t.fmt⟩ else none)
  else
    (List.range 2).flatMap (fun h =>
      match q.halfBlock t r h with
      | none => []
      | some b =>
        if t.fmt = 6 then [⟨t.n4Addr b, 16⟩, ⟨t.n4Head b, 2⟩]
        else ⟨t.scaleAddr b, 1⟩ :: (List.range (q.planes t)).map (fun p => ⟨t.blockAddr p b, planeBytes p⟩))

/-- The words and the scale of a nested block from the planes that a read uses, and whether a byte of them is poisoned. -/
def State.nestRead (s : State) (q : XReq) (t : TRec) (k : Nat) (rne : Bool) (b : Nat) : List Nat × Nat × Bool :=
  let pls := (List.range (planesUsed k t.planes rne)).map (fun p => s.engRead q (t.blockAddr p b) (planeBytes p))
  let sc := s.engRead q (t.scaleAddr b) 1
  (nestWords (pls.map Prod.fst), numOf sc.1, sc.2 || pls.any Prod.snd)

/-- A half-row of an N4 or nested source as N4 codes with header: codes, SCALE, SPECIAL, poison (12 R271). -/
def State.halfCodes (s : State) (q : XReq) (t : TRec) (rne : Bool) (r h : Nat) : List Nat × Nat × Nat × Bool :=
  let inside (e : Nat) : Bool := t.within (q.index t r (32 * h + e))
  let trim (cs : List Nat) : List Nat := (List.range 32).map (fun e => if inside e then cs.getD e 0 else 0)
  match q.halfBlock t r h with
  | none => ((List.range 32).map (fun _ => 0), 0, 0, false)
  | some b =>
    if t.fmt = 6 then
      let x := s.engRead q (t.n4Addr b) 16
      let hd := s.engRead q (t.n4Head b) 2
      (trim ((List.range 32).map (fun e => (x.1.getD (e / 2) 0).toNat / (if e % 2 = 0 then 1 else 16) % 16)), numOf hd.1 % 256, numOf hd.1 / 256, x.2 || hd.2)
    else
      let x := s.nestRead q t 1 rne b
      (trim (x.1.map (fun w => readPlanes 1 t.planes rne (BitVec.ofNat 32 w))), x.2.1, 0, x.2.2)

/-- A row of a source as exact values, and whether it is poisoned (12 R270, R271): out of range is +0. -/
def State.rowVals (s : State) (q : XReq) (t : TRec) (k0 : Nat) (rne : Bool) (r : Nat) : List Val × Bool :=
  let k := min k0 t.planes
  let zero : Val := .fin false 0 0
  if t.fmt < 6 then
    let xs := (List.range 64).map (fun c =>
      let i := q.index t r c
      if t.within i then
        let x := s.engRead q (t.eltAddr (t.block i) (i.headD 0 % 32)) (eltBytes t.fmt)
        (typeVal t.fmt (numOf x.1), x.2)
      else (zero, false))
    (xs.map Prod.fst, xs.any Prod.snd)
  else
    let hs := (List.range 2).map (fun h =>
      let inside (e : Nat) : Bool := t.within (q.index t r (32 * h + e))
      match q.halfBlock t r h with
      | none => ((List.range 32).map (fun _ => zero), false)
      | some b =>
        if t.fmt = 6 then
          let x := s.halfCodes q t rne r h
          ((List.range 32).map (fun e => if inside e then n4Val (x.1.getD e 0) x.2.1 x.2.2.1 else zero), x.2.2.2)
        else
          let x := s.nestRead q t k rne b
          ((List.range 32).map (fun e =>
            if inside e then nestedVal k (readPlanes k t.planes rne (BitVec.ofNat 32 (x.1.getD e 0))) x.2.1 else zero), x.2.2))
    (hs.flatMap Prod.fst, hs.any Prod.snd)

/-! What requests write. -/

/-- The writes of a request by address: groups that are applied as one action each, values to add, addresses whose blocks are poisoned. -/
structure EngOut where
  groups : List (List (Nat × Byte)) := []
  adds : List (Nat × Bool × W32) := []
  poison : List Nat := []

/-- Consecutive bytes from an address. -/
def bytesAt (va : W64) (bs : List Byte) : List (Nat × Byte) := (List.range bs.length).map (fun i => ((va + BitVec.ofNat 64 i).toNat, bs.getD i 0))

/-- Bytes grouped by line. -/
def byLine (cells : List (Nat × Byte)) : List (List (Nat × Byte)) :=
  ((cells.map (fun c => c.1 / 128)).dedup).map (fun l => cells.filter (fun c => c.1 / 128 == l))

/-- A canonical tile from its rows' codes, headers and poison (12 R263, R264). -/
def tileBytes (dt rows : Nat) (codes : List (List Nat)) (heads : List (List (Nat × Nat))) (poison : Nat) : List Byte :=
  let data : List Byte :=
    if dt = 6 then
      codes.flatMap (fun cs => (List.range 32).map (fun j => BitVec.ofNat 8 (cs.getD (2 * j) 0 % 16 + 16 * (cs.getD (2 * j + 1) 0 % 16))))
    else codes.flatMap (fun cs => cs.flatMap (bytesOf (tilePitch dt)))
  let hs : List Byte := if dt = 6 then heads.flatMap (fun hh => hh.flatMap (fun x => bytesOf 2 (x.1 + 256 * x.2))) else []
  data ++ hs ++ trailerBytes (actClass data) dt rows poison

/-- TLD and TGATH (12 R271, R273). -/
def State.loadTile (s : State) (q : XReq) (t : TRec) (dt k : Nat) (rne : Bool) : EngOut :=
  let n4 : Bool := dt == 6
  let rows := (List.range 64).map (fun r =>
    if t.rows ≤ r then ((List.range 64).map (fun _ => 0), [(0, 0), (0, 0)], false)
    else if n4 then
      let a := s.halfCodes q t rne r 0
      let b := s.halfCodes q t rne r 1
      (a.1 ++ b.1, [(a.2.1, a.2.2.1), (b.2.1, b.2.2.1)], a.2.2.2 || b.2.2.2)
    else
      let x := s.rowVals q t k rne r
      (x.1.map (typeCode dt), [], x.2))
  let poison := (List.range 64).foldl (fun acc r => if (rows.getD r ([], [], false)).2.2 then acc + 2 ^ r else acc) 0
  { groups := byLine (bytesAt q.dst (tileBytes dt t.rows (rows.map (fun x => x.1)) (rows.map (fun x => x.2.1)) poison)) }

/-- The values of a row of a canonical tile, and whether the row is poisoned (12 R263, R264). -/
def State.tileRow (s : State) (q : XReq) (st : Nat) (tr : List Byte × Bool) (r : Nat) : List Val × Bool :=
  let mark : Bool := tr.2 || numAt tr.1 4 8 / 2 ^ r % 2 == 1
  if st = 6 then
    let x := s.engRead q (q.src + BitVec.ofNat 64 (32 * r)) 32
    let hd := s.engRead q (q.src + BitVec.ofNat 64 (2048 + 4 * r)) 4
    ((List.range 64).map (fun c =>
        n4Val ((x.1.getD (c / 2) 0).toNat / (if c % 2 = 0 then 1 else 16) % 16) (hd.1.getD (2 * (c / 32)) 0).toNat (hd.1.getD (2 * (c / 32) + 1) 0).toNat),
      mark || x.2 || hd.2)
  else
    let z := tilePitch st
    let x := s.engRead q (q.src + BitVec.ofNat 64 (64 * r * z)) (64 * z)
    ((List.range 64).map (fun c => typeVal st (numAt x.1 (z * c) z)), mark || x.2)

/-- The scale and codes of a nested block of width p planes from 32 values (12 R272; log entry 73). -/
def quantiseNest (p : Nat) (xs : List Val) : Nat × List Nat :=
  if xs.any (fun x => x.isNan || x.isInf) then (0xFF, xs.map (fun _ => 0))
  else
    let e := scaleExp (maxAbs xs)
    (scaleByte e, xs.map (fun x => nestCode (planeBits p) (x.scale (-e))))

/-- TST, and TSCAT with stores or additions (12 R272, R274). -/
def State.storeTile (s : State) (q : XReq) (t : TRec) (st op : Nat) : EngOut :=
  let tr := s.engRead q (q.src + BitVec.ofNat 64 (tileSize st - 16)) 16
  (List.range t.rows).foldl
    (fun acc r =>
      let x := s.tileRow q st tr r
      let here : List Nat := if x.2 then (q.rowPieces t r).map (fun p => p.va.toNat) else []
      if t.fmt < 6 then
        let cells := (List.range 64).filterMap (fun c =>
          let i := q.index t r c
          if t.within i then some (t.eltAddr (t.block i) (i.headD 0 % 32), x.1.getD c (.fin false 0 0)) else none)
        if op = 0 then
          { acc with
            groups := acc.groups ++ [cells.flatMap (fun c => bytesAt c.1 (bytesOf (eltBytes t.fmt) (typeCode t.fmt c.2)))], poison := acc.poison ++ here }
        else
          { acc with adds := acc.adds ++ cells.map (fun c => (c.1.toNat, op == 2, BitVec.ofNat 32 (froundPlain f32 c.2))), poison := acc.poison ++ here }
      else
        (List.range 2).foldl
          (fun acc h =>
            match q.halfBlock t r h with
            | none => acc
            | some b =>
              let inside (e : Nat) : Bool := t.within (q.index t r (32 * h + e))
              let xs := (List.range 32).map (fun e => if inside e then x.1.getD (32 * h + e) (.fin false 0 0) else .fin false 0 0)
              let clear (cs : List Nat) : List Nat := (List.range 32).map (fun e => if inside e then cs.getD e 0 else 0)
              if t.fmt = 6 then
                let z := quantiseN4 xs
                let cs := clear z.2.2
                { acc with
                  groups := acc.groups ++
                    [bytesAt (t.n4Addr b) ((List.range 16).map (fun j => BitVec.ofNat 8 (cs.getD (2 * j) 0 + 16 * cs.getD (2 * j + 1) 0))) ++
                      bytesAt (t.n4Head b) (bytesOf 2 (z.1 + 256 * z.2.1))]
                  poison := acc.poison ++ (if h = 0 then here else []) }
              else
                let z := quantiseNest t.planes xs
                let ws := (clear z.2).map (· * 2 ^ (32 - planeWidth t.planes))
                { acc with
                  groups := acc.groups ++
                    [bytesAt (t.scaleAddr b) (bytesOf 1 z.1) ++ (List.range t.planes).flatMap (fun p => bytesAt (t.blockAddr p b) (planeOf p ws))]
                  poison := acc.poison ++ (if h = 0 then here else []) }) acc)
    {}

/-- XCOPY on the streamer (12 R275). -/
def State.copyBytes (s : State) (q : XReq) (x et len : Nat) (const : W32) : EngOut :=
  let y := xseqOf x et len q.dst q.src const
  let z := y.eltBytes
  let zs := if x = 3 then 4 else z
  let outs := (List.range (y.total / z)).map (fun i =>
    let a := s.engRead q (q.src + BitVec.ofNat 64 (zs * i)) zs
    let b := if x = 4 then s.engRead q (q.dst + BitVec.ofNat 64 (z * i)) z else ([], false)
    (q.dst + BitVec.ofNat 64 (z * i), bytesOf z (y.elt (numOf a.1) (numOf b.1)), a.2 || b.2))
  { groups := byLine (outs.flatMap (fun o => bytesAt o.1 o.2.1)), poison := (outs.filter (fun o => o.2.2)).map (fun o => o.1.toNat) }

/-- What a request writes. -/
def State.engOut (s : State) (q : XReq) : EngOut :=
  match q.kind, q.trec with
  | .tld dt k rne, some t => s.loadTile q t dt k rne
  | .tgath dt k rne _, some t => s.loadTile q t dt k rne
  | .tst st, some t => s.storeTile q t st 0
  | .tscat op st _, some t => s.storeTile q t st op
  | .xcopy x et len const, _ => s.copyBytes q x et len const
  | _, none => {}

/-- The pieces that a request reads and writes, with what they need of their pages. -/
def XReq.pieces (q : XReq) : List (EngPiece × Need) × List (EngPiece × Need) :=
  let tile (va : W64) (dt : Nat) (need : Need) : List (EngPiece × Need) :=
    (List.range ((tileSize dt + 127) / 128)).map (fun i => (⟨va + BitVec.ofNat 64 (128 * i), min 128 (tileSize dt - 128 * i)⟩, need))
  let recs (t : TRec) (need : Need) : List (EngPiece × Need) := (List.range t.rows).flatMap (fun r => (q.rowPieces t r).map (fun p => (p, need)))
  let run (va : W64) (n : Nat) (need : Need) : List (EngPiece × Need) :=
    (SeqRange.lines ⟨va.toNat, n, need⟩).map (fun a => (⟨addrOf a, min ((a / 128 + 1) * 128) (va.toNat + n) - a⟩, need))
  match q.kind, q.trec with
  | .tld dt _ _, some t => (recs t .read, tile q.dst dt .write)
  | .tgath dt _ _ _, some t => (recs t .read, tile q.dst dt .write)
  | .tst st, some t => (tile q.src st .read, recs t .write)
  | .tscat op st _, some t => (tile q.src st .read, recs t (if op = 0 then .write else .both))
  | .xcopy x _ len _, _ => (run q.src len .read, run q.dst (if x = 3 then len / 2 else len) (if x = 4 then .both else .write))
  | _, none => ([], [])

/-- Source and destination of a request overlap (12 R269). -/
def XReq.selfOverlap (q : XReq) : Bool :=
  let p := q.pieces
  p.1.any (fun a => p.2.any (fun b => a.1.va.toNat < b.1.va.toNat + b.1.n && b.1.va.toNat < a.1.va.toNat + a.1.n))

/-! Acceptance. -/

/-- The rule for a run that touches the scratch window (06 R168; 12 R266): it lies in the window, and in declared banks; the fault comes with the first
address that breaks it. -/
def State.windowRun (s : State) (va : W64) (n : Nat) : Option (TErr × W64) :=
  let edges := va :: (((List.range (n / 65536 + 1)).map (fun i => (va.toNat / 65536 + 1 + i) * 65536)).filter (· < va.toNat + n)).map addrOf
  match edges.filter inScratch with
  | [] => none
  | a :: _ =>
    if !inScratch va then some (accessErr 2, a)
    else edges.findSome? (fun a => if inScratch a then (match s.scratchOf s.w a with | .error e => some (e, a) | .ok _ => none) else some (accessErr 2, a))

/-- Registers read beyond those an instruction names, for the leader: held, marked or early ones, or the class run out of (12 R270; 15 R329). -/
def moreRegs (c : Ctx) (s : State) (first : Opnd) (n : Nat) (k : Eff) : Eff :=
  let codes : List Nat := match first with | .v r => (List.range n).map (r + ·) | .s r => (List.range n).map (640 + r + ·) | .sp _ => []
  let lead : Lanes := BitVec.ofNat 32 (2 ^ lowLane c.g)
  let past : Bool := match first with | .v r => 640 < r + n | .s r => 64 < r + n | .sp _ => true
  if past then c.whole 0x01 0
  else if codes.any s.w.regMissing then c.whole 0x04 0
  else if anyArmed s.w codes || anyAbsent s.w codes then .hold (fun s => s)
  else
    match firstMark s.w codes (fun _ => lead) with
    | some m => .fault (c.markFault s.w m lead c.g) (fun s => s)
    | none => if s.w.checkSb && earlyLanes s.w codes (fun _ => lead) != 0 then c.whole 0x05 0 else k

/-- The register n places after one. -/
def opndPlus (o : Opnd) (n : Nat) : Opnd := match o with | .v r => .v (r + n) | .s r => .s (r + n) | .sp x => .sp x

/-- A request that is accepted: it gets its ticket and is kept (12 R266). -/
def acceptReq (c : Ctx) (s : State) (q : XReq) (ticket : Opnd) : Eff :=
  if s.engineFull then .hold (fun s => s)
  else
    let s1 := s.giveTicket c ticket
    let y : XReq := { q with
      id := c.id, warp := s1.w.ref, lane := lowLane c.g, core := s1.w.id.core, ctx := s1.w.ctx, op := c.id, ticket := s1.w.ticket, target := keepTarget s1.w q.ck q.target }
    .ok { st := { s1 with e := { s1.e with reqs := s1.e.reqs ++ [y] } }, op := some { c.op with parts := 1 } }

/-- A request of an instruction before its acceptance. -/
def XReq.new (f : Fields) (kind : XKind) (ck : Nat) (target : W32) (counted : Nat) (dst src : W64) : XReq :=
  { id := 0, warp := WRef.none, lane := 0, core := ⟨0, 0, 0⟩, ctx := 0, op := 0, ticket := 0, kind := kind, trec := none, dst := dst, src := src, coords := []
    rows := [], ck := ck, target := target, counted := counted, evict := f.evict, level := levelOf f, brought := [], staged := none, wct := 0, paged := none
    aborted := false }

/-- What the record must be for a request (12 R258, R271, R273, R274): the code and cause of the fault where it is not. -/
def suits (kind : XKind) (t : TRec) : Option (Nat × Nat) :=
  let load (dt k : Nat) (rne : Bool) : Option (Nat × Nat) :=
    if t.fmt ≠ 7 ∧ (k ≠ 1 ∨ rne = true) then some (0x01, 0)
    else if dt = 6 ∧ t.fmt ≠ 6 ∧ (t.fmt ≠ 7 ∨ min k t.planes ≠ 1) then some (0x01, 0)
    else none
  match kind with
  | .tld dt k rne => load dt k rne
  | .tgath dt k rne _ => if t.rank ≠ 2 then some (0x0C, 4) else load dt k rne
  | .tst _ => none
  | .tscat op _ _ =>
    if t.rank ≠ 2 ∨ 6 ≤ t.fmt ∨ (op = 1 ∧ t.fmt ≠ 0) ∨ (op = 2 ∧ t.fmt ≠ 2) then some (0x0C, 4) else none
  | .xcopy .. => none

/-- The block-format rules of the coordinates (12 R270). -/
def XReq.blockAlign (q : XReq) (t : TRec) : Bool :=
  t.fmt < 6 || (!t.trans &&
    match q.kind with
    | .tld .. | .tst _ => (q.coords.getD 0 0).toNat % 32 == 0
    | .tgath .. | .tscat .. | .xcopy .. => true)

/-- The blocks of a nested record that a request touches (12 R266). -/
def XReq.nestBlocks (q : XReq) (t : TRec) : List Nat :=
  if t.fmt = 7 then ((List.range t.rows).flatMap (fun r => (List.range 2).filterMap (fun h => q.halfBlock t r h))).dedup else []

/-- Checking and accepting a request that names a record (12 R266), the faults in the order of 15 R329: those of further coordinate registers come before those of
the operand values, which are the tile's address, the window rule, the record, its fitness, the block-format rule and the blocks. -/
def tileReq (f : Fields) (c : Ctx) (s : State) (kind : XKind) (size : Nat) (load : Bool) : Eff :=
  let lane := lowLane c.g
  let d := s.read64 f.d lane
  let ra := s.read64 f.a lane
  let acc := if load then 1 else 0
  let q0 := XReq.new f kind (f.subBits 1 0) (s.read32 f.c lane) size (if load then d else 0) (if load then 0 else d)
  let gather : Bool := match kind with | .tgath .. | .tscat .. => true | .tld .. | .tst _ | .xcopy .. => false
  let tile : List (TErr × Nat × W64) :=
    (if d.toNat % 256 ≠ 0 then [(⟨0x09, 0⟩, acc, d)] else []) ++ (match s.windowRun d size with | some x => [(x.1, acc, x.2)] | none => [])
  match s.recordAt s.w.id.core s.w.ctx ra with
  | .error e => c.leadFirst (tile ++ [(e, 0, ra)]) (c.lead e 0 ra)
  | .ok t =>
    let go (q : XReq) : Eff :=
      let fit : List (TErr × Nat × W64) := match suits kind t with | some (code, cause) => [(⟨BitVec.ofNat 8 code, BitVec.ofNat 6 cause⟩, 0, ra)] | none => []
      let form : List (TErr × Nat × W64) := if q.blockAlign t then [] else [(⟨0x09, 0⟩, 0, ra)]
      let blocks : List (TErr × Nat × W64) := (q.nestBlocks t).filterMap (fun b =>
        match s.nblock s.w.id.core s.w.ctx (if load then .read else .write) t b with | .error e => some (e.1, 1 - acc, e.2) | .ok _ => none)
      c.leadFirst (tile ++ form ++ fit ++ blocks) (acceptReq c s { q with trec := some t } f.e)
    match suits kind t with
    | some (0x01, _) => c.whole 0x01 0
    | some _ | none =>
      if gather then go { q0 with rows := (List.range 64).map (fun r => s.read32 (if r < 32 then f.b else opndPlus f.b 1) (r % 32)) }
      else moreRegs c s f.b t.rank (go { q0 with coords := (List.range t.rank).map (fun i => s.read32 (opndPlus f.b i) lane) })

/-- Full registers beyond the first coordinate are used up like it (14 R300). -/
def useCoords (f : Fields) (e : Eff) : Eff :=
  match e with
  | .ok r =>
    let n := (match r.st.e.reqs.getLast? with | some q => q.coords.length | none => 0)
    let codes : List Nat := match f.b with | .v x => (List.range n).map (x + ·) | .s x => (List.range n).map (640 + x + ·) | .sp _ => []
    .ok { r with st := r.st.updW (fun w => w.consume codes) }
  | .hold h => .hold h
  | .fault x h => .fault x h

/-- TLD (12 R270, R271). -/
def tldEff (f : Fields) (c : Ctx) (s : State) : Eff :=
  useCoords f (tileReq f c s (.tld (f.modBits 2 0) (f.modBits 4 3 + 1) (f.modBits 5 5 = 1)) (tileSize (f.modBits 2 0)) true)
def execTld (f : Fields) (s : State) : Host.Outcome State Fault Refusal := nextOf (runWarp (.tld f) leadPlan (tldEff f) s)

/-- TST (12 R272). -/
def tstEff (f : Fields) (c : Ctx) (s : State) : Eff := useCoords f (tileReq f c s (.tst (f.modBits 2 0)) (tileSize (f.modBits 2 0)) false)
def execTst (f : Fields) (s : State) : Host.Outcome State Fault Refusal := nextOf (runWarp (.tst f) leadPlan (tstEff f) s)

/-- How a gather or scatter issues: its index registers are read in every lane (12 R273). -/
def gatherPlan (f : Fields) : Plan :=
  { lat := .later, src := fun _ g r => if (regsOf (.vrange 2) f.b).contains r then BitVec.allOnes 32 else BitVec.ofNat 32 (2 ^ lowLane g) }

/-- TGATH (12 R273). -/
def tgathEff (f : Fields) (c : Ctx) (s : State) : Eff :=
  tileReq f c s (.tgath (f.modBits 2 0) (f.modBits 4 3 + 1) (f.modBits 5 5 = 1) (f.modBits 13 6)) (tileSize (f.modBits 2 0)) true
def execTgath (f : Fields) (s : State) : Host.Outcome State Fault Refusal := nextOf (runWarp (.tgath f) (gatherPlan f) (tgathEff f) s)

/-- TSCAT (12 R274). -/
def tscatEff (f : Fields) (c : Ctx) (s : State) : Eff :=
  tileReq f c s (.tscat (f.modBits 1 0) (f.modBits 4 2) (f.modBits 13 6)) (tileSize (f.modBits 4 2)) false
def execTscat (f : Fields) (s : State) : Host.Outcome State Fault Refusal := nextOf (runWarp (.tscat f) (gatherPlan f) (tscatEff f) s)

/-- XCOPY (12 R275): on the sequencer where both ranges lie in one stack and translate, else on the streamer. -/
def xcopyEff (f : Fields) (c : Ctx) (s : State) : Eff :=
  let lane := lowLane c.g
  let d := s.read64 f.d lane
  let a := s.read64 f.a lane
  let len := (s.read32 f.b lane).toNat
  let k := s.read64 f.c lane
  let x := f.modBits 2 0
  let et := f.modBits 3 3
  let ck := f.subBits 1 0
  let target : W32 := BitVec.ofNat 32 (fieldOf k 63 32)
  let y := xseqOf x et len d a (k.setWidth 32)
  let z := if x = 0 then 1 else if et = 0 then 4 else 2
  if a.toNat % z ≠ 0 ∨ len % z ≠ 0 then c.lead ⟨0x09, 0⟩ 0 a
  else if d.toNat % (if x = 3 then 2 else z) ≠ 0 then c.lead ⟨0x09, 0⟩ 1 d
  else if len = 0 then
    if s.engineFull then .hold (fun s => s)
    else
      let s1 := s.giveTicket c f.e
      .ok { st := s1.actOn s1.w.ref s1.w.ctx ck (keepTarget s1.w ck target) 0 }
  else
    match s.windowRun a len, s.windowRun d y.total with
    | some e, _ => c.lead e.1 0 e.2
    | none, some e => c.lead e.1 1 e.2
    | none, none =>
      match s.placeSeq s.w.id.core s.w.ctx y with
      | .ok q => acceptSeq c s q ck target f.e
      | .error e => if e.1 = waitErr then .hold (fun s => s) else acceptReq c s (XReq.new f (.xcopy x et len (k.setWidth 32)) ck target y.total d a) f.e
def execXcopy (f : Fields) (s : State) : Host.Outcome State Fault Refusal := nextOf (runWarp (.xcopy f) leadPlan (xcopyEff f) s)

/-! The transfer. -/

def State.reqAt (s : State) (k : Nat) : Option XReq := s.e.reqs.find? (fun q => q.id == k)
def State.setReq (s : State) (q : XReq) : State := { s with e := { s.e with reqs := updFirst (fun x => x.id == q.id) (fun _ => q) s.e.reqs } }

/-- The warp of a reference, resident or saved, for the record of a fault; where it has gone, one with its name only. -/
def State.warpFor (s : State) (r : WRef) : Warp :=
  match s.findRef r with
  | some w => w
  | none =>
    match (s.t.saved.flatMap (·.warps)).find? (fun w => w.ref == r) with
    | some w => w
    | none => { Warp.reset with ref := r, widx := r.widx, id := ⟨⟨r.die, r.cluster, 0⟩, 0⟩ }

/-- What stops a transfer in linear memory (12 R268; 19 R403, R405): the first page that does not translate, the first byte of a device that refuses the
access, the first write to a device that cannot be reached; with its address and kind of access. -/
def State.engErr (s : State) (q : XReq) : Option (TErr × W64 × Nat) :=
  let p := q.pieces
  (p.1 ++ p.2).findSome? (fun x =>
    if inScratch x.1.va then none
    else
      let acc := if x.2 = .read then 0 else 1
      match s.m.translate q.core q.ctx x.1.va x.2 with
      | .error e => some (if e.code = 0x08 then accessErr 5 else e, x.1.va, acc)
      | .ok p =>
        match s.peerErr p.loc with
        | none => none
        | some (code, cause) => if code = 0x0A ∧ acc = 0 then none else some (⟨BitVec.ofNat 8 code, BitVec.ofNat 6 cause⟩, x.1.va, acc))

/-- Placing addresses of a request. -/
def State.engPlace (s : State) (q : XReq) (va : Nat) : Option Phys :=
  if inScratch (addrOf va) then none else (s.m.translate q.core q.ctx (addrOf va) .none).toOption

/-- The first of some places in each line that they lie in. -/
def oneALine (ps : List Phys) : List Phys := ((ps.map (fun p => lineOf p.loc)).dedup).filterMap (fun l => ps.find? (fun p => lineOf p.loc == l))

/-- The groups of a request's writes, placed: bytes, then additions by line, each with the blocks that it leaves poisoned (12 R268, R272). Where source and
destination overlap the bytes are free (12 R269). -/
def State.engGroups (s : State) (q : XReq) (o : EngOut) : List EngWrite :=
  let free : Bool := q.selfOverlap
  let byte (va : Nat) (b : Byte) : Byte := if free then Config.overlapByte (s.tick * 2 ^ 24 + va % 2 ^ 24) else b
  let bad := ((o.poison.filterMap (s.engPlace q)).map (fun p => blockOf p.loc)).dedup
  let spoiled (ps : List Phys) : List Phys := (oneALine ps).filter (fun p => bad.contains (blockOf p.loc))
  let plain (g : List (Nat × Byte)) : EngWrite :=
    let linear := g.filterMap (fun c => (s.engPlace q c.1).map (fun p => (p, byte c.1 c.2)))
    let scratch := g.filter (fun c => inScratch (addrOf c.1))
    { linear := linear, scratch := scratch.map (fun c => (windowOff c.1, byte c.1 c.2)), adds := [], poison := spoiled (linear.map Prod.fst)
      spoison := (scratch.filter (fun c => o.poison.contains c.1)).map (fun c => windowOff c.1) }
  let sums := ((o.adds.map (fun a => a.1 / 128)).dedup).map (fun l =>
    let mine := o.adds.filter (fun a => a.1 / 128 == l)
    if free then plain (mine.flatMap (fun a => (List.range (if a.2.1 then 2 else 4)).map (fun i => (a.1 + i, (0 : Byte)))))
    else
      let adds := mine.filterMap (fun a => (s.engPlace q a.1).map (fun p => (p, a.2.1, a.2.2)))
      { linear := [], scratch := [], adds := adds, poison := spoiled (adds.map Prod.fst), spoison := [] })
  o.groups.map plain ++ sums

/-- The places that a group writes in memory that an engine owns by line: this device's and other devices'. -/
def EngWrite.places (w : EngWrite) : List Phys :=
  ((w.linear.map Prod.fst) ++ (w.adds.map Prod.fst)).filter (fun (p : Phys) => p.loc < hostBase || memKind p.loc == .peer)

/-- Their lines. -/
def EngWrite.lines (w : EngWrite) : List Nat := (w.places.map (fun p => lineOf p.loc)).dedup

/-- Taking ownership of a destination line (07 R214): dirty bytes that any L1 holds are applied first (07 R198). A line that L2 does not hold is allocated there; where
its set has no room it is owned outside L2 (log entry 52). -/
def State.takeLine (s : State) (id : Nat) (p : Phys) (ctx : Nat) : State :=
  let line := lineOf p.loc
  let s1 := (s.m.l1.filter (fun x => x.line == line && x.dirty != 0)).foldl (fun acc x => acc.homeNow x false) s
  s1.updM (fun m =>
    let m1 := m.l2Room s.time line p.slice
    if hostBase ≤ p.loc || !m1.l2Fits line p.slice then { m with farOwned := m.farOwned ++ [(line, id)] }
    else m1.l2Set { (m1.l2Line line p.slice ctx p.key 0) with owner := some id })

/-- The places of a request's destination lines, one a line. -/
def engOwns (gs : List EngWrite) : List Phys := oneALine (gs.flatMap EngWrite.places)

/-- The lines that a request's sources come from go where its hints say (03 R89; 06 R178; 12 R268). -/
def State.hintSources (s : State) (q : XReq) : State :=
  let ps := oneALine ((q.pieces.1.filterMap (fun x => s.engPlace q x.1.va.toNat)).filter (fun p => p.loc < hostBase))
  s.updM (fun m => ps.foldl (fun acc p => acc.bringLine s.time p q.ctx q.level q.evict) m)

/-- Issuing a transfer (07 R214; 12 R268): a PAGE suspends it, an ACCESS aborts it; otherwise it owns its lines and reads its sources (log entry
18). It waits for a thermal hold (17 R372). -/
def State.stageReq (s : State) (q : XReq) : State :=
  match s.engErr q with
  | some (e, va, acc) =>
    if e.code = 0 then s
    else if e.code = 0x07 then
      let n := s.fresh
      let w := s.warpFor q.warp
      let o := w.findOp q.op
      let x : FaultInfo :=
        { code := e.code, cause := e.cause, addr := va, agent := 1, acc := BitVec.ofNat 2 acc, ticket := q.ticket, offset := (o.map (·.offset)).getD 0
          opc := (o.map (·.opc)).getD 0, lane := BitVec.ofNat 5 q.lane, flanes := BitVec.ofNat 32 (2 ^ q.lane) }
      (s.raiseRecord w kindPage (some (.request q.id)) x).setReq { q with paged := some n }
    else (s.setReq { q with aborted := true, staged := some [] }).deferTicket q.warp q.op q.ticket q.lane e.code.toNat e.cause.toNat 1 va acc
  | none =>
    let own := engOwns (s.engGroups q (s.engOut q))
    if s.engineWaits q.warp q.core q.ctx [] ((q.pieces.1 ++ q.pieces.2.filter (fun x => x.2 == .both)).map (fun x => (x.1.va, x.1.n))) ||
        own.any (fun p => s.owned (lineOf p.loc) || s.seqBlocks (lineOf p.loc)) then s
    else
      let brought := (own.map (fun p => lineOf p.loc)).filter (fun l => (s.m.l2Find l).isNone)
      let s1 := (own.foldl (fun acc p => acc.takeLine q.id p q.ctx) s).hintSources q
      -- the sources are read once the earlier dirty bytes of its own lines are at home
      let gs1 := s1.engGroups q (s1.engOut q)
      s1.setReq { q with staged := some gs1, brought := brought }

/-- An addition at its home (12 R274; 02 R73): a poisoned element stays as it is. -/
def State.addAt (s : State) (q : XReq) (a : Phys × Bool × W32) : State × Nat :=
  let n := if a.2.1 then 2 else 4
  let t := if a.2.1 then bf16 else f32
  let ps := (List.range n).map (fun i => ({ a.1 with loc := a.1.loc + i } : Phys))
  if ps.any s.m.placePoison then (s, 0)
  else
    let r := (addF t FpMode.plain (t.val (numOf (s.m.placeBytes ps))) (f32.val a.2.2.toNat)).1
    let p := s.m.putBytes s.time q.ctx q.core.die none (ps.zip (bytesOf n r)) q.evict
    ({ s with m := p.1 }, p.2)

/-- Blocks become poisoned at their homes: the later of a completion time and theirs (07 R215). -/
def State.poisonPlaces (s : State) (die : Nat) (ps : List Phys) (wct : Nat) : State × Nat :=
  ps.foldl (fun (acc : State × Nat) p => let x := acc.1.m.poisonAt acc.1.time die p; ({ acc.1 with m := x.1 }, max acc.2 x.2)) (s, wct)

/-- One group of writes at the homes and in the banks, with the latest completion time (07 R215). -/
def State.engWrite (s : State) (q : XReq) (w : EngWrite) : State × Nat :=
  let r := s.m.putBytes s.time q.ctx q.core.die (some q.id) w.linear q.evict
  let s1 := ({ s with m := r.1 }).windowPut q.warp w.scratch w.spoison
  let r2 := w.adds.foldl (fun (acc : State × Nat) a => let x := acc.1.addAt q a; (x.1, max acc.2 x.2)) (s1, r.2)
  let r3 := r2.1.poisonPlaces q.core.die w.poison r2.2
  (r3.1.pushSeqs (w.linear.map Prod.fst ++ w.adds.map Prod.fst), r3.2)

/-- Lines that no later group writes are released (07 R214); those that the request brought into L2 leave it where its LEVEL hint says so (03 R89). -/
def State.freeLines (s : State) (id : Nat) (lines brought : List Nat) (level : Nat) (evict : BitVec 2) : State :=
  let s1 := s.updM (fun m => { m with
    l2 := m.l2.map (fun x => if x.owner == some id && lines.contains x.line then { x with owner := none } else x)
    farOwned := m.farOwned.filter (fun x => !(x.2 == id && lines.contains x.1)) })
  if level < 2 then s1
  else
    s1.updM (fun m => (lines.filter brought.contains).foldl
      (fun acc l => match (acc.l2Find l).bind (fun x => acc.pushLine s.time x (level < 3) evict) with
        | none => acc
        | some m1 => m1.forgetL2 s.time (fun y => y.line == l)) m)

/-- ENGINE_LINE_WRITE (07 R214; 12 R268, R269): the first issues the transfer; each later one writes the next lines, which wait while a sequence holds
writes to them (17 R370). -/
def execEngineLineWrite (k : Nat) (s : State) : Host.Outcome State Fault Refusal :=
  match s.reqAt k with
  | none => .next s
  | some q =>
    match q.staged with
    | none => .next (if q.paged.isSome then s else s.stageReq q)
    | some [] => .next s
    | some (w :: rest) =>
      if w.lines.any s.seqBlocks then .next s else
      let r := s.engWrite q w
      let later := rest.flatMap EngWrite.lines
      .next ((r.1.freeLines q.id (w.lines.filter (fun l => !later.contains l)) q.brought q.level q.evict).setReq { q with staged := some rest, wct := max q.wct r.2 })

/-- STREAMER_COMPLETION (12 R267): every byte is written and TIME has passed every completion time. -/
def execStreamerCompletion (k : Nat) (s : State) : Host.Outcome State Fault Refusal :=
  match s.reqAt k with
  | none => .next s
  | some q =>
    if q.staged = some [] ∧ q.wct ≤ s.time then
      let s1 := { s with e := { s.e with reqs := s.e.reqs.filter (fun x => x.id != k) } }
      .next ((s1.updAny q.warp (fun w => w.gotPart q.op (fun o => o))).actOn q.warp q.ctx q.ck q.target q.counted)
    else .next s

end Sys2Proof.Machine
end

