-- ==== Sys2Proof/Machine/Matrix.lean ====
section
/-!
DEFINITION. The matrix instructions (12 R284-R290; 02 R70; 18 R391) and ROW_BLOCK_COMPLETION: the streams of a warp, the dispatch of row
blocks with the progress of RESUME, and what each entry of a stream does when it completes. Log entry 13 says how entries of different
streams are ordered, log entry 35 which bytes of a tile the checks reach.
-/
namespace Sys2Proof.Machine

/-- The tile types of MMA by code (12 R284), as the codes of 12 R263. -/
def mmaType (t : Nat) : Nat := match t with | 0 => 2 | 1 => 1 | 2 => 3 | 3 => 4 | 4 => 6 | _ => 5

/-- Bytes of a row of a canonical tile. -/
def tileRowBytes (dt : Nat) : Nat := if dt = 6 then 32 else 64 * tilePitch dt

/-- The runs of bytes of some rows of a tile: data, and headers of N4 (12 R263). -/
def tileRuns (dt : Nat) (base : W64) (first n : Nat) : List (W64 × Nat) :=
  (List.range n).flatMap (fun r =>
    (base + BitVec.ofNat 64 (tileRowBytes dt * (first + r)), tileRowBytes dt) ::
      (if dt = 6 then [(base + BitVec.ofNat 64 (2048 + 4 * (first + r)), 4)] else []))

/-- The last 16 bytes of a tile (12 R264). -/
def trailerVa (dt : Nat) (base : W64) : W64 := base + BitVec.ofNat 64 (tileSize dt - 16)

/-- The fault that a warp meets in reading runs of bytes, the first in the order of 15 R329 (06 R168, R179). -/
def State.runsErr (s : State) (rs : List (W64 × Nat)) : Option (TErr × W64) :=
  match collectErr ((rs.flatMap (fun r => [r.1, r.1 + BitVec.ofNat 64 (r.2 - 1)])).map (fun va => (s.resolve s.w va .read).mapError (fun e => (e, va)))) with
  | .error e => some e
  | .ok _ => none

/-- The ACT field of a tile in the window, 7 for a tile in linear memory or one that cannot be read (12 R286). -/
def State.tileAct (s : State) (dt : Nat) (base : W64) : Nat :=
  let va := trailerVa dt base
  if !inScratch base then 7
  else
    match s.resolve s.w va .read with
    | .ok (.bank k) => (s.m.bankGet k).toNat % 8
    | .ok (.mem _) => 7
    | .error _ => 7

/-- The lumens of an MMA per 64 values of k (18 R391). -/
def mmaLumens (ta act : Nat) : Nat := if ta ≤ 1 then 88 + 16 * act else if ta = 4 then 33 + 6 * act else 55 + 10 * act

/-- The operands of an MMA. -/
def mmaArgs (f : Fields) (s : State) : MmaArgs :=
  let c := s.read64 f.c 0
  { tile := f.modBits 3 0, ta := f.subBits 2 0, tb := f.subBits 5 3, z := f.modBits 9 9 == 1, a := s.read64 f.a 0, b := s.read64 f.b 0
    sa := fieldOf c 23 0, sb := fieldOf c 47 24, k := 32 * (fieldOf c 54 48 + 1), pages := [] }

/-- T, and tile t of each operand (12 R285). -/
def MmaArgs.tiles (m : MmaArgs) : Nat := (m.k + 63) / 64
def MmaArgs.aTile (m : MmaArgs) (t : Nat) : W64 := m.a + BitVec.ofNat 64 (t * m.sa)
def MmaArgs.bTile (m : MmaArgs) (t : Nat) : W64 := m.b + BitVec.ofNat 64 (t * m.sb)

/-- An address or a stride that is no multiple of 256 (12 R284). -/
def MmaArgs.misaligned (m : MmaArgs) : Option W64 :=
  [m.a, m.b, BitVec.ofNat 64 m.sa, BitVec.ofNat 64 m.sb].find? (fun x => x.toNat % 256 != 0)

/-- The runs of bytes that its row blocks share, of every B tile, and those of the A rows of row block j. -/
def MmaArgs.bRuns (m : MmaArgs) : List (W64 × Nat) :=
  (List.range m.tiles).flatMap (fun t => tileRuns (mmaType m.tb) (m.bTile t) 0 64 ++ [(trailerVa (mmaType m.tb) (m.bTile t), 16)])
def MmaArgs.aRuns (m : MmaArgs) (j : Nat) : List (W64 × Nat) :=
  (List.range m.tiles).flatMap (fun t => tileRuns (mmaType m.ta) (m.aTile t) (8 * j) 8 ++ [(trailerVa (mmaType m.ta) (m.aTile t), 16)])

/-- The checks of every B tile. -/
def State.checkB (s : State) (m : MmaArgs) : Option (TErr × W64) := s.runsErr m.bRuns

/-- The pages of the linear bytes of runs, as they translate for a warp now. -/
def State.runPages (s : State) (w : Warp) (rs : List (W64 × Nat)) : List PageRun :=
  ((rs.flatMap (fun r => [r.1, r.1 + BitVec.ofNat 64 (r.2 - 1)])).filterMap (fun va =>
    if inScratch va then none
    else
      match s.m.pageOf w.id.core w.ctx va with
      | .error _ => none
      | .ok (pte, level) => let lo := va.toNat / pageSize level * pageSize level; some (⟨pte, level, lo, lo + pageSize level⟩ : PageRun))).dedup

/-- The checks of the A rows of row block j; the trailer, past row 63, goes with block 7 (log entry 35). -/
def State.checkA (s : State) (m : MmaArgs) (j : Nat) : Option (TErr × W64) :=
  s.runsErr ((List.range m.tiles).flatMap (fun t =>
    tileRuns (mmaType m.ta) (m.aTile t) (8 * j) 8 ++ (if j = 7 then [(trailerVa (mmaType m.ta) (m.aTile t), 16)] else [])))

/-- The tile that an instruction of a stream uses, and whether it writes it (12 R288). -/
def MOp.tile : MOp → Nat
  | .rowBlock m _ => m.tile
  | .zero t => t
  | .load t .. => t
  | .store t .. => t
def MOp.writes : MOp → Bool
  | .load .. => false
  | .rowBlock .. | .zero _ | .store .. => true

/-- Another stream has written a tile with no MSYNC since (12 R288). -/
def Warp.races (w : Warp) (stream tile : Nat) : Bool := w.used.any (fun u => u.stream != stream && u.tile == tile && u.writes)

/-- An instruction enters its stream: where it writes a tile, what other streams still have to do on the tile is not ordered with it (12 R288). -/
def Warp.enter (w : Warp) (stream op : Nat) (last : Bool) (body : MOp) : Warp :=
  let u : MUse := ⟨stream, body.tile, body.writes⟩
  let meet (e : MEntry) : MEntry := if body.writes && e.stream != stream && e.body.tile == body.tile then { e with racy := true } else e
  { w with
    used := if w.used.contains u then w.used else w.used ++ [u], streams := w.streams.map meet ++ [⟨stream, op, last, body, w.races stream body.tile⟩] }

/-- Dispatching row blocks from j on, until one faults (12 R286): the state and the fault, if any. -/
def State.dispatch (s : State) (m : MmaArgs) (stream op : Nat) : List Nat → State × Option (TErr × W64)
  | [] => (s.updW (fun w => w.setResume 0), none)
  | j :: rest =>
    match s.checkA m j with
    | some e => (s.updW (fun w => w.setResume (resumeWord 0xD0 j)), some e)
    | none =>
      (s.updW (fun w => w.enter stream op (j == 7) (.rowBlock m j))).dispatch m stream op rest

/-- What an MMA does once its lumens are granted. -/
def State.mmaRun (s : State) (m : MmaArgs) (stream op j0 : Nat) : State × Option (TErr × W64) :=
  match m.misaligned with
  | some x => (s, some (⟨0x09, 0⟩, x))
  | none =>
    match s.checkB m with
    | some e => (s, some e)
    | none => s.dispatch { m with pages := s.runPages s.w (m.bRuns ++ (List.range 8).flatMap m.aRuns) } stream op ((List.range 8).drop j0)

/-- MMA as a completed collective (12 R286). -/
def mmaEff (f : Fields) (c : Ctx) (s : State) : Eff :=
  let m := mmaArgs f s
  let j0 := min 8 (s.w.progress 0xD0)
  let act := max (s.tileAct (mmaType m.ta) m.a) (s.tileAct (mmaType m.tb) m.b)
  let amount := (m.tiles * mmaLumens m.ta act * (8 - j0) + 7) / 8
  withLumens s s.w.id.core.die s.w.ref c.p amount s.w.prio act (fun s1 =>
    let r := s1.mmaRun m (f.modBits 5 4) c.id j0
    match r.2 with
    | none =>
      .ok { st := (r.1.touch s1.w.id.core s1.w.ctx m.a).touch s1.w.id.core s1.w.ctx m.b
            op := if j0 < 8 then some { c.op with parts := 1 } else none }
    | some (e, va) =>
      .fault { c.info e.code.toNat e.cause.toNat c.g va with agent := if e.code = 0x09 then 0 else 2 }
        (fun t => ((t.lumens t.w.id.core.die t.w.ref c.p amount t.w.prio act).1.mmaRun m (f.modBits 5 4) c.id j0).1))

/-- MMA (12 R284, R286). -/
def execMma (f : Fields) (s : State) : Host.Outcome State Fault Refusal :=
  nextOf (signWith (.mma f) { lat := .later } (f.modBits 8 6) (mmaEff f) s)

/-- Entering an instruction in a stream (12 R288), with an operation that its completion ends. -/
def enterStream (c : Ctx) (s : State) (stream : Nat) (body : MOp) (dests : List (Nat × Lanes)) : Eff :=
  .ok { st := s.updW (fun w => w.enter stream c.id true body), op := some { c.op with parts := 1, dests := dests } }

/-- MZERO (12 R289). -/
def execMzero (f : Fields) (s : State) : Host.Outcome State Fault Refusal :=
  nextOf (runWarp (.mzero f) { lat := .later } (fun c s => enterStream c s (f.modBits 5 4) (.zero (f.modBits 3 0)) []) s)

/-- The first register of a vector range. -/
def firstReg (o : Opnd) : Nat := match o with | .v r => r | .s _ => 0 | .sp _ => 0

/-- MLDA (12 R289). -/
def execMlda (f : Fields) (s : State) : Host.Outcome State Fault Refusal :=
  nextOf (runWarp (.mlda f) { lat := .later } (fun c s =>
    match c.uni32 s f.a with
    | none => c.whole 0x03 0
    | some row =>
      let n := f.modBits 8 6 + 1
      enterStream c s (f.modBits 5 4) (.load (f.modBits 3 0) (row.toNat % 64) n (firstReg f.d) c.g)
        ((List.range (2 * n)).map (fun i => (firstReg f.d + i, c.g)))) s)

/-- MSTA (12 R289): the registers are read at issue. -/
def execMsta (f : Fields) (s : State) : Host.Outcome State Fault Refusal :=
  nextOf (runWarp (.msta f) { lat := .later } (fun c s =>
    match c.uni32 s f.a with
    | none => c.whole 0x03 0
    | some row =>
      let n := f.modBits 8 6 + 1
      let vals := (List.range (2 * n)).flatMap (fun i => (bitList c.g).map (fun l => (i * 32 + l, s.read32 (opndPlus f.d i) l)))
      enterStream c s (f.modBits 5 4) (.store (f.modBits 3 0) (row.toNat % 64) n c.g vals) []) s)

/-- The streams with instructions that have not completed. -/
def Warp.streamsBusy (w : Warp) : Nat := (ofBits 4 ((w.streams.map (·.stream)).filter (· < 4))).toNat

/-- MSYNC (12 R288, R289): not ready while a named stream has an earlier instruction; what follows is ordered after the named streams. -/
def execMsync (f : Fields) (s : State) : Host.Outcome State Fault Refusal :=
  nextOf (runWarp (.msync f) {} (fun _ s =>
    let mask := if f.subBits 3 0 = 0 then 15 else f.subBits 3 0
    if Nat.land s.w.streamsBusy mask = 0 then .ok { st := s.updW (fun w => { w with used := w.used.filter (fun u => !mask.testBit u.stream) }) }
    else .hold (fun s => s)) s)

/-- MRDP (12 R289, R290). -/
def execMrdp (f : Fields) (s : State) : Host.Outcome State Fault Refusal :=
  nextOf (runWarp (.mrdp f) {} (fun c s =>
    let mine : Bool := s.w.csr.resume.getLsbD 31 && fieldOf s.w.csr.resume 15 8 == 0xD0
    let x := (if mine then fieldOf s.w.csr.resume 6 0 + 128 else 0) + 256 * s.w.streamsBusy
    c.lanes32 false s (fun _ => BitVec.ofNat 32 x)) s)

/-! Completion in a stream. -/

/-- Bytes of an operand of the operation with a number, as the homes or the bank hold them, and whether one is poisoned (12 R287; 07 R216). -/
def State.operandBytes (s : State) (w : Warp) (num : Nat) (pages : List PageRun) (va : W64) (n : Nat) : List Byte × Bool :=
  s.engineRead w.ref w.id.core w.ctx num pages va n

/-- The values of the first n columns of a row of a tile, n a multiple of 32, and whether a byte of them is poisoned. -/
def State.operandRow (s : State) (w : Warp) (num : Nat) (pages : List PageRun) (dt : Nat) (base : W64) (r n : Nat) : List Val × Bool :=
  let x := s.operandBytes w num pages (base + BitVec.ofNat 64 (tileRowBytes dt * r)) (if dt = 6 then n / 2 else n * tilePitch dt)
  if dt = 6 then
    let h := s.operandBytes w num pages (base + BitVec.ofNat 64 (2048 + 4 * r)) (2 * (n / 32))
    ((List.range n).map (fun c =>
        n4Val ((x.1.getD (c / 2) 0).toNat / (if c % 2 = 0 then 1 else 16) % 16) (h.1.getD (2 * (c / 32)) 0).toNat (h.1.getD (2 * (c / 32) + 1) 0).toNat),
      x.2 || h.2)
  else ((List.range n).map (fun c => typeVal dt (numAt x.1 (tilePitch dt * c) (tilePitch dt))), x.2)

/-- The POISON bits of a tile's trailer; every row where the trailer itself is poisoned (12 R264, R287). -/
def State.operandPoison (s : State) (w : Warp) (num : Nat) (pages : List PageRun) (dt : Nat) (base : W64) : BitVec 64 :=
  let x := s.operandBytes w num pages (trailerVa dt base) 16
  if x.2 then BitVec.allOnes 64 else BitVec.ofNat 64 (numAt x.1 4 8)

/-- Columns of tile t that are read (12 R285). -/
def MmaArgs.cols (m : MmaArgs) (t : Nat) : Nat := min 64 (m.k - 64 * t)

/-- A row of an operand over every value of k, and whether it is poisoned. -/
def State.kRow (s : State) (w : Warp) (num : Nat) (m : MmaArgs) (dt : Nat) (tile : Nat → W64) (r : Nat) : List Val × Bool :=
  let rs := (List.range m.tiles).map (fun t => s.operandRow w num m.pages dt (tile t) r (m.cols t))
  (rs.flatMap Prod.fst, rs.any Prod.snd)

/-- An element of the result (02 R70; 12 R285): integers wrap, floating sums are exact and rounded once. -/
def mmaElt (int : Bool) (init : W32) (xs ys : List Val) : W32 :=
  let ps := (xs.zip ys).map (fun p => (mulVals p.1 p.2).1)
  if int then init + BitVec.ofInt 32 (sumAt 0 ps) else BitVec.ofNat 32 (froundPlain f32 (sumVals .rne (f32.val init.toNat :: ps)).1)

/-- The key of an element of an accumulator. -/
def accKey (tile r c : Nat) : Nat := tile * 4096 + r * 64 + c

/-- Elements that another stream writes or reads without order (12 R288): any values derived from the tile and from what the instruction computes. -/
def State.raced (s : State) (w : Warp) (racy : Bool) (tile : Nat) (vals : List (Nat × W32)) : List (Nat × W32) :=
  if racy then
    let own := ((w.acc.filter (fun p => p.1 / 4096 == tile)).map (·.2)) ++ vals.map (·.2)
    vals.map (fun p => (p.1, Config.raceElt own (s.tick * 2 ^ 20 + p.1)))
  else vals

/-- A row block of an MMA (12 R285, R287), the elements unordered with another stream where it is racy. -/
def State.rowBlock (s : State) (w : Warp) (num : Nat) (racy : Bool) (m : MmaArgs) (j : Nat) : Warp :=
  let bs := (List.range 64).map (s.kRow w num m (mmaType m.tb) m.bTile)
  let bBad : Bool := bs.any Prod.snd || (List.range m.tiles).any (fun t => s.operandPoison w num m.pages (mmaType m.tb) (m.bTile t) != 0)
  let aBits := (List.range m.tiles).foldl (fun acc t => acc ||| s.operandPoison w num m.pages (mmaType m.ta) (m.aTile t)) 0
  let rows := (List.range 8).map (fun i => (8 * j + i, s.kRow w num m (mmaType m.ta) m.aTile (8 * j + i)))
  let cells := rows.flatMap (fun r => (List.range 64).map (fun c =>
    (accKey m.tile r.1 c, mmaElt (m.ta == 5) (if m.z then 0 else w.acc.get (accKey m.tile r.1 c)) r.2.1 (bs.getD c ([], false)).1)))
  let bad : BitVec 64 := ofBits 64 ((rows.filter (fun r => bBad || r.2.2 || aBits.getLsbD r.1)).map (·.1))
  let mine : BitVec 64 := ofBits 64 (rows.map (·.1))
  let old := w.accPoison.get m.tile
  { w with acc := w.acc.setMany (s.raced w racy m.tile cells), accPoison := w.accPoison.set m.tile ((if m.z then old &&& ~~~mine else old) ||| bad) }

/-- The rows of an MLDA or MSTA, in order. -/
def streamRows (row n : Nat) : List Nat := (List.range n).map (fun j => (row + j) % 64)

/-- What an entry of a stream does to its warp when it completes (12 R289). -/
def State.streamAct (s : State) (w : Warp) (e : MEntry) : Warp :=
  match e.body with
  | .rowBlock m j => s.rowBlock w e.op e.racy m j
  | .zero t =>
    let gone := w.acc.dropRange (t * 4096) ((t + 1) * 4096)
    { w with
      acc := if e.racy then gone.setMany (s.raced w true t ((List.range 4096).map (fun i => (t * 4096 + i, (0 : W32))))) else gone, accPoison := w.accPoison.set t 0 }
  | .load t row n d lanes =>
    let rows := streamRows row n
    let vals := (List.range (2 * n)).flatMap (fun i => (bitList lanes).map (fun l =>
      ((d + i) * 32 + l, w.acc.get (accKey t (rows.getD (i / 2) 0) (32 * (i % 2) + l)))))
    w.updOp e.op (fun o => { o with
      vvals := s.raced w e.racy t vals
      marks := (List.range (2 * n)).filterMap (fun i =>
        if (w.accPoison.get t).getLsbD (rows.getD (i / 2) 0) then
          some ({ reg := d + i, lanes := lanes, info := { code := 0x0A, mark := o.offset, opc := o.opc, lane := BitVec.ofNat 5 (lowLane lanes) } } : Mark)
        else none) })
  | .store t row n lanes vals =>
    let rows := streamRows row n
    let cells := vals.map (fun p => (accKey t (rows.getD (p.1 / 64) 0) (32 * (p.1 / 32 % 2) + p.1 % 32), p.2))
    { w with
      acc := w.acc.setMany (s.raced w e.racy t cells)
      accPoison := if lanes = BitVec.allOnes 32 then w.accPoison.set t (w.accPoison.get t &&& ~~~(ofBits 64 rows)) else w.accPoison }

/-- The operands of an entry that lie in linear memory wait for the end of a thermal hold (17 R372). -/
def State.entryHeld (s : State) (w : Warp) : MOp → Bool
  | .rowBlock m j =>
    s.engineWaits w.ref w.id.core w.ctx m.pages (m.bRuns ++ m.aRuns j)
  | .zero _ | .load .. | .store .. => false

/-- ROW_BLOCK_COMPLETION (12 R286, R288): the oldest instruction of a stream completes, its operation with its last part. -/
def execRowBlockCompletion (i : WarpId) (stream : Nat) (s : State) : Host.Outcome State Fault Refusal :=
  match s.findWarp i with
  | none => .next s
  | some w =>
    match w.streams.find? (fun e => e.stream == stream) with
    | none => .next s
    | some e =>
      if s.entryHeld w e.body then .next s else
      let w1 := s.streamAct { w with streams := w.streams.eraseP (fun e => e.stream == stream) } e
      .next (s.updWarp i (fun _ => if e.last then w1.deliver e.op else w1))

end Sys2Proof.Machine
end

