-- ==== Sys2Proof/Machine/Calls.lean ====
section
/-!
DEFINITION. Remote calls (14 R306-R316): RCALL, the queue of a unit, the start of a function on a stack core, its echo or loss, RARG and
RRET. Units are numbered 0-15 for the stacks, 16 and 17 for X0 and X1.
-/
namespace Sys2Proof.Machine

/-- The device and unit of a call's target (14 R307). -/
def State.unitFor (s : State) (p : Phys) : Nat × Nat :=
  if p.tgt = 2 then ((p.loc - peerBase) / 2 ^ 52, unitOf (locOf p.isch p.sel p.pa)) else (s.m.devId.toNat, unitOf p.loc)

/-- The target and the entry page of a call, checked without touching anything (14 R308): PAGE before ACCESS. -/
def State.callTarget (s : State) (va code : W64) : Except (TErr × W64) (Nat × Nat) :=
  let t : Except TErr (Nat × Nat) :=
    if inScratch va then .error (accessErr 4)
    else
      match s.m.translate s.w.id.core s.w.ctx va .none with
      | .error e => .error e
      | .ok p => if p.tgt = 1 then .error (accessErr 4) else .ok (s.unitFor p)
  match t, s.m.translate s.w.id.core s.w.ctx code .exec with
  | .ok u, .ok _ => .ok u
  | .error e, .ok _ => .error (e, va)
  | .ok _, .error e => .error (e, code)
  | .error e, .error g => if e.code = 0x07 ∨ g.code ≠ 0x07 then .error (e, va) else .error (g, code)

/-- The request of a warp at an RCALL (14 R313). -/
def State.callAt (s : State) (offset : W32) (u : Nat × Nat) : Option Call :=
  s.f.calls.find? (fun c => c.caller == s.w.ref && c.offset == offset && c.asks && c.dev == u.1 && c.unit == u.2)

/-- Asking a unit for a slot. -/
def State.askSlot (s : State) (offset : W32) (u : Nat × Nat) : State :=
  let q : Call :=
    { id := s.fresh, caller := s.w.ref, src := s.m.devId.toNat, lost := false, offset := offset, op := 0, unit := u.2, dev := u.1, st := .asking
      target := 0, entry := 0, vecs := [], scals := [], echoReg := 0, echoCnt := 0, nf := none, horizon := 0, timeout := none, codebase := 0
      ctx := s.w.ctx, warpcfg := 0, taskId := s.w.taskId, cohortId := s.w.cohortId, widx := s.w.widx, slot := 0, status := 0, code := 0
      roffset := 0, echo := [], gone := [] }
  { s with
    fresh := s.fresh + 1
    f := { s.f with calls := s.f.calls.filter (fun c => !(c.caller == s.w.ref && c.asks)) ++ [q] } }

/-- The payload vectors of RCALL are read in every lane. -/
def rcallPlan (f : Fields) : Plan :=
  { lat := .later, src := fun _ g r => if (regsOf (shapeOf (.rcall f)).c f.c).contains r then BitVec.allOnes 32 else g }

/-- WARPCFG of a remote function: the caller's priority and role, no tiles (14 R306). -/
def remoteCfg (x : W64) : W64 := setField (setField 0 9 8 (fieldOf x 9 8)) 1 0 (fieldOf x 1 0)

/-- Sending a call whose slot is reserved (14 R309, steps 3 to 5). -/
def State.sendCall (s : State) (f : Fields) (c : Ctx) (q : Call) (va : W64) (entry : W32) : State :=
  let nv := f.modBits 3 0
  let ns := f.modBits 7 4
  let ne := f.modBits 11 8
  let nf := f.modBits 12 12
  let base := match f.e with | .s r => r | .v _ => 0 | .sp _ => 0
  let ns0 := fieldOf s.w.csr.echotimeout 39 0
  let till : Option Nat := if ns0 = 0 then none else some (s.time + ns0)
  let sent : Call :=
    { q with
      st := .sent, op := c.id, target := va, entry := entry
      vecs := (List.range nv).map (fun i => (List.range 32).map (s.read32 (opndPlus f.c i)))
      scals := (List.range ns).map (fun i => s.w.readS s.tick (base + nf + i))
      echoReg := firstReg f.d, echoCnt := ne, nf := if nf = 1 then some base else none, horizon := s.w.csr.horizon.toNat
      timeout := if s.unreachable q.dev then some (s.time + 100000) else till
      codebase := s.w.csr.codebase, warpcfg := remoteCfg s.w.csr.warpcfg }
  let armed := (List.range ne).map (firstReg f.d + ·) ++ (if nf = 1 then [640 + base] else [])
  ({ s with f := { s.f with calls := updFirst (fun x => x.id == q.id) (fun _ => sent) s.f.calls } }).updW (fun w => w.arm armed)

/-- RCALL (14 R308, R309). -/
def rcallEff (f : Fields) (c : Ctx) (s : State) : Eff :=
  match c.uni64 s f.a, c.uni32 s f.b with
  | some va, some entry =>
    if entry.toNat % 4 ≠ 0 then .fault (c.info 0x09 0 c.g (s.w.codeVa entry)) (fun s => s)
    else
      match s.callTarget va (s.w.codeVa entry) with
      | .error (e, a) => .fault (c.info e.code.toNat e.cause.toNat c.g a) (fun s => s)
      | .ok u =>
        if s.writesPending s.w then .hold (fun s => s)
        else if s.hasDirty s.w then .hold (fun s => s.flushOwn s.w)
        else
          match s.callAt c.p u with
          | none => .hold (fun s => s.askSlot c.p u)
          | some q =>
            if q.st = .asking then .hold (fun s => s)
            else .ok { st := s.sendCall f c q va entry, op := some { c.op with parts := 1 } }
  | none, _ => c.whole 0x03 0
  | _, none => c.whole 0x03 0
def execRcall (f : Fields) (s : State) : Host.Outcome State Fault Refusal := nextOf (runWarp (.rcall f) (rcallPlan f) (rcallEff f) s)

/-! The unit (14 R306, R310, R313). -/

def State.callOf (s : State) (k : Nat) : Option Call := s.f.calls.find? (fun c => c.id == k)
def State.dropCall (s : State) (k : Nat) : State := { s with f := { s.f with calls := s.f.calls.filter (fun c => c.id != k) } }

/-- A call counts against its unit's queue of 64 from its reservation until a warp takes it. -/
def Call.slotted (c : Call) : Bool := c.st == .reserved || c.st == .sent || c.st == .queued

/-- CALL_SLOT_RESERVE (14 R313): in the order in which the requests reached the unit; a unit of another device answers at any time. A call of another device is
sent with its slot (19 R403, R404). -/
def execCallSlotReserve (k : Nat) (s : State) : Host.Outcome State Fault Refusal :=
  match s.callOf k with
  | none => .next s
  | some c =>
    let mates := s.f.calls.filter (fun x => x.dev == c.dev && x.unit == c.unit)
    let first : Bool := ((mates.filter (fun x => x.st == .asking)).head?.map (·.id)) == some k
    if c.st = .asking ∧ first = true ∧ (c.dev ≠ s.m.devId.toNat ∨ (mates.filter (·.slotted)).length < 64) then
      .next (s.updCall k (fun x => { x with st := if x.src = s.m.devId.toNat then .reserved else .sent }))
    else .next s

/-- CALL_ARRIVAL (14 R310): the call is queued behind those that arrived before it. -/
def execCallArrival (k : Nat) (s : State) : Host.Outcome State Fault Refusal :=
  match s.callOf k with
  | none => .next s
  | some c =>
    if c.st = .sent ∧ c.dev = s.m.devId.toNat then
      .next { s with f := { s.f with calls := s.f.calls.filter (fun x => x.id != k) ++ [{ c with st := .queued }] } }
    else .next s

/-- Calls that hold a warp of a unit. -/
def State.callsOn (s : State) (unit : Nat) : List Call :=
  s.f.calls.filter (fun c => c.unit == unit && c.dev == s.m.devId.toNat && (c.st == .waiting || c.st == .running || c.st == .servicing))

/-- CALL_DISPATCH (14 R310): the oldest queued call takes the lowest free warp of its unit's stack core. -/
def execCallDispatch (unit : Nat) (s : State) : Host.Outcome State Fault Refusal :=
  match s.f.calls.find? (fun c => c.unit == unit && c.dev == s.m.devId.toNat && c.st == .queued) with
  | none => .next s
  | some c =>
    match (List.range 8).find? (fun i => !(s.callsOn unit).any (fun x => x.slot == i)) with
    | none => .next s
    | some i => .next (s.updCall c.id (fun x => { x with st := .waiting, slot := i }))

/-- The warp of a remote function as it starts (14 R306). -/
def Call.warp (c : Call) : Warp :=
  { Warp.reset with
    live := true, id := ⟨⟨unitDie c.unit, 63, 0⟩, c.slot⟩, ref := ⟨unitDie c.unit, 63, c.slot, 0⟩, widx := c.widx, ctx := c.ctx
    taskId := c.taskId, cohortId := c.cohortId, lpc := Store.setMany [] ((List.range 32).map (fun l => (l, c.entry)))
    csr := { Csrs.reset with codebase := c.codebase, horizon := BitVec.ofNat 64 c.horizon, warpcfg := c.warpcfg }
    call := some { call := c.id, vecs := c.vecs, scals := c.scals, target := c.target }, active := true }

/-- REMOTE_FUNCTION_START (14 R309): once TIME ≥ H + m. -/
def execRemoteFunctionStart (k : Nat) (s : State) : Host.Outcome State Fault Refusal :=
  match s.callOf k with
  | none => .next s
  | some c =>
    let m := if c.src = s.m.devId.toNat then 8 else 80
    if c.st = .waiting ∧ c.horizon + m ≤ s.time then
      let w := c.warp
      let s1 := s.updCall k (fun x => { x with st := .running })
      .next (if s1.w.live then { s1 with warps := s1.warps ++ [w] } else { s1 with w := w })
    else .next s

/-! The echo (14 R311, R312). -/

/-- The status word of RCALL.NF (14 R311). -/
def statusWord (offset : W32) (code : BitVec 8) (status : Nat) : W64 := BitVec.ofNat 64 (offset.toNat * 2 ^ 32 + code.toNat * 256 + status % 256)

/-- The numbers of the echo registers of a call whose blocks the caller still held all the while (14 R325). -/
def Call.echoes (c : Call) : List Nat := (List.range c.echoCnt).filter (fun i => !c.gone.contains (c.echoReg + i))

/-- The echo registers of a call become full: with given vectors, zero for the rest; and the status word with NF. -/
def State.fillEcho (s : State) (c : Call) (vals : List (List W32)) (word : W64) : State :=
  let s1 := c.echoes.foldl
    (fun acc i => (acc.arriveReg c.caller ⟨c.echoReg + i, BitVec.allOnes 32, vals.getD i (List.replicate 32 0), 0⟩ false).1) s
  match c.nf with
  | none => s1
  | some r => (s1.arriveReg c.caller ⟨640 + r, BitVec.allOnes 32, [], word⟩ false).1

/-- The echo registers that are still armed become marked. -/
def State.markEcho (s : State) (c : Call) (x : FaultInfo) : State := c.echoes.foldl (fun acc i => acc.markArmed c.caller (c.echoReg + i) x) s

/-- What an echo does at the caller (14 R311). -/
def State.deliverEcho (s : State) (c : Call) (status : Nat) (code : BitVec 8) (offset : W32) (vals : List (List W32)) : State :=
  let ok : Bool := status == 0
  let s1 :=
    if ok || c.nf.isSome then s.fillEcho c (if ok then vals else []) (statusWord offset code status)
    else s.markEcho c { code := 0x11, mark := c.offset, rcode := code, roffset := offset }
  (s1.updAny c.caller (fun w => w.gotPart c.op (fun o => o))).dropCall c.id

/-- ECHO_ARRIVAL (14 R310, R311): the echo of a lost call or for a warp that has gone is discarded. What a unit of another device echoes is free; while that device
cannot be reached nothing comes (19 R405). -/
def execEchoArrival (k : Nat) (s : State) : Host.Outcome State Fault Refusal :=
  match s.callOf k with
  | none => .next s
  | some c =>
    let far : Bool := c.dev != s.m.devId.toNat
    if far && c.st == .sent then
      if c.lost || (s.warpNow c.caller).isNone then .next (s.dropCall k)
      else if s.unreachable c.dev then .next s
      else
        let x (i : Nat) : W32 := Config.peerEcho (s.tick * 512 + i)
        let st := (x 0).toNat % 3
        let vals := (List.range c.echoCnt).map (fun i => (List.range 32).map (fun l => x (3 + 32 * i + l)))
        .next (s.deliverEcho c st (if st = 1 then (x 1).setWidth 8 else 0) (if st = 1 then x 2 else 0) vals)
    else if c.st = .echoing then
      if c.lost || (s.warpNow c.caller).isNone then .next (s.dropCall k) else .next (s.deliverEcho c c.status c.code c.roffset c.echo)
    else .next s

/-- A call is lost to its caller (14 R312): the function runs on. -/
def State.loseCall (s : State) (c : Call) : State :=
  let s1 :=
    if c.nf.isSome then s.fillEcho c [] (statusWord 0 0 3) else s.markEcho c { code := 0x10, mark := c.offset }
  (s1.updAny c.caller (fun w => w.gotPart c.op (fun o => o))).updCall c.id (fun x => { x with lost := true })

/-- ECHO_TIMEOUT (14 R312). -/
def execEchoTimeout (k : Nat) (s : State) : Host.Outcome State Fault Refusal :=
  match s.callOf k with
  | none => .next s
  | some c => if c.lost || c.asks || !(c.timeout.any (fun t => t ≤ s.time)) then .next s else .next (s.loseCall c)

/-! In the function (14 R314, R315). -/

/-- RARG (14 R314). -/
def execRarg (f : Fields) (s : State) : Host.Outcome State Fault Refusal :=
  nextOf (runWarp (.rarg f) {} (fun c s =>
    let n := f.modBits 3 0
    let vecs := (s.w.call.map (·.vecs)).getD []
    let scals := (s.w.call.map (·.scals)).getD []
    match f.sub.toNat with
    | 0 => c.lanes32 false s (fun l => (vecs.getD n []).getD l 0)
    | 1 => c.lanes64 s (fun _ => scals.getD n 0)
    | _ => c.lanes64 s (fun _ => (s.w.call.map (·.target)).getD 0)) s)

/-- RRET (14 R315): FENCE.M, then the echo with status 0; every lane exits. -/
def rretEff (f : Fields) (c : Ctx) (s : State) : Eff :=
  let e := ((s.w.call.bind (fun x => s.callOf x.call)).map (·.echoCnt)).getD 0
  let vals := (List.range (min (f.modBits 3 0) e)).map (fun i => (List.range 32).map (s.read32 (opndPlus f.d i)))
  s.fencePart c 4 (.ok { st := s.endFunction 0 0 0 vals, jumped := true })
def execRret (f : Fields) (s : State) : Host.Outcome State Fault Refusal :=
  nextOf (runWarp (.rret f) { lat := .later, src := fun _ _ _ => BitVec.allOnes 32 } (rretEff f) s)

end Sys2Proof.Machine
end

