-- ==== Sys2Proof/Machine/Control.lean ====
section
/-!
DEFINITION. The meanings of the control instructions (04 R109-R124) but for EXIT, and SLEEP_WAKE.
-/
namespace Sys2Proof.Machine

/-- NOP (03 R99): nothing; the lanes move on. -/
def execNop (f : Fields) (s : State) : Host.Outcome State Fault Refusal := nextOf (runWarp (.nop f) {} (fun _ s => .ok { st := s }) s)

/-- The target of a PC-relative branch (04 R109). -/
def branchTarget (p imm : W32) : W32 := p + 4 * (imm.setWidth 28).signExtend 32

/-- BRA (04 R109). -/
def execBra (f : Fields) (s : State) : Host.Outcome State Fault Refusal :=
  nextOf (runWarp (.bra f) {} (fun c s => .ok { st := s.updW (fun w => w.jump c.g (branchTarget c.p f.imm)), jumped := true }) s)

/-- Jumping to a register's offset in each executing lane: ALIGN where one is no multiple of 4 (04 R110). -/
def jumpTo (c : Ctx) (o : Opnd) (s : State) : Eff :=
  let bad := ofBits 32 ((bitList c.g).filter (fun l => (s.read32 o l).toNat % 4 != 0))
  if bad ≠ 0 then .fault (c.info 0x09 0 bad (s.w.codeVa (s.read32 o (lowLane bad)))) (fun s => s)
  else .ok { st := s.updW (fun w => { w with lpc := w.lpc.setMany ((bitList c.g).map (fun l => (l, s.read32 o l))) }), jumped := true }

/-- BRX (04 R109, R110). -/
def execBrx (f : Fields) (s : State) : Host.Outcome State Fault Refusal := nextOf (runWarp (.brx f) {} (fun c s => jumpTo c f.a s) s)

/-- CALL (04 R109): the return offset to D, then the branch. -/
def execCall (f : Fields) (s : State) : Host.Outcome State Fault Refusal :=
  nextOf (runWarp (.call f) {} (fun c s =>
    c.put32 false ((bitList c.g).map (fun l => (l, c.p + 12)))
      { st := s.updW (fun w => w.jump c.g (branchTarget c.p f.imm)), jumped := true }) s)

/-- RET (04 R109, R110). -/
def execRet (f : Fields) (s : State) : Host.Outcome State Fault Refusal := nextOf (runWarp (.ret f) {} (fun c s => jumpTo c f.a s) s)

/-- What YIELD does to a lane (01 R21): it parks at the next instruction, its YIELD address recorded, not yet seen. -/
def Warp.park (w : Warp) (ls : Lanes) (p : W32) (len : Nat) : Warp :=
  { (w.putLanes ls 1).jump ls (p + BitVec.ofNat 32 len) with
    yaddr := w.yaddr.setMany ((bitList ls).map (fun l => (l, p))), seen := w.seen &&& ~~~ls }

/-- YIELD (01 R21). -/
def execYield (f : Fields) (s : State) : Host.Outcome State Fault Refusal :=
  nextOf (runWarp (.yield f) {} (fun c s => .ok { st := s.updW (fun w => w.park c.g c.p c.len), jumped := true }) s)

/-- KDECL (01 R25; 04 R112): the uniform mask, exited lanes cleared; NONUNIFORM while the register is collecting. -/
def execKdecl (f : Fields) (s : State) : Host.Outcome State Fault Refusal :=
  nextOf (runWarp (.kdecl f) {} (fun c s =>
    let k := f.modBits 2 0
    match c.uni32 s f.a with
    | none => c.whole 0x03 0
    | some m =>
      if s.w.signed k ≠ 0 then c.whole 0x03 0
      else .ok { st := s.updW (fun w => { w with kdecl := w.kdecl.set k (m &&& ~~~(w.lanesIn 3)) }) }) s)

/-- What SIGN does when it executes: nothing (04 R112). -/
def signEff (_ : Ctx) (s : State) : Eff := .ok { st := s }

/-- SIGN (04 R112). -/
def execSign (f : Fields) (s : State) : Host.Outcome State Fault Refusal := nextOf (signWith (.sign f) {} (f.modBits 2 0) signEff s)

/-- The barrier that a slot names, of the focus warp's cohort (04 R113). -/
def State.barrierAt (s : State) (e : Nat) : Option Barrier := (s.cohortOf s.w.ref).bind (fun c => c.barriers[e]?)

/-- Counting the focus warp's arrival at an entry, and testing the barrier (04 R115). -/
def State.arriveAt (s : State) (e : Nat) (b : Barrier) (kind : Nat) (x : W32) : State :=
  (s.setBarrier s.w.ref e (b.arrive kind s.w.ref.widx x)).testBarrier s.w.ref e 128

/-- An arrival that waits for the phase (04 R114, R117, R121, R122): the warp waits in the barrier, then the arrival is counted; the
phase's completion, perhaps at once, lets its lanes go on with the result. A valid GROUPS slot that names no entry of the cohort's table does nothing
(log entry 74). -/
def arriveAndWait (c : Ctx) (s : State) (e : Nat) (kind : Nat) (x : W32) (dest : Opnd) : Eff :=
  match s.barrierAt e with
  | none => .ok { st := s }
  | some b =>
    match b.arriveErr kind with
    | some code => c.whole code.toNat 0
    | none =>
      if s.writesPending s.w then .hold (fun s => s)
      else
        let dests : List (Nat × Lanes) := match dest with | .v r => [(r, c.g)] | .s r => [(640 + r, BitVec.allOnes 32)] | .sp _ => []
        let o : Op := { c.op with parts := 1, dests := dests }
        let s1 := s.updW (fun w =>
          let w1 := dests.foldl (fun acc d => acc.noteWrite d.1 d.2) w
          { (w1.slotUp o.slot) with ops := w1.ops ++ [o], wait := .barrier e b.phase c.g dest o.id c.len })
        .ok { st := s1.arriveAt e b kind x, jumped := true }

/-- BAR.ARRIVE (04 R114, R115): D receives the phase before the arrival, token 0 where the slot names no entry of the table (log entry 74). -/
def execBarArrive (f : Fields) (s : State) : Host.Outcome State Fault Refusal :=
  nextOf (runWarp (.barArrive f) { lat := .cycles 8 } (fun c s =>
    let token (x : W32) (s1 : State) : Eff := c.put32 false ((bitList c.g).map (fun l => (l, x))) { st := s1 }
    match (s.w.groupEntry (f.modBits 1 0)) with
    | none => token 0 s
    | some e =>
      match s.barrierAt e with
      | none => token 0 s
      | some b =>
        match b.arriveErr kindPlain with
        | some code => c.whole code.toNat 0
        | none => if s.writesPending s.w then .hold (fun s => s) else token b.phase (s.arriveAt e b kindPlain 0)) s)

/-- BAR.WAIT (04 R114): not ready while the phase has not passed the token. -/
def execBarWait (f : Fields) (s : State) : Host.Outcome State Fault Refusal :=
  nextOf (runWarp (.barWait f) {} (fun c s =>
    match c.uni32 s f.a with
    | none => c.whole 0x03 0
    | some token =>
      match (s.w.groupEntry (f.modBits 1 0)).bind s.barrierAt with
      | none => .ok { st := s }
      | some b =>
        if b.ovf then c.whole 0x15 0
        else if phasePassed b.phase token then .ok { st := s }
        else .hold (fun s => s)) s)

/-- BAR.SYNC (04 R114, R117). -/
def execBarSync (f : Fields) (s : State) : Host.Outcome State Fault Refusal :=
  nextOf (runWarp (.barSync f) { lat := .later } (fun c s =>
    match s.w.groupEntry (f.modBits 1 0) with
    | none => .ok { st := s }
    | some e => arriveAndWait c s e kindPlain 0 (.sp .zero)) s)

/-- BAR.EXPECT (04 R114, R116). -/
def execBarExpect (f : Fields) (s : State) : Host.Outcome State Fault Refusal :=
  nextOf (runWarp (.barExpect f) {} (fun c s =>
    match c.uni32 s f.a with
    | none => c.whole 0x03 0
    | some n =>
      match s.w.groupEntry (f.modBits 1 0) with
      | none => .ok { st := s }
      | some e =>
        match s.barrierAt e with
        | none => .ok { st := s }
        | some b =>
          if b.ovf || decide (2 ^ 27 - 1 < b.pend + n.toNat) then c.whole 0x15 0
          else .ok { st := (s.setBarrier s.w.ref e { b with pend := b.pend + n.toNat }).testBarrier s.w.ref e 128 }) s)

/-- A group instruction on a solitary group completes at once over its one contribution (04 R118). On a stack core BALLOT sets bit 0: the warp's own index, not the
caller's that WARPID holds (R306; log entry 74). -/
def solitary (c : Ctx) (s : State) (kind : Nat) (signed : Bool) (x : W32) : Eff :=
  let (r, fl) := phaseResult kind [⟨s.w.ref.widx, kind, x⟩]
  c.put32 signed ((bitList c.g).map (fun l => (l, r))) { st := s.updW (fun w => w.orFlags fl) }

/-- GVOTE (04 R121). -/
def execGvote (f : Fields) (s : State) : Host.Outcome State Fault Refusal :=
  nextOf (runWarp (.gvote f) { lat := .cycles 0 } (fun c s =>
    let bits := (bitList c.g).map (fun l => (s.read32 f.a l).getLsbD 0)
    let x : W32 := if (if f.sub = 0 then bits.all id else bits.any id) then 1 else 0
    match s.w.groupEntry (f.modBits 1 0) with
    | none => solitary c s (kindVote f.sub.toNat) false x
    | some e => arriveAndWait c s e (kindVote f.sub.toNat) x f.d) s)

/-- GRED (04 R122). Its kind holds SUB and the bits of MOD above the slot's, so members may name their group by different slots (log entry 74). -/
def execGred (f : Fields) (s : State) : Host.Outcome State Fault Refusal :=
  nextOf (runWarp (.gred f) { lat := .cycles 0 } (fun c s =>
    match c.uni32 s f.a with
    | none => c.whole 0x03 0
    | some x =>
      let kind := kindRed f.sub.toNat (f.mod.toNat / 4 * 4)
      match s.w.groupEntry (f.modBits 1 0) with
      | none => solitary c s kind (f.sub.toNat ≤ 2) x
      | some e => arriveAndWait c s e kind x f.d) s)

/-- SLEEP (04 R123): not ready before TIME reaches the time of issue plus A nanoseconds. -/
def execSleep (f : Fields) (s : State) : Host.Outcome State Fault Refusal :=
  nextOf (runWarp (.sleep f) {} (fun c s =>
    match c.uni32 s f.a with
    | none => c.whole 0x03 0
    | some n => .ok { st := if n = 0 then s else s.updW (fun w => { w with wait := .sleep (s.time + n.toNat) }) }) s)

/-- SLEEP_WAKE (04 R123): TIME has reached the end of the sleep. -/
def execSleepWake (i : WarpId) (s : State) : Host.Outcome State Fault Refusal :=
  nextOf (s.updWarp i (fun w =>
    match w.wait with
    | .sleep t => if t ≤ s.time then { w with wait := .ready } else w
    | _ => w))

/-- RDTIME (04 R123): TIME, or the warp's cycle count. -/
def execRdtime (f : Fields) (s : State) : Host.Outcome State Fault Refusal :=
  nextOf (runWarp (.rdtime f) { lat := .cycles 40 } (fun c s =>
    c.lanes64 s (fun _ => BitVec.ofNat 64 (if f.sub = 1 then s.w.cycle else s.time))) s)

/-- WAITSB (04 R123): it waits on its WAIT field like any instruction, and does nothing else. -/
def execWaitsb (f : Fields) (s : State) : Host.Outcome State Fault Refusal := nextOf (runWarp (.waitsb f) {} (fun _ s => .ok { st := s }) s)

/-- TRAP (04 R124; 15 R332): every lane at the issue address moves past it, then the handler is entered with IMM in MARK. -/
def execTrap (f : Fields) (s : State) : Host.Outcome State Fault Refusal :=
  nextOf (runWarp (.trap f) {} (fun c _ =>
    .fault { (c.info 0x20 0 c.g 0) with mark := f.imm } (fun s => s.updW (fun w => (w.advance c.x c.len).spend f))) s)

/-- BKPT (04 R124): the handler is entered; the executing lanes stay at it, the others have moved on. -/
def execBkpt (f : Fields) (s : State) : Host.Outcome State Fault Refusal :=
  nextOf (runWarp (.bkpt f) {} (fun c _ =>
    .fault (c.info 0x21 0 c.g 0) (fun s => s.updW (fun w => (w.advance (c.x &&& ~~~c.g) c.len).spend f))) s)

end Sys2Proof.Machine
end

