-- ==== Sys2Proof/Machine/System.lean ====
section
/-!
DEFINITION. The system instructions (15 R332-R334, R339-R343, R348): control and status registers, return from a trap, invalidation of
translations, bank modes, key slots, and the saving and loading of a warp's user state; the host's answers to PAGE records (15 R331).
-/
namespace Sys2Proof.Machine

/-! Control and status registers (01 R33-R36; 15 R333, R340). -/

/-- A register by number; in privileged mode LSTATE is TLSTATE (15 R333). -/
def Warp.csrGet (w : Warp) (n : Nat) : W64 :=
  match n with
  | 0x000 => w.csr.fpmode | 0x001 => w.csr.fpstatus | 0x002 => w.csr.partition | 0x003 => w.csr.checksb | 0x004 => w.csr.echotimeout
  | 0x010 => w.csr.groups | 0x011 => w.csr.extblk | 0x012 => w.csr.warpcfg | 0x013 => if w.priv then w.tlstate else w.lstate
  | 0x014 => w.csr.codebase | 0x020 => w.csr.horizon | 0x021 => w.csr.resume | 0x100 => w.csr.trapbase | 0x101 => w.csr.trapinfo
  | 0x102 => w.csr.trapaddr | 0x103 => w.csr.trapaux | 0x104 => w.csr.traplanes | 0x105 => w.csr.trapswap | 0x106 => w.csr.trapremote
  | _ => 0

/-- Writing a register (01 R34; 15 R340): reserved bits stay zero, EXTBLK, WARPCFG and read-only registers are not changed, HORIZON only rises. -/
def Warp.csrSet (w : Warp) (n : Nat) (x : W64) : Warp :=
  let c := w.csr
  match n with
  | 0x000 => { w with csr := { c with fpmode := fpmodeOf c.fpmode x } }
  | 0x001 => { w with csr := { c with fpstatus := x &&& 0x1F } }
  | 0x002 => { w with csr := { c with partition := partitionOf c.partition x } }
  | 0x003 => { w with csr := { c with checksb := x &&& 1 } }
  | 0x004 => { w with csr := { c with echotimeout := x &&& 0xFFFFFFFFFF } }
  | 0x010 => { w with csr := { c with groups := x &&& 0x80FF80FF80FF80FF } }
  | 0x013 => { w with tlstate := x }
  | 0x014 => { w with csr := { c with codebase := x &&& 0x7FFFFFFFFF0000 } }
  | 0x020 => w.raiseHorizon x.toNat
  | 0x021 => { w with csr := { c with resume := x &&& 0x8000FF7F } }
  | 0x100 => { w with csr := { c with trapbase := x &&& 0x7FFFFFFFFFFF00 } }
  | 0x105 => { w with csr := { c with trapswap := x } }
  | _ => w

/-- CSRR (15 R340). Floating instructions have raised their flags at issue, so FPSTATUS holds those of every earlier one (01 R36). -/
def execCsrr (f : Fields) (s : State) : Host.Outcome State Fault Refusal :=
  nextOf (runWarp (.csrr f) {} (fun c s => c.lanes64 s (fun _ => s.w.csrGet f.mod.toNat)) s)

/-- The value of CSRW by form: write, set or clear (15 R340). -/
def csrForm (sub : Nat) (old a : W64) : W64 := match sub with | 0 => a | 1 => old ||| a | _ => old &&& ~~~a

/-- CSRW (15 R340). -/
def execCsrw (f : Fields) (s : State) : Host.Outcome State Fault Refusal :=
  nextOf (runWarp (.csrw f) {} (fun c s =>
    match c.uni64 s f.a with
    | none => c.whole 0x03 0
    | some a => .ok { st := s.updW (fun w => w.csrSet f.mod.toNat (csrForm f.sub.toNat (w.csrGet f.mod.toNat) a)) }) s)

/-- TRET (15 R334): an s63 that a restore left absent is filled before it is exchanged (15 R346). -/
def execTret (f : Fields) (s : State) : Host.Outcome State Fault Refusal :=
  nextOf (runWarp (.tret f) {} (fun _ s =>
    if s.w.absent.getLsbD 703 then .hold (fun s => s) else .ok { st := s.updW (fun w => w.trapReturn (f.sub == 1)), all := true }) s)

/-! Translations and banks. -/

/-- Dropping translations (15 R338, R339): the entries are gone, and the dirty bytes that caches hold for accesses translated earlier are on their
way to their homes. -/
def State.invalidate (s : State) (p : TlbEntry → Bool) (ctx : Option Nat) : State :=
  let s1 := s.updM (fun m => m.dropTlb p)
  (s1.m.l1.filter (fun x => x.dirty != 0 && ctx.all (fun n => x.ctx == n))).foldl (fun acc x => acc.writeBack x false false) s1

/-- TLBINV (15 R339). -/
def tlbinvEff (f : Fields) (c : Ctx) (s : State) : Eff :=
  let va := (s.read64 f.a 0).toNat
  let s1 :=
    match f.sub.toNat with
    | 0 => s.invalidate (coversVa s.w.ctx va) (some s.w.ctx)
    | 1 => s.invalidate (fun e => e.ctx == s.w.ctx) (some s.w.ctx)
    | _ => s.invalidate (fun _ => true) none
  .ok { st := s1, op := some { c.op with id := s1.fresh + 1 } }
def execTlbinv (f : Fields) (s : State) : Host.Outcome State Fault Refusal := nextOf (runWarp (.tlbinv f) { lat := .later } (tlbinvEff f) s)

/-- A bank of the cohort holds a stage that is not empty (15 R341; 17 R354). -/
def Cohort.bankBusy (c : Cohort) (i : Nat) : Bool :=
  c.stages.any (fun g =>
    g.st != .empty &&
      match c.rings.getD g.ring none with
      | none => false
      | some d => decide (d.bank + g.idx * d.sbytes / 65536 ≤ i ∧ i ≤ d.bank + ((g.idx + 1) * d.sbytes - 1) / 65536))

/-- Switching a declared bank: where its mode does not change its bytes stay, and HEAD and TAIL are zero (17 R354). -/
def State.switchBank (s : State) (cl bank mode : Nat) : State :=
  if (s.m.bankMode.get (cl * 16 + bank)).toNat = mode then
    s.updM (fun m => { m with bankHead := m.bankHead.set (cl * 16 + bank) 0, bankTail := m.bankTail.set (cl * 16 + bank) 0 })
  else s.setBank cl bank mode

/-- BANKCFG (15 R341). -/
def bankcfgEff (f : Fields) (c : Ctx) (s : State) : Eff :=
  match c.uni32 s f.a, c.uni32 s f.b, s.cohortOf s.w.ref with
  | some a, some b, some k =>
    let is := (bitList a).filter (· < 16)
    let mode := b.toNat % 4
    if mode = 3 then c.whole 0x01 0
    else if is.any (fun i => k.banks.length ≤ i) then c.whole 0x08 2
    else if is.any k.bankBusy then c.whole 0x0D 5
    else
      .ok { st := is.foldl (fun acc i => acc.switchBank s.w.cl (k.banks.getD i 0) mode) s
            op := if (slotOf f).isSome then some c.op else none }
  | some a, some b, none =>
    if b.toNat % 4 = 3 then c.whole 0x01 0 else if a.toNat % 65536 ≠ 0 then c.whole 0x08 2 else .ok { st := s }
  | none, _, _ => c.whole 0x03 0
  | some _, none, _ => c.whole 0x03 0
def execBankcfg (f : Fields) (s : State) : Host.Outcome State Fault Refusal := nextOf (runWarp (.bankcfg f) { lat := .later } (bankcfgEff f) s)

/-! Key slots (15 R342, R343). -/

/-- KEYSET: ALIGN, then the faults of reading the blob, slot 0, and the status. -/
def keysetEff (f : Fields) (c : Ctx) (s : State) : Eff :=
  let a := s.read64 f.a 0
  match c.uni32 s f.b with
  | none => c.whole 0x03 0
  | some b =>
    if a.toNat % 64 ≠ 0 then .fault (c.info 0x09 0 c.g a) (fun s => s)
    else
      match s.acquireBytes s.w a 96 with
      | .error (e, va) => .fault (c.info e.code.toNat e.cause.toNat c.g va) (fun s => s)
      | .ok cells =>
        if b.toNat % 256 = 0 then c.whole 0x08 3
        else if cells.any (·.2) then .fault (c.info 0x0A 0 c.g (a + BitVec.ofNat 64 ((cells.findIdx? (·.2)).getD 0))) (fun s => s)
        else
          let r := s.m.keySet s.h.session (b.toNat % 256) s.w.ctx (cells.map (·.1))
          let x : W32 := BitVec.ofNat 32 r.2
          let dests := destOf f.d c.g
          .ok { st := { s with m := r.1 }
                op := some { c.op with
                  dests := dests
                  vvals := dests.flatMap (fun d => if d.1 < 640 then (bitList d.2).map (fun l => (d.1 * 32 + l, x)) else [])
                  svals := dests.flatMap (fun d => if d.1 < 640 then [] else [(d.1 - 640, x.setWidth 64)]) } }
def execKeyset (f : Fields) (s : State) : Host.Outcome State Fault Refusal := nextOf (runWarp (.keyset f) { lat := .later } (keysetEff f) s)

/-- KEYDESTROY: the slot closes at once; RESULT_WRITE finishes it. -/
def execKeydestroy (f : Fields) (s : State) : Host.Outcome State Fault Refusal :=
  nextOf (runWarp (.keydestroy f) { lat := .later } (fun c s =>
    match c.uni32 s f.a with
    | none => c.whole 0x03 0
    | some a =>
      if a.toNat % 256 = 0 then c.whole 0x08 3
      else .ok { st := s.updM (fun m => m.closeKey (a.toNat % 256) c.id), op := some c.op }) s)

/-! CTXSAVE and CTXLOAD (15 R348). -/

/-- The warp with what a read of each register not yet ready gives (01 R40). -/
def Warp.readEarly (w : Warp) (tick : Nat) : Warp :=
  let ds := (w.ops.filter (fun o => o.pending w.cycle)).flatMap (·.dests)
  { w with
    v := w.v.setMany ((ds.filter (fun d => d.1 < 640)).flatMap (fun d => (bitList d.2).map (fun l => (d.1 * 32 + l, w.readV tick d.1 l))))
    s := w.s.setMany ((ds.filter (fun d => 640 ≤ d.1)).map (fun d => (d.1 - 640, w.readS tick (d.1 - 640)))) }

/-- Bytes at an offset cut at the lines of memory, for a base on a line. -/
def cutLines : Nat → Nat → List Byte → List (Nat × List Byte)
  | 0, _, _ => []
  | fuel + 1, off, bs => if bs = [] then [] else (off, bs.take (128 - off % 128)) :: cutLines fuel (off + 128 - off % 128) (bs.drop (128 - off % 128))

/-- The puts of regions at a base address, or the fault that comes first and the address that has it (15 R329). -/
def State.regionPuts (s : State) (base : W64) (rs : List (Nat × List Byte)) : Except (TErr × W64) (List (W64 × Put)) :=
  collectErr ((rs.flatMap (fun r => cutLines (r.2.length / 128 + 2) r.1 r.2)).map (fun r =>
    let va := base + BitVec.ofNat 64 r.1
    if inScratch va then .error (accessErr 2, va)
    else
      match s.m.translate s.w.id.core s.w.ctx va .write with
      | .error e => .error (e, va)
      | .ok p => .ok (va, ⟨.mem p, r.2⟩)))

/-- A base that is no multiple of 4,096, for a kind of access. -/
def frameMisaligned (c : Ctx) (acc : BitVec 2) (a : W64) : Option FaultInfo := if a.toNat % 4096 ≠ 0 then some { c.info 0x09 0 c.g a with acc := acc } else none

/-- Keeping the private parts of a frame written at an address. -/
def Sched.setFrame (t : Sched) (ctx va : Nat) (w : Warp) : Sched :=
  { t with frames := putBy (fun x => x.ctx == ctx && x.va == va) ⟨ctx, va, w.marks, w.kguard⟩ t.frames }

/-- The writes of an operation also clean the memory-side cache: their sectors go to DRAM (17 R362). -/
def State.cleanSectors (s : State) (op : Nat) : State :=
  s.updM (fun m => { m with msgs := m.msgs.map (fun g =>
    match g.kind with
    | .write d k p c ws _ => if g.op = op then { g with kind := .write d k p c ws true } else g
    | .fill .. => g
    | .read .. => g
    | .act _ => g
    | .atomic _ => g) })

/-- CTXSAVE: absent registers are filled first; STALL_SHORT comes before ALIGN (15 R329). The frame is cleaned out of the memory-side cache (17 R362; log
entry 75). -/
def ctxsaveEff (f : Fields) (c : Ctx) (s : State) : Eff :=
  let a := s.read64 f.a 0
  if s.fillHeld s.w s.w.heldCodes then .hold (fun s => s) else
  match s.fillRegs s.w s.w.heldCodes with
  | none => .ok { st := s.frameFatal s.w, all := true }
  | some w1 =>
    let early := earlyLanes w1 w1.heldCodes (fun _ => BitVec.allOnes 32)
    if w1.checkSb && early != 0 then .fault (c.info 0x05 0 early 0) (fun s => s)
    else
      match frameMisaligned c 1 a with
      | some x => .fault x (fun s => s)
      | none =>
        match s.regionPuts a ((w1.readEarly s.tick).frame0 s.f.grants true) with
        | .error (e, va) => .fault { c.info e.code.toNat e.cause.toNat c.g va with acc := 1 } (fun s => s)
        | .ok ps =>
          (({ s with w := w1, t := s.t.setFrame w1.ctx a.toNat w1 } : State).store c true (ps.map Prod.fst) (ps.map Prod.snd)).andThen
            (fun r => .ok { r with st := r.st.cleanSectors c.id })
def execCtxsave (f : Fields) (s : State) : Host.Outcome State Fault Refusal := nextOf (runWarp (.ctxsave f) { lat := .later } (ctxsaveEff f) s)

/-- A result of the warp in a register or a cursor, or an instruction of its matrix streams, is still to come (01 R44; 10 R245; 12 R290). -/
def Warp.busy (w : Warp) : Bool := w.streams != [] || w.ops.any (fun o => o.dests != [] || o.cursor.isSome)

/-- The parts of a frame that are read at once: all but the registers of 0x800 and 0x2000 on. -/
def frameParts (tiles : Nat) : List (Nat × Nat) :=
  [(0, 0x440 + 136), (0x1000, 0x1000)] ++ (List.range tiles).map (fun t => (0x16000 + 0x4100 * t, 0x4008))

/-- Reading those parts: bytes by region, or the fault. -/
def State.frameRead (s : State) (core : CoreId) (ctx va tiles : Nat) : Except (TErr × Nat) (List (List Byte)) :=
  (frameParts tiles).mapM (fun r =>
    match s.frameErr core ctx (va + r.1) r.2 with
    | some e => .error ((s.firstErr core ctx (va + r.1) r.2).getD (e, va + r.1))
    | none =>
      match s.m.places core ctx (va + r.1) r.2 .read with
      | .error e => .error (e, va + r.1)
      | .ok ps => .ok (s.m.placeBytes ps))

/-- A store with the numbers of some bytes from a key on. -/
def loadRun {n : Nat} (m : Store n) (base : Nat) (xs : List Nat) : Store n := m.setMany (runOf base (xs.map (BitVec.ofNat n)))

/-- The warp with the public state of a frame but for its registers, which become absent (15 R346). -/
def Warp.fromFrame (w : Warp) (frame : W64) (parts : List (List Byte)) (marks : List Mark) (kguard : Store 32) : Warp :=
  let b := parts.getD 0 []
  let k := (List.range 8).map (fun i => b.drop (0x110 + 16 * i))
  let csr := Csrs.ofList ((frameNums (b.drop 0x190) 8 18).map (BitVec.ofNat 64))
  let w1 : Warp := { w with
    lpc := loadRun [] 0 (frameNums b 4 32), yaddr := loadRun [] 0 (frameNums (b.drop 0x80) 4 32)
    lstate := BitVec.ofNat 64 (numAt b 0x100 8), seen := BitVec.ofNat 32 (numAt b 0x108 4)
    kdecl := loadRun [] 0 (k.map (fun x => numAt x 0 4)), ksigned := loadRun [] 0 (k.map (fun x => numAt x 4 4))
    kaddr := loadRun [] 0 (k.map (fun x => numAt x 8 4)), kguard := kguard, csr := csr
    arr := loadRun [] 0 ((frameNums (b.drop 0x290) 1 176).flatMap (fun x => [x, x / 4, x / 16, x / 64]))
    tlpc := loadRun [] 0 (frameNums (b.drop 0x440) 4 32), tlstate := BitVec.ofNat 64 (numAt b 0x4C0 8)
    cur := [], acc := [], accPoison := [], marks := marks, absent := ofBits 704 w.heldCodes, frame := frame }
  let cursors := frameNums (parts.getD 1 []) 16 256
  let w2 := (List.range 256).foldl (fun acc i => acc.setCursor (i / 32) (i % 32) (BitVec.ofNat 128 (cursors.getD i 0))) w1
  (List.range w.tiles).foldl (fun (acc : Warp) t =>
    let p := parts.getD (2 + t) []
    { acc with acc := loadRun acc.acc (4096 * t) (frameNums p 4 4096), accPoison := acc.accPoison.set t (BitVec.ofNat 64 (numAt p 0x4000 8)) }) w2

/-- CTXLOAD: any fault and a mismatch is a double fault. -/
def ctxloadEff (f : Fields) (c : Ctx) (s : State) : Eff :=
  let a := s.read64 f.a 0
  let fatal (x : FaultInfo) : Eff := .ok { st := s.fatal s.w x, all := true }
  match frameMisaligned c 0 a with
  | some x => fatal x
  | none =>
    if s.w.busy then .hold (fun s => s)
    else
      match s.frameRead s.w.id.core s.w.ctx a.toNat s.w.tiles with
      | .error (e, va) => if e = waitErr then .hold (fun s => s) else fatal (c.info e.code.toNat e.cause.toNat c.g (BitVec.ofNat 64 va))
      | .ok parts =>
        let own := s.t.frames.find? (fun x => x.ctx == s.w.ctx && x.va == a.toNat)
        let w1 := s.w.fromFrame a parts ((own.map (·.marks)).getD []) ((own.map (·.kguard)).getD [])
        if w1.blocksHeld ≠ s.w.blocksHeld ∨ w1.csr.warpcfg ≠ s.w.csr.warpcfg then fatal (c.info 0x08 4 c.g a)
        else
          let w2 := w1.raiseHorizon s.w.csr.horizon.toNat
          .ok { st := { s with w := { w2 with priv := false } }, all := true }
def execCtxload (f : Fields) (s : State) : Host.Outcome State Fault Refusal := nextOf (runWarp (.ctxload f) { lat := .later } (ctxloadEff f) s)

/-! The host's answers (15 R331; 19 R397). -/

/-- Whether a record waits for an answer of the host: it holds a PAGE. -/
def RecSt.asks (r : RecSt) : Bool :=
  match r.who with
  | some (.warp _) | some (.request _) | some (.call _) => true
  | some (.fatal ..) | none => false

/-- The PAGE record that a number names: posted and not answered. -/
def HostIf.pageRecord (h : HostIf) (rec : Nat) : Option RecSt :=
  h.records.find? (fun r => r.posted == some (rec % 2 ^ 32) && !r.answered && r.asks)

/-- The record is answered. -/
def State.answered (s : State) (r : RecSt) : State :=
  { s with h := { s.h with records := updFirst (fun x => x.num == r.num) (fun x => { x with answered := true }) s.h.records } }

/-- A warp suspended on a record. -/
def Warp.pagedOn (w : Warp) (n : Nat) : Bool :=
  match w.wait with
  | .page m _ => m == n
  | .ready | .barrier .. | .sleep _ | .fence .. | .trap _ => false

/-- The stack-core warp that runs a call. -/
def State.callWarp (s : State) (id : Nat) : Option Warp := s.allWarps.find? (fun w => w.call.any (fun c => c.call == id))

/-- The trap that a delivered PAGE becomes (15 R331): of a warp's handler, or of a remote function's end. -/
def State.trapNow (s : State) (i : WarpId) (x : FaultInfo) : State :=
  s.onWarp i (fun s =>
    let s1 := s.updW (fun w => { w with wait := .ready })
    if s1.w.onStackCore then s1.endFunction 1 x.code x.offset [] else s1.trapEntry x)

/-- An answer for a warp that is swapped out is kept with it, in its frame's flags too (15 R344, R345). -/
def State.answerSaved (s : State) (r : WRef) (n answer : Nat) : State :=
  match s.savedWarp r with
  | none => s
  | some w =>
    if w.pagedOn n then
      let w1 : Warp := { w with wait := .page n answer }
      let s1 := s.updAny r (fun w => { w with wait := .page n answer })
      (s1.agentWrite (agentCore r.die) w.ctx (s.savedFrame r + 0x10C) (bytesOf 4 (w1.frameFlags false))).getD s1
    else s

/-- FAULT_ANSWER_REPLAY (15 R331). -/
def execFaultAnswerReplay (rec : Nat) (s : State) : Host.Outcome State Fault Refusal :=
  match s.h.pageRecord rec with
  | none => .next s
  | some r =>
    let s1 := s.answered r
    match r.who with
    | some (.warp w) =>
      match s1.findRef w with
      | some _ => .next (s1.updRef w (fun x => if x.pagedOn r.num then { x with wait := .ready } else x))
      | none => .next (s1.answerSaved w r.num 1)
    | some (.request q) =>
      .next { s1 with e := { s1.e with reqs := updFirst (fun x => x.id == q && x.paged == some r.num) (fun x => { x with paged := none }) s1.e.reqs } }
    | some (.call k) =>
      match s1.callWarp k with
      | none => .next s1
      | some w =>
        .next ((s1.updWarp w.id (fun x => { x with wait := .ready })).updCall k (fun c => { c with st := .running }))
    | some (.fatal ..) | none => .next s1

/-- FAULT_ANSWER_DELIVER (15 R331): a request is aborted, and PAGE is raised as a deferred fault. -/
def execFaultAnswerDeliver (rec : Nat) (s : State) : Host.Outcome State Fault Refusal :=
  match s.h.pageRecord rec with
  | none => .next s
  | some r =>
    let s1 := s.answered r
    match r.who with
    | some (.warp w) =>
      match s1.findRef w with
      | some x => if x.pagedOn r.num then .next (s1.trapNow x.id r.info) else .next s1
      | none => .next (s1.answerSaved w r.num 2)
    | some (.request q) =>
      match s1.e.reqs.find? (fun x => x.id == q && x.paged == some r.num) with
      | none => .next s1
      | some x =>
        .next ((s1.setReq { x with paged := none, aborted := true, staged := some [] }).deferTicket x.warp x.op x.ticket x.lane 0x07
          r.info.cause.toNat 1 r.info.addr r.info.acc.toNat)
    | some (.call k) =>
      match s1.callWarp k with
      | none => .next s1
      | some w => .next (s1.trapNow w.id r.info)
    | some (.fatal ..) | none => .next s1

/-- FAULT_ANSWER_KILL (15 R331): the task of the record ends as for a fatal fault; where the warp of a request has gone, the fatal record has the fields of the PAGE
record. -/
def execFaultAnswerKill (rec : Nat) (s : State) : Host.Outcome State Fault Refusal :=
  match s.h.pageRecord rec with
  | none => .next s
  | some r =>
    let s1 := s.answered r
    let end_ (w : Option Warp) : State := match w with | some w => s1.fatal w r.info | none => s1
    match r.who with
    | some (.warp w) => .next (end_ (s1.warpNow w))
    | some (.request q) =>
      match s1.e.reqs.find? (fun x => x.id == q) with
      | none => .next s1
      | some x =>
        match s1.warpNow x.warp with
        | some w => .next (s1.fatal w r.info)
        | none =>
          let bits := setField (setField r.bits 511 448 (s.time % 2 ^ 64)) 353 352 kindFatal
          .next (s1.fatalBits x.ctx (BitVec.ofNat 32 (fieldOf r.bits 447 416)) bits r.info)
    | some (.call k) => .next (end_ (s1.callWarp k))
    | some (.fatal ..) | none => .next s1

end Sys2Proof.Machine
end

