-- ==== Sys2Proof/Machine/Sched.lean ====
section
/-!
DEFINITION. The task scheduler (18 R375-R388; 07 R219, R220): hardware queues and their packets, task records and their checks, the end of
a task with the cleaning of its regions, placement of cohorts, stealing, and the active sets of cores.
-/
namespace Sys2Proof.Machine

/-! Queues and packets (18 R375-R377). -/

/-- The host window answers (19 R396). -/
def HostIf.live (h : HostIf) : Bool := h.power && h.boot == .ready

def State.queue (s : State) (q : Nat) : HwQueue := (s.t.queues.find? (fun x => x.q == q)).getD ⟨q, 0, 0, 0, 0, 0, 0⟩
def State.setQueue (s : State) (x : HwQueue) : State := { s with t := { s.t with queues := putBy (fun y => y.q == x.q) x s.t.queues } }

/-- Entries of a ring. -/
def ringSize (cfg : W64) : Nat := 2 ^ (fieldOf cfg 3 0 + 6)

/-- A write of a queue's configuration: a reserved LSIZE leaves the field as it was (18 R375). -/
def cfgWrite (old v : W64) : W64 := let x := v &&& 0x1030F; if fieldOf v 3 0 ≤ 10 then x else setField x 3 0 (fieldOf old 3 0)

/-- A doorbell: the count and the configuration after it. A count beyond the ring is discarded and the ring disabled (18 R375). -/
def doorbell (cfg : W64) (tail head v : W32) : W32 × W64 := if ringSize cfg < (v - head).toNat then (tail, setField cfg 16 16 0) else (v, cfg)

/-- QTAIL_WRITE (18 R375): it also notes the completion times of the host's writes before it (07 R220). -/
def execQtailWrite (q : Nat) (v : W64) (s : State) : Host.Outcome State Fault Refusal :=
  if !s.h.live || 64 ≤ q then .next s
  else
    let x := s.queue q
    let r := doorbell x.cfg x.tail x.head (v.setWidth 32)
    .next (s.setQueue { x with tail := r.1, cfg := r.2, wct := s.h.hostWct, rung := s.time })

/-- QCFG_WRITE (18 R375); queue 64 stands for the collective ring's CLCFG (19 R396). -/
def execQcfgWrite (q : Nat) (v : W64) (s : State) : Host.Outcome State Fault Refusal :=
  if !s.h.live then .next s
  else if q = 64 then .next { s with h := { s.h with clCfg := cfgWrite s.h.clCfg v } }
  else if 64 < q then .next s
  else .next (s.setQueue { s.queue q with cfg := cfgWrite (s.queue q).cfg v })

/-- The entry of a ring that a count names: none where the address holds nothing (17 R360), or while its read waits for a thermal hold (17 R372). -/
def State.ringEntry (s : State) (base cfg : W64) (count : W32) : Option (List Byte) :=
  let pa := fieldOf base 51 12 * 4096 + 64 * (count.toNat % ringSize cfg)
  if base.getLsbD 63 then some (s.m.homeBytes (hostBase + pa) 64 0) else if s.m.bareHeld pa 64 then none else s.m.bareRead pa 64

/-- The packet at the head of a queue, where the scheduler may consume it: a LAUNCH waits while the task table is full (18 R377). -/
def State.headPacket (s : State) (q : Nat) : Option (List Byte) :=
  let x := s.queue q
  if !x.cfg.getLsbD 16 || x.tail == x.head then none
  else (s.ringEntry x.base x.cfg x.head).bind (fun bs => if numAt bs 0 1 % 16 = 1 ∧ 4096 ≤ s.t.tasks.length then none else some bs)

/-- The queue that is served next: the highest QPRIO, then round-robin among the queues of it (18 R377). -/
def State.nextQueue (s : State) : Option Nat :=
  let qs := (List.range 64).filter (fun q => (s.headPacket q).isSome)
  let prio (q : Nat) : Nat := fieldOf (s.queue q).cfg 9 8
  let key (q : Nat) : Nat := (3 - prio q) * 64 + (q + 63 - s.t.lastQueue.getD (prio q) 63) % 64
  qs.foldl (fun acc q => match acc with | none => some q | some p => if key q < key p then some q else some p) none

/-- Consuming the next packet, where it is that of a queue and of a type: the packet and the state after. -/
def State.take (s : State) (q : Nat) (type : Nat → Bool) : Option (List Byte × State) :=
  if s.nextQueue ≠ some q then none
  else
    (s.headPacket q).bind (fun bs =>
      if type (numAt bs 0 1 % 16) then
        let s1 := s.setQueue { s.queue q with head := (s.queue q).head + 1 }
        some (bs, { s1 with t := { s1.t with lastQueue := s1.t.lastQueue.set (fieldOf (s.queue q).cfg 9 8) q } })
      else none)

/-- Fields of a packet (18 R376). -/
def pktCtx (bs : List Byte) : Nat := numAt bs 7 1
def pktTask (bs : List Byte) : W32 := BitVec.ofNat 32 (numAt bs 44 4)
def pktRecord (bs : List Byte) : W64 := BitVec.ofNat 64 (numAt bs 48 8)
def pktCpl (bs : List Byte) : W64 := BitVec.ofNat 64 (numAt bs 56 8)
def pktIrq (bs : List Byte) : Bool := numAt bs 1 1 / 2 % 2 == 1
def pktHeld (bs : List Byte) : Bool := numAt bs 1 1 % 2 == 1

/-- NOP_PACKET (18 R377). -/
def execNopPacket (q : Nat) (s : State) : Host.Outcome State Fault Refusal :=
  match s.take q (· == 0) with
  | none => .next s
  | some (_, s1) => .next s1

/-- SIGNAL and KILL (18 R377). -/
def execSignalPacket (q : Nat) (s : State) : Host.Outcome State Fault Refusal :=
  match s.take q (· == 2) with
  | none => .next s
  | some (bs, s1) => .next (s1.taskEvent (pktCtx bs) (pktTask bs) (.decrement none))
def execKillPacket (q : Nat) (s : State) : Host.Outcome State Fault Refusal :=
  match s.take q (· == 3) with
  | none => .next s
  | some (bs, s1) => .next (s1.taskEvent (pktCtx bs) (pktTask bs) .kill)

/-- RESERVED_PACKET_TYPE (18 R377, R380): a record, if the packet has an address for one. -/
def execReservedPacketType (q : Nat) (s : State) : Host.Outcome State Fault Refusal :=
  match s.take q (4 ≤ ·) with
  | none => .next s
  | some (bs, s1) =>
    .next (if pktCpl bs = 0 then s1 else s1.complete (pktCtx bs) (pktCpl bs) (pktTask bs) 8 2 false (pktIrq bs) q false)

/-! Task records (18 R378, R379). -/

/-- Bits of a 64-bit word of a record. -/
def recBits (raw : List Byte) (off hi lo : Nat) : Nat := numAt raw off 8 / 2 ^ lo % 2 ^ (hi + 1 - lo)

/-- The words of a record with their reserved bits, from offset 0. -/
def recReserved : List (Nat × Nat) :=
  [(0x00, 0xFF8000000000FCFF), (0x10, 0x0000FFFFFFE0F0C0), (0x18, 0x0000000000FFFE00), (0x20, 0xFF80000000000000), (0x28, 0xFF80000000000000),
    (0x30, 0xFF800000000000FF), (0x40, 0xFF80000000000000), (0x48, 0xFFFFFFFF00000000)]

def recWarps (raw : List Byte) : List Nat := (List.range (min 32 (recBits raw 0x10 5 0))).map (fun w => numAt raw (0x50 + w) 1)
def recRings (raw : List Byte) : List Nat := (List.range 8).map (fun n => numAt raw (0x70 + 4 * n) 4)

/-- A declared ring of a record (12 R277). -/
def ringOf (x : Nat) : Option RingDecl :=
  if x / 2 ^ 31 = 0 then none else some ⟨x % 16, (x / 2 ^ 14 % 256 + 1) * 256, x / 2 ^ 22 % 16 + 1, x / 2 ^ 26 % 32 + 1⟩

/-- Placing warps, by their byte of WARPS and the blocks they take, on four cores (18 R384): the core and slot of each, from the free slots,
tiles and blocks of each core. -/
def planWarps : List (Nat × Nat) → List (List Nat) → List Nat → List Nat → Option (List (Nat × Nat))
  | [], _, _, _ => some []
  | (b, regs) :: rest, slots, tiles, ext =>
    let need := if b % 4 = 1 then b / 4 % 32 else 0
    let free (c : Nat) : Nat := (slots.getD c []).length
    match (List.range 4).filter (fun c => free c != 0 && regs ≤ ext.getD c 0 && need ≤ tiles.getD c 0) with
    | [] => none
    | c0 :: cs =>
      let c := cs.foldl (fun a c => if free a < free c then c else a) c0
      (planWarps rest (slots.set c ((slots.getD c []).drop 1)) (tiles.set c (tiles.getD c 0 - need)) (ext.set c (ext.getD c 0 - regs))).map
        ((c, (slots.getD c []).headD 0) :: ·)

/-- All 32 bytes of WARPS. -/
def warpsBytes (raw : List Byte) : List Nat := (List.range 32).map (fun w => numAt raw (0x50 + w) 1)

/-- The reasons that the 384 bytes of a record give by themselves: 1, 2, 3 and 4 (18 R379). -/
def recordReasons (raw : List Byte) : List Nat :=
  let nw := recBits raw 0x10 5 0
  let nbank := recBits raw 0x10 20 16
  let regs := recBits raw 0x10 11 8
  let bad2 := ((recRings raw).filterMap ringOf).any (fun d => nbank ≤ d.bank || decide (65536 * nbank < 65536 * d.bank + d.nstg * d.sbytes))
  let bad3 := nw = 0 || 32 < nw || (warpsBytes raw).any (fun b => b % 4 == 3 || 16 < b / 4 % 32) ||
    (planWarps ((recWarps raw).map (fun b => (b, regs))) (List.replicate 4 (List.range 16)) (List.replicate 4 16) (List.replicate 4 32)).isNone
  let bad4 := recReserved.any (fun r => Nat.land (numAt raw r.1 8) r.2 != 0) || (List.range 112).any (fun i => numAt raw (0x90 + i) 1 != 0) ||
    (warpsBytes raw).any (fun b => 128 ≤ b) || (recRings raw).any (fun x => x / 16 % 1024 != 0) || 16 < nbank || 8 < regs ||
    recBits raw 0x08 31 0 == 0 || recBits raw 0x08 63 32 % 4 != 0 || 64 < recBits raw 0x18 31 24 || recBits raw 0x20 54 0 % 4 != 0 ||
    recBits raw 0x28 54 0 % 16 != 0 || recBits raw 0x40 54 0 % 4096 != 0 || recBits raw 0x48 31 0 % 4096 != 0 ||
    recBits raw 0x48 31 0 < 0x102000 + 0x57000 * nw || (warpsBytes raw).any (fun b => b % 4 != 1 && b / 4 % 32 != 0)
  (if 256 < recBits raw 0x18 8 0 then [1] else []) ++ (if bad2 then [2] else []) ++ (if bad3 then [3] else []) ++ (if bad4 then [4] else [])

/-- The group table: a warp in more than four entries is reason 1 (01 R18). -/
def groupsOf (bs : List Byte) : List W32 := (frameNums bs 4 (bs.length / 4)).map (BitVec.ofNat 32)
def groupsBad (nw : Nat) (gs : List W32) : Bool := (List.range nw).any (fun w => 4 < (gs.filter (fun (g : W32) => g.getLsbD w)).length)

/-- An entry of the edge list, and whether it breaks R378. -/
def edgeOf (bs : List Byte) : Edge :=
  ⟨BitVec.ofNat 32 (numAt bs 0 4),
    (List.range (min 8 (numAt bs 4 1 % 16))).map (fun i => (BitVec.ofNat 64 (numAt bs (16 + 16 * i) 8), BitVec.ofNat 64 (numAt bs (24 + 16 * i) 8)))⟩
def edgeBad (bs : List Byte) : Bool := 8 < numAt bs 4 1 % 16 || numAt bs 4 1 / 16 != 0 || numAt bs 5 8 != 0 || numAt bs 13 3 != 0
def edgesOf (bs : List Byte) : List (List Byte) := (List.range (bs.length / 144)).map (fun i => (bs.drop (144 * i)).take 144)

/-- What the scheduler read of a record: the record, its group table and its edge list, none where a read failed. -/
structure RecordRead where
  raw : Option (List Byte)
  groups : Option (List Byte)
  edges : Option (List Byte)

/-- Reading a record through the page tables of its context (18 R379). -/
def State.readRecord (s : State) (ctx : Nat) (va : W64) : RecordRead :=
  match s.agentRead (agentCore 0) ctx va.toNat 384 with
  | none => ⟨none, none, none⟩
  | some raw =>
    let n := recBits raw 0x18 31 24
    ⟨some raw, s.agentRead (agentCore 0) ctx (recBits raw 0x20 54 0) (4 * recBits raw 0x18 8 0),
      if 64 < n then some [] else s.agentRead (agentCore 0) ctx (recBits raw 0x28 54 0) (144 * n)⟩

/-- The reads of a record wait for a thermal hold (17 R372). -/
def State.recordHeld (s : State) (ctx : Nat) (va : W64) : Bool :=
  s.m.holding && (s.m.agentHeld (agentCore 0) ctx va.toNat 384 ||
    match s.agentRead (agentCore 0) ctx va.toNat 384 with
    | none => false
    | some raw =>
      s.m.agentHeld (agentCore 0) ctx (recBits raw 0x20 54 0) (4 * recBits raw 0x18 8 0) ||
        s.m.agentHeld (agentCore 0) ctx (recBits raw 0x28 54 0) (144 * min 64 (recBits raw 0x18 31 24)))

/-- Every reason that a record gives: a failed read is 7, and what needs it is not checked (18 R379). -/
def RecordRead.reasons (r : RecordRead) : List Nat :=
  match r.raw with
  | none => [7]
  | some raw =>
    recordReasons raw ++ (match r.groups with | none => [7] | some g => if groupsBad (min 32 (recBits raw 0x10 5 0)) (groupsOf g) then [1] else []) ++
      (match r.edges with | none => [7] | some e => if (edgesOf e).any edgeBad then [4] else [])

/-- The first reason in the order of R379, 0 for none. -/
def firstReason (rs : List Nat) : Nat := match rs with | [] => 0 | x :: r => r.foldl min x

/-- A task takes the fields of its record (18 R378, R384); its class so far is the QPRIO of its queue. -/
def Task.fill (k : Task) (raw groups edges : List Byte) : Task :=
  { k with
    counter := recBits raw 0x18 63 32, cls := min k.cls (recBits raw 0x00 9 8), ncoh := recBits raw 0x08 31 0, left := recBits raw 0x08 31 0
    entry := BitVec.ofNat 32 (recBits raw 0x08 63 32), codebase := BitVec.ofNat 64 (numAt raw 0 8) &&& 0x7FFFFFFFFF0000
    nwarps := recBits raw 0x10 5 0, nbank := recBits raw 0x10 20 16, fifo := recBits raw 0x10 63 48, regs := recBits raw 0x10 11 8
    trapbase := BitVec.ofNat 64 (numAt raw 0x30 8), trapswap := BitVec.ofNat 64 (numAt raw 0x38 8)
    save := BitVec.ofNat 64 (numAt raw 0x40 8), saveStride := recBits raw 0x48 31 0, warpBytes := recWarps raw
    rings := (recRings raw).map ringOf, groups := groupsOf groups, params := (frameNums (raw.drop 0x100) 8 16).map (BitVec.ofNat 64)
    edges := (edgesOf edges).map edgeOf }

/-- A task that a LAUNCH has created: it is checking (18 R381). -/
def newTask (q : Nat) (qprio wct rung : Nat) (bs : List Byte) : Task :=
  { ctx := pktCtx bs, id := pktTask bs, st := .checking, counter := 0, held := pktHeld bs, irq := pktIrq bs, queue := q, cpl := pktCpl bs
    record := pktRecord bs, cls := qprio, ncoh := 0, left := 0, ready := 0, entry := 0, codebase := 0, nwarps := 0, nbank := 0, fifo := 0, regs := 0
    trapbase := 0, trapswap := 0, save := 0, saveStride := 0, warpBytes := [], rings := [], groups := [], params := [], edges := [], miss := false
    pending := [], ran := [], cleaned := false, wct := 0, inRegions := [], notBefore := wct, rung := rung, born := none }

/-- Reasons of the packet alone: 4 (a reserved bit or a misaligned address), 5 and 6 (18 R376, R379). -/
def State.packetReasons (s : State) (bs : List Byte) : List Nat :=
  (if numAt bs 0 1 / 16 ≠ 0 ∨ numAt bs 1 1 / 4 ≠ 0 ∨ numAt bs 2 5 ≠ 0 ∨ numAt bs 8 36 ≠ 0 ∨ (pktRecord bs).toNat % 128 ≠ 0 ∨ (pktCpl bs).toNat % 16 ≠ 0 then [4]
    else []) ++
    (if pktTask bs = 0xFFFFFFFF ∨ (s.task (pktCtx bs) (pktTask bs)).isSome = true then [5] else []) ++
    (if pktCtx bs = 0 ∨ (s.m.context (pktCtx bs)).isNone = true then [6] else [])

/-- LAUNCH (18 R377, R379, R381): a packet that fails by itself is rejected at once, another's task is checking. -/
def execLaunchPacket (q : Nat) (s : State) : Host.Outcome State Fault Refusal :=
  match s.take q (· == 1) with
  | none => .next s
  | some (bs, s1) =>
    if pktCtx bs ≠ 0 ∧ s.packetReasons bs ≠ [] ∧ s.recordHeld (pktCtx bs) (pktRecord bs) = true then .next s else
    match s.packetReasons bs with
    | [] => .next { s1 with t := { s1.t with tasks := s1.t.tasks ++ [newTask q (fieldOf (s.queue q).cfg 9 8) (s.queue q).wct (s.queue q).rung bs] } }
    | x :: r =>
      let more := if pktCtx bs = 0 then [] else (s.readRecord (pktCtx bs) (pktRecord bs)).reasons
      .next (s1.complete (pktCtx bs) (pktCpl bs) (pktTask bs) (firstReason ((x :: r) ++ more)) 2 false (pktIrq bs) q false)

/-- The events held while a task was checking, applied one at a time (18 R381). -/
def State.applyHeld (s : State) (ctx : Nat) (id : W32) (es : List TaskEvent) : State := es.foldl (fun acc e => acc.taskEvent ctx id e) s

/-- TASK_CHECK_COMPLETE (18 R379, R381). -/
def execTaskCheckComplete (ctx task : Nat) (s : State) : Host.Outcome State Fault Refusal :=
  let id : W32 := BitVec.ofNat 32 task
  match s.task ctx id with
  | none => .next s
  | some k =>
    if k.st ≠ .checking ∨ s.recordHeld ctx k.record = true then .next s
    else
      let r := s.readRecord ctx k.record
      match r.reasons, r.raw, r.groups, r.edges with
      | [], some raw, some g, some e =>
        let k1 := { k.fill raw g e with st := .waiting, pending := [] }
        let s1 := s.updTask ctx id (fun _ => k1)
        let s2 := if k1.counter = 0 ∧ k1.held = false then s1.makeReady ctx id else s1
        .next (s2.applyHeld ctx id k.pending)
      | rs, _, _, _ => .next (((s.complete ctx k.cpl id (firstReason rs) 2 false k.irq k.queue false).dropTask ctx id).applyHeld ctx id k.pending)

/-! Regions of edges (07 R219). -/

/-- The mapped pages of a run of addresses; parts that are not mapped are skipped. -/
def MemSys.pagesMapped (m : MemSys) (core : CoreId) (ctx hi : Nat) : Nat → Nat → List PageRun
  | 0, _ => []
  | fuel + 1, va =>
    if hi ≤ va ∨ 2 ^ 55 ≤ va ∨ inScratch (BitVec.ofNat 64 va) = true then []
    else
      match m.pageOf core ctx (BitVec.ofNat 64 va) with
      | .error e =>
        let n := pageSize (if e.cause = 1 then 1 else if e.cause = 2 then 2 else 3)
        m.pagesMapped core ctx hi fuel ((va / n + 1) * n)
      | .ok (pte, level) =>
        let stop := min hi ((va / pageSize level + 1) * pageSize level)
        ⟨pte, level, va, stop⟩ :: m.pagesMapped core ctx hi fuel stop
def State.regionRuns (s : State) (die ctx : Nat) (rs : List (W64 × W64)) : List PageRun :=
  (rs.flatMap (fun r => s.m.pagesMapped (agentCore die) ctx (r.1.toNat + r.2.toNat) (r.2.toNat / 65536 + 2) r.1.toNat)).map s.m.ownRun

/-- A walk to a page of some regions waits (17 R372). -/
def State.regionsHeld (s : State) (die ctx : Nat) (rs : List (W64 × W64)) : Bool :=
  s.m.holding && rs.any (fun r => (List.range (r.2.toNat / 65536 + 2)).any (fun i =>
    match s.m.pageOf (agentCore die) ctx (BitVec.ofNat 64 (r.1.toNat + 65536 * i)) with
    | .error e => e == waitErr
    | .ok _ => false))

/-- Cleaning regions in a cluster's L1: dirty lines are written back, and writes of the cluster already on their way there count too; the
completion times come back to a name. -/
def State.cleanRegions (s : State) (who : WRef) (ctx cl : Nat) (rs : List (W64 × W64)) : State :=
  let runs := s.regionRuns (cl / 48) ctx rs
  let hit (line : Nat) : Bool := runs.any (fun r => r.has line)
  let s1 := s.updM (fun m => { m with msgs := m.msgs.map (fun g =>
    match g.kind with
    | .write d k p c ws t => if g.cluster = cl ∧ hit g.line = true then { g with kind := .write d k p c (ws ++ [who]) t } else g
    | .fill .. => g
    | .read .. => g
    | .atomic _ => g
    | .act _ => g) })
  (s1.m.l1.filter (fun x => x.cluster == cl && x.dirty != 0 && hit x.line)).foldl (fun acc x => acc.writeBackFor who 0 x false false) s1

/-- Invalidating regions in a cluster's L1: dirty bytes are written back first. -/
def State.dropRegions (s : State) (ctx cl : Nat) (rs : List (W64 × W64)) : State :=
  let runs := s.regionRuns (cl / 48) ctx rs
  s.writeBackAll cl true (fun x => runs.any (fun r => r.has x.line))

/-- A completion time of a name's cleaning is still to come. -/
def State.cleaning (s : State) (who : WRef) : Bool :=
  s.m.acks.any (fun a => a.warp == who) || s.m.msgs.any (fun g =>
    match g.kind with
    | .write _ _ _ _ ws _ => ws.contains who
    | .fill .. => false
    | .read .. => false
    | .atomic _ => false
    | .act _ => false)

/-- The edges of a completing task (18 R383, step 2): each decrements its successor, which keeps its regions; whether one was missing. -/
def State.applyEdges (s : State) (ctx : Nat) (es : List Edge) : State × Bool :=
  es.foldl
    (fun acc e =>
      if e.succ = 0xFFFFFFFF then acc
      else if (acc.1.task ctx e.succ).isNone then (acc.1, true)
      else ((acc.1.updTask ctx e.succ (fun k => { k with inRegions := k.inRegions ++ e.regions })).taskEvent ctx e.succ (.decrement none), acc.2))
    (s, false)

/-- TASK_RETIRE (18 R383; 07 R219): first the cleaning is asked for; once its completion times have come and TIME has reached them, the edges are
applied and the record is written. -/
def execTaskRetire (ctx task : Nat) (s : State) : Host.Outcome State Fault Refusal :=
  let id : W32 := BitVec.ofNat 32 task
  let who := WRef.ofTask ctx id
  match s.task ctx id with
  | none => .next s
  | some k =>
    if k.st ≠ .draining then .next s
    else if k.cleaned = false then
      let regions := k.edges.flatMap (·.regions)
      if k.ran.any (fun cl => s.regionsHeld (cl / 48) ctx regions) then .next s
      else .next ((k.ran.foldl (fun acc cl => acc.cleanRegions who ctx cl regions) s).updTask ctx id (fun x => { x with cleaned := true }))
    else if s.cleaning who = true ∨ s.time < k.wct then .next s
    else
      let r := s.applyEdges ctx k.edges
      .next (r.1.complete ctx k.cpl id 0 0 (k.miss || r.2) k.irq k.queue true)

/-! Placement (18 R384). -/

/-- What a cluster has free for a cohort: banks, cohort slots, and of each core warp slots, tiles and extended blocks. -/
structure Room where
  banks : List Nat
  cslots : List Nat
  slots : List (List Nat)
  tiles : List Nat
  ext : List Nat
  deriving DecidableEq, Repr

/-- The room of a cluster, as if the cohorts that a test accepts were gone from it; their cohort slots stay taken. -/
def State.room (s : State) (die cl : Nat) (gone : Cohort → Bool) : Room :=
  let here := s.cohorts.filter (fun c => c.die == die && c.cluster == cl)
  let stay := here.filter (fun c => !c.away && !gone c)
  let on (k : Nat) : List Warp :=
    s.allWarps.filter (fun w => w.id.core == ⟨die, cl, k⟩ && !(here.any (fun c => gone c && sameCohort c w.ref)))
  { banks := (List.range 16).filter (fun b => !stay.any (fun c => c.banks.contains b))
    cslots := (List.range 64).filter (fun i => !here.any (fun c => c.cslot == i))
    slots := (List.range 4).map (fun k => (List.range 16).filter (fun i => !(on k).any (fun w => w.id.slot == i)))
    tiles := (List.range 4).map (fun k => 16 - ((on k).map Warp.tiles).sum)
    ext := (List.range 4).map (fun k => 32 - ((on k).map (fun w => max w.regs w.blocksHeld)).sum) }

/-- Free warp slots of a room. -/
def Room.free (r : Room) : Nat := (r.slots.map List.length).sum

/-- Where the warps of a cohort of a task go, if the cohort fits but for a cohort slot. -/
def Room.plan (r : Room) (nbank : Nat) (warps : List (Nat × Nat)) : Option (List (Nat × Nat)) :=
  if r.banks.length < nbank then none else planWarps warps r.slots r.tiles r.ext
def Task.wants (k : Task) : List (Nat × Nat) := k.warpBytes.map (fun b => (b, k.regs))
def Room.fits (r : Room) (k : Task) : Bool := r.cslots != [] && (r.plan k.nbank k.wants).isSome

/-- The cluster of a die for a cohort of a task: where it fits, the most free warp slots, then the lowest number. -/
def State.bestCluster (s : State) (die : Nat) (k : Task) : Option Nat :=
  let rooms := (List.range 48).map (fun cl => (cl, s.room die cl (fun _ => false)))
  ((rooms.filter (fun r => r.2.fits k)).foldl
    (fun (acc : Option (Nat × Room)) r => match acc with | none => some r | some b => if b.2.free < r.2.free then some r else some b) none).map Prod.fst

/-- The tasks with an unplaced cohort of a distributor that may start (18 R384; 07 R220). -/
def State.placeable (s : State) (die : Nat) : List Task :=
  s.t.tasks.filter (fun k => (k.st == .ready || k.st == .running) && k.notBefore ≤ s.time &&
    s.t.unplaced.any (fun u => u.die == die && u.ctx == k.ctx && u.task == k.id))

/-- The highest class of some tasks, and of those of it the earliest ready. -/
def topClass (ks : List Task) : Nat := ks.foldl (fun acc k => max acc k.cls) 0
def earliest (ks : List Task) : Option Task :=
  ks.foldl (fun acc k => match acc with | none => some k | some b => if k.ready < b.ready then some k else some b) none

/-- The task a distributor would place from next: of the highest class the earliest ready that fits, or the earliest where none does. -/
def State.nextTask (s : State) (die : Nat) : Option (Task × Bool) :=
  let ks := s.placeable die
  let top := ks.filter (fun k => k.cls == topClass ks)
  match earliest (top.filter (fun k => (s.bestCluster die k).isSome)) with
  | some k => some (k, true)
  | none => (earliest top).map (fun k => (k, false))

/-- Where the warps of a pre-empted cohort would go on its cluster (15 R346; 18 R389). -/
def State.restorePlan (s : State) (x : Saved) : Option (Cohort × List (Nat × Nat)) :=
  match s.cohorts.find? (fun c => c.die == x.die && c.cluster == x.cluster && c.cslot == x.cslot) with
  | none => none
  | some c =>
    ((s.room c.die c.cluster (fun _ => false)).plan c.banks.length
      (x.warps.map (fun w => (w.role + 4 * w.tiles, max w.regs w.blocksHeld)))).map
      (fun p => (c, p))

/-- A barrier at launch (04 R113). -/
def Barrier.start (mask : W32) (nwarps : Nat) : Barrier :=
  { phase := 0, arr := 0, need := ((List.range nwarps).filter (fun w => mask.getLsbD w)).length, pend := 0, ovf := false, kind := 0, arrivals := []
    leaving := 0 }

/-- GROUPS of a warp index (01 R18). -/
def groupsCsr (gs : List W32) (widx : Nat) : W64 :=
  let es := ((List.range gs.length).filter (fun e => (gs.getD e 0).getLsbD widx)).take 4
  BitVec.ofNat 64 ((runOf 0 es).map (fun p => (0x8000 + p.2) * 2 ^ (16 * p.1))).sum

/-- A warp at cohort launch (01 R15). -/
def launchWarp (k : Task) (die cl cslot cohort widx core slot : Nat) (active : Bool) : Warp :=
  { Warp.reset with
    live := true, id := ⟨⟨die, cl, core⟩, slot⟩, ref := ⟨die, cl, cslot, widx⟩, widx := widx, ctx := k.ctx, taskId := k.id
    cohortId := BitVec.ofNat 32 cohort, s := Store.setMany [] (runOf 0 (k.params.take 16))
    lpc := Store.setMany [] ((List.range 32).map (fun l => (l, k.entry)))
    csr := { Csrs.reset with
      groups := groupsCsr k.groups widx, extblk := BitVec.ofNat 64 k.regs
      warpcfg := BitVec.ofNat 64 (k.warpBytes.getD widx 0 % 128 + k.cls * 256), codebase := k.codebase, trapbase := k.trapbase, trapswap := k.trapswap }
    regs := k.regs, active := active }

/-- A warp comes to a slot: into the active set where it has room, into the focus where that holds none. -/
def State.addWarp (s : State) (w : Warp) : State :=
  let x : Warp := { w with active := decide (s.activeOn w.id.core < 8), activeSince := w.cycle, outsideSince := w.cycle, idleSince := w.cycle }
  if s.w.live then { s with warps := s.warps ++ [x] } else { s with w := x }

/-- The stages of the declared rings at launch (12 R277). -/
def stagesOf (rings : List (Option RingDecl)) : List Stage :=
  (runOf 0 rings).flatMap (fun p => (List.range ((p.2.map (·.nstg)).getD 0)).map (fun i => ⟨p.1, i, .empty, false, 0, 0, false, [], [], 0⟩))

/-- Placing a cohort of a task on a cluster (18 R384; 17 R353; 07 R219). -/
def State.placeCohort (s : State) (die cl cohort : Nat) (k : Task) : State :=
  let r := s.room die cl (fun _ => false)
  match r.cslots, r.plan k.nbank k.wants with
  | cslot :: _, some plan =>
    let banks := r.banks.take k.nbank
    let c : Cohort :=
      { die := die, cluster := cl, cslot := cslot, ctx := k.ctx, task := k.id, cohortId := BitVec.ofNat 32 cohort, prio := k.cls, nwarps := k.nwarps
        banks := banks, groups := k.groups, barriers := k.groups.map (fun g => Barrier.start g k.nwarps), rings := k.rings, stages := stagesOf k.rings
        regs := k.regs, warpBytes := k.warpBytes, saveAddr := k.save + BitVec.ofNat 64 (cohort * k.saveStride), away := false, stopping := false
        placedAt := s.time }
    let s1 := s.dropRegions k.ctx (die * 48 + cl) k.inRegions
    let s2 := (runOf 0 banks).foldl (fun acc b => acc.setBank (die * 48 + cl) b.2 (if k.fifo / 2 ^ b.1 % 2 = 1 then 2 else 1)) s1
    let s3 := { s2 with
      cohorts := s2.cohorts ++ [c]
      f := { s2.f with grants := s2.f.grants.map (fun (g : Grant) => if sameCohort c g.ref then ({ g with valid := false } : Grant) else g) }
      t := { s2.t with
        unplaced := s2.t.unplaced.filter (fun u => !(u.die == die && u.ctx == k.ctx && u.task == k.id && u.cohortId == cohort)) } }
    let s4 := (runOf 0 plan).foldl (fun acc p => acc.addWarp (launchWarp k die cl cslot cohort p.1 p.2.1 p.2.2 false)) s3
    s4.updTask k.ctx k.id (fun x => { x with
      st := .running, born := some (x.born.getD s4.time), ran := if x.ran.contains (die * 48 + cl) then x.ran else x.ran ++ [die * 48 + cl] })
  | [], _ => s
  | _ :: _, none => s

/-- The lowest unplaced cohort of a task that a distributor owns. -/
def State.ownedBy (s : State) (die : Nat) (k : Task) : List Nat :=
  (s.t.unplaced.filter (fun u => u.die == die && u.ctx == k.ctx && u.task == k.id)).map (·.cohortId)
def lowest : List Nat → Option Nat
  | [] => none
  | x :: r => some (r.foldl min x)

/-- COHORT_PLACEMENT (18 R384, R389): pre-empted cohorts of a higher class on the die, and those of the same class that fit again, come first. -/
def execCohortPlacement (die : Nat) (s : State) : Host.Outcome State Fault Refusal :=
  match s.nextTask die with
  | none => .next s
  | some (k, fit) =>
    let first (x : Saved) : Bool := x.die == die && (decide (k.cls < x.cls) || (x.cls == k.cls && (s.restorePlan x).isSome))
    match s.bestCluster die k, lowest (s.ownedBy die k) with
    | some cl, some n =>
      if fit = false ∨ s.t.saved.any first = true ∨ s.regionsHeld die k.ctx k.inRegions = true then .next s else .next (s.placeCohort die cl n k)
    | some _, none => .next s
    | none, _ => .next s

/-! Stealing (18 R385). -/

/-- A distributor looks for work: it owns none and its die has a free cohort slot and a free warp slot. -/
def State.hungry (s : State) (die : Nat) : Bool :=
  !s.t.unplaced.any (fun u => u.die == die) && (List.range 48).any (fun cl => let r := s.room die cl (fun _ => false); r.cslots != [] && r.free != 0)

/-- Numbers in rising order. -/
def sortNat (l : List Nat) : List Nat := l.foldl (fun acc x => acc.filter (· ≤ x) ++ x :: acc.filter (x < ·)) []

/-- What a victim gives a thief: the task and the cohorts, none where it refuses. -/
def State.gift (s : State) (thief victim : Nat) : Option (Task × List Nat) :=
  match s.nextTask victim with
  | none => none
  | some (k, _) =>
    let l := sortNat (s.ownedBy victim k)
    if 2 ≤ l.length ∧ (s.bestCluster thief k).isSome = true then some (k, l.drop (l.length - l.length / 2)) else none

/-- The victims asked in turn, until one gives. -/
def State.stealFrom (s : State) (thief : Nat) : List Nat → Option State
  | [] => none
  | v :: r =>
    match s.gift thief v with
    | none => s.stealFrom thief r
    | some (k, ids) =>
      some { s with t := { s.t with unplaced := s.t.unplaced.map (fun u =>
        if u.die = v ∧ u.ctx = k.ctx ∧ u.task = k.id ∧ ids.contains u.cohortId = true then { u with die := thief } else u) } }
def State.stealNow (s : State) (die : Nat) : State :=
  let rest := s.t.stealAt.filter (fun p => p.1 != die)
  match s.stealFrom die [(die + 1) % 4, (die + 2) % 4, (die + 3) % 4] with
  | some s1 => { s1 with t := { s1.t with stealAt := rest } }
  | none => { s with t := { s.t with stealAt := rest ++ [(die, s.time + 2000)] } }

/-- STEAL_REQUEST and, after a refusal, STEAL_RETRY (18 R385). -/
def execStealRequest (die : Nat) (s : State) : Host.Outcome State Fault Refusal :=
  .next (if s.hungry die && !s.t.stealAt.any (fun p => p.1 == die) then s.stealNow die else s)
def execStealRetry (die : Nat) (s : State) : Host.Outcome State Fault Refusal :=
  match s.t.stealAt.find? (fun p => p.1 == die) with
  | none => .next s
  | some p =>
    if s.time < p.2 then .next s
    else if s.hungry die then .next (s.stealNow die)
    else .next { s with t := { s.t with stealAt := s.t.stealAt.filter (fun p => p.1 != die) } }

end Sys2Proof.Machine
end

