-- ==== Sys2Proof/Machine/Swap.lean ====
section
/-!
DEFINITION. Pre-emption of a cluster's cohorts and their restore (15 R344-R347; 18 R389; 01 R44). The public parts of a save area go through
memory; log entry 38 says where the private parts are kept.
-/
namespace Sys2Proof.Machine

/-! Pre-emption (15 R344; 18 R389). -/

/-- The operation of a barrier, vote or reduction that the warp waits in: its result is not in flight. -/
def Warp.waitsIn (w : Warp) (op : Nat) : Bool :=
  match w.wait with
  | .barrier _ _ _ _ o _ => o == op
  | .ready | .sleep _ | .fence .. | .page .. | .trap _ => false

/-- Every result in flight has been written, once bounded ones that are due are, results in cursors among them (01 R44; 10 R251). -/
def Warp.quiet (w : Warp) : Bool := let x := w.deliverDue; x.streams == [] && x.ops.all (fun o => (o.dests == [] && o.cursor.isNone) || x.waitsIn o.id)

/-- The warps of a cohort that are resident. -/
def State.warpsOf (s : State) (c : Cohort) : List Warp := s.allWarps.filter (fun w => !w.onStackCore && sameCohort c w.ref)

/-- The regions of a save area but for the warps' frames (15 R345). -/
def State.saveRegions (s : State) (c : Cohort) : List (Nat × List Byte) :=
  let cl := c.die * 48 + c.cluster
  c.stages.map (fun g => (0x100 + 128 * g.ring + 8 * g.idx, g.frame)) ++
    (runOf 0 c.banks).map (fun b =>
      (0x500 + 8 * b.1, bytesOf 8 ((s.m.bankMode.get (cl * 16 + b.2)).toNat + (s.m.bankHead.get (cl * 16 + b.2)).toNat * 2 ^ 16 +
        (s.m.bankTail.get (cl * 16 + b.2)).toNat * 2 ^ 32))) ++
    (runOf 0 c.barriers).map (fun b => (0x1000 + 16 * b.1, b.2.frame)) ++
    ((runOf 0 c.banks).filter (fun b => s.m.bankMode.get (cl * 16 + b.2) != 0)).map (fun b =>
      (0x2000 + 0x10000 * b.1, s.m.bankBytes (scratchKey cl b.2 0) 65536))

/-- Blocks of the save area that hold a poisoned word of a bank (17 R365). -/
def State.poisonSaved (s : State) (c : Cohort) : State :=
  let cl := c.die * 48 + c.cluster
  let words := (runOf 0 c.banks).flatMap (fun b =>
    ((s.m.bankPoison.filter (fun p => p.1 / 8192 == cl * 16 + b.2)).map (fun p => c.saveAddr.toNat + 0x2000 + 0x10000 * b.1 + 8 * (p.1 % 8192))))
  words.foldl
    (fun acc va =>
      match acc.m.translate (agentCore c.die) c.ctx (BitVec.ofNat 64 va) .write with
      | .ok p => if p.loc < hostBase then acc.updM (fun m => m.poisonBlock (blockOf p.loc)) else acc
      | .error _ => acc) s

/-- A warp with every register present, its bounded results written. -/
def State.filled (s : State) (w : Warp) : Option Warp := s.fillRegs w.deliverDue w.heldCodes

/-- The fatal fault of a save area that cannot be used (15 R346): the kind of access, its first error and the address that has it (15 R330). -/
def State.areaFatal (s : State) (c : Cohort) (w : Option Warp) (acc : BitVec 2) (err : Option (TErr × Nat)) : State :=
  let e := err.getD (pageErr 1, c.saveAddr.toNat)
  match w with
  | some w => s.fatal w { code := e.1.code, cause := e.1.cause, addr := BitVec.ofNat 64 e.2, acc := acc }
  | none => s.endTask c.ctx c.task 1

/-- The first error of filling the absent registers of some warps. -/
def State.fillErr (s : State) (ws : List Warp) : Option (TErr × Nat) :=
  ws.findSome? (fun w => (w.heldCodes.filter (fun r => w.absent.getLsbD r)).findSome? (fun r =>
    s.placeErr (agentCore w.id.core.die) w.ctx .read (w.frame.toNat + regOffset r) (regBytes r)))

/-- The first error of writing regions at a base. -/
def State.regionErr (s : State) (core : CoreId) (ctx base : Nat) (rs : List (Nat × List Byte)) : Option (TErr × Nat) :=
  rs.findSome? (fun r => s.placeErr core ctx .write (base + r.1) r.2.length)

/-- Requests of a cohort's warps that are abandoned with the instruction that made them (15 R344): blocks, lumens, call slots. -/
def State.abandon (s : State) (c : Cohort) : State :=
  { s with
    cores := s.cores.map (fun k => { k with racq := k.racq.filter (fun r => !sameCohort c r) })
    e := { s.e with lumens := s.e.lumens.filter (fun q => !sameCohort c q.warp) }
    f := { s.f with calls := s.f.calls.filter (fun k => !(k.asks && sameCohort c k.caller)) } }

/-- Saving a cohort whose warps are quiet (15 R344, steps 2 to 5). -/
def State.saveCohort (s : State) (c : Cohort) : State :=
  let cl := c.die * 48 + c.cluster
  let ws := s.warpsOf c
  let core := agentCore c.die
  match ws.mapM s.filled with
  | none => s.areaFatal c ws.head? 0 (s.fillErr ws)
  | some full =>
    let bits : BitVec 64 := ofBits 64 (ws.map (fun w => slotBit w.id))
    let s1 := s.writeBackAll cl false (fun x => x.dirty != 0 && x.dirtying &&& bits != 0)
    match s1.writeRegions core c.ctx c.saveAddr.toNat (s1.saveRegions c) with
    | none => s.areaFatal c ws.head? 1 (s1.regionErr core c.ctx c.saveAddr.toNat (s1.saveRegions c))
    | some s2 =>
      match full.foldlM (fun acc w => acc.writeRegions core c.ctx (c.frameVa w.widx) (w.frame0 acc.f.grants false)) s2 with
      | none => s.areaFatal c ws.head? 1 (full.findSome? (fun w => s2.regionErr core c.ctx (c.frameVa w.widx) (w.frame0 s2.f.grants false)))
      | some s3 =>
        let s4 := c.banks.foldl (fun acc b => acc.setBank cl b 0) ((s3.poisonSaved c).abandon c)
        let mine (w : Warp) : Bool := w.live && !w.onStackCore && sameCohort c w.ref
        let s5 : State := { s4 with
          w := if mine s4.w then { s4.w with live := false } else s4.w
          warps := s4.warps.filter (fun w => !mine w)
          cohorts := updFirst (fun x => x.die == c.die && x.cluster == c.cluster && x.cslot == c.cslot)
            (fun x => { x with away := true, stopping := false }) s4.cohorts
          t := { full.foldl (fun acc w => acc.setFrame c.ctx (c.frameVa w.widx) w) s4.t with
            saved := s4.t.saved ++ [⟨c.die, c.cluster, c.cslot, c.prio, s.time, full⟩] } }
        (List.range 4).foldl (fun acc k => acc.refill ⟨c.die, c.cluster, k⟩ 8) s5

/-- The cluster whose lower cohorts give way to a class-3 cohort (18 R389): it then fits; the lowest class, then the latest placement. -/
def State.victimCluster (s : State) (die : Nat) (k : Task) : Option Nat :=
  let low (cl : Nat) : List Cohort := s.cohorts.filter (fun c => c.die == die && c.cluster == cl && c.prio < 3 && !c.away)
  let cls (cl : Nat) : Nat := (low cl).foldl (fun acc c => max acc c.prio) 0
  let late (cl : Nat) : Nat := (low cl).foldl (fun acc c => max acc c.placedAt) 0
  let ok := (List.range 48).filter (fun cl => low cl != [] && (s.room die cl (fun c => c.prio < 3)).fits k)
  ok.foldl
    (fun acc cl => match acc with
      | none => some cl
      | some b => if cls cl < cls b ∨ (cls cl = cls b ∧ late b < late cl) then some cl else some b) none

/-- PREEMPTION (15 R344; 18 R389), for the earliest class-3 task that fits no cluster and for which one can be cleared: first the cohorts stop issuing; once their results in flight are written, they are saved. -/
def execPreemption (die : Nat) (s : State) : Host.Outcome State Fault Refusal :=
  match s.cohorts.filter (fun c => c.die == die && c.stopping && !c.away) with
  | [] =>
    match earliest ((s.placeable die).filter (fun k => k.cls == 3 && (s.bestCluster die k).isNone && (s.victimCluster die k).isSome)) with
    | none => .next s
    | some k =>
      match s.victimCluster die k with
      | none => .next s
      | some cl =>
        .next { s with cohorts := s.cohorts.map (fun c =>
          if c.die = die ∧ c.cluster = cl ∧ c.prio < 3 ∧ c.away = false then { c with stopping := true } else c) }
  | cs =>
    if cs.all (fun c => (s.warpsOf c).all Warp.quiet) then
      .next (cs.foldl (fun acc c => if acc.cohorts.any (fun x => x.die == c.die && x.cluster == c.cluster && x.cslot == c.cslot) then acc.saveCohort c else acc) s)
    else .next s

/-! Restore (15 R346; 18 R389). -/

/-- The next pre-empted cohort of a die that fits its cluster again: of the highest class, the oldest; none while a cohort of a higher class
waits. -/
def State.nextRestore (s : State) (die : Nat) : Option (Saved × Cohort × List (Nat × Nat)) :=
  let mine := s.t.saved.filter (fun x => x.die == die)
  let fit := mine.filterMap (fun x => (s.restorePlan x).map (fun p => (x, p)))
  let better (a b : Saved) : Bool := b.cls < a.cls || (a.cls == b.cls && a.since < b.since)
  let best := fit.foldl (fun (acc : Option (Saved × Cohort × List (Nat × Nat))) x =>
    match acc with | none => some x | some b => if better x.1 b.1 then some x else some b) none
  match best with
  | none => none
  | some b => if mine.any (fun x => b.1.cls < x.cls) || (s.placeable die).any (fun k => b.1.cls < k.cls) then none else some b

/-- Reading back a bank of a save area: its mode, pointers, contents and poison. -/
def State.loadBank (s : State) (c : Cohort) (i b : Nat) : Option State :=
  let cl := c.die * 48 + c.cluster
  let core := agentCore c.die
  let base := c.saveAddr.toNat + 0x2000 + 0x10000 * i
  match s.agentRead core c.ctx (c.saveAddr.toNat + 0x500 + 8 * i) 8 with
  | none => none
  | some d =>
    let mode := numAt d 0 1 % 4
    let s1 := s.setBank cl b mode
    if mode = 0 then some s1
    else
      match s1.m.places core c.ctx base 65536 .read with
      | .error _ => none
      | .ok ps =>
        let key := scratchKey cl b 0
        let bad := ((runOf 0 ps).filter (fun p => s1.m.placePoison p.2)).map (fun p => (key + p.1) / 8)
        let m1 := s1.m.bankWrites (runOf key (s1.m.placeBytes ps))
        some { s1 with m := { m1 with
          bankHead := m1.bankHead.set (cl * 16 + b) (BitVec.ofNat 16 (numAt d 2 2)), bankTail := m1.bankTail.set (cl * 16 + b) (BitVec.ofNat 16 (numAt d 4 2))
          bankPoison := m1.bankPoison.setMany (bad.map (fun k => (k, 1))) } }

/-- A saved warp back in a slot (15 R346): its public state from the frame, HORIZON not lowered; a replay received lets it go on. -/
def State.restoreWarp (s : State) (c : Cohort) (w : Warp) (core slot : Nat) : Option Warp :=
  match s.frameRead (agentCore c.die) c.ctx (c.frameVa w.widx) w.tiles with
  | .error _ => none
  | .ok parts =>
    let x := (w.fromFrame (BitVec.ofNat 64 (c.frameVa w.widx)) parts w.marks w.kguard).raiseHorizon w.csr.horizon.toNat
    some { x with
      id := ⟨⟨c.die, c.cluster, core⟩, slot⟩, priv := numAt (parts.getD 0 []) 0x10C 1 % 2 == 1
      wait := match w.wait with
        | .page n a => if a = 0 then .page n a else .ready
        | .ready => .ready
        | .barrier e k l d o b => .barrier e k l d o b
        | .sleep t => .sleep t
        | .fence a b d => .fence a b d
        | .trap x => .trap x }

/-- The trap of a PAGE that the host delivered while its warp was away (15 R331). -/
def State.deliverLate (s : State) (w : Warp) (i : WarpId) : State :=
  match w.wait with
  | .page n a =>
    if a = 2 then match s.h.records.find? (fun r => r.num == n) with | some r => s.trapNow i r.info | none => s else s
  | .ready | .barrier .. | .sleep _ | .fence .. | .trap _ => s

/-- Reading a cohort's save area waits for a thermal hold (17 R372). -/
def State.areaHeld (s : State) (c : Cohort) (ws : List Warp) : Bool :=
  let core := agentCore c.die
  s.m.holding && ((List.range c.banks.length).any (fun i =>
      s.m.agentHeld core c.ctx (c.saveAddr.toNat + 0x500 + 8 * i) 8 || s.m.agentHeld core c.ctx (c.saveAddr.toNat + 0x2000 + 0x10000 * i) 65536) ||
    ws.any (fun w => (frameParts w.tiles).any (fun r => s.m.agentHeld core c.ctx (c.frameVa w.widx + r.1) r.2)))

/-- The first error of reading back a save area: its banks, then its frames (15 R346). -/
def State.restoreErr (s : State) (c : Cohort) (ws : List Warp) : Option (TErr × Nat) :=
  let core := agentCore c.die
  let bank (i : Nat) : Option (TErr × Nat) :=
    match s.firstErr core c.ctx (c.saveAddr.toNat + 0x500 + 8 * i) 8 with
    | some e => some e
    | none => s.placeErr core c.ctx .read (c.saveAddr.toNat + 0x2000 + 0x10000 * i) 65536
  match (List.range c.banks.length).findSome? bank with
  | some e => some e
  | none => ws.findSome? (fun w => (frameParts w.tiles).findSome? (fun r => s.firstErr core c.ctx (c.frameVa w.widx + r.1) r.2))

/-- COHORT_RESTORE (15 R346; 18 R389). -/
def execCohortRestore (die : Nat) (s : State) : Host.Outcome State Fault Refusal :=
  match s.nextRestore die with
  | none => .next s
  | some (x, c0, plan) =>
    if s.areaHeld c0 x.warps then .next s else
    let c := { c0 with banks := (s.room c0.die c0.cluster (fun _ => false)).banks.take c0.banks.length, away := false }
    match (runOf 0 c.banks).foldlM (fun acc b => acc.loadBank c b.1 b.2) s, (x.warps.zip plan).mapM (fun p => s.restoreWarp c p.1 p.2.1 p.2.2) with
    | some s1, some ws =>
      let s2 := { s1 with
        cohorts := updFirst (fun y => y.die == c.die && y.cluster == c.cluster && y.cslot == c.cslot) (fun _ => c) s1.cohorts
        t := { s1.t with saved := s1.t.saved.filter (fun y => !(y.die == c.die && y.cluster == c.cluster && y.cslot == c.cslot)) } }
      let s3 := ws.foldl State.addWarp s2
      .next ((x.warps.zip ws).foldl (fun acc p => acc.deliverLate p.1 p.2.id) s3)
    | none, _ => .next (s.areaFatal c0 x.warps.head? 0 (s.restoreErr c0 x.warps))
    | some _, none => .next (s.areaFatal c0 x.warps.head? 0 (s.restoreErr c0 x.warps))

end Sys2Proof.Machine
end

