-- ==== Sys2Proof/Machine/Host.lean ====
section
/-!
DEFINITION. The host window (19 R396-R402): the fault buffer, invalidations, events, register writes and the management mailbox; boot, power
and resets (00 R3; 19 R400, R409).
-/
namespace Sys2Proof.Machine

/-! Registers (19 R396-R398). -/

/-- FBTAIL_WRITE (19 R397): records that waited for room are posted. -/
def execFbtailWrite (v : W64) (s : State) : Host.Outcome State Fault Refusal :=
  if !s.h.live then .next s
  else let s1 := { s with h := { s.h with fbTail := v.setWidth 32 } }; .next (s1.postAll s1.h.records.length)

/-- FBCFG_WRITE (19 R397): records that waited for EN are posted. -/
def execFbcfgWrite (v : W64) (s : State) : Host.Outcome State Fault Refusal :=
  if !s.h.live then .next s
  else let s1 := { s with h := { s.h with fbCfg := v &&& 0x1000F } }; .next (s1.postAll s1.h.records.length)

/-- The host's invalidation is still in progress. -/
def State.tlbBusy (s : State) : Bool := s.h.tlbBusy.any s.inFlight

/-- A write of TLBCMD (19 R397): a TLBINV; while one is in progress it is ignored and noted in LOST. -/
def State.tlbCmd (s : State) (p : TlbEntry → Bool) (ctx : Option Nat) : State :=
  if !s.h.live then s
  else if s.tlbBusy then { s with h := { s.h with tlbLost := true } }
  else let s1 := s.invalidate p ctx; { s1 with h := { s1.h with tlbBusy := some s1.fresh } }
def cmdCtx (v : W64) : Nat := fieldOf v 23 16
def execTlbcmdPage (v : W64) (s : State) : Host.Outcome State Fault Refusal :=
  .next (s.tlbCmd (coversVa (cmdCtx v) (fieldOf v 63 25 * 65536)) (some (cmdCtx v)))
def execTlbcmdContext (v : W64) (s : State) : Host.Outcome State Fault Refusal := .next (s.tlbCmd (fun e => e.ctx == cmdCtx v) (some (cmdCtx v)))
def execTlbcmdAll (_ : W64) (s : State) : Host.Outcome State Fault Refusal := .next (s.tlbCmd (fun _ => true) none)

/-- BOOTSTAT (19 R396). -/
def HostIf.bootstat (h : HostIf) : W64 :=
  BitVec.ofNat 64 ((match h.boot with | .waiting => 0 | .verifying => 1 | .initialising => 2 | .ready => 3) + 256 * h.err.toNat)

/-- The trace window: a base die or I/O die after another, the oldest header first, 0 past the last (19 R396; log entry 30). -/
def MemSys.traceWord (m : MemSys) (off : Nat) : W64 := ((m.trace.filter (fun x => x.1 == off / 32768)).map Prod.snd).getD (off % 32768 / 8) 0

/-- What a read of the register at an offset returns (19 R396, R397, R398; 18 R375): before the device is ready 0 but for BOOTSTAT; a register that the table
does not let the host read gives a free value. Only the reads of TLBSTAT and EVTPOP change anything, and these have instructions of their own. -/
def State.registerAt (s : State) (off : Nat) : W64 :=
  if off = 0 then s.h.bootstat
  else if !s.h.live then 0
  else if off = 0x110 then s.h.fbHead.setWidth 64
  else if off = 0x208 then BitVec.ofNat 64 (s.tlbBusy.toNat + 2 * s.h.tlbLost.toNat)
  else if off = 0x300 then (if s.h.evtOver then 0xFF else s.h.events.headD 0)
  else if 0x400 ≤ off ∧ off < 0x480 then s.h.mbox.get ((off - 0x400) / 8)
  else if off = 0x480 then BitVec.ofNat 64 s.h.door.toNat
  else if off = 0x518 then s.h.clHead.setWidth 64
  else if 0x600 ≤ off ∧ off < 0x690 then s.h.ecc.get ((off - 0x600) / 8)
  else if 0x10000 ≤ off ∧ off < 0x11000 ∧ off % 64 = 24 then (s.queue ((off - 0x10000) / 64)).head.setWidth 64
  else if 0x20000 ≤ off ∧ off < 0x20000 + 18 * 32768 then s.m.traceWord (off - 0x20000)
  else Config.unstated s.tick ++ Config.unstated (s.tick + 1)

/-- TLBSTAT_READ (19 R396): BUSY and LOST; the read clears LOST. -/
def execTlbstatRead (s : State) : Host.Outcome State Fault Refusal :=
  .next { s with h := { s.h with readValue := s.registerAt 0x208, tlbLost := if s.h.live then false else s.h.tlbLost } }

/-- EVTPOP_READ (19 R396, R398): after an overflow TYPE 0xFF once, else the oldest event, 0 for none. -/
def execEvtpopRead (s : State) : Host.Outcome State Fault Refusal :=
  let h := { s.h with readValue := s.registerAt 0x300 }
  if !s.h.live then .next { s with h := h }
  else if s.h.evtOver then .next { s with h := { h with evtOver := false } }
  else .next { s with h := { h with events := s.h.events.drop 1 } }

/-- The base of a ring: HOST and bits [51:12] (18 R375). -/
def baseMask : W64 := 0x800FFFFFFFFFF000

/-- REGISTER_WRITE (19 R396): the staging window while an image is awaited, and, once the device is ready, the bases (records that waited for a placeable
buffer are posted then, 17 R360), the mailbox words and MBDOOR; other registers of the window have events of their own or ignore a write. -/
def execRegisterWrite (off : Nat) (v : W64) (s : State) : Host.Outcome State Fault Refusal :=
  if 0x1000000 ≤ off ∧ off < 0x5000000 then
    if s.h.power = true ∧ s.h.boot = .waiting then
      .next { s with h := { s.h with staging := s.h.staging.setMany (runOf (off - 0x1000000) (bytesOf 8 v.toNat)) } }
    else .next s
  else if !s.h.live then .next s
  else if off = 0x100 then
    let s1 := { s with h := { s.h with fbBase := v &&& 0xFFFFFFFFFF000 } }
    .next (s1.postAll s1.h.records.length)
  else if off = 0x500 then .next { s with h := { s.h with clBase := v &&& baseMask } }
  else if 0x400 ≤ off ∧ off < 0x480 then .next { s with h := { s.h with mbox := s.h.mbox.set ((off - 0x400) / 8) v } }
  else if off = 0x480 then .next { s with h := { s.h with door := s.h.door || v.getLsbD 0 } }
  else if 0x10000 ≤ off ∧ off < 0x11000 ∧ off % 64 = 0 then
    let q := (off - 0x10000) / 64
    .next (s.setQueue { s.queue q with base := v &&& baseMask })
  else .next s

/-! The mailbox (19 R399). -/

/-- Argument word i of the command, and the command that MBDOOR has submitted. -/
def State.arg (s : State) (i : Nat) : Nat := (s.h.mbox.get i).toNat
def State.submitted (s : State) : Option Nat := if s.h.live && s.h.door then some (s.arg 0 % 256) else none

/-- The end of a command: RESULT, outputs from word 1, MBDOOR clear, vector 66. -/
def State.mbDone (s : State) (result : Nat) (out : List W64) : State :=
  let m := (s.h.mbox.setMany (runOf 1 out)).set 0 (setField (s.h.mbox.get 0) 15 8 result)
  ({ s with h := { s.h with mbox := m, door := false } }).msi 66

/-- Running the command of a code. -/
def State.command (s : State) (code : Nat) (run : State → State) : Host.Outcome State Fault Refusal :=
  .next (if s.submitted = some code then run s else s)

/-- Nothing is left of the graphs that a test accepts, by context and entry; the entries a second test accepts go from the table (10 R231; 19 R399). -/
def Graphs.forget (g : Graphs) (mine : Nat → Nat → Bool) (drop : GEntry → Bool) : Graphs :=
  { g with
    entries := g.entries.filter (fun e => !drop e), lists := g.lists.filter (fun l => !mine l.ctx l.idx), shares := g.shares.filter (fun l => !mine l.ctx l.idx)
    credits := g.credits.filter (fun l => !mine l.ctx l.idx), msgs := g.msgs.filter (fun l => !mine l.ctx l.idx)
    mirrors := g.mirrors.filter (fun l => !mine l.ctx l.idx), deaths := g.deaths.filter (fun l => !mine l.ctx l.idx) }

/-- CONTEXT_CREATE: every entry of its graph table has generation 0 and no graph. -/
def execContextCreate (s : State) : Host.Outcome State Fault Refusal :=
  s.command 1 (fun s =>
    let n := s.arg 1
    if n = 0 ∨ 255 < n then s.mbDone 1 []
    else if (s.m.context n).isSome then s.mbDone 2 []
    else
      let x : Context := ⟨n, s.arg 2, s.fresh⟩
      let s1 : State :=
        { s with
          fresh := s.fresh + 1, m := { s.m with contexts := s.m.contexts ++ [x] }
          g := s.g.forget (fun c _ => c == n) (fun e => e.ctx == n) }
      s1.mbDone 0 [])

/-- Destroying key slots (15 R343): they close, and once the accesses translated before are applied the command ends. -/
def State.destroyKeys (s : State) (mine : KeySlot → Bool) (end_ : State → State) : State :=
  match s.m.keys.filter (fun k => mine k && k.loaded) with
  | [] => end_ s
  | k :: ks =>
    let closed := (k :: ks).foldl (fun acc x => if x.closing.isSome then acc else
      { acc with m := acc.m.closeKey x.slot acc.fresh, fresh := acc.fresh + 1 }) s
    let now := (k :: ks).map (fun x => ((closed.m.keyOf x.slot).bind (·.closing)).getD 0)
    if now.any closed.inFlight then closed else end_ (closed.updM (fun m => now.foldl (fun acc n => acc.finishKey closed.time n) m))

/-- CONTEXT_DESTROY: refused while a task of the context is live; its graphs go with it. -/
def execContextDestroy (s : State) : Host.Outcome State Fault Refusal :=
  s.command 2 (fun s =>
    let n := s.arg 1
    if n = 0 ∨ (s.m.context n).isNone = true then s.mbDone 1 []
    else if s.t.tasks.any (fun k => k.ctx == n) then s.mbDone 2 []
    else
      s.destroyKeys (fun k => k.ctx == n) (fun s =>
        let s0 := { s with g := s.g.forget (fun c _ => c == n) (fun e => e.ctx == n) }
        let s1 := s0.invalidate (fun e => e.ctx == n) (some n)
        (s1.updM (fun m => { m with contexts := m.contexts.filter (fun c => c.num != n) })).mbDone 0 []))

/-- The lowest entry of a context's graph table that is free and not retired, with its last generation (10 R231). -/
def Graphs.freeEntry (g : Graphs) (ctx : Nat) : Option (Nat × Nat) :=
  let gen (i : Nat) : Nat := ((g.entries.find? (fun e => e.ctx == ctx && e.idx == i)).map (·.gen)).getD 0
  ((List.range 4096).find? (fun i => (g.entry ctx i).isNone && gen i < 2 ^ 32 - 1)).map (fun i => (i, gen i))

/-- GRAPH_CREATE (10 R231, R423). -/
def execGraphCreate (s : State) : Host.Outcome State Fault Refusal :=
  s.command 3 (fun s =>
    let ctx := s.arg 1
    let nv := s.arg 2
    let base := s.arg 3
    let len := s.arg 4
    if (s.m.context ctx).isNone || nv == 0 || 2 ^ 32 ≤ nv || base % 65536 != 0 || len % 65536 != 0 || len == 0 || 768 * 2 ^ 30 < base + len then s.mbDone 1 []
    else
      match s.g.freeEntry ctx with
      | none => s.mbDone 3 []
      | some (i, gen) =>
        let e : GEntry := { ctx := ctx, idx := i, used := true, gen := gen + 1, nv := nv, pool := base, poolLen := len }
        let g1 := { s.g with
          entries := putBy (fun x => x.ctx == ctx && x.idx == i) e s.g.entries
          shares := s.g.shares ++ (List.range 16).map (fun k => (⟨ctx, i, k, len / 16 / 512, 0⟩ : Share)) }
        ({ s with g := g1 }).mbDone 0 [BitVec.ofNat 64 ((gen + 1) * 2 ^ 32 + i)])

/-- GRAPH_DESTROY: refused while a cursor on the graph is open; it waits for operations on their way. -/
def execGraphDestroy (s : State) : Host.Outcome State Fault Refusal :=
  s.command 4 (fun s =>
    let ctx := s.arg 1
    match s.graphOf ctx (BitVec.ofNat 64 (s.arg 2)) with
    | none => s.mbDone 1 []
    | some e =>
      let mine (c i : Nat) : Bool := c == ctx && i == e.idx
      if s.g.lists.any (fun l => mine l.ctx l.idx && l.opens != 0) then s.mbDone 2 []
      else if s.g.msgs.any (fun q => mine q.ctx q.idx) || s.g.mirrors.any (fun q => mine q.ctx q.idx) || s.g.deaths.any (fun q => mine q.ctx q.idx) then s
      else
        let g := s.g.forget mine (fun _ => false)
        ({ s with g := { g with entries := putBy (fun x => mine x.ctx x.idx) { e with used := false } g.entries } }).mbDone 0 [])

/-- KEY_SESSION (19 R401): a point that is refused leaves no session. -/
def execKeySession (s : State) : Host.Outcome State Fault Refusal :=
  s.command 5 (fun s =>
    let k := sessionKey ((List.range 8).flatMap (fun i => bytesOf 8 (s.arg (1 + i))))
    ({ s with h := { s.h with session := k } }).mbDone (if k.isSome then 0 else 1) [])

/-- KEY_LOAD: RESULT carries the status of KEYSET (15 R342); the slot belongs to context 0 (log entry 83). -/
def execKeyLoad (s : State) : Host.Outcome State Fault Refusal :=
  s.command 6 (fun s =>
    let k := s.arg 1
    if s.m.bareHeld (s.arg 2) 96 then s
    else match s.m.bareRead (s.arg 2) 96 with
    | none => s.mbDone 1 []
    | some blob =>
      if k = 0 ∨ 255 < k ∨ s.arg 2 % 64 ≠ 0 then s.mbDone 1 []
      else let r := s.m.keySet s.h.session k 0 blob; ({ s with m := r.1 }).mbDone r.2 [])

/-- KEY_DESTROY (15 R343). -/
def execKeyDestroy (s : State) : Host.Outcome State Fault Refusal :=
  s.command 7 (fun s =>
    let k := s.arg 1
    if k = 0 ∨ 255 < k then s.mbDone 1 [] else s.destroyKeys (fun x => x.slot == k) (fun s => s.mbDone 0 []))

/-- n bytes of a list, 0 past its end. -/
def padTo (n : Nat) (bs : List Byte) : List Byte := (bs ++ List.replicate n 0).take n

/-- ATTEST (19 R402). -/
def execAttest (s : State) : Host.Outcome State Fault Refusal :=
  s.command 8 (fun s =>
    let body := (List.range 4).flatMap (fun i => bytesOf 8 (s.arg (1 + i))) ++ sha256 s.h.image ++ padTo 144 identityBytes ++
      bytesOf 8 s.time ++ bytesOf 8 0
    match s.bareWrite (s.arg 5) (body ++ signReport body) with
    | none => s.mbDone 1 []
    | some s1 => s1.mbDone 0 [])

/-- Ports on the route to a device, and whether one of them is up. -/
def HostIf.route (h : HostIf) (dev : Nat) : BitVec 8 := h.routes.get dev
def HostIf.routed (h : HostIf) (dev : Nat) : Bool := h.route dev &&& h.portsUp != 0

/-- The peers after a change of routes or ports (19 R405): the time since when no route works is kept, a route that works ends it; a device that is cut off for
its TIME stays so. -/
def HostIf.repeer (h : HostIf) (own t : Nat) : HostIf :=
  let step (dev : Nat) : Option Peer :=
    let p := (h.peers.find? (fun p => p.dev == dev)).getD ⟨dev, none, false, false⟩
    if dev == own then none
    else if h.routed dev then (if p.skew then some { p with downSince := none } else none)
    else some { p with downSince := some (p.downSince.getD t) }
  { h with peers := (List.range 256).filterMap step }

/-- Another device as the device knows it: before the first change of routes or ports none has a route, since power-up (19 R399, R405). -/
def HostIf.peer (h : HostIf) (dev : Nat) : Peer := (h.peers.find? (fun p => p.dev == dev)).getD ⟨dev, if h.routed dev then none else some 0, false, false⟩

/-- DOMAIN: the device number and the route table. -/
def execDomainCmd (s : State) : Host.Outcome State Fault Refusal :=
  s.command 9 (fun s =>
    if s.m.bareHeld (s.arg 2) 256 then s
    else match s.m.bareRead (s.arg 2) 256 with
    | none => s.mbDone 1 []
    | some r =>
      if 255 < s.arg 1 then s.mbDone 1 []
      else
        let h := { s.h with routes := Store.setMany [] (runOf 0 r) }
        ({ s with m := { s.m with devId := BitVec.ofNat 8 (s.arg 1) }, h := h.repeer (s.arg 1) s.time }).mbDone 0 [])

/-- EXPORT: at most 64. -/
def execExportRange (s : State) : Host.Outcome State Fault Refusal :=
  s.command 10 (fun s =>
    let base := s.arg 1
    let len := s.arg 2
    if base % 65536 ≠ 0 ∨ len % 65536 ≠ 0 ∨ 255 < s.arg 3 then s.mbDone 1 []
    else if 64 ≤ s.m.exports.length then s.mbDone 3 []
    else
      let allow : BitVec 256 := s.h.mbox.get 7 ++ s.h.mbox.get 6 ++ s.h.mbox.get 5 ++ s.h.mbox.get 4
      let x : Export := ⟨base, len, s.arg 3, allow⟩
      ({ s with m := { s.m with exports := s.m.exports ++ [x] } } : State).mbDone 0 [])

/-- SET_LIMIT (18 R390): each pool's RATE; its level and CAP stay. -/
def execSetLimit (s : State) : Host.Outcome State Fault Refusal :=
  s.command 11 (fun s =>
    let w := s.arg 1
    if w < 600 ∨ 3600 < w then s.mbDone 1 []
    else
      let s1 : State :=
        { s with h := { s.h with limit := w }, e := { s.e with pools := s.e.pools.map (fun (p : Pool) => { p with rate := Config.lumenRate w p.die }) } }
      s1.mbDone 0 [])

/-- MAILBOX_UNKNOWN_COMMAND. -/
def execMailboxUnknownCommand (s : State) : Host.Outcome State Fault Refusal :=
  match s.submitted with
  | none => .next s
  | some c => .next (if 1 ≤ c ∧ c ≤ 11 then s else s.mbDone 4 [])

/-! Boot, power and resets. -/

/-- Everything is lost but the fused identity, and the Tchiel ports are as given; host memory is not the device's (00 R3; 19 R409). The counts of steps and numbers
are the model's own. -/
def State.lose (s : State) (power : Bool) (ports : BitVec 8) : State :=
  { State.reset with
    tick := s.tick, fresh := s.fresh, agenda := s.agenda
    m := { MemSys.reset with dram := s.m.dram.filter (fun p => hostBase ≤ p.1) }
    h := { HostIf.reset with power := power, portsUp := ports } }

/-- POWER_UP and POWER_OFF (00 R3; 19 R400): the links train at power-up and are lost at power-off. -/
def execPowerUp (s : State) : Host.Outcome State Fault Refusal := .next (if s.h.power then s else s.lose true HostIf.reset.portsUp)
def execPowerOff (s : State) : Host.Outcome State Fault Refusal := .next (s.lose false 0)

/-- The resets (19 R409): each acts as a power-off, but the links stay trained, and boot waits again. -/
def State.reboot (s : State) : State := if s.h.power then s.lose true s.h.portsUp else s
def execCxlReset (s : State) : Host.Outcome State Fault Refusal := .next s.reboot
def execFunctionLevelReset (s : State) : Host.Outcome State Fault Refusal := .next s.reboot
def execHotReset (s : State) : Host.Outcome State Fault Refusal := .next s.reboot
def execD3cold (s : State) : Host.Outcome State Fault Refusal := .next s.reboot

/-- A failure of boot (19 R400): ERR is set, the staging window cleared. -/
def State.bootFail (s : State) (err : Nat) : State := { s with h := { s.h with boot := .waiting, err := BitVec.ofNat 8 err, staging := [] } }

/-- BOOTGO (19 R396, R400). -/
def execBootgo (v : W64) (s : State) : Host.Outcome State Fault Refusal :=
  if s.h.power = false ∨ s.h.boot ≠ .waiting then .next s
  else if 2 ^ 26 < v.toNat then .next (s.bootFail 1)
  else .next { s with h := { s.h with boot := .verifying, err := 0, imageLen := v.toNat } }

/-- BOOT_VERIFY_COMPLETE (19 R400): an error, or the image starts. -/
def execBootVerifyComplete (s : State) : Host.Outcome State Fault Refusal :=
  if s.h.boot ≠ .verifying then .next s
  else
    let image := s.h.staging.bytes 0 s.h.imageLen
    let r := imageError image
    if r ≠ 0 then .next (s.bootFail r) else .next { s with h := { s.h with boot := .initialising, image := image } }

/-- FIRMWARE_INIT_COMPLETE (19 R400): key slot 0 is loaded, memory reads zero, the pools are full, and the error counts begin (19 R396). -/
def execFirmwareInitComplete (s : State) : Host.Outcome State Fault Refusal :=
  if s.h.boot ≠ .initialising then .next s
  else
    .next { s with
      m := { MemSys.reset with
        dram := s.m.dram.filter (fun p => hostBase ≤ p.1), keys := [⟨0, true, none, 0, 0, Config.slotZeroKeys, []⟩] }
      e := { s.e with
        pools := (List.range 4).map (fun d =>
          { die := d, level := (Config.lumenCap d : Int), rate := Config.lumenRate 3600 d, cap := Config.lumenCap d, last := s.time }) }
      h := { s.h with boot := .ready, ecc := [] } }

end Sys2Proof.Machine
end

