-- ==== Sys2Proof/Machine/Domain.lean ====
section
/-!
DEFINITION. What reaches the device from outside (07 R196; 19 R394, R403-R408): the host's CXL.mem accesses, requests of other devices, the links,
and the collective engine; and double errors (17 R365). Log entries 28, 40 and 41 say what the model does where these rules leave a choice.
-/
namespace Sys2Proof.Machine

/-! Bytes from outside. -/

/-- Applying bytes at their homes for a writer as far as the host or another device (07 R202: m = 80): the latest completion time. -/
def MemSys.putFar (m : MemSys) (t : Nat) (ws : List (Phys × Byte)) (host : Bool) : MemSys × Nat :=
  ((ws.map (fun w => lineOf w.1.loc)).dedup).foldl
    (fun acc line =>
      match ws.filter (fun w => lineOf w.1.loc == line) with
      | [] => acc
      | (p, b) :: r =>
        let d := gatherBytes 128 1024 (((p, b) :: r).map (fun w => (w.1.loc % 128, w.2)))
        let x := acc.1.applyWrite t line p.slice 0 p.key 0 d.1 d.2 0 4 none host
        (x.1, max acc.2 x.2))
    (m, 0)

/-- A home holds back writes to some places: an engine owns a line, a sequence in blocking mode uses it, or an earlier write waits (07 R214; 17 R370). -/
def State.heldBack (s : State) (ps : List Phys) : Bool := ps.any (fun p => s.holdsWrite (lineOf p.loc))

/-- A home cannot give the bytes at some places yet (07 R214; 17 R372). -/
def State.heldRead (s : State) (ps : List Phys) : Bool := ps.any (fun p => s.owned (lineOf p.loc) || s.m.byteHeld p.loc)

/-- Applying them, for running sequences too. -/
def State.putOutside (s : State) (ws : List (Phys × Byte)) (host : Bool := false) : State × Nat :=
  let r := s.m.putFar s.time ws host
  (({ s with m := r.1 }).pushSeqs (ws.map Prod.fst), r.2)

/-- HOST_CXL_MEM_WRITE (07 R196; 19 R394): under key slot 0; the scheduler notes the completion time (07 R220). -/
def execHostCxlMemWrite (pa : Nat) (data : List Byte) (s : State) : Host.Outcome State Fault Refusal :=
  match barePlaces pa data.length with
  | none => .next s
  | some ps =>
    if !s.h.live || s.heldBack ps then .next s
    else
      let r := s.putOutside (ps.zip data) true
      .next { r.1 with h := { r.1.h with hostWct := max r.1.h.hostWct r.2 } }

/-- The key slot under which the block of a byte was last written, 0 where none has written it (19 R394). -/
def MemSys.lastKey (m : MemSys) (loc : Nat) : Nat := ((m.wroteKey.find? (fun x => x.1 == blockOf loc)).map (·.2)).getD 0

/-- HOST_CXL_MEM_READ (19 R394): the data; poison with no plaintext where a byte is poisoned or its block was last written under another slot than 0, or
where the address holds nothing (17 R360). -/
def execHostCxlMemRead (pa len : Nat) (s : State) : Host.Outcome State Fault Refusal :=
  if !s.h.live then .next s
  else
    match barePlaces pa len with
    | none => .next { s with h := { s.h with readPoison := true, readData := [] } }
    | some ps =>
      if s.heldRead ps then .next s
      else
        let bad := ps.any (fun p => s.m.placePoison p || s.m.lastKey p.loc != 0)
        .next { s with h := { s.h with readPoison := bad, readData := if bad then [] else s.m.placeBytes ps } }

/-! Requests of other devices (19 R403, R404). -/

/-- The places of a range that a request names, inside an export (19 R403). -/
def State.exported (s : State) (r : DomReq) (len : Nat) : Option (List Phys) :=
  (List.range len).mapM (fun i => s.m.exported r.requester r.isch r.sel (r.pa + i))

/-- The answer to a request that is served: data and poison, and the completion time or lease end, 0 for none (19 R404). -/
def State.answer (s : State) (data : List Byte) (poison : Bool) (t : Nat := 0) : State :=
  { s with h := { s.h with readData := data, readPoison := poison, readValue := BitVec.ofNat 64 t, readRefused := false } }

/-- The answer to a request that is refused (19 R403). -/
def State.refuse (s : State) : State := { s with h := { s.h with readData := [], readPoison := false, readValue := 0, readRefused := true } }

/-- A lease of scope M on a line, with its end (07 R200, R201): recorded with the line or, where its set has no room, in the floor of its slice. -/
def MemSys.leaseFar (m : MemSys) (t : Nat) (p : Phys) : MemSys × Nat :=
  let x := m.l2Line (lineOf p.loc) p.slice 0 p.key 0
  let y : L2Line := { x with lambda := min 4096 (2 * x.lambda), leaseM := max x.leaseM (t + x.lambda) }
  let m1 := m.l2Room t (lineOf p.loc) p.slice
  (if m1.l2Fits (lineOf p.loc) p.slice then m1.l2Set y else m1.foldFloor t y, t + x.lambda)

/-- DOMAIN_REQUEST: an export that allows the requester serves it, any other is refused; a register write is checked by its capability. -/
def execDomainRequest (r : DomReq) (s : State) : Host.Outcome State Fault Refusal :=
  if !s.h.live then .next s
  else
    match r.kind with
    | .load len =>
      match s.exported r len with
      | none => .next s.refuse
      | some ps => .next (if s.heldRead ps then s else s.answer (s.m.placeBytes ps) (ps.any s.m.placePoison))
    | .lease =>
      match s.exported { r with pa := r.pa / 128 * 128 } 128 with
      | none => .next s.refuse
      | some [] => .next s.refuse
      | some (p :: ps) =>
        if s.heldRead (p :: ps) then .next s
        else
          let r := s.m.leaseFar s.time p
          .next (({ s with m := r.1 } : State).answer (s.m.placeBytes (p :: ps)) ((p :: ps).any s.m.placePoison) r.2)
    | .store data =>
      match s.exported r data.length with
      | none => .next s.refuse
      | some ps => .next (if s.heldBack ps then s else let r := s.putOutside (ps.zip data); r.1.answer [] false r.2)
    | .atomic opc fn wide num c e =>
      let n := if wide then 8 else 4
      match s.exported r n with
      | none => .next s.refuse
      | some ps =>
        let o : AtomOp := { lane := 0, off := 0, wide := wide, opc := opc, fn := fn, num := num, c := c, e := e, dest := none, va := 0 }
        if s.heldBack ps || s.heldRead ps || r.pa % n != 0 then .next s
        else if ps.any s.m.placePoison then .next (s.answer [] true)
        else
          let old := s.m.placeBytes ps
          let x := match o.new (numOf old) with | some x => s.putOutside (ps.zip (bytesOf n x)) | none => (s, 0)
          .next (x.1.answer old false x.2)
    | .rput fields scalar reg lanes vals sval =>
      let p : Arriving := ⟨if scalar then 640 + reg else reg, lanes, vals, sval⟩
      let t := s.putAt (capRef fields) fields p
      .next (t.1.answer [] false t.2.1)
    | .rcall ctx unit target codebase entry horizon warpcfg task cohort widx echoes vecs scals =>
      if (s.exported r 1).isNone then .next s.refuse
      else
        let c : Call :=
          { id := s.fresh, caller := WRef.none, src := r.requester, lost := false, offset := 0, op := 0, unit := unit, dev := s.m.devId.toNat
            st := .asking, target := target, entry := entry, vecs := vecs, scals := scals, echoReg := 0, echoCnt := echoes, nf := none
            horizon := horizon, timeout := none, codebase := codebase, ctx := ctx, warpcfg := warpcfg, taskId := task, cohortId := cohort
            widx := widx, slot := 0, status := 0, code := 0, roffset := 0, echo := [], gone := [] }
        .next { s with fresh := s.fresh + 1, f := { s.f with calls := s.f.calls ++ [c] } }

/-! Links (19 R398, R404, R405). -/

/-- A peer becomes unreachable, for its routes or for its TIME: LINK_DOWN for the ports on its route that are down, or for all where none is; calls to it are
lost (19 R405; log entry 77). -/
def State.cutOff (s : State) (dev : Nat) (skew : Bool) : State :=
  let down := (bitList (s.h.route dev)).filter (fun i => !s.h.portsUp.getLsbD i)
  let ports := if down = [] then bitList (s.h.route dev) else down
  let old := s.h.peer dev
  let p : Peer := { old with unreachable := true, skew := old.skew || skew }
  let s1 := { s with h := { s.h with peers := putBy (fun x => x.dev == dev) p s.h.peers } }
  let s2 := ports.foldl (fun acc i => acc.event 3 i) s1
  (s2.f.calls.filter (fun c => c.dev == dev && !c.asks && !c.lost)).foldl (fun acc c => acc.loseCall c) s2

/-- TIME_SYNC (19 R404, R405): TIME stays as it is while the peer's is within 40 ns; beyond that the peer is unreachable. -/
def execTimeSync (peer offset : Nat) (s : State) : Host.Outcome State Fault Refusal :=
  if !s.h.live || offset ≤ 40 || s.unreachable peer || peer == s.m.devId.toNat then .next s else .next (s.cutOff peer true)

/-- PEER_UNREACHABLE (19 R405): no route has worked for 100 microseconds. -/
def execPeerUnreachable (peer : Nat) (s : State) : Host.Outcome State Fault Refusal :=
  let p := s.h.peer peer
  if !s.h.live || 256 ≤ peer || peer == s.m.devId.toNat || p.unreachable || !(p.downSince.any (fun t => t + 100000 ≤ s.time)) then .next s
  else .next (s.cutOff peer false)

/-- LINK_UP and PORT_LINK_LOSS (19 R398, R405): a port that was up and loses its link has its LINK_DOWN (log entry 77). -/
def execLinkUp (port : Nat) (s : State) : Host.Outcome State Fault Refusal :=
  if !s.h.power || 8 ≤ port || s.h.portsUp.getLsbD port then .next s
  else
    let h := { s.h with portsUp := s.h.portsUp ||| BitVec.ofNat 8 (2 ^ port) }
    .next (({ s with h := h.repeer s.m.devId.toNat s.time }).event 4 port)
def execPortLinkLoss (port : Nat) (s : State) : Host.Outcome State Fault Refusal :=
  if !s.h.power || 8 ≤ port then .next s
  else
    let h := { s.h with portsUp := s.h.portsUp &&& ~~~(BitVec.ofNat 8 (2 ^ port)) }
    let s1 := { s with h := h.repeer s.m.devId.toNat s.time }
    .next (if s.h.portsUp.getLsbD port then s1.event 3 port else s1)

/-! Collectives (19 R406-R408). -/

/-- CLTAIL_WRITE (19 R396). -/
def execCltailWrite (v : W64) (s : State) : Host.Outcome State Fault Refusal :=
  if !s.h.live then .next s
  else let r := doorbell s.h.clCfg s.h.clTail s.h.clHead (v.setWidth 32); .next { s with h := { s.h with clTail := r.1, clCfg := r.2 } }

/-- Bits hi down to lo of a descriptor. -/
def descBits (bs : List Byte) (hi lo : Nat) : Nat := numAt bs 0 64 / 2 ^ lo % 2 ^ (hi + 1 - lo)

/-- The addresses of the contributions, where the list keeps the map (19 R406). -/
def State.contribAddrs (s : State) (list n : Nat) : Option (List Nat) :=
  if list % 16 ≠ 0 ∨ 2 ^ 52 ≤ list then none
  else
    (s.m.bareRead list (16 * n)).bind (fun bs =>
      let as := (List.range n).map (fun j => numAt bs (16 * j) 8)
      if as.all (fun a => a % 512 == 0 && a < 2 ^ 60) && (List.range n).all (fun j => numAt bs (16 * j + 8) 8 == 0) then some as else none)

/-- The fields of a descriptor keep the map. -/
def descOk (bs : List Byte) : Bool :=
  descBits bs 511 448 == 0 && descBits bs 383 352 == 0 && descBits bs 319 257 == 0 && descBits bs 195 192 == 0 && descBits bs 72 64 == 0 &&
    descBits bs 127 124 == 0 && descBits bs 63 32 == 0 && descBits bs 31 16 != 0 && descBits bs 15 8 != 0 && descBits bs 7 4 ≤ 3 && descBits bs 3 0 ≤ 2

/-- The run of a descriptor (19 R406): one that breaks the map has status 3 at once. -/
def State.collOf (s : State) (bs : List Byte) : CollRun :=
  let addrs := s.contribAddrs (descBits bs 447 384) (descBits bs 15 8 + 1)
  { id := s.fresh, addrs := addrs.getD [], npart := descBits bs 15 8, op := descBits bs 3 0, type := descBits bs 7 4, count := descBits bs 31 16
    dst := descBits bs 127 64, cpl := descBits bs 255 192
    task := if descBits bs 256 256 = 1 then some (BitVec.ofNat 32 (descBits bs 351 320)) else none
    timeout := if descBits bs 191 128 = 0 then 1000000 else descBits bs 191 128, start := s.time, contribs := []
    status := if descOk bs && addrs.isSome then none else some 3, wct := 0 }

/-- Element types: bytes, identity and one application of the operation (19 R407). -/
def collBytes (type : Nat) : Nat := if type = 1 then 2 else 4
def collFlt (t : Flt) (op a b : Nat) : Nat :=
  let x := t.read FpMode.plain a
  let y := t.read FpMode.plain b
  if op = 0 then (addF t FpMode.plain x y).1 else (minMaxF t FpMode.plain (op == 2) false x y).1
def collOp (type op a b : Nat) : Nat :=
  match type with
  | 0 => collFlt f32 op a b
  | 1 => collFlt bf16 op a b
  | 2 => (redOp op FpMode.plain (BitVec.ofNat 32 a, 0) (BitVec.ofNat 32 b, 0)).1.toNat
  | _ => (redOp (if op = 0 then 0 else op + 2) FpMode.plain (BitVec.ofNat 32 a, 0) (BitVec.ofNat 32 b, 0)).1.toNat
def collId (type op : Nat) : Nat :=
  let flt (t : Flt) : Nat := if op = 0 then t.signBit else t.signed (op == 2) t.infCode
  match type with
  | 0 => flt f32
  | 1 => flt bf16
  | 2 => (redId op).toNat
  | _ => (redId (if op = 0 then 0 else op + 2)).toNat

/-- The bytes of the result (19 R407). -/
def CollRun.result (c : CollRun) : List Byte :=
  let n := collBytes c.type
  let depth := Nat.log2 c.npart + 1
  let at_ (j i : Nat) : Nat := numAt ((c.contribs.find? (fun x => x.1 == j)).elim [] (fun x => x.2.1)) (n * i) n
  (List.range c.count).flatMap (fun i =>
    let xs := (List.range (2 ^ depth)).map (fun j => if j ≤ c.npart then at_ j i else collId c.type c.op)
    bytesOf n ((tree (collOp c.type c.op) depth xs).headD 0))

/-- The size of the result, and whether a block of it draws on poison. -/
def CollRun.size (c : CollRun) : Nat := c.count * collBytes c.type
def CollRun.blocks (c : CollRun) : Nat := (c.size + 511) / 512
def CollRun.bad (c : CollRun) (b : Nat) : Bool := c.contribs.any (fun x => x.2.2.getD b false)

/-- The key slot of the export that covers an address of this device, slot 0 where none does (17 R360). -/
def MemSys.coverKey (m : MemSys) (pa : Nat) : Nat := ((m.exports.find? (fun x => x.base ≤ pa && pa < x.base + x.len)).map (·.key)).getD 0

/-- Places of a range of domain addresses on this device, or of another device's memory (17 R360). -/
def State.domainPlaces (s : State) (a n : Nat) : Option (List Phys) :=
  let dev := a / 2 ^ 52
  if dev = s.m.devId.toNat then
    (List.range n).mapM (fun i => (barePhys (a % 2 ^ 52 + i)).map (fun p => { p with key := s.m.coverKey (a % 2 ^ 52 + i) }))
  else
    some ((List.range n).map (fun i =>
      { loc := peerBase + dev * 2 ^ 52 + a % 2 ^ 52 + i, pa := a % 2 ^ 52 + i, slice := 0, key := 0, isch := 0, sel := 0, tgt := 2, l1 := false }))

/-- One place in each line of the result, which the engine owns (07 R214). -/
def State.collOwns (s : State) (c : CollRun) : List Phys := oneALine ((s.domainPlaces c.dst c.size).getD [])

/-- COLLECTIVE_START (19 R406; 07 R214): the next descriptor of the ring; the engine takes ownership of the lines of its result. -/
def execCollectiveStart (s : State) : Host.Outcome State Fault Refusal :=
  if !s.h.live || s.e.coll.isSome || !s.h.clCfg.getLsbD 16 || s.h.clTail == s.h.clHead then .next s
  else
    match s.ringEntry s.h.clBase s.h.clCfg s.h.clHead with
    | none => .next s
    | some bs =>
      let c := s.collOf bs
      let own := if c.status.isSome then [] else s.collOwns c
      if s.m.bareHeld (descBits bs 447 384) (16 * (descBits bs 15 8 + 1)) || own.any (fun p => s.owned (lineOf p.loc)) then .next s
      else
        let s1 := own.foldl (fun (acc : State) p => acc.takeLine c.id p 0) { s with fresh := s.fresh + 1 }
        .next { s1 with e := { s1.e with coll := some c }, h := { s1.h with clHead := s.h.clHead + 1 } }

/-- The end of a collective's work on its result: its status and completion time, and no line owned any more (07 R214; 19 R408). -/
def State.collDone (s : State) (c : CollRun) (status wct : Nat) : State :=
  let s1 := s.freeLines c.id ((s.collOwns c).map (fun p => lineOf p.loc)) [] 0 0
  { s1 with e := { s1.e with coll := some { c with status := some status, wct := wct } } }

/-- A contribution on this device is what its memory holds (17 R360). -/
def State.contribution (s : State) (c : CollRun) (j : Nat) (data : List Byte) (poison : List Bool) : Option (List Byte × List Bool) :=
  let a := c.addrs.getD j 0
  if a / 2 ^ 52 = s.m.devId.toNat then
    (s.domainPlaces a c.size).bind (fun ps =>
      if ps.any (fun p => s.m.byteHeld p.loc) then none
      else some (s.m.placeBytes ps, (List.range c.blocks).map (fun b => ((ps.drop (512 * b)).take 512).any s.m.placePoison)))
  else if s.unreachable (a / 2 ^ 52) then none
  else some (padTo c.size data, poison)

/-- Every contribution has arrived. -/
def CollRun.full (c : CollRun) : Bool := c.npart < c.contribs.length

/-- Writing the result (19 R408): a block that draws on poison is written poisoned, every other is exact. Another device that refuses or cannot be reached keeps its
bytes. -/
def State.collWrite (s : State) (c : CollRun) : State :=
  let bad := (List.range c.blocks).any c.bad
  let status := if bad then 1 else 0
  match s.domainPlaces c.dst c.size with
  | none => s.collDone c status 0
  | some ps =>
    let far : Bool := ps.any (fun p => (s.peerErr p.loc).isSome)
    if far then s.collDone c status 0
    else
      let cells := runOf 0 (ps.zip c.result)
      let good := (cells.filter (fun x => !c.bad (x.1 / 512))).map Prod.snd
      let spoiled := oneALine ((cells.filter (fun x => c.bad (x.1 / 512))).map (fun x => x.2.1))
      let r := s.m.putBytes s.time 0 0 (some c.id) good
      let r2 := ({ s with m := r.1 } : State).poisonPlaces 0 spoiled r.2
      (r2.1.pushSeqs ps).collDone c status r2.2

/-- The result waits while the homes hold writes to its blocks (17 R370). -/
def State.collHeld (s : State) (c : CollRun) : Bool := ((s.domainPlaces c.dst c.size).getD []).any (fun p => s.seqBlocks (lineOf p.loc))

/-- CONTRIBUTION_ARRIVAL (19 R408): with the last one the result is written. -/
def execContributionArrival (j : Nat) (data : List Byte) (poison : List Bool) (s : State) : Host.Outcome State Fault Refusal :=
  match s.e.coll with
  | none => .next s
  | some c =>
    if c.status.isSome || c.npart < j || c.contribs.any (fun x => x.1 == j) || c.start + c.timeout ≤ s.time then .next s
    else
      match s.contribution c j data poison with
      | none => .next s
      | some x =>
        let c1 := { c with contribs := c.contribs ++ [(j, x.1, x.2)] }
        if c1.full && !s.collHeld c then .next (s.collWrite c1) else .next { s with e := { s.e with coll := some c1 } }

/-- COLLECTIVE_TIMEOUT (19 R408): status 2 where a contribution has not come, the destination as it was. -/
def execCollectiveTimeout (s : State) : Host.Outcome State Fault Refusal :=
  match s.e.coll with
  | none => .next s
  | some c => if c.status.isSome || c.full || s.time < c.start + c.timeout then .next s else .next (s.collDone c 2 0)

/-- COLLECTIVE_COMPLETION (19 R406, R408): the record, after it vector 67, and on status 0 or 1 the task's decrement; first a result that had to wait is written.
A completion address that is no multiple of 16 gets no record (log entry 81). -/
def execCollectiveCompletion (s : State) : Host.Outcome State Fault Refusal :=
  match s.e.coll with
  | none => .next s
  | some c =>
    match c.status with
    | none => .next (if c.full && !s.collHeld c then s.collWrite c else s)
    | some st =>
      if s.time < c.wct then .next s
      else
        let s1 := if c.cpl % 16 = 0 then (s.bareWrite c.cpl (bytesOf 8 (st + c.npart * 256) ++ bytesOf 8 s.time)).getD s else s
        let s2 := ({ s1 with e := { s1.e with coll := none } } : State).afterWrite ⟨s.fresh, some 67, none⟩
        match c.task with
        | none => .next s2
        | some id =>
          if 1 < st then .next s2
          else
            match s2.t.tasks.find? (fun k => k.id == id) with
            | none => .next s2
            | some k => .next (s2.taskEvent k.ctx id (.decrement none))

/-! Double errors (17 R365). -/

/-- Counting an uncorrected error of a unit, with its event (19 R396, R398). -/
def State.countError (s : State) (unit : Nat) : State :=
  ({ s with h := { s.h with ecc := s.h.ecc.set unit (s.h.ecc.get unit + 0x100000000) } }).event 5 unit

/-- Counting an error of a structure that belongs to no stack and no I/O die, for a unit that is free (log entry 78). -/
def State.countAny (s : State) : State := s.countError (Config.errorUnit s.tick % 18)

/-- Counting an error of a line, for the unit whose memory it caches. -/
def State.countLine (s : State) (line : Nat) : State := if line * 128 < hostBase then s.countError (unitOf (line * 128)) else s.countAny

/-- A register of a warp is marked with POISON. -/
def Warp.poisonReg (w : Warp) (code : Nat) : Warp := { w with marks := w.marks ++ [{ reg := code, lanes := BitVec.allOnes 32, info := { code := 0x0A } }] }

/-- The running tasks of a context end as for a fatal POISON. -/
def State.tagError (s : State) (ctx : Nat) : State :=
  (s.t.tasks.filter (fun k => k.ctx == ctx && k.st == .running)).foldl
    (fun acc k =>
      match acc.allWarps.find? (fun w => w.ctx == ctx && w.taskId == k.id) with
      | some w => acc.fatal w { code := 0x0A }
      | none => acc.endTask ctx k.id 1) s

/-- A double error in what a resident warp holds. -/
def State.warpError (s : State) (i : WarpId) (has : Warp → Bool) (g : Warp → Warp) : State :=
  if (s.findWarp i).any has then (s.updWarp i g).countAny else s

/-- DOUBLE_ERROR, and an uncorrectable block of DRAM (17 R363) or chunk of a list (10 R233, R238), which are found like one: each is counted. -/
def execDoubleError (e : ErrSite) (s : State) : Host.Outcome State Fault Refusal :=
  match e with
  | .vector i r => .next (s.warpError i (fun w => r < w.vcount) (fun w => w.poisonReg r))
  | .scalar i r => .next (s.warpError i (fun _ => r < 64) (fun w => w.poisonReg (640 + r)))
  | .accumulator i t row =>
    .next (s.warpError i (fun w => t < w.tiles && row < 64)
      (fun w => { w with accPoison := w.accPoison.set t (w.accPoison.get t ||| BitVec.ofNat 64 (2 ^ row)) }))
  | .bankWord cl bank word =>
    .next (if 16 ≤ bank ∨ 8192 ≤ word ∨ s.m.bankMode.get (cl * 16 + bank) = 0 then s
      else (s.updM (fun m => { m with bankPoison := m.bankPoison.set ((cl * 16 + bank) * 8192 + word) 1 })).countAny)
  | .l1Data cl line =>
    match s.m.l1Find cl line with
    | none => .next s
    | some x => .next ((s.updM (fun m => m.l1Set { x with poison := x.valid, cover := none })).countLine line)
  | .l2Data line =>
    match s.m.l2Find line with
    | none => .next s
    | some x => .next ((s.updM (fun m => m.l2Set { x with poison := x.valid })).countLine line)
  | .tlb core page =>
    let hit (t : TlbEntry) : Bool := t.core == core && t.base == page
    .next (if s.m.tlb.any hit then (s.updM (fun m => m.dropTlb hit)).countAny else s)
  | .l1Tag cl line =>
    match s.m.l1Find cl line with
    | none => .next s
    | some x =>
      let s1 := (s.updM (fun m => m.l1Drop cl line)).countLine line
      .next (if x.dirty = 0 then s1 else s1.tagError x.ctx)
  | .l2Tag line =>
    match s.m.l2Find line with
    | none => .next s
    | some x =>
      let lose (m : MemSys) : MemSys :=
        if x.owner.isSome then m.l2Set { x with valid := 0, dirty := 0, poison := 0 } else m.forgetL2 s.time (fun y => y.line == line)
      let s1 := (s.updM lose).countLine line
      .next (if x.dirty = 0 then s1 else s1.tagError x.ctx)
  | .block b =>
    .next (if hostBase ≤ b * 512 then s else (s.updM (fun m => m.setBlk { m.blk b with poison := true })).countLine (4 * b))
  | .chunk ctx idx dir vertex =>
    match s.g.entry ctx idx with
    | none => .next s
    | some e => .next ((s.setList { s.g.list ctx idx dir vertex with bad := true }).countError (e.home vertex))

end Sys2Proof.Machine
end

