-- ==== Sys2Proof/Machine/Exit.lean ====
section
/-!
DEFINITION. EXIT (01 R43), the collectives that an exit completes (01 R25), and the exit of a warp (01 R20, R43; 14 R310).
-/
namespace Sys2Proof.Machine

/-- The execution of a collective instruction for the signers of register k, where the instruction names k. -/
def State.collectiveAt (s : State) (k : Nat) (i : Instr) : Option State :=
  match opEntry i, collectiveOf i, i with
  | some (ent, f), some j, .sign _ => if j = k then some (runCollective i f ent {} k signEff s s) else none
  | some (ent, f), some j, .mma _ => if j = k then some (runCollective i f ent { lat := .later } k (mmaEff f) s s) else none
  | some (ent, f), some j, .gopen _ => if j = k then some (runCollective i f ent { lat := .later } k (gopenEff f) s s) else none
  | _, _, _ => none

/-- Executing a complete collective: where its address no longer holds the collective, its completion is undone and the signers run on there. -/
def State.collect (s : State) (k : Nat) : State :=
  let undone := s.updW (fun w => { (w.putLanes (w.signed k) 0) with ksigned := w.ksigned.set k 0 })
  match s.fetch s.w (s.w.kaddr.get k) with
  | .fault _ _ _ _ => undone
  | .instr i => (s.collectiveAt k i).getD undone

/-- Executing a complete collective within the issue of an EXIT: where it is held, the EXIT has issued all the same, and the collective is tried
again at the warp's next issue. -/
def State.collectWithin (s : State) (k : Nat) : State :=
  let t := s.collect k
  if t.w.live && t.w.heldAt == s.tick then t.updW (fun w => { w with cycle := s.w.cycle, ahead := s.w.ahead, heldAt := s.w.heldAt }) else t

/-- Executing every complete collective of the focus warp, in the order of their numbers. -/
def State.collectAll (s : State) : State := (List.range 8).foldl (fun acc k => if acc.w.live && acc.w.collects k then acc.collectWithin k else acc) s

/-- Lanes that exit: they take no further part, and leave every convergence register (01 R43). -/
def Warp.exitLanes (w : Warp) (ls : Lanes) : Warp :=
  { (w.putLanes ls 3) with
    kdecl := (List.range 8).foldl (fun acc k => acc.set k (acc.get k &&& ~~~ls)) w.kdecl
    ksigned := (List.range 8).foldl (fun acc k => acc.set k (acc.get k &&& ~~~ls)) w.ksigned }

/-- Every lane has exited. -/
def Warp.allExited (w : Warp) : Bool := w.lanesIn 3 == BitVec.allOnes 32

/-- The focus warp exits (01 R43); a remote function that ends so sends an echo of status 2 (14 R310). -/
def State.endWarp (s : State) : State :=
  if s.w.onStackCore then s.endFunction 2 0 0 [] else s.warpExit s.w.ref

/-- What follows an EXIT: collectives that it completed, and the warp's exit. -/
def State.afterExit (before : Lanes) (s : State) : State :=
  if s.w.lanesIn 3 = before then s
  else
    let s1 := s.collectAll
    if s1.w.live && s1.w.allExited then s1.endWarp else s1

/-- EXIT (01 R43; 06 R180). -/
def execExit (f : Fields) (s : State) : Host.Outcome State Fault Refusal :=
  nextOf ((runWarp (.exit f) { deferAll := true } (fun c s => .ok { st := s.updW (fun w => w.exitLanes c.g), jumped := true }) s).afterExit
    (s.w.lanesIn 3))

end Sys2Proof.Machine
end

