-- ==== Sys2Proof/Machine/Special.lean ====
section
/-!
DEFINITION. The special functions (02 R68; 05 R153): a value close to the exact one, computed in fixed point with far more bits
than the bound needs and with a bound on its own error; the result is its rounding, or the code the device picks where that
meets the bound against the exact value (log entry 9).
-/
namespace Sys2Proof.Machine
open Sys2Proof

/-- Fraction bits of the fixed-point arithmetic below. -/
def fx : Nat := 192
/-- ln 2, 1 / ln 2 at fx fraction bits and pi at 320. -/
def ln2Fx : Nat := 0xb17217f7d1cf79abc9e3b39803f2f6af40f343267298b62d
def log2eFx : Nat := 0x171547652b82fe1777d0ffda0d23a7d11d6aef551bad2b4b1
def piFx : Nat := 0x3243f6a8885a308d313198a2e03707344a4093822299f31d0082efa98ec4e6c89452821e638d01377

/-- The integer square root, one result bit a step. -/
def isqrtFrom (n : Nat) : Nat → Nat → Nat
  | 0, r => r
  | b + 1, r => isqrtFrom n b (if (r + 2 ^ b) * (r + 2 ^ b) ≤ n then r + 2 ^ b else r)
def isqrt (n : Nat) : Nat := isqrtFrom n (Nat.log2 n / 2 + 1) 0

/-- A square root with a sticky bit: enough bits for one exact rounding in any format here (05 R153). -/
def sqrtVal (m : Nat) (e : Int) : Val :=
  let k : Nat := if e % 2 = 0 then 80 else 81
  let n := m * 2 ^ k
  let r := isqrt n
  .fin false (2 * r + (if r * r = n then 0 else 1)) ((e - k) / 2 - 1)

/-- 1 / sqrt(m * 2^e) with a sticky bit: the root of 2^k / m for a k of more than 300 bits. -/
def rsqVal (m : Nat) (e : Int) : Val :=
  let k : Nat := if e % 2 = 0 then 400 else 401
  let n := 2 ^ k / m
  let r := isqrt n
  .fin false (2 * r + (if r * r = n ∧ n * m = 2 ^ k then 0 else 1)) (-(e + k) / 2 - 1)

/-- A quotient with a sticky bit. -/
def quotVal (neg : Bool) (m : Nat) (e : Int) (n : Nat) (g : Int) : Val :=
  let k := 128 + Nat.log2 n
  .fin neg (2 * (m * 2 ^ k / n) + (if m * 2 ^ k % n = 0 then 0 else 1)) (e - g - k - 1)

/-- e^x for a fixed-point x in [0, 1): the sum of x^k / k!, n terms. -/
def expSum (x : Nat) : Nat → Nat → Nat → Nat → Nat
  | 0, _, _, acc => acc
  | n + 1, k, t, acc => let t1 := t * x / 2 ^ fx / k; expSum x n (k + 1) t1 (acc + t1)

/-- 2^f for a fixed-point fraction f. -/
def exp2Frac (f : Nat) : Nat := let x := f * ln2Fx / 2 ^ fx; expSum x 48 1 (2 ^ fx) (2 ^ fx)

/-- Splitting a fixed-point number into floor and fraction. -/
def splitFx (z : Int) : Int × Nat := (z / (2 ^ fx : Nat), (z % (2 ^ fx : Nat)).toNat)

/-- A finite value in fixed point, rounded down. -/
def toFx (neg : Bool) (m : Nat) (e : Int) : Int :=
  let k := e + fx
  let a : Nat := if 0 ≤ k then m * 2 ^ k.toNat else m / 2 ^ (min (-k).toNat (Nat.log2 m + 1))
  if neg then -(a : Int) else a

/-- 2^x: beyond 2^11 in magnitude the result is far outside every format. -/
def exp2Val (neg : Bool) (m : Nat) (e : Int) : Val :=
  if m = 0 then .fin false 1 0
  else if 11 < topExp m e then (if neg then .fin false 1 (-4096) else .fin false 1 4096)
  else
    let (n, f) := splitFx (toFx neg m e)
    .fin false (exp2Frac f) (n - fx)

/-- Bits of log2 of a fixed-point x in [1, 2), one squaring a bit. -/
def log2Bits : Nat → Nat → Nat → Nat
  | 0, _, acc => acc
  | n + 1, x, acc =>
    let y := x * x / 2 ^ 320
    if 2 ^ 321 ≤ y then log2Bits n (y / 2) (2 * acc + 1) else log2Bits n y (2 * acc)

/-- log2 of a positive value. -/
def log2Val (m : Nat) (e : Int) : Val :=
  let t := Nat.log2 m
  let f := log2Bits 120 (m * 2 ^ 320 / 2 ^ t) 0
  let z : Int := (e + t) * (2 ^ 120 : Nat) + f
  .fin (z < 0) z.natAbs (-120)

/-- x^k / k! with alternating signs, from a term t: the series of sine and cosine in fixed point of 160 bits. -/
def trigSum (x2 : Int) : Nat → Nat → Int → Int → Int
  | 0, _, _, acc => acc
  | n + 1, k, t, acc => let t1 := -(t * x2 / (2 ^ 160 : Nat)) / (((k + 1) * (k + 2) : Nat) : Int); trigSum x2 n (k + 2) t1 (acc + t1)

/-- x modulo 2 pi, brought to [-pi, pi], in fixed point of 160 bits (02 R68). -/
def reduce2Pi (neg : Bool) (m : Nat) (e : Int) : Int :=
  let k := e + 318
  let a : Nat := if 0 ≤ k then m * 2 ^ k.toNat else m / 2 ^ (min (-k).toNat (Nat.log2 m + 1))
  let twoPi := piFx / 2
  let r := a % twoPi
  let c : Int := if 2 * r ≤ twoPi then r else (r : Int) - twoPi
  (if neg then -c else c) / (2 ^ 158 : Nat)

def sinVal (neg : Bool) (m : Nat) (e : Int) : Val :=
  let x := reduce2Pi neg m e
  let s := trigSum (x * x / (2 ^ 160 : Nat)) 30 1 x x
  if topExp m e < -60 then .fin neg m e else .fin (s < 0) s.natAbs (-160)
def cosVal (m : Nat) (e : Int) : Val :=
  let x := reduce2Pi false m e
  let s := trigSum (x * x / (2 ^ 160 : Nat)) 30 0 (2 ^ 160 : Nat) (2 ^ 160 : Nat)
  .fin (s < 0) s.natAbs (-160)

/-- tanh x = (e^2x - 1) / (e^2x + 1). -/
def tanhVal (neg : Bool) (m : Nat) (e : Int) : Val :=
  if topExp m e < -40 then .fin neg m e
  else if 6 ≤ topExp m e then .fin neg (2 ^ 150 - 1) (-150)
  else
    let (n, f) := splitFx (toFx false (m * log2eFx) (e + 1 - fx))
    let p := exp2Frac f * 2 ^ n.toNat
    quotVal neg (p - 2 ^ fx) 0 (p + 2 ^ fx) 0

/-- The bound of a function: in units of the last place, or the absolute 2^-21 (02 R68). -/
inductive SpecBound where
  | ulps (n : Nat)
  | absolute
  deriving DecidableEq, Repr

/-- |x - y|, and the sum of two magnitudes. -/
def distance (x y : Val) : Val := ((sumVals .rne [x, y.negate]).1).abs
def plusMag (x y : Val) : Val := (sumVals .rne [x, y]).1

/-- The exponent of the least magnitude within err of a value. -/
def lowExp (y err : Val) : Int :=
  match plusMag y.abs err.negate with
  | .fin _ m e => topExp m e
  | .nan .. => 0
  | .inf _ => 0

/-- A code of the format meets the bound, with the least ulp there, against every value within err of y, the exact one among them. -/
def meets (t : Flt) (b : SpecBound) (y err : Val) (code : Nat) : Bool :=
  let v := t.val code
  if v.isNan || v.isInf then false
  else
    match y with
    | .fin _ 0 _ => false
    | .fin _ (_ + 1) _ =>
      let bound : Val :=
        match b with
        | .ulps n => .fin false n (max (lowExp y err) t.emin - t.mb)
        | .absolute => .fin false 1 (-21)
      !ltVals bound (plusMag (distance v y) err)
    | .nan .. => false
    | .inf _ => false

/-- How far a value may lie from the exact one: 2^-q of itself. -/
def within (q : Int) (y : Val) : Val :=
  match y with
  | .fin _ m e => .fin false 1 (topExp m e - q)
  | .nan .. => .fin false 0 0
  | .inf _ => .fin false 0 0

/-- The error of a value with a sticky bit: none where the bit is clear. -/
def stickyErr (y : Val) : Val :=
  match y with
  | .fin _ m e => .fin false (m % 2) e
  | .nan .. => .fin false 0 0
  | .inf _ => .fin false 0 0

/-- What a special function other than SQRT delivers for a finite nonzero exact value within err of y (05 R153): OF and infinity above
the format, UF where the value is tiny and NX never; flushed, a zero of its sign. Where no code is within the bound, the nearest (log entry 9). -/
def specResult (t : Flt) (md : FpMode) (b : SpecBound) (opc code : Nat) (y err : Val) : Nat × BitVec 5 :=
  match y with
  | .fin neg 0 _ => (t.signed neg 0, 0)
  | .fin neg (m + 1) e =>
    if ltVals (t.val t.maxCode) y.abs then (t.signed neg t.infCode, flOF)
    else
      let tiny := t.tiny .rne neg (m + 1) e
      if md.flushOut && tiny then (t.signed neg 0, flUF)
      else
        let pick := Config.specialPick opc t.mb code % (2 * t.signBit)
        let near := min (t.roundCode .rne neg (m + 1) e).1 t.maxCode
        (if meets t b y err pick then pick else t.signed neg near, if tiny then flUF else 0)
  | .nan .. => (t.nanCode, 0)
  | .inf n => (t.signed n t.infCode, 0)

/-- The special functions of 05 R153 with their special values, on a 16- or 32-bit code. -/
def specialFn (opc : Nat) (t : Flt) (md : FpMode) (code : Nat) : Nat × BitVec 5 :=
  let zero (n : Bool) : Nat × BitVec 5 := (t.signed n 0, 0)
  let inf (n : Bool) : Nat × BitVec 5 := (t.signed n t.infCode, 0)
  let nv : Nat × BitVec 5 := (t.nanCode, flNV)
  let dz (n : Bool) : Nat × BitVec 5 := (t.signed n t.infCode, flDZ)
  let one (n : Bool) : Nat × BitVec 5 := (t.signed n (t.bias * 2 ^ t.mb), 0)
  let go (n : Nat) (y err : Val) : Nat × BitVec 5 := specResult t md (.ulps n) opc code y err
  match t.read md code with
  | .nan _ sig => (t.nanCode, if sig then flNV else 0)
  | .inf n =>
    match opc with
    | 0x5B => zero n
    | 0x5C => if n then nv else zero false
    | 0x5D => if n then nv else inf false
    | 0x5E => if n then zero false else inf false
    | 0x5F => if n then nv else inf false
    | 0x60 | 0x61 => nv
    | _ => one n
  | .fin n 0 _ =>
    match opc with
    | 0x5B | 0x5C => dz n
    | 0x5D | 0x60 => zero n
    | 0x5E | 0x61 => one false
    | 0x5F => dz true
    | _ => zero n
  | .fin n (m + 1) e =>
    match opc with
    | 0x5B =>
      let y := quotVal n 1 0 (m + 1) e
      go 1 y (stickyErr y)
    | 0x5C =>
      if n then nv
      else
        let y := rsqVal (m + 1) e
        go 1 y (stickyErr y)
    | 0x5D => if n then nv else fround t md (sqrtVal (m + 1) e)
    | 0x5E =>
      let y := exp2Val n (m + 1) e
      go 2 y (if (splitFx (toFx n (m + 1) e)).2 = 0 then .fin false 0 0 else within 150 y)
    | 0x5F => if n then nv else if t.val code == .fin false (2 ^ t.mb) (-(t.mb : Int)) then zero false
      else go 2 (log2Val (m + 1) e) (.fin false (if 2 ^ Nat.log2 (m + 1) = m + 1 then 0 else 1) (-110))
    | 0x60 => specResult t md .absolute opc code (sinVal n (m + 1) e) (.fin false 1 (-120))
    | 0x61 => specResult t md .absolute opc code (cosVal (m + 1) e) (.fin false 1 (-120))
    | _ =>
      let y := tanhVal n (m + 1) e
      go 2 y (within 75 y)

end Sys2Proof.Machine
end

