-- ==== Sys2Proof/Machine/Float.lean ====
section
/-!
DEFINITION. The floating-point instructions, conversions, special functions, pairs, dot products and packing (05 R140-R158).
-/
namespace Sys2Proof.Machine

/-- The floating type codes F (05 R141). -/
def fltOf (sub : Nat) : Flt := match sub with | 0 => f32 | 1 => f16 | _ => bf16

/-- The bits of a code in a format. -/
def Flt.width (t : Flt) : Nat := 1 + t.eb + t.mb

/-- The mode an instruction runs under: the warp's FPMODE and the overrides of MOD[6:0] (05 R142). -/
def State.modeOf (s : State) (f : Fields) : FpMode := fpModeOf s.w.csr.fpmode (f.modBits 6 0)

/-- The flags that the executing lanes raise go to FPSTATUS where the instruction completes (05 R143). -/
def Eff.flags (e : Eff) (fl : BitVec 5) : Eff :=
  e.andThen (fun r => .ok { r with st := r.st.updW (fun w => w.orFlags fl) })

/-- The flags of a list of results. -/
def joinFlags (xs : List (Nat × Nat × BitVec 5)) : BitVec 5 := xs.foldl (fun acc x => acc ||| x.2.2) 0

/-- A floating result per executing lane, a code and its flags, written zero-extended (05 R141). -/
def Ctx.lanesF (c : Ctx) (s : State) (h : Nat → Nat × BitVec 5) : Eff :=
  let xs := (bitList c.g).map (fun l => (l, h l))
  (c.put32 false (xs.map (fun x => (x.1, BitVec.ofNat 32 x.2.1))) { st := s }).flags (joinFlags xs)

/-- An operand read in a format, flushed where the mode flushes inputs (05 R141, R143). -/
def State.readF (s : State) (t : Flt) (md : FpMode) (o : Opnd) (l : Nat) : Val := t.read md ((s.read32 o l).toNat % 2 ^ t.width)

/-- A floating operation of two operands. -/
def binF (f : Fields) (h : Flt → FpMode → Val → Val → Nat × BitVec 5) (c : Ctx) (s : State) : Eff :=
  let t := fltOf f.sub.toNat
  let md := s.modeOf f
  c.lanesF s (fun l => h t md (s.readF t md f.a l) (s.readF t md f.b l))

/-- FADD, FSUB, FMUL, FFMA (05 R145). -/
def execFadd (f : Fields) (s : State) : Host.Outcome State Fault Refusal := nextOf (runWarp (.fadd f) {} (binF f addF) s)
def execFsub (f : Fields) (s : State) : Host.Outcome State Fault Refusal :=
  nextOf (runWarp (.fsub f) {} (binF f (fun t md a b => addF t md a b.negate)) s)
def execFmul (f : Fields) (s : State) : Host.Outcome State Fault Refusal := nextOf (runWarp (.fmul f) {} (binF f mulF) s)
def execFfma (f : Fields) (s : State) : Host.Outcome State Fault Refusal :=
  nextOf (runWarp (.ffma f) {} (fun c s =>
    let t := fltOf f.sub.toNat
    let md := s.modeOf f
    c.lanesF s (fun l => fmaF t md (s.readF t md f.a l) (s.readF t md f.b l) (s.readF t md f.c l))) s)

/-- FMIN, FMAX (05 R146). -/
def execFmin (f : Fields) (s : State) : Host.Outcome State Fault Refusal :=
  nextOf (runWarp (.fmin f) {} (binF f (fun t md a b => minMaxF t md false (f.modBits 7 7 = 1) a b)) s)
def execFmax (f : Fields) (s : State) : Host.Outcome State Fault Refusal :=
  nextOf (runWarp (.fmax f) {} (binF f (fun t md a b => minMaxF t md true (f.modBits 7 7 = 1) a b)) s)

/-- The conditions of FCMP (05 R147). -/
def fcmpTest (cond : Nat) (a b : Val) : Bool :=
  let un := a.isNan || b.isNan
  match cond with
  | 0 => eqVals a b
  | 1 => !eqVals a b
  | 2 => !un && ltVals a b
  | 3 => !un && (ltVals a b || eqVals a b)
  | 4 => !un && ltVals b a
  | 5 => !un && (ltVals b a || eqVals a b)
  | 6 => un
  | _ => !un

/-- The flag of an FCMP: any NaN under LT, LE, GT and GE, a signalling NaN under the others (05 R147). -/
def fcmpFlag (cond : Nat) (a b : Val) : BitVec 5 :=
  let any := a.isNan || b.isNan
  let sig := a.isSig || b.isSig
  if sig || (any && 2 ≤ cond && cond ≤ 5) then flNV else 0

/-- FCMP (05 R147). -/
def execFcmp (f : Fields) (s : State) : Host.Outcome State Fault Refusal :=
  nextOf (runWarp (.fcmp f) {} (fun c s =>
    let t := fltOf f.sub.toNat
    let md := s.modeOf f
    let cond := f.modBits 9 7
    let a (l : Nat) : Val := s.readF t md f.a l
    let b (l : Nat) : Val := s.readF t md f.b l
    (cmpResult c s (f.modBits 15 15 = 1) (f.modBits 14 10) (fun l => fcmpTest cond (a l) (b l))).flags
      ((bitList c.g).foldl (fun acc l => acc ||| fcmpFlag cond (a l) (b l)) 0)) s)

/-- FCLASS (05 R148): A unflushed. -/
def execFclass (f : Fields) (s : State) : Host.Outcome State Fault Refusal :=
  nextOf (runWarp (.fclass f) {} (fun c s =>
    let t := fltOf f.sub.toNat
    c.lanesF s (fun l => (classOf t ((s.read32 f.a l).toNat % 2 ^ t.width), 0))) s)

/-- FRND (05 R149). -/
def execFrnd (f : Fields) (s : State) : Host.Outcome State Fault Refusal :=
  nextOf (runWarp (.frnd f) {} (fun c s =>
    let t := fltOf f.sub.toNat
    let md := s.modeOf f
    c.lanesF s (fun l => frndF t md (s.readF t md f.a l))) s)

/-- FSCALE (05 R150). -/
def execFscale (f : Fields) (s : State) : Host.Outcome State Fault Refusal :=
  nextOf (runWarp (.fscale f) {} (fun c s =>
    let t := fltOf f.sub.toNat
    let md := s.modeOf f
    c.lanesF s (fun l => fscaleF t md (s.readF t md f.a l) (s.read32 f.b l).toInt)) s)

/-- The format codes of CVT (05 R151): a floating format, or an integer of a width. -/
def cvtFlt (code : Nat) : Flt := match code with | 0 => f32 | 1 => f16 | 2 => bf16 | 3 => e4m3 | _ => e5m2
def cvtBits (code : Nat) : Nat := 2 ^ (code % 4 + 3)
def cvtSigned (code : Nat) : Bool := code < 12

/-- A source of CVT as an exact value (05 R151, R152). -/
def cvtSource (src : Nat) (md : FpMode) (x : W64) : Val :=
  if src < 8 then (cvtFlt src).read md (x.toNat % 2 ^ (cvtFlt src).width)
  else
    let n := x.toNat % 2 ^ cvtBits src
    intVal (if cvtSigned src ∧ 2 ^ (cvtBits src - 1) ≤ n then (n : Int) - (2 ^ cvtBits src : Nat) else n)

/-- A result of CVT (05 R151, R152): sign-extended for I8 and I16, otherwise zero-extended. Flush-outputs also flushes, with UF and NX,
the tiny results of the widening conversions that R49 calls exact (log entry 72). -/
def cvtResult (dst : Nat) (md : FpMode) (x : Val) : W64 × BitVec 5 :=
  if dst < 8 then
    let r := fround (cvtFlt dst) md x
    (BitVec.ofNat 64 r.1, r.2)
  else
    let g := cvtSigned dst
    let n := cvtBits dst
    let r := toIntF md.rm (if g then -(2 ^ (n - 1) : Nat) else 0) (if g then (2 ^ (n - 1) : Nat) - 1 else (2 ^ n : Nat) - 1) x
    (BitVec.ofInt 64 r.1, r.2)

/-- CVT (05 R151, R152). -/
def execCvt (f : Fields) (s : State) : Host.Outcome State Fault Refusal :=
  nextOf (runWarp (.cvt f) { lat := .cycles 6 } (fun c s =>
    let dst := f.subBits 3 0
    let src := f.subBits 7 4
    let md := s.modeOf f
    let r (l : Nat) : W64 × BitVec 5 := cvtResult dst md (cvtSource src md (s.readW (src = 11 || src = 15) f.a l))
    (c.lanesW (dst = 11 || dst = 15) (8 ≤ dst && cvtSigned dst) s (fun l => (r l).1)).flags
      ((bitList c.g).foldl (fun acc l => acc ||| (r l).2) 0)) s)

/-- A special function by its opcode (05 R153). -/
def specEff (opc : Nat) (f : Fields) (c : Ctx) (s : State) : Eff :=
  let t := fltOf f.sub.toNat
  let md := s.modeOf f
  c.lanesF s (fun l => specialFn opc t md ((s.read32 f.a l).toNat % 2 ^ t.width))

/-- RCP, RSQ, SQRT, EX2, LG2, SIN, COS, TANH (05 R144, R153). -/
def execRcp (f : Fields) (s : State) : Host.Outcome State Fault Refusal := nextOf (runWarp (.rcp f) { lat := .cycles 12 } (specEff 0x5B f) s)
def execRsq (f : Fields) (s : State) : Host.Outcome State Fault Refusal := nextOf (runWarp (.rsq f) { lat := .cycles 12 } (specEff 0x5C f) s)
def execSqrt (f : Fields) (s : State) : Host.Outcome State Fault Refusal := nextOf (runWarp (.sqrt f) { lat := .cycles 24 } (specEff 0x5D f) s)
def execEx2 (f : Fields) (s : State) : Host.Outcome State Fault Refusal := nextOf (runWarp (.ex2 f) { lat := .cycles 12 } (specEff 0x5E f) s)
def execLg2 (f : Fields) (s : State) : Host.Outcome State Fault Refusal := nextOf (runWarp (.lg2 f) { lat := .cycles 12 } (specEff 0x5F f) s)
def execSin (f : Fields) (s : State) : Host.Outcome State Fault Refusal := nextOf (runWarp (.sin f) { lat := .cycles 40 } (specEff 0x60 f) s)
def execCos (f : Fields) (s : State) : Host.Outcome State Fault Refusal := nextOf (runWarp (.cos f) { lat := .cycles 40 } (specEff 0x61 f) s)
def execTanh (f : Fields) (s : State) : Host.Outcome State Fault Refusal := nextOf (runWarp (.tanh f) { lat := .cycles 12 } (specEff 0x62 f) s)

/-- The format of a pair (05 R154). -/
def pairFlt (sub : Nat) : Flt := if sub = 0 then f16 else bf16

/-- Half h of an operand of a pair. -/
def State.readHalf (s : State) (t : Flt) (md : FpMode) (o : Opnd) (l h : Nat) : Val := t.read md ((s.read32 o l).toNat / 2 ^ (16 * h) % 2 ^ 16)

/-- A pair of results, the flags of both halves joined (05 R154). -/
def pairEff (c : Ctx) (s : State) (h : Nat → Nat → Nat × BitVec 5) : Eff :=
  c.lanesF s (fun l => ((h l 0).1 + 2 ^ 16 * (h l 1).1, (h l 0).2 ||| (h l 1).2))

/-- HADD2, HMUL2, HFMA2 (05 R154). -/
def execHadd2 (f : Fields) (s : State) : Host.Outcome State Fault Refusal :=
  nextOf (runWarp (.hadd2 f) {} (fun c s =>
    let t := pairFlt f.sub.toNat
    let md := s.modeOf f
    pairEff c s (fun l h => addF t md (s.readHalf t md f.a l h) (s.readHalf t md f.b l h))) s)
def execHmul2 (f : Fields) (s : State) : Host.Outcome State Fault Refusal :=
  nextOf (runWarp (.hmul2 f) {} (fun c s =>
    let t := pairFlt f.sub.toNat
    let md := s.modeOf f
    pairEff c s (fun l h => mulF t md (s.readHalf t md f.a l h) (s.readHalf t md f.b l h))) s)
def execHfma2 (f : Fields) (s : State) : Host.Outcome State Fault Refusal :=
  nextOf (runWarp (.hfma2 f) {} (fun c s =>
    let t := pairFlt f.sub.toNat
    let md := s.modeOf f
    pairEff c s (fun l h => fmaF t md (s.readHalf t md f.a l h) (s.readHalf t md f.b l h) (s.readHalf t md f.c l h))) s)

/-- FDOT2 (05 R155): the exact sum of two products and C, rounded once. -/
def dot2F (t : Flt) (md : FpMode) (a b : Nat → Val) (z : Val) : Nat × BitVec 5 :=
  let p := mulVals (a 0) (b 0)
  let q := mulVals (a 1) (b 1)
  let r := sumVals md.rm [p.1, q.1, z]
  let o := fround t md r.1
  (o.1, p.2 ||| q.2 ||| r.2 ||| o.2)
def execFdot2 (f : Fields) (s : State) : Host.Outcome State Fault Refusal :=
  nextOf (runWarp (.fdot2 f) { lat := .cycles 6 } (fun c s =>
    let t := pairFlt f.sub.toNat
    let md := s.modeOf f
    c.lanesF s (fun l => dot2F f32 md (s.readHalf t md f.a l) (s.readHalf t md f.b l) (s.readF f32 md f.c l))) s)

/-- One code of PACK.E4M3 or PACK.E5M2 (05 R156). -/
def packCode (t : Flt) (md : FpMode) (scale : Nat) (x : Val) : Nat × BitVec 5 :=
  if scale = 0xFF then (t.nanCode, 0) else fround t md (x.scale (127 - (scale : Int)))

/-- PACK.E4M3 and PACK.E5M2: two codes into one half of D, the other half kept (05 R156). -/
def packFp8 (f : Fields) (c : Ctx) (s : State) : Eff :=
  let t := if f.sub = 0 then e4m3 else e5m2
  let md := s.modeOf f
  c.lanesF s (fun l =>
    let k := (s.read32 f.c l).toNat % 256
    let x := packCode t md k (s.readF f32 md f.a l)
    let y := packCode t md k (s.readF f32 md f.b l)
    let h := 16 * f.modBits 7 7
    ((setField (s.read32 f.d l) (h + 15) h (y.1 * 256 + x.1)).toNat, x.2 ||| y.2))

/-- The bytes of an N4 block: 16 element bytes and the header (02 R55). -/
def n4Bytes (q : Nat × Nat × List Nat) : List Nat :=
  (List.range 16).map (fun i => q.2.2.getD (2 * i) 0 + 16 * q.2.2.getD (2 * i + 1) 0) ++ [q.1, q.2.1]

/-- PACK.N4 (05 R157): the block of the whole warp; lanes that do not execute are +0. -/
def packN4 (f : Fields) (c : Ctx) (s : State) : Eff :=
  let xs := (List.range 32).map (fun l => if c.g.getLsbD l then f32.val (s.read32 f.a l).toNat else .fin false 0 0)
  let bs := n4Bytes (quantiseN4 xs)
  c.lanes32 false s (fun l =>
    if l < 4 then BitVec.ofNat 32 ((List.range 4).foldl (fun acc i => acc + bs.getD (4 * l + i) 0 * 256 ^ i) 0)
    else if l = 4 then BitVec.ofNat 32 (bs.getD 16 0 + 256 * bs.getD 17 0)
    else 0)

/-- PACK (05 R156, R157). -/
def execPack (f : Fields) (s : State) : Host.Outcome State Fault Refusal :=
  nextOf (runWarp (.pack f) { lat := .cycles (if f.sub = 2 then 24 else 6) } (if f.sub = 2 then packN4 f else packFp8 f) s)

/-- UNPACK (05 R158): an FP8 element times its scale, or one nibble of an N4 block. Where s is 0xFF no flag is set, even for a
signalling NaN (log entry 72). -/
def unpackF (f : Fields) (md : FpMode) (a b : W32) : Nat × BitVec 5 :=
  if f.sub = 2 then
    (froundPlain f32 (n4Val (a.toNat / 16 ^ f.modBits 9 7 % 16) (b.toNat % 256) (b.toNat / 256 % 256)), 0)
  else
    let t := if f.sub = 0 then e4m3 else e5m2
    let x := t.val (a.toNat / 256 ^ f.modBits 8 7 % 256)
    if b.toNat % 256 = 0xFF then (f32.nanCode, 0)
    else fround f32 md (x.scale ((b.toNat % 256 : Nat) - 127 : Int))
def execUnpack (f : Fields) (s : State) : Host.Outcome State Fault Refusal :=
  nextOf (runWarp (.unpack f) { lat := .cycles 6 } (fun c s =>
    let md := s.modeOf f
    c.lanesF s (fun l => unpackF f md (s.read32 f.a l) (s.read32 f.b l))) s)

end Sys2Proof.Machine
end

