-- ==== Sys2Proof/Machine/Lanes.lean ====
section
/-!
DEFINITION. The cross-lane instructions (05 R159-R166), within the tiles that PARTITION sets.
-/
namespace Sys2Proof.Machine

/-- The base lane of a lane's tile of width w (05 R159). -/
def tileBase (w l : Nat) : Nat := l / w * w

/-- Position j of a lane's tile, j taken modulo the width, also where it is negative (05 R159). -/
def tilePos (w l : Nat) (j : Int) : Nat := tileBase w l + (j % (w : Int)).toNat

/-- The lanes of a lane's tile. -/
def tileLanes (w l : Nat) : List Nat := (List.range w).map (tileBase w l + ·)

/-- The executing lanes of a lane's tile, ascending. -/
def tileExec (w : Nat) (g : Lanes) (l : Nat) : List Nat := (tileLanes w l).filter (fun m => g.getLsbD m)

/-- The lane that SHFL reads for a lane (05 R160). -/
def shflLane (sub w l n : Nat) : Nat :=
  let i := l % w
  tilePos w l (match sub with | 0 => (n : Int) | 1 => (i : Int) - n | 2 => (i : Int) + n | _ => (i ^^^ n : Nat))
def State.shflSrc (s : State) (f : Fields) (l : Nat) : Nat := shflLane f.sub.toNat s.w.tileWidth l ((s.read32 f.b l).toNat % 32)

/-- The lanes in which a register is read when A is read in some lanes and the other sources where they execute. -/
def laneReads (aRegs rest : List Nat) (aLanes g : Lanes) (r : Nat) : Lanes :=
  (if aRegs.contains r then aLanes else 0) ||| (if rest.contains r then g else 0)

/-- SHFL (05 R160). -/
def execShfl (f : Fields) (s : State) : Host.Outcome State Fault Refusal :=
  nextOf (runWarp (.shfl f)
    { lat := .cycles 6
      src := fun s g => laneReads (regsOf (srcW (f.mod == 1)) f.a) (regsOf .src f.b) (ofBits 32 ((bitList g).map (s.shflSrc f))) g }
    (fun c s => c.lanesW (f.mod = 1) false s (fun l => s.readW (f.mod = 1) f.a (s.shflSrc f l))) s)

/-- A result for some lanes at the width of a form: lanes without one keep D. A scalar D must receive its value from every executing lane or
from none (05 R159; log entry 72). -/
def Ctx.someW (c : Ctx) (w64 : Bool) (s : State) (vals : List (Nat × W64)) : Eff :=
  let scalar : Bool := match c.f.d with | .s _ => true | .v _ => false | .sp _ => false
  if scalar && vals != [] && vals.length != (bitList c.g).length then c.whole 0x03 0
  else if w64 then c.put64 vals { st := s } else c.put32 false (vals.map (fun p => (p.1, p.2.setWidth 32))) { st := s }

/-- SHPUSH (05 R161): the highest-numbered sender of its tile that names a lane. -/
def execShpush (f : Fields) (s : State) : Host.Outcome State Fault Refusal :=
  nextOf (runWarp (.shpush f) { lat := .cycles 6 } (fun c s =>
    let w := s.w.tileWidth
    let sender (l : Nat) : Option Nat := ((tileExec w c.g l).filter (fun m => tilePos w m (((s.read32 f.b m).toNat % 32 : Nat) : Int) == l)).getLast?
    c.someW (f.sub = 1) s ((bitList c.g).filterMap (fun l => (sender l).map (fun m => (l, s.readW (f.sub = 1) f.a m))))) s)

/-- VOTE (05 R162). -/
def execVote (f : Fields) (s : State) : Host.Outcome State Fault Refusal :=
  nextOf (runWarp (.vote f) { lat := .cycles 6 } (fun c s =>
    let w := s.w.tileWidth
    let p (l : Nat) : Bool := (s.read32 f.a l).getLsbD (f.modBits 4 0)
    c.lanes32 false s (fun l =>
      let ls := tileExec w c.g l
      match f.sub.toNat with
      | 0 => if ls.all p then 1 else 0
      | 1 => if ls.any p then 1 else 0
      | _ => ofBits 32 ((ls.filter p).map (· - tileBase w l)))) s)

/-- The values of a tile's positions: a lane that does not execute gives the identity (05 R163). -/
def State.tileVals (s : State) (f : Fields) (w : Nat) (g : Lanes) (l : Nat) : List W32 :=
  (tileLanes w l).map (fun m => if g.getLsbD m then s.read32 f.a m else redId f.sub.toNat)

/-- The mode of the additions of SCAN and REDL: overrides for the floating operations only (05 R163). -/
def State.laneMode (s : State) (f : Fields) : FpMode := if 8 ≤ f.sub.toNat then s.modeOf f else FpMode.plain

/-- The latency of SCAN and REDL (05 R144). -/
def latRed (f : Fields) : Plan := { lat := .cycles (if 8 ≤ f.sub.toNat then 12 else 8) }

/-- A tree result per executing lane, sign-extended into a scalar for the .I32 operations, with its flags (05 R163; 01 R28). -/
def redEff (f : Fields) (c : Ctx) (s : State) (h : Nat → W32 × BitVec 5) : Eff :=
  (c.lanes32 (f.sub.toNat ≤ 2) s (fun l => (h l).1)).flags ((bitList c.g).foldl (fun acc l => acc ||| (h l).2) 0)

/-- SCAN, REDL (05 R163). -/
def execScanOp (f : Fields) (s : State) : Host.Outcome State Fault Refusal :=
  nextOf (runWarp (.scanOp f) (latRed f) (fun c s =>
    let w := s.w.tileWidth
    redEff f c s (fun l => redScan f.sub.toNat (s.laneMode f) (fieldOf s.w.csr.partition 2 0) (s.tileVals f w c.g l) (f.modBits 7 7 = 1) (l % w))) s)
def execRedl (f : Fields) (s : State) : Host.Outcome State Fault Refusal :=
  nextOf (runWarp (.redl f) (latRed f) (fun c s =>
    redEff f c s (fun l =>
      redTree f.sub.toNat (s.laneMode f) (fieldOf s.w.csr.partition 2 0) (s.tileVals f s.w.tileWidth c.g l))) s)

/-- MATCH (05 R164). -/
def execMatchOp (f : Fields) (s : State) : Host.Outcome State Fault Refusal :=
  nextOf (runWarp (.matchOp f) { lat := .cycles 6 } (fun c s =>
    let w := s.w.tileWidth
    let x (l : Nat) : W64 := s.readW (f.sub = 1) f.a l
    c.lanes32 false s (fun l => ofBits 32 (((tileExec w c.g l).filter (fun m => x m == x l)).map (· - tileBase w l)))) s)

/-- The lane that BCAST reads for a lane (05 R165). -/
def bcastLane (w : Nat) (g : Lanes) (high : Bool) (l : Nat) : Nat :=
  let ls := tileExec w g l
  (if high then ls.getLast? else ls.head?).getD l

/-- BCAST (05 R165). -/
def execBcast (f : Fields) (s : State) : Host.Outcome State Fault Refusal :=
  nextOf (runWarp (.bcast f)
    { lat := .cycles 6
      src := fun s g _ => ofBits 32 ((bitList g).map (bcastLane s.w.tileWidth g (f.mod = 1))) }
    (fun c s => c.lanesW (f.sub = 1) false s (fun l => s.readW (f.sub = 1) f.a (bcastLane s.w.tileWidth c.g (f.mod = 1) l))) s)

/-- The list S of COMPACT in a lane's tile (05 R166). -/
def State.chosen (s : State) (f : Fields) (g : Lanes) (l : Nat) : List Nat :=
  (tileExec s.w.tileWidth g l).filter (fun m => (s.read32 f.b m).getLsbD (f.modBits 4 0))

/-- COMPACT (05 R166). -/
def execCompact (f : Fields) (s : State) : Host.Outcome State Fault Refusal :=
  nextOf (runWarp (.compact f)
    { lat := .cycles 8
      src := fun s g =>
        laneReads (regsOf (srcW (f.sub == 1)) f.a) (regsOf .src f.b)
          (ofBits 32 ((bitList g).filter (fun l => (s.read32 f.b l).getLsbD (f.modBits 4 0)))) g }
    (fun c s =>
      c.someW (f.sub = 1) s
        ((bitList c.g).filterMap (fun l =>
          ((s.chosen f c.g l)[l % s.w.tileWidth]?).map (fun m => (l, s.readW (f.sub = 1) f.a m))))) s)

end Sys2Proof.Machine
end

