-- ==== Sys2Proof/Machine/Perform.lean ====
section
/-!
DEFINITION. Performing a warp instruction within an issue (01 R20): the same calls as the arms of Machine/Dispatch.lean, which needs this
file for ISSUE_STEP. The steps of other agents have no word, so no issue performs them. Laws/Step.lean shows that the two agree.
-/
namespace Sys2Proof.Machine

/-- The instruction read at the issue address, performed by the focus warp. -/
def perform (i : Instr) (s : State) : Host.Outcome State Fault Refusal :=
  match i with
  | .issueStep _ => .next s
  | .nop f => execNop f s
  | .bra f => execBra f s
  | .brx f => execBrx f s
  | .call f => execCall f s
  | .ret f => execRet f s
  | .exit f => execExit f s
  | .yield f => execYield f s
  | .kdecl f => execKdecl f s
  | .sign f => execSign f s
  | .barArrive f => execBarArrive f s
  | .barWait f => execBarWait f s
  | .barSync f => execBarSync f s
  | .barExpect f => execBarExpect f s
  | .gvote f => execGvote f s
  | .gred f => execGred f s
  | .sleep f => execSleep f s
  | .sleepWake _ => .next s
  | .rdtime f => execRdtime f s
  | .waitsb f => execWaitsb f s
  | .trap f => execTrap f s
  | .bkpt f => execBkpt f s
  | .mov f => execMov f s
  | .movi f => execMovi f s
  | .sel f => execSel f s
  | .iadd f => execIadd f s
  | .isub f => execIsub f s
  | .imin f => execImin f s
  | .imax f => execImax f s
  | .iabs f => execIabs f s
  | .addc f => execAddc f s
  | .subb f => execSubb f s
  | .icmp f => execIcmp f s
  | .imul f => execImul f s
  | .imulh f => execImulh f s
  | .imad f => execImad f s
  | .imadw f => execImadw f s
  | .divOp f => execDivOp f s
  | .remOp f => execRemOp f s
  | .shl f => execShl f s
  | .shr f => execShr f s
  | .sar f => execSar f s
  | .rot f => execRot f s
  | .fshl f => execFshl f s
  | .fshr f => execFshr f s
  | .andOp f => execAndOp f s
  | .orOp f => execOrOp f s
  | .xorOp f => execXorOp f s
  | .notOp f => execNotOp f s
  | .ltab f => execLtab f s
  | .popc f => execPopc f s
  | .clz f => execClz f s
  | .ctz f => execCtz f s
  | .brev f => execBrev f s
  | .bfe f => execBfe f s
  | .bfi f => execBfi f s
  | .prmb f => execPrmb f s
  | .lea f => execLea f s
  | .cvti f => execCvti f s
  | .fadd f => execFadd f s
  | .fsub f => execFsub f s
  | .fmul f => execFmul f s
  | .ffma f => execFfma f s
  | .fmin f => execFmin f s
  | .fmax f => execFmax f s
  | .fcmp f => execFcmp f s
  | .fclass f => execFclass f s
  | .frnd f => execFrnd f s
  | .fscale f => execFscale f s
  | .cvt f => execCvt f s
  | .rcp f => execRcp f s
  | .rsq f => execRsq f s
  | .sqrt f => execSqrt f s
  | .ex2 f => execEx2 f s
  | .lg2 f => execLg2 f s
  | .sin f => execSin f s
  | .cos f => execCos f s
  | .tanh f => execTanh f s
  | .hadd2 f => execHadd2 f s
  | .hmul2 f => execHmul2 f s
  | .hfma2 f => execHfma2 f s
  | .fdot2 f => execFdot2 f s
  | .pack f => execPack f s
  | .unpack f => execUnpack f s
  | .shfl f => execShfl f s
  | .shpush f => execShpush f s
  | .vote f => execVote f s
  | .scanOp f => execScanOp f s
  | .redl f => execRedl f s
  | .matchOp f => execMatchOp f s
  | .bcast f => execBcast f s
  | .compact f => execCompact f s
  | .ld f => execLd f s
  | .st f => execSt f s
  | .ldu f => execLdu f s
  | .ldn f => execLdn f s
  | .stn f => execStn f s
  | .spill f => execSpill f s
  | .fill f => execFill f s
  | .pf f => execPf f s
  | .clean f => execClean f s
  | .invl f => execInvl f s
  | .cctl f => execCctl f s
  | .fence f => execFence f s
  | .fenceComplete _ => .next s
  | .atom f => execAtom f s
  | .atomf f => execAtomf f s
  | .cas f => execCas f s
  | .red f => execRed f s
  | .redf f => execRedf f s
  | .gadd f => execGadd f s
  | .gdel f => execGdel f s
  | .gdelv f => execGdelv f s
  | .gdeg f => execGdeg f s
  | .glde f => execGlde f s
  | .gfind f => execGfind f s
  | .gsetw f => execGsetw f s
  | .grmw f => execGrmw f s
  | .gopen f => execGopen f s
  | .gnext f => execGnext f s
  | .gclose f => execGclose f s
  | .gcur f => execGcur f s
  | .graphOutHomeApply _ => .next s
  | .mirrorUpdateApply _ => .next s
  | .deathTimeSet _ => .next s
  | .mirrorCreditReserve _ _ _ => .next s
  | .listReclamation _ _ _ => .next s
  | .tseal f => execTseal f s
  | .tld f => execTld f s
  | .tst f => execTst f s
  | .tgath f => execTgath f s
  | .tscat f => execTscat f s
  | .xcopy f => execXcopy f s
  | .xwait f => execXwait f s
  | .engineLineWrite _ => .next s
  | .streamerCompletion _ => .next s
  | .plupd f => execPlupd f s
  | .plaxpy f => execPlaxpy f s
  | .plresc f => execPlresc f s
  | .mma f => execMma f s
  | .mzero f => execMzero f s
  | .mlda f => execMlda f s
  | .msta f => execMsta f s
  | .msync f => execMsync f s
  | .mrdp f => execMrdp f s
  | .rowBlockCompletion _ _ => .next s
  | .ringAcq f => execRingAcq f s
  | .ringCommit f => execRingCommit f s
  | .ringWait f => execRingWait f s
  | .ringRel f => execRingRel f s
  | .taskSignal f => execTaskSignal f s
  | .taskLaunch f => execTaskLaunch f s
  | .rgrant f => execRgrant f s
  | .rrevoke f => execRrevoke f s
  | .rarm f => execRarm f s
  | .rput f => execRput f s
  | .rputArrival _ => .next s
  | .rputStatusReturn _ => .next s
  | .rpoll f => execRpoll f s
  | .rcall f => execRcall f s
  | .callSlotReserve _ => .next s
  | .callArrival _ => .next s
  | .callDispatch _ => .next s
  | .remoteFunctionStart _ => .next s
  | .echoArrival _ => .next s
  | .echoTimeout _ => .next s
  | .rarg f => execRarg f s
  | .rret f => execRret f s
  | .nbseq f => execNbseq f s
  | .sequenceStart _ => .next s
  | .sequenceRowStep _ => .next s
  | .sequenceRunEnd _ => .next s
  | .sequenceCompletion _ => .next s
  | .sequencerWatchdogExpiry _ => .next s
  | .racq f => execRacq f s
  | .rrel f => execRrel f s
  | .csrr f => execCsrr f s
  | .csrw f => execCsrw f s
  | .tret f => execTret f s
  | .tlbinv f => execTlbinv f s
  | .bankcfg f => execBankcfg f s
  | .keyset f => execKeyset f s
  | .keydestroy f => execKeydestroy f s
  | .ctxsave f => execCtxsave f s
  | .ctxload f => execCtxload f s
  | .resultWrite _ _ => .next s
  | .leaseGrant _ => .next s
  | .leaseExpiry _ _ => .next s
  | .homeWriteApply _ => .next s
  | .atomicApply _ => .next s
  | .writeCompletionReturn _ => .next s
  | .l1Eviction _ _ => .next s
  | .l2Eviction _ => .next s
  | .hostAtomicAttempt _ _ => .next s
  | .hostCxlMemWrite _ _ => .next s
  | .hostCxlMemRead _ _ => .next s
  | .domainRequest _ => .next s
  | .timeSync _ _ => .next s
  | .peerUnreachable _ => .next s
  | .linkUp _ => .next s
  | .readPacket _ _ => .next s
  | .fullWrite _ _ => .next s
  | .maskedWrite _ _ => .next s
  | .sectorWriteback _ _ => .next s
  | .sequenceRow _ _ => .next s
  | .refreshHoldRelease _ _ => .next s
  | .readReply _ _ => .next s
  | .writeAcknowledge _ _ => .next s
  | .starvationBound _ _ => .next s
  | .scrub _ _ => .next s
  | .criticalTemperatureAssert _ => .next s
  | .criticalTemperatureClear _ => .next s
  | .thermalHold _ => .next s
  | .lumenReplenish _ => .next s
  | .qtailWrite _ _ => .next s
  | .nopPacket _ => .next s
  | .launchPacket _ => .next s
  | .signalPacket _ => .next s
  | .killPacket _ => .next s
  | .reservedPacketType _ => .next s
  | .taskCheckComplete _ _ => .next s
  | .cohortPlacement _ => .next s
  | .stealRequest _ => .next s
  | .stealRetry _ => .next s
  | .preemption _ => .next s
  | .cohortRestore _ => .next s
  | .granuleFill _ _ => .next s
  | .taskRetire _ _ => .next s
  | .activeSetReplacement _ => .next s
  | .activeSetRotation _ => .next s
  | .faultAnswerReplay _ => .next s
  | .faultAnswerDeliver _ => .next s
  | .faultAnswerKill _ => .next s
  | .fbtailWrite _ => .next s
  | .tlbcmdPage _ => .next s
  | .tlbcmdContext _ => .next s
  | .tlbcmdAll _ => .next s
  | .tlbstatRead => .next s
  | .evtpopRead => .next s
  | .registerWrite _ _ => .next s
  | .contextCreate => .next s
  | .contextDestroy => .next s
  | .graphCreate => .next s
  | .graphDestroy => .next s
  | .keySession => .next s
  | .keyLoad => .next s
  | .keyDestroy => .next s
  | .attest => .next s
  | .domainCmd => .next s
  | .exportRange => .next s
  | .setLimit => .next s
  | .mailboxUnknownCommand => .next s
  | .cltailWrite _ => .next s
  | .collectiveStart => .next s
  | .contributionArrival _ _ _ => .next s
  | .collectiveTimeout => .next s
  | .collectiveCompletion => .next s
  | .powerUp => .next s
  | .powerOff => .next s
  | .bootgo _ => .next s
  | .bootVerifyComplete => .next s
  | .firmwareInitComplete => .next s
  | .cxlReset => .next s
  | .functionLevelReset => .next s
  | .hotReset => .next s
  | .d3cold => .next s
  | .qcfgWrite _ _ => .next s
  | .fbcfgWrite _ => .next s
  | .doubleError _ => .next s
  | .portLinkLoss _ => .next s
  | .rateChange _ _ => .next s

end Sys2Proof.Machine
end

