-- ==== Sys2Proof/Machine/Issue.lean ====
section
/-!
DEFINITION. ISSUE_STEP (01 R20, R21, R25, R37; 18 R387): which warp of a core issues, the instruction it fetches and performs, the release of
parked lanes, and a warp without running lanes; the changes of active sets (18 R388). An instruction that is held leaves the issue to the next ready warp (log entry 7).
-/
namespace Sys2Proof.Machine

/-- Parked lanes that return (01 R20): those seen but for the fresh ones, with no lane of Run that still runs at or below their YIELD address. -/
def Warp.releasable (w : Warp) (run fresh : Lanes) : Lanes :=
  let ahead := (bitList run).filter (fun m => w.laneState m == 0)
  ofBits 32 ((bitList (w.lanesIn 1 &&& w.seen &&& ~~~fresh)).filter (fun l => ahead.all (fun m => decide ((w.yaddr.get l).toNat < (w.lpc.get m).toNat))))

/-- Releasing them. -/
def Warp.releaseParked (w : Warp) (run fresh : Lanes) : Warp := w.putLanes (w.releasable run fresh) 0

/-- The end of an issue step (01 R20): parked lanes but those just parked have seen an issue, and may return. -/
def Warp.endIssue (w : Warp) (run fresh : Lanes) : Warp :=
  ({ w with seen := w.seen ||| (w.lanesIn 1 &&& ~~~fresh) } : Warp).releaseParked run fresh

/-- Lanes that an instruction has just parked: those that a YIELD parks, and those that a TRET brings back, which stay parked (15 R334). -/
def justParked (i : Instr) (before after : Warp) : Lanes :=
  match i with
  | .yield _ => after.lanesIn 1 &&& before.running
  | .tret _ => after.lanesIn 1
  | _ => 0

/-- The focus warp was held in this step, or waits for the host: it has not issued. -/
def State.notIssued (s : State) : Bool :=
  !s.w.live || s.w.heldAt == s.tick ||
    match s.w.wait with
    | .page _ _ => true
    | .trap _ => true
    | .ready | .barrier .. | .sleep _ | .fence .. => false

/-- A step with no running lane (01 R20): every parked lane returns, or the warp exits where none is waiting. -/
def State.emptyRun (s : State) : State :=
  let parked := s.w.lanesIn 1
  if parked ≠ 0 then s.updW (fun w => w.putLanes parked 0)
  else if s.w.lanesIn 2 ≠ 0 then s
  else s.endWarp

/-- Whether a fault of a fetch hits the handler that the warp has just entered (15 R332): a double fault. -/
def State.handlerFetch (s : State) (p : W32) : Bool :=
  s.w.priv && s.handlerOf s.w (BitVec.ofNat 8 (fieldOf s.w.csr.trapinfo 7 0)) == some p

/-- The end of an attempt to issue: where the warp has issued, the lanes of Run and those just parked count for the release of parked lanes. -/
def State.closeIssue (t : State) (run : Lanes) (fresh : Warp → Lanes) : State :=
  if t.notIssued then t else t.updW (fun w => w.endIssue run (fresh w))

/-- The end of an attempt to issue at an address. -/
def State.finishIssue (s0 : State) (i : Instr) (o : Host.Outcome State Fault Refusal) : Host.Outcome State Fault Refusal :=
  match o with
  | .next t => .next (t.closeIssue s0.w.running (justParked i s0.w))
  | .fault x => .fault x
  | .refused r => .refused r

/-- Where a fetch gives no instruction. -/
def State.fetchFails (s : State) (p : W32) (code cause opc len : Nat) : State :=
  if s.handlerFetch p ∧ code ≠ 1 then
    s.fatal s.w { code := BitVec.ofNat 8 code, cause := BitVec.ofNat 6 cause, flanes := s.w.lanesAt p, xlanes := s.w.lanesAt p
                  lane := BitVec.ofNat 5 (lowLane (s.w.lanesAt p)), multi := decide (2 ≤ (bitList (s.w.lanesAt p)).length)
                  addr := s.w.codeVa p, acc := 2, offset := p, agent := 0 }
  else s.fetchFault p (s.w.lanesAt p) code cause opc len

/-- A trap that waits for a thermal hold is tried again (15 R332; 17 R372); while it still waits the warp is held. -/
def State.retryTrap (s : State) (x : FaultInfo) : State :=
  let t := (s.updW (fun w => { w with wait := .ready })).trapEntry x
  match t.w.wait with
  | .trap _ => t.held
  | .ready | .barrier .. | .sleep _ | .fence .. | .page .. => t.closeIssue s.w.running (fun _ => 0)

/-- One issue of the focus warp (01 R20): a complete collective first, else the instruction at the issue address. -/
def State.issueFocus (s0 : State) : Host.Outcome State Fault Refusal :=
  match s0.w.wait with
  | .trap x => .next (s0.retryTrap x)
  | .ready | .barrier .. | .sleep _ | .fence .. | .page .. =>
    let s := s0.updW (fun w => w.releaseParked w.running 0)
    match (List.range 8).find? (fun k => s.w.collects k) with
    | some k => .next ((s.collect k).closeIssue s.w.running (fun _ => 0))
    | none =>
      if s.w.running = 0 then .next s.emptyRun
      else
        let p := s.w.issuePc
        match s.fetch s.w p with
        | .fault code cause opc len => .next (if code = 0 then s.held else s.fetchFails p code cause opc len)
        | .instr i => s.finishIssue i (perform i (s.touch s.w.id.core s.w.ctx (s.w.codeVa p)))

/-- A warp that its core may pick (18 R387): of the active set and awake. -/
def State.ready (s : State) (w : Warp) : Bool := w.active && s.awake w

/-- Warps of a core that may be picked but for stall counts, and the cycles until the first of them has none left (01 R37). -/
def State.readyOn (s : State) (c : CoreId) : List Warp := s.allWarps.filter (fun w => w.id.core == c && s.ready w)
def State.leastAhead (s : State) (c : CoreId) : Nat :=
  match s.readyOn c with
  | [] => 0
  | w :: r => r.foldl (fun acc x => min acc x.ahead) w.ahead

/-- Warps of a core that may be picked now, in the order of choice (18 R387): the class falling, and in a class the cyclic order of the slots
after the one last issued. -/
def State.candidates (s : State) (c : CoreId) : List WarpId :=
  let ws := (s.readyOn c).filter (fun w => w.ahead == 0)
  let last := ((s.cores.find? (fun k => k.core == c)).map (·.last)).getD 15
  [3, 2, 1, 0].flatMap (fun cls => (List.range 16).filterMap (fun d =>
    (ws.find? (fun w => w.prio == cls && w.id.slot == (last + 1 + d) % 16)).map (·.id)))

/-- The slot that issued last on a core (18 R387). -/
def State.setLast (s : State) (c : CoreId) (slot : Nat) : State :=
  { s with cores :=
      if s.cores.any (fun k => k.core == c) then updFirst (fun k => k.core == c) (fun k => { k with last := slot }) s.cores
      else s.cores ++ [⟨c, slot, []⟩] }

/-- The warp in a slot was held in this step. -/
def State.heldNow (s t : State) (i : WarpId) : Bool := t.w.live && t.w.id == i && t.w.heldAt == s.tick

/-- Whether a warp would issue if it were picked: its instruction is not held. -/
def State.wouldIssue (s : State) (i : WarpId) : Bool :=
  match ((s.focus i).updW (fun w => { w with heldAt := 0 })).issueFocus with
  | .next t => !s.heldNow t i
  | .fault _ => true
  | .refused _ => true

/-- A resident warp is ready, in the active set or not (18 R387). -/
def State.readyNow (s : State) (w : Warp) : Bool := s.awake w && w.ahead == 0 && s.wouldIssue w.id

/-- The warps of a core's active set that are ready beside the focus warp (17 R367; 18 R388). -/
def State.others (s : State) (c : CoreId) : List WarpId :=
  (s.warps.filter (fun w => w.live && w.id.core == c && w.active && s.readyNow w)).map (·.id)

/-- Trying the candidates in turn: the first that is not held has issued; the others that are ready then are noted (18 R388). A cycle of the core passes (01
R37). -/
def State.tryIssue (c : CoreId) : List WarpId → State → Host.Outcome State Fault Refusal
  | [], s => .next (s.passCycles c 1)
  | i :: r, s =>
    let s1 := s.focus i
    let os := s1.others c
    match ({ s1 with alone := os.isEmpty } : State).issueFocus with
    | .next t =>
      if s.heldNow t i then State.tryIssue c r t
      else .next (((os.foldl (fun acc o => acc.updWarp o (fun w => { w with idleSince := w.cycle })) t).passCycles c 1).setLast c i.slot)
    | .fault x => .fault x
    | .refused x => .refused x

/-- ISSUE_STEP (01 R20; 18 R387): where every warp that may be picked is stalled, the cycles until the first is not pass before. -/
def execIssueStep (c : CoreId) (s : State) : Host.Outcome State Fault Refusal :=
  let s1 := s.passCycles c (s.leastAhead c)
  State.tryIssue c (s1.candidates c) s1

/-! Active sets (18 R388). They change timing only. -/

/-- The cycles since an active warp was last ready: it issued, or was ready while another issued. -/
def Warp.idle (w : Warp) : Nat := w.cycle - w.ahead - w.idleSince

/-- Exchanging an active warp for one outside the set. -/
def State.swapActive (s : State) (out in_ : WarpId) : State :=
  (s.updWarp out (fun w => { w with active := false, outsideSince := w.cycle })).updWarp in_ (fun w =>
    { w with active := true, activeSince := w.cycle, idleSince := w.cycle })

/-- ACTIVE_SET_REPLACEMENT (18 R388): an active warp that has not been ready for 64 cycles gives its place to a ready one outside. -/
def execActiveSetReplacement (c : CoreId) (s : State) : Host.Outcome State Fault Refusal :=
  match s.pickWarp c (fun w => w.active && 64 ≤ w.idle && !s.readyNow w) Warp.idle,
    s.pickWarp c (fun w => !w.active && s.readyNow w) (fun w => w.prio * 2 ^ 64 + w.outside) with
  | some a, some b => .next (s.swapActive a.id b.id)
  | some _, none => .next s
  | none, _ => .next s

/-- ACTIVE_SET_ROTATION (18 R388). -/
def execActiveSetRotation (c : CoreId) (s : State) : Host.Outcome State Fault Refusal :=
  match s.pickWarp c (fun w => !w.active && 4096 ≤ w.outside && s.readyNow w) (fun w => w.prio * 2 ^ 64 + w.outside) with
  | none => .next s
  | some b =>
    match s.pickWarp c (fun w => w.active && w.prio ≤ b.prio) (fun w => w.cycle - w.activeSince) with
    | none => .next s
    | some a => .next (s.swapActive a.id b.id)

end Sys2Proof.Machine
end

