-- ==== Sys2Proof/Machine/MemEvents.lean ====
section
/-!
DEFINITION. The steps of the memory system (07 R196-R212; 17 R355-R364): results that come back, leases, writes and atomics applied at
homes, completion times, evictions, and the host's atomics (06 R195).
-/
namespace Sys2Proof.Machine

/-- RESULT_WRITE (01 R38, R41): an operation all of whose replies have come is written, and its slot counts down. TLBINV and KEYDESTROY are done
once every access translated before them is (15 R339, R343); a KEYDESTROY also where its warp has gone. -/
def execResultWrite (i : WarpId) (op : Nat) (s : State) : Host.Outcome State Fault Refusal :=
  match (s.findWarp i).bind (fun w => (w.findOp op).map (fun o => (w, o))) with
  | none => .next (if s.inFlight op then s else s.updM (fun m => m.finishKey s.time op))
  | some (w, o) =>
    if o.parts ≠ 0 ∨ (o.ready.all (fun c => c ≤ w.cycle)) = false then .next s
    else if (o.opc = 0xF3 ∨ o.opc = 0xF6) ∧ s.inFlight op = true then .next s
    else .next ((if o.opc = 0xF6 then s.updM (fun m => m.finishKey s.time op) else s).updWarp i (fun w => w.deliver op))

/-- LEASE_GRANT (07 R200): a load that has reached its home is answered; where it may fill its cluster's L1 the home grants a lease. -/
def execLeaseGrant (k : Nat) (s : State) : Host.Outcome State Fault Refusal :=
  match s.msgOf k with
  | none => .next s
  | some g =>
    let go (ps : List Piece) (alloc : Bool) : State :=
      if s.behind g then s else if hostBase ≤ g.line * 128 then s.serveFar g ps alloc else s.serveLoad g ps alloc
    match g.kind with
    | .fill ps alloc => .next (go ps alloc)
    | .read ps => .next (go ps false)
    | .act a => .next (if a.writes then s else s.actHome g a)
    | .write .. => .next s
    | .atomic .. => .next s

/-- LEASE_EXPIRY (07 R200). -/
def execLeaseExpiry (cluster line : Nat) (s : State) : Host.Outcome State Fault Refusal :=
  match s.m.l1Find cluster line with
  | none => .next s
  | some x => .next (if x.leaseEnd ≤ s.time then s.updM (fun m => m.l1Set { x with leaseEnd := 0 }) else s)

/-- HOME_WRITE_APPLY (07 R202, R211). What waited for an agent's record follows it (18 R380). -/
def execHomeWriteApply (k : Nat) (s : State) : Host.Outcome State Fault Refusal :=
  match s.msgOf k with
  | none => .next s
  | some g =>
    match g.kind with
    | .write d mask poison cover ws toMem =>
      if s.behind g then .next s
      else if s.owned g.line then .next s
      else if hostBase ≤ g.line * 128 then .next (s.landMsg g).settle
      else if (mask != 0 && s.seqBlocks g.line) then .next s
      else if toMem then
        if g.tries = 0 then .next (s.toMemory g d mask poison cover)
        else if s.m.packets.any (fun p => p.isWrite && p.block == g.line / 4) then .next s
        else .next ((s.sendAcks g ws g.wct).dropMsg g.id)
      else .next (s.applyMsg g d mask poison cover ws).settle
    | .fill .. => .next s
    | .read .. => .next s
    | .act a => .next (if a.writes then s.actHome g a else s)
    | .atomic .. => .next s

/-- WRITE_COMPLETION_RETURN (07 R204): HORIZON rises, and the operation has its reply. -/
def execWriteCompletionReturn (k : Nat) (s : State) : Host.Outcome State Fault Refusal :=
  match s.m.acks.find? (fun a => a.id == k) with
  | none => .next s
  | some a =>
    let s1 := s.updM (fun m => { m with acks := m.acks.filter (fun x => x.id != k) })
    if a.warp.die = 98 then .next (s1.updTask a.warp.cluster (BitVec.ofNat 32 a.warp.cslot) (fun k => { k with wct := max k.wct a.wct }))
    else .next (s1.updAny a.warp (fun w => let w1 := w.raiseHorizon a.wct; if a.op = 0 then w1 else w1.gotPart a.op (fun o => o)))

/-- ATOMIC_APPLY (06 R194, R195). -/
def execAtomicApply (k : Nat) (s : State) : Host.Outcome State Fault Refusal :=
  match s.msgOf k with
  | none => .next s
  | some g =>
    match g.kind with
    | .atomic ops =>
      let loc := g.line * 128
      if s.behind g || s.owned g.line then .next s
      else
        match memKind loc with
        | .peer =>
          match s.peerErr loc with
          | some (code, cause) => .next (s.atomicFails g ops code cause)
          | none => .next (s.atomicFar g ops (s.m.farWct s.time g.line))
        | .host =>
          if s.hostQueue g then .next s
          else if g.key = 1 then .next (s.atomicFar g ops s.time)
          else if Config.rootPortCas = false then .next (s.atomicFails g ops 0x13 0)
          else if ops.all AtomOp.direct then .next (s.atomicFar g ops s.time)
          else .next s
        | .stack | .tier => if s.seqBlocks g.line then .next s else .next (s.atomicHome g ops)
    | .fill .. => .next s
    | .read .. => .next s
    | .act _ => .next s
    | .write .. => .next s

/-- HOST_ATOMIC_ATTEMPT (06 R195; 19 R395): one compare-and-swap attempt for the first operation of the message; it fails only against a host
write, and the 64th failure reports HOST_ATOMIC. -/
def execHostAtomicAttempt (k : Nat) (hostWrote : Bool) (s : State) : Host.Outcome State Fault Refusal :=
  match s.msgOf k with
  | none => .next s
  | some g =>
    match g.kind with
    | .atomic (o :: rest) =>
      let loc := g.line * 128
      if memKind loc ≠ .host ∨ g.key = 1 ∨ Config.rootPortCas = false ∨ s.behind g = true ∨ s.hostQueue g = true ∨ (o :: rest).all AtomOp.direct = true then
        .next s
      else if hostWrote then
        if 63 ≤ g.tries then .next ((s.giveAtoms g [⟨o, 0, true⟩] 0x13 0).atomsLeft g rest)
        else .next (s.setMsg { g with tries := g.tries + 1 })
      else
        let d := s.m.farLine g.line
        let r := atomLine [o] d.1 d.2
        let s1 := s.updM (fun m => m.pokeLine s.time g.line r.1 r.2.1)
        .next (((s1.giveAtoms g r.2.2 0x0A 0).updAny g.warp (fun w => w.raiseHorizon s.time)).atomsLeft g rest)
    | .atomic [] => .next s
    | .fill .. => .next s
    | .read .. => .next s
    | .act _ => .next s
    | .write .. => .next s

/-- L1_EVICTION (07 R207; 17 R355). -/
def execL1Eviction (cluster line : Nat) (s : State) : Host.Outcome State Fault Refusal :=
  match s.m.l1Find cluster line with
  | none => .next s
  | some x => .next (if s.m.isVictim x then s.writeBack x true false else s)

/-- L2_EVICTION (07 R201; 17 R357): dirty bytes go to the memory-side cache, leases into the slice's floor. -/
def execL2Eviction (line : Nat) (s : State) : Host.Outcome State Fault Refusal :=
  match s.m.l2Find line with
  | none => .next s
  | some x =>
    if x.owner.isSome || s.m.reading line then .next s
    else
      match s.m.pushLine s.time x with
      | none => .next s
      | some m1 => .next { s with m := m1.forgetL2 s.time (fun y => y.line == line) }

end Sys2Proof.Machine
end

