-- ==== Sys2Proof/Machine/Dispatch.lean ====
section
/-!
DEFINITION. The meaning of every instruction: one arm per constructor, each one direct call.
-/
namespace Sys2Proof.Machine

def exec (i : Instr) (s : State) : Host.Outcome State Fault Refusal :=
  match i with
  | .issueStep c => Sys2Proof.Machine.execIssueStep c s
  | .nop f => Sys2Proof.Machine.execNop f s
  | .bra f => Sys2Proof.Machine.execBra f s
  | .brx f => Sys2Proof.Machine.execBrx f s
  | .call f => Sys2Proof.Machine.execCall f s
  | .ret f => Sys2Proof.Machine.execRet f s
  | .exit f => Sys2Proof.Machine.execExit f s
  | .yield f => Sys2Proof.Machine.execYield f s
  | .kdecl f => Sys2Proof.Machine.execKdecl f s
  | .sign f => Sys2Proof.Machine.execSign f s
  | .barArrive f => Sys2Proof.Machine.execBarArrive f s
  | .barWait f => Sys2Proof.Machine.execBarWait f s
  | .barSync f => Sys2Proof.Machine.execBarSync f s
  | .barExpect f => Sys2Proof.Machine.execBarExpect f s
  | .gvote f => Sys2Proof.Machine.execGvote f s
  | .gred f => Sys2Proof.Machine.execGred f s
  | .sleep f => Sys2Proof.Machine.execSleep f s
  | .sleepWake w => Sys2Proof.Machine.execSleepWake w s
  | .rdtime f => Sys2Proof.Machine.execRdtime f s
  | .waitsb f => Sys2Proof.Machine.execWaitsb f s
  | .trap f => Sys2Proof.Machine.execTrap f s
  | .bkpt f => Sys2Proof.Machine.execBkpt f s
  | .mov f => Sys2Proof.Machine.execMov f s
  | .movi f => Sys2Proof.Machine.execMovi f s
  | .sel f => Sys2Proof.Machine.execSel f s
  | .iadd f => Sys2Proof.Machine.execIadd f s
  | .isub f => Sys2Proof.Machine.execIsub f s
  | .imin f => Sys2Proof.Machine.execImin f s
  | .imax f => Sys2Proof.Machine.execImax f s
  | .iabs f => Sys2Proof.Machine.execIabs f s
  | .addc f => Sys2Proof.Machine.execAddc f s
  | .subb f => Sys2Proof.Machine.execSubb f s
  | .icmp f => Sys2Proof.Machine.execIcmp f s
  | .imul f => Sys2Proof.Machine.execImul f s
  | .imulh f => Sys2Proof.Machine.execImulh f s
  | .imad f => Sys2Proof.Machine.execImad f s
  | .imadw f => Sys2Proof.Machine.execImadw f s
  | .divOp f => Sys2Proof.Machine.execDivOp f s
  | .remOp f => Sys2Proof.Machine.execRemOp f s
  | .shl f => Sys2Proof.Machine.execShl f s
  | .shr f => Sys2Proof.Machine.execShr f s
  | .sar f => Sys2Proof.Machine.execSar f s
  | .rot f => Sys2Proof.Machine.execRot f s
  | .fshl f => Sys2Proof.Machine.execFshl f s
  | .fshr f => Sys2Proof.Machine.execFshr f s
  | .andOp f => Sys2Proof.Machine.execAndOp f s
  | .orOp f => Sys2Proof.Machine.execOrOp f s
  | .xorOp f => Sys2Proof.Machine.execXorOp f s
  | .notOp f => Sys2Proof.Machine.execNotOp f s
  | .ltab f => Sys2Proof.Machine.execLtab f s
  | .popc f => Sys2Proof.Machine.execPopc f s
  | .clz f => Sys2Proof.Machine.execClz f s
  | .ctz f => Sys2Proof.Machine.execCtz f s
  | .brev f => Sys2Proof.Machine.execBrev f s
  | .bfe f => Sys2Proof.Machine.execBfe f s
  | .bfi f => Sys2Proof.Machine.execBfi f s
  | .prmb f => Sys2Proof.Machine.execPrmb f s
  | .lea f => Sys2Proof.Machine.execLea f s
  | .cvti f => Sys2Proof.Machine.execCvti f s
  | .fadd f => Sys2Proof.Machine.execFadd f s
  | .fsub f => Sys2Proof.Machine.execFsub f s
  | .fmul f => Sys2Proof.Machine.execFmul f s
  | .ffma f => Sys2Proof.Machine.execFfma f s
  | .fmin f => Sys2Proof.Machine.execFmin f s
  | .fmax f => Sys2Proof.Machine.execFmax f s
  | .fcmp f => Sys2Proof.Machine.execFcmp f s
  | .fclass f => Sys2Proof.Machine.execFclass f s
  | .frnd f => Sys2Proof.Machine.execFrnd f s
  | .fscale f => Sys2Proof.Machine.execFscale f s
  | .cvt f => Sys2Proof.Machine.execCvt f s
  | .rcp f => Sys2Proof.Machine.execRcp f s
  | .rsq f => Sys2Proof.Machine.execRsq f s
  | .sqrt f => Sys2Proof.Machine.execSqrt f s
  | .ex2 f => Sys2Proof.Machine.execEx2 f s
  | .lg2 f => Sys2Proof.Machine.execLg2 f s
  | .sin f => Sys2Proof.Machine.execSin f s
  | .cos f => Sys2Proof.Machine.execCos f s
  | .tanh f => Sys2Proof.Machine.execTanh f s
  | .hadd2 f => Sys2Proof.Machine.execHadd2 f s
  | .hmul2 f => Sys2Proof.Machine.execHmul2 f s
  | .hfma2 f => Sys2Proof.Machine.execHfma2 f s
  | .fdot2 f => Sys2Proof.Machine.execFdot2 f s
  | .pack f => Sys2Proof.Machine.execPack f s
  | .unpack f => Sys2Proof.Machine.execUnpack f s
  | .shfl f => Sys2Proof.Machine.execShfl f s
  | .shpush f => Sys2Proof.Machine.execShpush f s
  | .vote f => Sys2Proof.Machine.execVote f s
  | .scanOp f => Sys2Proof.Machine.execScanOp f s
  | .redl f => Sys2Proof.Machine.execRedl f s
  | .matchOp f => Sys2Proof.Machine.execMatchOp f s
  | .bcast f => Sys2Proof.Machine.execBcast f s
  | .compact f => Sys2Proof.Machine.execCompact f s
  | .ld f => Sys2Proof.Machine.execLd f s
  | .st f => Sys2Proof.Machine.execSt f s
  | .ldu f => Sys2Proof.Machine.execLdu f s
  | .ldn f => Sys2Proof.Machine.execLdn f s
  | .stn f => Sys2Proof.Machine.execStn f s
  | .spill f => Sys2Proof.Machine.execSpill f s
  | .fill f => Sys2Proof.Machine.execFill f s
  | .pf f => Sys2Proof.Machine.execPf f s
  | .clean f => Sys2Proof.Machine.execClean f s
  | .invl f => Sys2Proof.Machine.execInvl f s
  | .cctl f => Sys2Proof.Machine.execCctl f s
  | .fence f => Sys2Proof.Machine.execFence f s
  | .fenceComplete w => Sys2Proof.Machine.execFenceComplete w s
  | .atom f => Sys2Proof.Machine.execAtom f s
  | .atomf f => Sys2Proof.Machine.execAtomf f s
  | .cas f => Sys2Proof.Machine.execCas f s
  | .red f => Sys2Proof.Machine.execRed f s
  | .redf f => Sys2Proof.Machine.execRedf f s
  | .gadd f => Sys2Proof.Machine.execGadd f s
  | .gdel f => Sys2Proof.Machine.execGdel f s
  | .gdelv f => Sys2Proof.Machine.execGdelv f s
  | .gdeg f => Sys2Proof.Machine.execGdeg f s
  | .glde f => Sys2Proof.Machine.execGlde f s
  | .gfind f => Sys2Proof.Machine.execGfind f s
  | .gsetw f => Sys2Proof.Machine.execGsetw f s
  | .grmw f => Sys2Proof.Machine.execGrmw f s
  | .gopen f => Sys2Proof.Machine.execGopen f s
  | .gnext f => Sys2Proof.Machine.execGnext f s
  | .gclose f => Sys2Proof.Machine.execGclose f s
  | .gcur f => Sys2Proof.Machine.execGcur f s
  | .graphOutHomeApply k => Sys2Proof.Machine.execGraphOutHomeApply k s
  | .mirrorUpdateApply k => Sys2Proof.Machine.execMirrorUpdateApply k s
  | .deathTimeSet k => Sys2Proof.Machine.execDeathTimeSet k s
  | .mirrorCreditReserve g outHome inHome => Sys2Proof.Machine.execMirrorCreditReserve g outHome inHome s
  | .listReclamation g dir vertex => Sys2Proof.Machine.execListReclamation g dir vertex s
  | .tseal f => Sys2Proof.Machine.execTseal f s
  | .tld f => Sys2Proof.Machine.execTld f s
  | .tst f => Sys2Proof.Machine.execTst f s
  | .tgath f => Sys2Proof.Machine.execTgath f s
  | .tscat f => Sys2Proof.Machine.execTscat f s
  | .xcopy f => Sys2Proof.Machine.execXcopy f s
  | .xwait f => Sys2Proof.Machine.execXwait f s
  | .engineLineWrite k => Sys2Proof.Machine.execEngineLineWrite k s
  | .streamerCompletion k => Sys2Proof.Machine.execStreamerCompletion k s
  | .plupd f => Sys2Proof.Machine.execPlupd f s
  | .plaxpy f => Sys2Proof.Machine.execPlaxpy f s
  | .plresc f => Sys2Proof.Machine.execPlresc f s
  | .mma f => Sys2Proof.Machine.execMma f s
  | .mzero f => Sys2Proof.Machine.execMzero f s
  | .mlda f => Sys2Proof.Machine.execMlda f s
  | .msta f => Sys2Proof.Machine.execMsta f s
  | .msync f => Sys2Proof.Machine.execMsync f s
  | .mrdp f => Sys2Proof.Machine.execMrdp f s
  | .rowBlockCompletion w stream => Sys2Proof.Machine.execRowBlockCompletion w stream s
  | .ringAcq f => Sys2Proof.Machine.execRingAcq f s
  | .ringCommit f => Sys2Proof.Machine.execRingCommit f s
  | .ringWait f => Sys2Proof.Machine.execRingWait f s
  | .ringRel f => Sys2Proof.Machine.execRingRel f s
  | .taskSignal f => Sys2Proof.Machine.execTaskSignal f s
  | .taskLaunch f => Sys2Proof.Machine.execTaskLaunch f s
  | .rgrant f => Sys2Proof.Machine.execRgrant f s
  | .rrevoke f => Sys2Proof.Machine.execRrevoke f s
  | .rarm f => Sys2Proof.Machine.execRarm f s
  | .rput f => Sys2Proof.Machine.execRput f s
  | .rputArrival k => Sys2Proof.Machine.execRputArrival k s
  | .rputStatusReturn k => Sys2Proof.Machine.execRputStatusReturn k s
  | .rpoll f => Sys2Proof.Machine.execRpoll f s
  | .rcall f => Sys2Proof.Machine.execRcall f s
  | .callSlotReserve k => Sys2Proof.Machine.execCallSlotReserve k s
  | .callArrival k => Sys2Proof.Machine.execCallArrival k s
  | .callDispatch unit => Sys2Proof.Machine.execCallDispatch unit s
  | .remoteFunctionStart k => Sys2Proof.Machine.execRemoteFunctionStart k s
  | .echoArrival k => Sys2Proof.Machine.execEchoArrival k s
  | .echoTimeout k => Sys2Proof.Machine.execEchoTimeout k s
  | .rarg f => Sys2Proof.Machine.execRarg f s
  | .rret f => Sys2Proof.Machine.execRret f s
  | .nbseq f => Sys2Proof.Machine.execNbseq f s
  | .sequenceStart k => Sys2Proof.Machine.execSequenceStart k s
  | .sequenceRowStep k => Sys2Proof.Machine.execSequenceRowStep k s
  | .sequenceRunEnd k => Sys2Proof.Machine.execSequenceRunEnd k s
  | .sequenceCompletion k => Sys2Proof.Machine.execSequenceCompletion k s
  | .sequencerWatchdogExpiry stack => Sys2Proof.Machine.execSequencerWatchdogExpiry stack s
  | .racq f => Sys2Proof.Machine.execRacq f s
  | .rrel f => Sys2Proof.Machine.execRrel f s
  | .csrr f => Sys2Proof.Machine.execCsrr f s
  | .csrw f => Sys2Proof.Machine.execCsrw f s
  | .tret f => Sys2Proof.Machine.execTret f s
  | .tlbinv f => Sys2Proof.Machine.execTlbinv f s
  | .bankcfg f => Sys2Proof.Machine.execBankcfg f s
  | .keyset f => Sys2Proof.Machine.execKeyset f s
  | .keydestroy f => Sys2Proof.Machine.execKeydestroy f s
  | .ctxsave f => Sys2Proof.Machine.execCtxsave f s
  | .ctxload f => Sys2Proof.Machine.execCtxload f s
  | .resultWrite w op => Sys2Proof.Machine.execResultWrite w op s
  | .leaseGrant k => Sys2Proof.Machine.execLeaseGrant k s
  | .leaseExpiry cluster line => Sys2Proof.Machine.execLeaseExpiry cluster line s
  | .homeWriteApply k => Sys2Proof.Machine.execHomeWriteApply k s
  | .atomicApply k => Sys2Proof.Machine.execAtomicApply k s
  | .writeCompletionReturn k => Sys2Proof.Machine.execWriteCompletionReturn k s
  | .l1Eviction cluster line => Sys2Proof.Machine.execL1Eviction cluster line s
  | .l2Eviction line => Sys2Proof.Machine.execL2Eviction line s
  | .hostAtomicAttempt k hostWrote => Sys2Proof.Machine.execHostAtomicAttempt k hostWrote s
  | .hostCxlMemWrite pa data => Sys2Proof.Machine.execHostCxlMemWrite pa data s
  | .hostCxlMemRead pa len => Sys2Proof.Machine.execHostCxlMemRead pa len s
  | .domainRequest r => Sys2Proof.Machine.execDomainRequest r s
  | .timeSync peer offset => Sys2Proof.Machine.execTimeSync peer offset s
  | .peerUnreachable peer => Sys2Proof.Machine.execPeerUnreachable peer s
  | .linkUp port => Sys2Proof.Machine.execLinkUp port s
  | .readPacket unit tag => Sys2Proof.Machine.execReadPacket unit tag s
  | .fullWrite unit tag => Sys2Proof.Machine.execFullWrite unit tag s
  | .maskedWrite unit tag => Sys2Proof.Machine.execMaskedWrite unit tag s
  | .sectorWriteback unit tag => Sys2Proof.Machine.execSectorWriteback unit tag s
  | .sequenceRow unit tag => Sys2Proof.Machine.execSequenceRow unit tag s
  | .refreshHoldRelease unit tag => Sys2Proof.Machine.execRefreshHoldRelease unit tag s
  | .readReply unit tag => Sys2Proof.Machine.execReadReply unit tag s
  | .writeAcknowledge unit tag => Sys2Proof.Machine.execWriteAcknowledge unit tag s
  | .starvationBound unit tag => Sys2Proof.Machine.execStarvationBound unit tag s
  | .scrub unit block => Sys2Proof.Machine.execScrub unit block s
  | .criticalTemperatureAssert stack => Sys2Proof.Machine.execCriticalTemperatureAssert stack s
  | .criticalTemperatureClear stack => Sys2Proof.Machine.execCriticalTemperatureClear stack s
  | .thermalHold stack => Sys2Proof.Machine.execThermalHold stack s
  | .lumenReplenish die => Sys2Proof.Machine.execLumenReplenish die s
  | .qtailWrite q v => Sys2Proof.Machine.execQtailWrite q v s
  | .nopPacket q => Sys2Proof.Machine.execNopPacket q s
  | .launchPacket q => Sys2Proof.Machine.execLaunchPacket q s
  | .signalPacket q => Sys2Proof.Machine.execSignalPacket q s
  | .killPacket q => Sys2Proof.Machine.execKillPacket q s
  | .reservedPacketType q => Sys2Proof.Machine.execReservedPacketType q s
  | .taskCheckComplete ctx task => Sys2Proof.Machine.execTaskCheckComplete ctx task s
  | .cohortPlacement die => Sys2Proof.Machine.execCohortPlacement die s
  | .stealRequest die => Sys2Proof.Machine.execStealRequest die s
  | .stealRetry die => Sys2Proof.Machine.execStealRetry die s
  | .preemption die => Sys2Proof.Machine.execPreemption die s
  | .cohortRestore die => Sys2Proof.Machine.execCohortRestore die s
  | .granuleFill w granule => Sys2Proof.Machine.execGranuleFill w granule s
  | .taskRetire ctx task => Sys2Proof.Machine.execTaskRetire ctx task s
  | .activeSetReplacement c => Sys2Proof.Machine.execActiveSetReplacement c s
  | .activeSetRotation c => Sys2Proof.Machine.execActiveSetRotation c s
  | .faultAnswerReplay record => Sys2Proof.Machine.execFaultAnswerReplay record s
  | .faultAnswerDeliver record => Sys2Proof.Machine.execFaultAnswerDeliver record s
  | .faultAnswerKill record => Sys2Proof.Machine.execFaultAnswerKill record s
  | .fbtailWrite v => Sys2Proof.Machine.execFbtailWrite v s
  | .tlbcmdPage v => Sys2Proof.Machine.execTlbcmdPage v s
  | .tlbcmdContext v => Sys2Proof.Machine.execTlbcmdContext v s
  | .tlbcmdAll v => Sys2Proof.Machine.execTlbcmdAll v s
  | .tlbstatRead => Sys2Proof.Machine.execTlbstatRead s
  | .evtpopRead => Sys2Proof.Machine.execEvtpopRead s
  | .registerWrite off v => Sys2Proof.Machine.execRegisterWrite off v s
  | .contextCreate => Sys2Proof.Machine.execContextCreate s
  | .contextDestroy => Sys2Proof.Machine.execContextDestroy s
  | .graphCreate => Sys2Proof.Machine.execGraphCreate s
  | .graphDestroy => Sys2Proof.Machine.execGraphDestroy s
  | .keySession => Sys2Proof.Machine.execKeySession s
  | .keyLoad => Sys2Proof.Machine.execKeyLoad s
  | .keyDestroy => Sys2Proof.Machine.execKeyDestroy s
  | .attest => Sys2Proof.Machine.execAttest s
  | .domainCmd => Sys2Proof.Machine.execDomainCmd s
  | .exportRange => Sys2Proof.Machine.execExportRange s
  | .setLimit => Sys2Proof.Machine.execSetLimit s
  | .mailboxUnknownCommand => Sys2Proof.Machine.execMailboxUnknownCommand s
  | .cltailWrite v => Sys2Proof.Machine.execCltailWrite v s
  | .collectiveStart => Sys2Proof.Machine.execCollectiveStart s
  | .contributionArrival j data poison => Sys2Proof.Machine.execContributionArrival j data poison s
  | .collectiveTimeout => Sys2Proof.Machine.execCollectiveTimeout s
  | .collectiveCompletion => Sys2Proof.Machine.execCollectiveCompletion s
  | .powerUp => Sys2Proof.Machine.execPowerUp s
  | .powerOff => Sys2Proof.Machine.execPowerOff s
  | .bootgo v => Sys2Proof.Machine.execBootgo v s
  | .bootVerifyComplete => Sys2Proof.Machine.execBootVerifyComplete s
  | .firmwareInitComplete => Sys2Proof.Machine.execFirmwareInitComplete s
  | .cxlReset => Sys2Proof.Machine.execCxlReset s
  | .functionLevelReset => Sys2Proof.Machine.execFunctionLevelReset s
  | .hotReset => Sys2Proof.Machine.execHotReset s
  | .d3cold => Sys2Proof.Machine.execD3cold s
  | .qcfgWrite q v => Sys2Proof.Machine.execQcfgWrite q v s
  | .fbcfgWrite v => Sys2Proof.Machine.execFbcfgWrite v s
  | .doubleError e => Sys2Proof.Machine.execDoubleError e s
  | .portLinkLoss port => Sys2Proof.Machine.execPortLinkLoss port s
  | .rateChange die rate => Sys2Proof.Machine.execRateChange die rate s

end Sys2Proof.Machine
end

