-- ==== Sys2Proof/Machine/Step.lean ====
section
/-!
DEFINITION. One step of the machine: time passes, and the next event of the agenda happens, or, where none is listed, the core of the
focus warp issues (log entries 2, 4 and 5); and where a word for the next issue is placed (log entry 14).
-/
namespace Sys2Proof.Machine

/-- The passing of time before a step: a free number of nanoseconds of TIME and of cycles (log entries 4 and 5). -/
def State.advance (s : State) : State :=
  let c := Config.waits s.tick
  { s with
    tick := s.tick + 1, time := s.time + Config.elapsed s.tick, w := s.w.pass c, warps := s.warps.map (Warp.pass c) }

/-- One step. -/
def step (s : State) : Host.Outcome State Fault Refusal :=
  let s1 := s.advance
  match s1.agenda with
  | [] => exec (.issueStep s1.w.id.core) s1
  | e :: r => exec e { s1 with agenda := r }

/-- A page-table entry that maps a 64 KiB page of channel 0 of stack 0 at PA 0, readable, writable and executable (15 R336, R337). -/
def codePte : W64 := 0x00A000000000003F

/-- Storing bytes at their homes. -/
def State.placeCode (s : State) (ph : Phys) (bs : List Byte) : State :=
  { s with m := (s.m.putBytes s.time 0 0 none (runOf 0 bs |>.map (fun p => ({ ph with loc := ph.loc + p.1 }, p.2)))).1 }

/-- Nothing but what the home holds can be fetched of a line (03 R77): no bytes that were there before, none on their way. -/
def State.settleCode (s : State) (line : Nat) : State :=
  { s with m := { s.m with
    oldCode := s.m.oldCode.filter (fun o => o.line != line), msgs := s.m.msgs.filter (fun g => g.line != line), l1 := s.m.l1.filter (fun x => x.line != line) } }

/-- The focus warp able to issue at an address that takes any instruction: resident, running, the code page in its TLB, key slot 0 loaded. -/
def State.primeFetch (s : State) : State :=
  let w := { s.w with live := true, exited := false, wait := .ready, active := true, lstate := if s.w.running = 0 then 0 else s.w.lstate }
  let w1 : Warp := w.jump w.running (BitVec.ofNat 32 (w.issuePc.toNat / 32 * 32))
  let va := w1.codeVa w1.issuePc
  match s.m.translate w1.id.core w1.ctx va .exec with
  | .ok _ => { s with agenda := [], w := w1 }
  | .error _ =>
    let w2 : Warp := { w1 with csr := { w1.csr with codebase := BitVec.ofNat 64 (w1.csr.codebase.toNat % 2 ^ 54 / 65536 * 65536) } }
    let va2 := w2.codeVa w2.issuePc
    { s with
      agenda := [], w := w2
      m := { s.m with
        tlb := ⟨0, w2.id.core, w2.ctx, va2.toNat / 65536 * 65536, 3, codePte⟩ :: s.m.tlb.filter (fun e => !(e.tier < 2 && coversVa w2.ctx va2.toNat e))
        keys := ⟨0, true, none, s.m.keyGen 0, 0, 0, []⟩ :: s.m.keys.filter (fun k => k.slot != 0) } }

/-- The state with an instruction's bytes stored where the next step fetches; every bit above nbits is 0, up to 16 bytes. -/
def State.withFetchWord (s : State) (nbits w : Nat) : State :=
  let s1 := s.primeFetch
  match s1.m.translate s1.w.id.core s1.w.ctx (s1.w.codeVa s1.w.issuePc) .exec with
  | .ok ph => (s1.placeCode ph (leBytes 16 (w % 2 ^ nbits))).settleCode (lineOf ph.loc)
  | .error _ => s1

end Sys2Proof.Machine
end

