-- ==== Sys2Proof/Safety.lean ====
section
/-!
DEFINITION. The terms in which claims are stated: what a step or a run can reach and what keeps a property; which memories are in their
canonical form; when an instruction issues with nothing in its way; and what its end leaves unchanged.
-/
namespace Sys2Proof.Machine

/-- One step leads from a state to another. -/
def Steps (s t : State) : Prop := step s = .next t

/-- A number of steps leads from a state to another. -/
def Reaches : Nat → State → State → Prop
  | 0, s, t => s = t
  | n + 1, s, t => ∃ u, Steps s u ∧ Reaches n u t

/-- A property that every step keeps. -/
def KeptByStep (p : State → Prop) : Prop := ∀ s t, p s → Steps s t → p t

/-- The memories and banks are in their canonical form. -/
def State.memoryWf (s : State) : Bool := Memory.wf s.m.dram && Memory.wf s.m.bank

/-- An L1 lists a line once (17 R355). -/
def MemSys.linesOnce (m : MemSys) : Bool := decide ((m.l1.map (fun x => (x.cluster, x.line))).Nodup)

/-- The context in which a word with an opcode and fields issues for the focus warp (01 R20, R37; 03 R82): the issue address, the running
lanes at it, and those among them whose guard is true. -/
def State.issueAt (s : State) (opc : Nat) (f : Fields) : Ctx :=
  { f := f, opc := opc, len := f.fmt.bytes, p := s.w.issuePc, x := s.w.lanesAt s.w.issuePc
    g := s.guardLanes f (s.w.lanesAt s.w.issuePc), id := s.fresh + 1 }

/-- Fields that are all zero. -/
def noFields : Fields :=
  { fmt := .f64, stall := 0, slot := 0, wait := 0, g0 := none, g1 := none, gcomb := false, sub := 0, evict := 0, level := 0
    d := .v 0, a := .v 0, b := .v 0, c := .v 0, e := .v 0, mod := 0, imm := 0 }

/-- The same by the instruction; a step of another agent has no issue, and this is then one of opcode 0. -/
def State.ctxOf (s : State) (i : Instr) : Ctx :=
  match opEntry i with
  | none => s.issueAt 0 noFields
  | some (ent, f) => s.issueAt ent.opc f

/-- Nothing stands between the focus warp and a register that an instruction names: it is not armed (14 R300) and not absent (15 R346). -/
def Warp.reachable (w : Warp) (r : Nat) : Bool := w.arr.get r != 1 && !w.absent.getLsbD r

/-- A register's value is settled: no result for it is outstanding (01 R40) and no deferred fault marks it (06 R180). -/
def Warp.settled (w : Warp) (r : Nat) : Bool := !w.marks.any (fun k => k.reg == r) && !w.ops.any (fun o => o.dests.any (fun d => d.1 == r))

/-- An instruction of the focus warp issues with nothing in its way (15 R329; 01 R38-R40; 03 R82): the warp can issue, the checks that come
before the operands pass, the slots it waits on count nothing, its registers can be reached, those it reads are settled, no SPILL still reads
one it writes, no deferred fault is outstanding, no result falls due in between, and some lane executes it. -/
def State.clear (s : State) (i : Instr) : Bool :=
  match opEntry i with
  | none => false
  | some (ent, f) =>
    s.w.issuable && s.w.ops.all (fun o => o.pending s.w.cycle) && (preFault s.w i f ent).isNone && !slotHeld s.w f && s.w.deferred.isEmpty &&
      (guardRegs f ++ readsOf i f ++ writesOf i f).all s.w.reachable && (guardRegs f ++ readsOf i f).all s.w.settled &&
      !anySpilling s.w (changesOf i f) && (s.issueAt ent.opc f).g != 0

/-- The same for an instruction that no lane executes (01 R37; 03 R79): the warp can issue, the checks that come before the operands pass, the slots
it waits on count nothing, and the registers of its guard can be read; what its operands are does not matter. -/
def State.passedOver (s : State) (i : Instr) : Bool :=
  match opEntry i with
  | none => false
  | some (ent, f) =>
    s.w.issuable && s.w.ops.all (fun o => o.pending s.w.cycle) && (preFault s.w i f ent).isNone && !slotHeld s.w f && s.w.deferred.isEmpty &&
      (guardRegs f).all s.w.reachable && (guardRegs f).all s.w.settled && (s.issueAt ent.opc f).g == 0

/-- The state in which the effect of an instruction acts: full registers that it reads have become idle (14 R300). -/
def State.consumed (s : State) (i : Instr) : State :=
  match opEntry i with
  | none => s
  | some (_, f) => s.updW (fun w => w.consume (readsOf i f ++ guardRegs f))

/-- The lanes at the issue address stand at the next instruction, the others where they were (01 R20, R21). -/
def Ctx.Passed (c : Ctx) (s t : State) : Prop :=
  ∀ l < 32, t.w.lpc.get l = if c.x.getLsbD l then c.p + BitVec.ofNat 32 c.len else s.w.lpc.get l

/-- The cycles that an issue takes (01 R37). -/
def Ctx.Spent (c : Ctx) (s t : State) : Prop := t.w.cycle = s.w.cycle + max 1 c.f.stall.toNat

/-- An instruction has been issued: its lanes have passed and its cycles are spent. -/
def Ctx.Went (c : Ctx) (s t : State) : Prop := c.Passed s t ∧ c.Spent s t

/-- The focus warp is as it was but for the lanes' program counters and the bookkeeping of results, arrivals and marks: its registers, control
registers, lane states, mode, cursors and accumulators hold what they held. -/
def WarpKept (s t : State) : Prop :=
  t.w = { s.w with
    lpc := t.w.lpc, arr := t.w.arr, marks := t.w.marks, absent := t.w.absent, ops := t.w.ops, sb := t.w.sb, cycle := t.w.cycle, ahead := t.w.ahead
    idleSince := t.w.idleSince, heldAt := t.w.heldAt }

/-- Nothing outside the focus warp has changed: no other warp, no byte of memory, no cache, engine, queue or register of the host window. -/
def RestKept (s t : State) : Prop := t = { s with fresh := t.fresh, w := t.w }

/-- Only the focus warp, the memory system and the numbering of messages have changed. -/
def OnlyMemory (s t : State) : Prop := t = { s with fresh := t.fresh, w := t.w, m := t.m }

/-- Every home and bank holds the bytes it held, and keys, contexts and modes are as they were: only the translations held, the messages on their
way and the lines of L1s may differ. -/
def HomesKept (s t : State) : Prop := t.m = { s.m with tlb := t.m.tlb, msgs := t.m.msgs, l1 := t.m.l1 }

/-- A line of an L1 without its replacement class. -/
def MemSys.lineOfL1 (m : MemSys) (cl line : Nat) : Option L1Line := (m.l1Find cl line).map (fun x => { x with cls := 0 })

/-- Messages that an operation has sent are the new ones, so many. -/
def Ctx.Sent (c : Ctx) (s t : State) (n : Nat) : Prop :=
  ∃ new, t.m.msgs = s.m.msgs ++ new ∧ new.length = n ∧ ∀ g ∈ new, g.op = c.id ∧ g.warp = s.w.ref

/-- Executing lanes stand where they jumped to, the other lanes at the issue address at the next instruction, the rest where they were. -/
def Ctx.Jumped (c : Ctx) (s t : State) (target : Nat → W32) : Prop :=
  ∀ l < 32, t.w.lpc.get l =
    if c.g.getLsbD l then target l else if c.x.getLsbD l then c.p + BitVec.ofNat 32 c.len else s.w.lpc.get l

/-- A result of this issue is outstanding (01 R38): with its slot, the registers and lanes it will write, and the replies it waits for; nothing
bounds when it is ready. -/
def Ctx.Outstanding (c : Ctx) (t : State) (dests : List (Nat × Lanes)) (parts : Nat) : Prop :=
  ∃ o, t.w.ops.getLast? = some o ∧ o.id = c.id ∧ o.slot = slotOf c.f ∧ o.dests = dests ∧ o.parts = parts ∧ o.ready = none

/-- Nothing has changed but the focus warp's program counters and registers, the bookkeeping of their results, arrivals and marks (01 R38, R40,
R41; 14 R300) and the count of cycles: no control register, accumulator, cursor, lane state or mode, no other warp, no byte of memory. -/
def OnlyRegisters (s t : State) : Prop :=
  t = { s with
    fresh := t.fresh
    w := { s.w with
      lpc := t.w.lpc, v := t.w.v, s := t.w.s, arr := t.w.arr, marks := t.w.marks, absent := t.w.absent, ops := t.w.ops, sb := t.w.sb
      cycle := t.w.cycle, ahead := t.w.ahead, idleSince := t.w.idleSince, heldAt := t.w.heldAt } }

/-- The same, but that flags have been added to FPSTATUS (02 R52; 05 R143). -/
def OnlyRegistersAndFlags (s t : State) (fl : BitVec 5) : Prop :=
  OnlyRegisters { s with w := { s.w with csr := { s.w.csr with fpstatus := s.w.csr.fpstatus ||| fl.setWidth 64 } } } t

/-- A destination operand holds a value of each executing lane, in 32 bits or in 64 (01 R27, R28; 04 R107): a vector register in those lanes,
and for 64 bits its pair; a scalar the value of the lowest lane, which the others must share, a 32-bit one extended; ZERO nothing. Every other
register is as it was, and so is the destination in the other lanes. -/
def Ctx.Holds (c : Ctx) (s t : State) (o : Opnd) (wide signed : Bool) (val : Nat → W64) : Prop :=
  match o with
  | .v d =>
    t.w.s = s.w.s ∧ ∀ r l, l < 32 → t.w.v.get (r * 32 + l) =
      if c.g.getLsbD l ∧ r = d then (val l).setWidth 32
      else if c.g.getLsbD l ∧ wide ∧ r = d + 1 then (val l >>> (32 : Nat)).setWidth 32
      else s.w.v.get (r * 32 + l)
  | .s d =>
    t.w.v = s.w.v ∧ ∀ r, t.w.s.get r =
      if r = d then
        (if wide then val (lowLane c.g) else if signed then ((val (lowLane c.g)).setWidth 32).signExtend 64 else ((val (lowLane c.g)).setWidth 32).setWidth 64)
      else s.w.s.get r
  | .sp _ => t.w.v = s.w.v ∧ t.w.s = s.w.s

/-- Executing lanes agree on a value, in 32 bits or in 64 (01 R26): what a scalar destination needs. -/
def Ctx.agrees (c : Ctx) (o : Opnd) (wide : Bool) (val : Nat → W64) : Bool :=
  match o with
  | .s _ => (bitList c.g).all (fun l => if wide then val l == val (lowLane c.g) else (val l).setWidth 32 == (val (lowLane c.g)).setWidth 32)
  | .v _ => true
  | .sp _ => true

end Sys2Proof.Machine
end

