-- ==== Sys2Proof/Safety/Forms.lean ====
section
/-!
DEFINITION. The results of the instructions that write one value a lane, as chapters 04 and 05 give them: tables by instruction, written from
the rules with the arithmetic of words and integers, in which claims about those instructions are stated.
-/
namespace Sys2Proof.Machine

/-- What an instruction that writes one value a lane leaves: the width and signedness of its destination, the value of a lane, and the flags of all. -/
structure LaneForm where
  dest : Opnd
  wide : Bool
  signed : Bool := false
  val : Ctx → State → Nat → W64
  flags : Ctx → State → BitVec 5 := fun _ _ => 0

/-- A result of one or the other width. -/
def LaneForm.ofW (f : Fields) (w64 signed : Bool) (h32 : Ctx → State → Nat → W32) (h64 : Ctx → State → Nat → W64) : LaneForm :=
  { dest := f.d, wide := w64, signed := signed, val := fun c s l => if w64 then h64 c s l else (h32 c s l).setWidth 64 }

/-- The value of a type nearest to an exact result (02 R45). -/
def nearest (n : Nat) (signed : Bool) (z : Int) : BitVec n :=
  let lo : Int := if signed then -2 ^ (n - 1) else 0
  let hi : Int := if signed then 2 ^ (n - 1) - 1 else 2 ^ n - 1
  BitVec.ofInt n (max lo (min hi z))

/-- A word as an integer of a type (02 R45). -/
def asInt {n : Nat} (signed : Bool) (x : BitVec n) : Int := if signed then x.toInt else x.toNat

/-- A two-source operation of type T (04 R125): what it does to words that wrap, and, where it saturates, its exact result. -/
def LaneForm.bin (f : Fields) (sat : Bool) (wrap : Bool → {n : Nat} → BitVec n → BitVec n → BitVec n) (exact : Int → Int → Int) : LaneForm :=
  let g := tSigned f
  .ofW f (tWide f) g
    (fun _ s l =>
      let a := s.read32 f.a l; let b := s.read32 f.b l
      if sat then nearest 32 g (exact (asInt g a) (asInt g b)) else wrap g a b)
    (fun _ s l =>
      let a := s.read64 f.a l; let b := s.read64 f.b l
      if sat then nearest 64 g (exact (asInt g a) (asInt g b)) else wrap g a b)

/-- A bit operation of two sources in either width (04 R134). -/
def LaneForm.bits (f : Fields) (h : {n : Nat} → BitVec n → BitVec n → BitVec n) : LaneForm :=
  .ofW f (f.sub = 1) false (fun _ s l => h (s.read32 f.a l) (s.read32 f.b l)) (fun _ s l => h (s.read64 f.a l) (s.read64 f.b l))

/-- A shift of A by B (04 R132). -/
def LaneForm.shift (f : Fields) (h : {n : Nat} → BitVec n → Nat → BitVec n) : LaneForm :=
  .ofW f (f.sub = 1) false (fun _ s l => h (s.read32 f.a l) (s.read32 f.b l).toNat) (fun _ s l => h (s.read64 f.a l) (s.read32 f.b l).toNat)

/-- A count over the bits of A (04 R135). -/
def LaneForm.count (f : Fields) (h : {n : Nat} → BitVec n → Nat) : LaneForm :=
  { dest := f.d, wide := false
    val := fun _ s l => (BitVec.ofNat 32 (if f.sub = 1 then h (s.read64 f.a l) else h (s.read32 f.a l))).setWidth 64 }

/-- The field of 04 R136 on an operand taken as an integer: bits pos to pos + len - 1, signed or not. -/
def fieldAt (signed : Bool) (z : Int) (pos len : Nat) : Int := if signed then Int.bmod (z >>> pos) (2 ^ len) else (z >>> pos) % 2 ^ len

/-- The bits of a mask of 04 R136. -/
def maskAt (n pos len : Nat) : BitVec n := BitVec.ofNat n ((2 ^ len - 1) * 2 ^ pos)

/-- The integer instructions with one result (04 R123, R126-R131, R138, R139). -/
def integerForm : Instr → Option LaneForm
  | .rdtime f => some { dest := f.d, wide := true, val := fun _ s _ => BitVec.ofNat 64 (if f.sub = 1 then s.w.cycle else s.time) }
  | .mov f => some (.ofW f (f.sub = 1) false (fun _ s l => s.read32 f.a l) (fun _ s l => s.read64 f.a l))
  | .movi f =>
    let i := f.imm
    let i28 : BitVec 28 := i.setWidth 28
    if f.fmt = .f96i then
      match f.sub.toNat with
      | 0 => some { dest := f.d, wide := false, signed := true, val := fun _ _ _ => i28.signExtend 64 }
      | 1 => some { dest := f.d, wide := false, val := fun _ _ _ => i28.setWidth 64 }
      | 2 => some { dest := f.d, wide := true, val := fun _ _ _ => i28.signExtend 64 }
      | _ => some { dest := f.d, wide := false, val := fun _ _ _ => i28.setWidth 64 <<< 4 }
    else
      match f.mod.toNat with
      | 0 => some { dest := f.d, wide := false, val := fun _ _ _ => i.setWidth 64 }
      | 1 => some { dest := f.d, wide := true, val := fun _ _ _ => i.signExtend 64 }
      | 2 => some { dest := f.d, wide := true, val := fun _ _ _ => i.setWidth 64 }
      | _ =>
        let low (s : State) (l : Nat) : W32 := match f.d with | .v r => s.w.v.get (r * 32 + l) | .s r => (s.w.s.get r).setWidth 32 | .sp _ => 0
        some { dest := f.d, wide := true, val := fun _ s l => i ++ low s l }
  | .sel f =>
    let bit (s : State) (l : Nat) : Bool := (s.read32 f.c l).getLsbD (f.modBits 4 0)
    some (.ofW f (f.sub = 1) false (fun _ s l => if bit s l then s.read32 f.a l else s.read32 f.b l)
      (fun _ s l => if bit s l then s.read64 f.a l else s.read64 f.b l))
  | .iadd f => some (.bin f (f.mod = 1) (fun _ {_} a b => a + b) (· + ·))
  | .isub f => some (.bin f (f.mod = 1) (fun _ {_} a b => a - b) (· - ·))
  | .imin f => some (.bin f false (fun g {_} a b => if (if g then a.sle b else a.ule b) then a else b) min)
  | .imax f => some (.bin f false (fun g {_} a b => if (if g then a.sle b else a.ule b) then b else a) max)
  | .iabs f =>
    some (.ofW f (tWide f) true
      (fun _ s l => let a := s.read32 f.a l; if f.mod = 1 then nearest 32 true a.toInt.natAbs else if a.msb then -a else a)
      (fun _ s l => let a := s.read64 f.a l; if f.mod = 1 then nearest 64 true a.toInt.natAbs else if a.msb then -a else a))
  | .imul f => some (.bin f (f.mod = 1) (fun _ {_} a b => a * b) (· * ·))
  | .imulh f =>
    some (.bin f false (fun g {n} a b =>
      let x : BitVec (2 * n) := if g then a.signExtend (2 * n) else a.setWidth (2 * n)
      let y : BitVec (2 * n) := if g then b.signExtend (2 * n) else b.setWidth (2 * n)
      ((x * y) >>> n).setWidth n) (fun a _ => a))
  | .imad f =>
    let g := tSigned f
    some (.ofW f (tWide f) g
      (fun _ s l =>
        let a := s.read32 f.a l; let b := s.read32 f.b l; let c := s.read32 f.c l
        if f.mod = 1 then nearest 32 g (asInt g a * asInt g b + asInt g c) else a * b + c)
      (fun _ s l =>
        let a := s.read64 f.a l; let b := s.read64 f.b l; let c := s.read64 f.c l
        if f.mod = 1 then nearest 64 g (asInt g a * asInt g b + asInt g c) else a * b + c))
  | .imadw f =>
    let ext (x : W32) : W64 := if f.sub = 0 then x.signExtend 64 else x.setWidth 64
    some { dest := f.d, wide := true, val := fun _ s l => ext (s.read32 f.a l) * ext (s.read32 f.b l) + s.read64 f.c l }
  | .divOp f => some (.bin f false (fun g {n} a b => if b = 0 then BitVec.allOnes n else if g then a.sdiv b else a / b) (fun a _ => a))
  | .remOp f => some (.bin f false (fun g {_} a b => if b = 0 then a else if g then a.srem b else a % b) (fun a _ => a))
  | .lea f =>
    some { dest := f.d, wide := true, val := fun _ s l =>
      let b := s.read32 f.b l
      s.read64 f.a l + (if f.modBits 3 3 = 1 then b.signExtend 64 else b.setWidth 64) <<< f.modBits 2 0 }
  | .cvti f =>
    let d := itype (f.subBits 2 0)
    let a := itype (f.subBits 5 3)
    some { dest := f.d, wide := d.1 = 64, signed := d.2, val := fun _ s l =>
      let x : W64 := if a.1 = 64 then s.read64 f.a l else (s.read32 f.a l).setWidth 64
      let z := asInt a.2 (x.setWidth a.1)
      let y : BitVec d.1 := if f.mod = 1 then nearest d.1 d.2 z else BitVec.ofInt d.1 z
      BitVec.ofInt 64 (asInt d.2 y) }
  | _ => none

/-- The bit instructions (04 R129, R132-R137). -/
def bitForm : Instr → Option LaneForm
  | .icmp f =>
    let g := tSigned f
    let test (s : State) (l : Nat) : Bool :=
      let a : Int := if tWide f then asInt g (s.read64 f.a l) else asInt g (s.read32 f.a l)
      let b : Int := if tWide f then asInt g (s.read64 f.b l) else asInt g (s.read32 f.b l)
      match f.modBits 2 0 with
      | 0 => a = b | 1 => a ≠ b | 2 => a < b | 3 => a ≤ b | 4 => b < a | _ => b ≤ a
    some (compareForm f (f.modBits 8 8 = 1) (f.modBits 7 3) test)
  | .shl f => some (.shift f (fun {w} a n => if n < w then a <<< n else 0))
  | .shr f => some (.shift f (fun a n => a >>> n))
  | .sar f => some (.shift f (fun a n => a.sshiftRight n))
  | .rot f => some (.shift f (fun {w} a n => a.rotateLeft (n % w)))
  | .fshl f =>
    some { dest := f.d, wide := false, val := fun _ s l =>
      ((s.read32 f.a l ++ s.read32 f.b l : W64) <<< ((s.read32 f.c l).toNat % 32)) >>> 32 }
  | .fshr f =>
    some { dest := f.d, wide := false, val := fun _ s l =>
      (((s.read32 f.a l ++ s.read32 f.b l : W64) >>> ((s.read32 f.c l).toNat % 32)).setWidth 32).setWidth 64 }
  | .andOp f => some (.bits f (fun a b => a &&& b))
  | .orOp f => some (.bits f (fun a b => a ||| b))
  | .xorOp f => some (.bits f (fun a b => a ^^^ b))
  | .notOp f => some (.bits f (fun a _ => ~~~a))
  | .ltab f =>
    let table {n : Nat} (a b c : BitVec n) : BitVec n :=
      ofBits n ((List.range n).filter (fun i =>
        (f.modBits 7 0).testBit ((a.getLsbD i).toNat + 2 * (b.getLsbD i).toNat + 4 * (c.getLsbD i).toNat)))
    some (.ofW f (f.sub = 1) false (fun _ s l => table (s.read32 f.a l) (s.read32 f.b l) (s.read32 f.c l))
      (fun _ s l => table (s.read64 f.a l) (s.read64 f.b l) (s.read64 f.c l)))
  | .popc f => some (.count f (fun {n} x => (List.range n).countP (fun i => x.getLsbD i)))
  | .clz f => some (.count f (fun {n} x => if x = 0 then n else n - 1 - Nat.log2 x.toNat))
  | .ctz f => some (.count f (fun {n} x => ((List.range n).takeWhile (fun i => !x.getLsbD i)).length))
  | .brev f => some (.bits f (fun a _ => a.reverse))
  | .bfe f =>
    let g : Bool := f.sub.toNat % 2 = 1
    some (.ofW f (tWide f) g
      (fun _ s l => let k := s.read32 f.b l; BitVec.ofInt 32 (fieldAt g (asInt g (s.read32 f.a l)) (k.toNat % 256) (k.toNat / 256 % 256)))
      (fun _ s l => let k := s.read32 f.b l; BitVec.ofInt 64 (fieldAt g (asInt g (s.read64 f.a l)) (k.toNat % 256) (k.toNat / 256 % 256))))
  | .bfi f =>
    let ins {n : Nat} (a b : BitVec n) (k : W32) : BitVec n :=
      let m := maskAt n (k.toNat % 256) (k.toNat / 256 % 256)
      (a &&& ~~~m) ||| ((b <<< (k.toNat % 256)) &&& m)
    some (.ofW f (f.sub = 1) false (fun _ s l => ins (s.read32 f.a l) (s.read32 f.b l) (s.read32 f.c l))
      (fun _ s l => ins (s.read64 f.a l) (s.read64 f.b l) (s.read32 f.c l)))
  | .prmb f =>
    let pick (x : W64) (k j : Nat) : Byte :=
      let b : Byte := (x >>> (8 * (k / 2 ^ (5 * j) % 8))).setWidth 8
      match k / 2 ^ (5 * j + 3) % 4 with
      | 0 => b | 1 => 0 | 2 => if b.msb then 0xFF else 0 | _ => 0xFF
    some { dest := f.d, wide := false, val := fun _ s l =>
      let x : W64 := s.read32 f.b l ++ s.read32 f.a l
      let k := (s.read32 f.c l).toNat
      (pick x k 3 ++ pick x k 2 ++ pick x k 1 ++ pick x k 0 : W32).setWidth 64 }
  | _ => none
where
  /-- The two forms of a comparison (04 R129; 05 R147): all ones or all zeros, or one bit of the destination. -/
  compareForm (f : Fields) (full : Bool) (bit : Nat) (test : State → Nat → Bool) : LaneForm :=
    let scalar : Bool := match f.d with | .s _ => true | .v _ => false | .sp _ => false
    { dest := f.d, wide := scalar
      val := fun _ s l =>
        if full then (if test s l then (if scalar then BitVec.allOnes 64 else 0xFFFFFFFF) else 0)
        else
          let old : W64 := s.readW scalar f.d l
          if test s l then old ||| ((1 : W64) <<< bit) else old &&& ~~~((1 : W64) <<< bit) }

/-- The lane number inside a tile and the tile's first lane, for a tile width w (05 R159). -/
def inTile (w l : Nat) : Nat := l % w
def laneBase (w l : Nat) : Nat := l - l % w

/-- The cross-lane instructions that write every executing lane (05 R160, R162-R165). -/
def crossForm : Instr → Option LaneForm
  | .shfl f =>
    let src (s : State) (l : Nat) : Nat :=
      let w := s.w.tileWidth
      let n := (s.read32 f.b l).toNat % 32
      let i := inTile w l
      laneBase w l + (match f.sub.toNat with
        | 0 => n % w
        | 1 => (i + 32 * w - n) % w
        | 2 => (i + n) % w
        | _ => (i ^^^ n) % w)
    some (.ofW f (f.mod = 1) false (fun _ s l => s.read32 f.a (src s l)) (fun _ s l => s.read64 f.a (src s l)))
  | .vote f =>
    some { dest := f.d, wide := false, val := fun c s l =>
      let w := s.w.tileWidth
      let on (m : Nat) : Bool := (s.read32 f.a m).getLsbD (f.modBits 4 0)
      let ex : List Nat := (List.range 32).filter (fun m => c.g.getLsbD m && laneBase w m == laneBase w l)
      match f.sub.toNat with
      | 0 => if ex.all on then 1 else 0
      | 1 => if ex.any on then 1 else 0
      | _ => BitVec.ofNat 64 (ex.foldl (fun acc m => if on m then acc + 2 ^ inTile w m else acc) 0) }
  | .scanOp f =>
    some { dest := f.d, wide := false, signed := f.sub.toNat ≤ 2
           val := fun c s l => ((scanAt f c s l).1).setWidth 64
           flags := fun c s => (bitList c.g).foldl (fun acc l => acc ||| (scanAt f c s l).2) 0 }
  | .redl f =>
    some { dest := f.d, wide := false, signed := f.sub.toNat ≤ 2
           val := fun c s l => ((redAt f c s l).1).setWidth 64
           flags := fun c s => (bitList c.g).foldl (fun acc l => acc ||| (redAt f c s l).2) 0 }
  | .matchOp f =>
    some { dest := f.d, wide := false, val := fun c s l =>
      let w := s.w.tileWidth
      let ex : List Nat := (List.range 32).filter (fun m => c.g.getLsbD m && laneBase w m == laneBase w l)
      BitVec.ofNat 64 (ex.foldl (fun acc m => if s.readW (f.sub = 1) f.a m = s.readW (f.sub = 1) f.a l then acc + 2 ^ inTile w m else acc) 0) }
  | .bcast f =>
    let src (c : Ctx) (s : State) (l : Nat) : Nat :=
      let w := s.w.tileWidth
      let ex : List Nat := (List.range 32).filter (fun m => c.g.getLsbD m && laneBase w m == laneBase w l)
      if f.mod = 1 then ex.foldl max 0 else ex.foldl min 32
    some (.ofW f (f.sub = 1) false (fun c s l => s.read32 f.a (src c s l)) (fun c s l => s.read64 f.a (src c s l)))
  | _ => none
where
  /-- The tree sum of 05 R163 up to a lane, and over its tile. -/
  scanAt (f : Fields) (c : Ctx) (s : State) (l : Nat) : W32 × BitVec 5 :=
    redScan f.sub.toNat (s.laneMode f) (fieldOf s.w.csr.partition 2 0) (s.tileVals f s.w.tileWidth c.g l) (f.modBits 7 7 = 1) (l % s.w.tileWidth)
  redAt (f : Fields) (c : Ctx) (s : State) (l : Nat) : W32 × BitVec 5 :=
    redTree f.sub.toNat (s.laneMode f) (fieldOf s.w.csr.partition 2 0) (s.tileVals f s.w.tileWidth c.g l)

/-- The number that a finite value stands for (02 R45-R48). -/
def Val.isFinite : Val → Bool
  | .nan .. => false
  | .inf _ => false
  | .fin .. => true
def Val.rat : Val → ℚ
  | .nan .. => 0
  | .inf _ => 0
  | .fin n m e => (if n then -1 else 1) * (m : ℚ) * (2 : ℚ) ^ e

/-- The code r of a sum of two codes under RNE with subnormals kept (02 R48, R53): a NaN where an operand is one or infinities of two signs meet, an infinity where
one is infinite, else the exact sum rounded, of which a zero has the sign that both operands have. -/
def Flt.SumIs (t : Flt) (x y r : Nat) : Prop :=
  match t.val x, t.val y with
  | .nan .., _ => r = t.nanCode
  | .inf _, .nan .. => r = t.nanCode
  | .inf a, .inf b => r = if a = b then x else t.nanCode
  | .inf _, .fin .. => r = x
  | .fin .., .nan .. => r = t.nanCode
  | .fin .., .inf _ => r = y
  | .fin a m d, .fin b n e =>
    let q : ℚ := (Val.fin a m d).rat + (Val.fin b n e).rat
    if q = 0 then r = if a = true ∧ b = true then t.signBit else 0
    else ∃ neg k f, (Val.fin neg k f).rat = q ∧ r = froundPlain t (.fin neg k f)

/-- The place of an FP32 code in the order of its values, with −0 below +0 (05 R146). -/
def f32Order (x : Nat) : Nat := if x < 2 ^ 31 then 2 ^ 31 + x else 2 ^ 32 - 1 - x

/-- The new value r of a floating atomic, of old value m and operand c (06 R192): FADD.F32, the pairs of BF16 and F16, or the minimum or maximum of FP32, in
which a NaN gives NaN, or, alone and under NUM, the other value. -/
def FltUpdate (fn : Nat) (num : Bool) (m c r : Nat) : Prop :=
  match fn with
  | 0 => f32.SumIs m c r
  | 1 => bf16.SumIs (m % 65536) (c % 65536) (r % 65536) ∧ bf16.SumIs (m / 65536) (c / 65536) (r / 65536)
  | 2 => f16.SumIs (m % 65536) (c % 65536) (r % 65536) ∧ f16.SumIs (m / 65536) (c / 65536) (r / 65536)
  | k =>
    match (f32.val m).isNan, (f32.val c).isNan with
    | true, true => r = 0x7FC00000
    | true, false => r = if num then c else 0x7FC00000
    | false, true => r = if num then m else 0x7FC00000
    | false, false => r = if k = 3 ↔ f32Order m ≤ f32Order c then m else c

/-- A floating result and its flags (05 R141, R143). -/
def LaneForm.flt (f : Fields) (h : FpMode → State → Nat → Nat × BitVec 5) : LaneForm :=
  { dest := f.d, wide := false
    val := fun _ s l => (BitVec.ofNat 32 (h (s.modeOf f) s l).1).setWidth 64
    flags := fun c s => (bitList c.g).foldl (fun acc l => acc ||| (h (s.modeOf f) s l).2) 0 }

/-- The floating instructions (05 R145-R158): the operation of chapter 02 that each is, on its operands read in the format of the instruction. -/
def floatForm : Instr → Option LaneForm
  | .fadd f => let t := fltOf f.sub.toNat; some (.flt f (fun md s l => addF t md (s.readF t md f.a l) (s.readF t md f.b l)))
  | .fsub f => let t := fltOf f.sub.toNat; some (.flt f (fun md s l => addF t md (s.readF t md f.a l) (s.readF t md f.b l).negate))
  | .fmul f => let t := fltOf f.sub.toNat; some (.flt f (fun md s l => mulF t md (s.readF t md f.a l) (s.readF t md f.b l)))
  | .ffma f =>
    let t := fltOf f.sub.toNat
    some (.flt f (fun md s l => fmaF t md (s.readF t md f.a l) (s.readF t md f.b l) (s.readF t md f.c l)))
  | .fmin f => let t := fltOf f.sub.toNat; some (.flt f (fun md s l => minMaxF t md false (f.modBits 7 7 = 1) (s.readF t md f.a l) (s.readF t md f.b l)))
  | .fmax f => let t := fltOf f.sub.toNat; some (.flt f (fun md s l => minMaxF t md true (f.modBits 7 7 = 1) (s.readF t md f.a l) (s.readF t md f.b l)))
  | .fcmp f =>
    let t := fltOf f.sub.toNat
    let cond := f.modBits 9 7
    some { bitForm.compareForm f (f.modBits 15 15 = 1) (f.modBits 14 10)
             (fun s l => fcmpTest cond (s.readF t (s.modeOf f) f.a l) (s.readF t (s.modeOf f) f.b l)) with
           flags := fun c s =>
             (bitList c.g).foldl (fun acc l => acc ||| fcmpFlag cond (s.readF t (s.modeOf f) f.a l) (s.readF t (s.modeOf f) f.b l)) 0 }
  | .fclass f => let t := fltOf f.sub.toNat; some (.flt f (fun _ s l => (classOf t ((s.read32 f.a l).toNat % 2 ^ t.width), 0)))
  | .frnd f => let t := fltOf f.sub.toNat; some (.flt f (fun md s l => frndF t md (s.readF t md f.a l)))
  | .fscale f => let t := fltOf f.sub.toNat; some (.flt f (fun md s l => fscaleF t md (s.readF t md f.a l) (s.read32 f.b l).toInt))
  | .cvt f =>
    let dst := f.subBits 3 0
    let src := f.subBits 7 4
    let r (s : State) (l : Nat) : W64 × BitVec 5 := cvtResult dst (s.modeOf f) (cvtSource src (s.modeOf f) (s.readW (src = 11 || src = 15) f.a l))
    some { dest := f.d, wide := dst = 11 || dst = 15, signed := 8 ≤ dst && cvtSigned dst, val := fun _ s l => (r s l).1
           flags := fun c s => (bitList c.g).foldl (fun acc l => acc ||| (r s l).2) 0 }
  | .rcp f => some (special 0x5B f)
  | .rsq f => some (special 0x5C f)
  | .sqrt f => some (special 0x5D f)
  | .ex2 f => some (special 0x5E f)
  | .lg2 f => some (special 0x5F f)
  | .sin f => some (special 0x60 f)
  | .cos f => some (special 0x61 f)
  | .tanh f => some (special 0x62 f)
  | .hadd2 f =>
    let t := pairFlt f.sub.toNat
    some (pair f (fun md s l h => addF t md (s.readHalf t md f.a l h) (s.readHalf t md f.b l h)))
  | .hmul2 f =>
    let t := pairFlt f.sub.toNat
    some (pair f (fun md s l h => mulF t md (s.readHalf t md f.a l h) (s.readHalf t md f.b l h)))
  | .hfma2 f =>
    let t := pairFlt f.sub.toNat
    some (pair f (fun md s l h => fmaF t md (s.readHalf t md f.a l h) (s.readHalf t md f.b l h) (s.readHalf t md f.c l h)))
  | .fdot2 f =>
    let t := pairFlt f.sub.toNat
    some (.flt f (fun md s l => dot2F f32 md (s.readHalf t md f.a l) (s.readHalf t md f.b l) (s.readF f32 md f.c l)))
  | .pack f =>
    if f.sub = 2 then
      some { dest := f.d, wide := false, val := fun c s l =>
        let block := n4Bytes (quantiseN4 ((List.range 32).map (fun m => if c.g.getLsbD m then f32.val (s.read32 f.a m).toNat else .fin false 0 0)))
        BitVec.ofNat 64 (leNat (((block.map (BitVec.ofNat 8)).drop (4 * l)).take 4)) }
    else
      let t := if f.sub = 0 then e4m3 else e5m2
      let half (md : FpMode) (s : State) (l : Nat) (o : Opnd) : Nat × BitVec 5 := packCode t md ((s.read32 f.c l).toNat % 256) (s.readF f32 md o l)
      some (.flt f (fun md s l =>
        let new := (half md s l f.b).1 % 256 * 256 + (half md s l f.a).1
        let old := (s.read32 f.d l).toNat
        (if f.modBits 7 7 = 1 then old % 65536 + new * 65536 else old / 65536 * 65536 + new, (half md s l f.a).2 ||| (half md s l f.b).2)))
  | .unpack f => some (.flt f (fun md s l => unpackF f md (s.read32 f.a l) (s.read32 f.b l)))
  | _ => none
where
  /-- A special function (05 R153) and a pair of operations, one on each half (05 R154). -/
  special (opc : Nat) (f : Fields) : LaneForm :=
    let t := fltOf f.sub.toNat
    .flt f (fun md s l => specialFn opc t md ((s.read32 f.a l).toNat % 2 ^ t.width))
  pair (f : Fields) (h : FpMode → State → Nat → Nat → Nat × BitVec 5) : LaneForm :=
    .flt f (fun md s l => ((h md s l 0).1 + 2 ^ 16 * (h md s l 1).1, (h md s l 0).2 ||| (h md s l 1).2))

/-- Every instruction of the four tables. -/
def laneForm (i : Instr) : Option LaneForm := (integerForm i).or ((bitForm i).or ((crossForm i).or (floatForm i)))

/-- An instruction that writes one value a lane completes: the destination holds the values, every lane at the address has passed, the flags are
added and nothing else has changed. -/
def LaneForm.Done (r : LaneForm) (i : Instr) (s t : State) : Prop :=
  let c := s.ctxOf i
  c.Holds s t r.dest r.wide r.signed (r.val c s) ∧ c.Passed s t ∧ c.Spent s t ∧ OnlyRegistersAndFlags s t (r.flags c s)

/-- Lanes agree on the value of a scalar destination (01 R28). -/
def LaneForm.agrees (r : LaneForm) (i : Instr) (s : State) : Bool := (s.ctxOf i).agrees r.dest r.wide (r.val (s.ctxOf i) s)

/-! Accesses to memory (06 R167-R194). -/

/-- The bytes that a load of n bytes has at once (06 R174, R175; 07 R205): those of a scratchpad bank; or those of a line of the cluster's L1, each dirty or valid under an unexpired lease; none where the access goes to the home, because its scope
or its page says so or because a message of the warp to the line is on its way. -/
def State.atOnce (s : State) (home : Bool) (n : Nat) : Target → Option (List Byte)
  | .bank k => some ((List.range n).map (fun j => s.m.bankGet (k + j)))
  | .mem p =>
    if home || !p.l1 || s.w.onStackCore || s.lineBusy (lineOf p.loc) then none
    else (s.m.l1Find s.w.cl (lineOf p.loc)).bind (fun x =>
      if (List.range n).all (fun j => x.dirty.getLsbD (p.loc % 128 + j) || (x.valid.getLsbD (p.loc % 128 + j) && decide (s.time < x.leaseEnd))) then
        some ((List.range n).map (fun j => byteOf x.data (p.loc % 128 + j)))
      else none)

/-- The accesses of a load that must be asked at their homes. -/
def State.unanswered (s : State) (home : Bool) (xs : List (Target × Piece)) : List (Phys × Piece) :=
  xs.filterMap (fun x => match x.1 with | .bank _ => none | .mem p => if (s.atOnce home x.2.size x.1).isNone then some (p, x.2) else none)

/-- The messages of a load (06 R175): one for each line asked, in the order of the accesses, with the pieces in it, read at the home or filling a line where LEVEL, the page and the cluster allow it. -/
def Ctx.Asks (c : Ctx) (s t : State) (home : Bool) (xs : List (Phys × Piece)) (new : List Msg) : Prop :=
  t.m.msgs = s.m.msgs ++ new ∧ new.map (·.line) = (xs.map (fun x => lineOf x.1.loc)).dedup ∧
    ∀ g ∈ new, g.op = c.id ∧ g.warp = s.w.ref ∧ g.cluster = s.w.cl ∧ g.ctx = s.w.ctx ∧
      ∃ p, (xs.find? (fun x => lineOf x.1.loc == g.line)).map Prod.fst = some p ∧ g.key = p.key ∧ g.slice = p.slice ∧
        let ps := (xs.filter (fun x => lineOf x.1.loc == g.line)).map (fun x => { x.2 with off := x.1.loc % 128 })
        g.kind = if home then .read ps else .fill ps (p.l1 && !s.w.onStackCore && s.m.hasL1 s.w.cl && levelOf c.f == 0)

/-- The result of an operation that has sent so many messages is outstanding with that many replies to come, its number being new. -/
def Ctx.AwaitsReplies (c : Ctx) (s t : State) (dests : List (Nat × Lanes)) (n : Nat) : Prop :=
  ∃ k, n ≤ k ∧ ((∀ g ∈ s.m.msgs, g.op ≠ c.id) → k = n) ∧ c.Outstanding t dests k

/-- The newest byte of a place in a line that the focus warp's cluster has not yet given to the home: dirty in its L1, else in the last of some messages. -/
def State.newest (s : State) (m : MemSys) (new : List Msg) (line j : Nat) : Option Byte :=
  let own : Option Byte := if s.w.onStackCore then none else (m.l1Find s.w.cl line).bind (fun x => if x.dirty.getLsbD j then some (byteOf x.data j) else none)
  own.or ((new.filterMap (fun g =>
    match g.kind with
    | .write d mask _ _ _ _ => if g.line = line ∧ mask.getLsbD j = true then some (byteOf d j) else none
    | .fill .. => none
    | .read .. => none
    | .atomic _ => none
    | .act _ => none)).getLast?)

/-- What some stores in their order leave at a byte of a bank, or of a line of memory: the last that covers it. -/
def bankStored (ps : List Put) (q : Nat) : Option Byte :=
  (ps.filterMap (fun x => match x.tgt with
    | .bank k => if k ≤ q ∧ q < k + x.bytes.length then some (x.bytes.getD (q - k) 0) else none
    | .mem _ => none)).getLast?
def memStored (ps : List Put) (line j : Nat) : Option Byte :=
  (ps.filterMap (fun x => match x.tgt with
    | .bank _ => none
    | .mem p => if lineOf p.loc = line ∧ p.loc % 128 ≤ j ∧ j < p.loc % 128 + x.bytes.length then some (x.bytes.getD (j - p.loc % 128) 0) else none)).getLast?

/-- Some stores have been issued (06 R175): their bytes are in the banks and, for memory, newest in the cluster, every other byte that was newest there still is, homes are as they were, and so is every line of an L1 that is not stored to, unless it has left
the cluster's to make room. -/
def Ctx.Stores (c : Ctx) (s t : State) (ps : List Put) (new : List Msg) : Prop :=
  t.m = { s.m with tlb := t.m.tlb, msgs := s.m.msgs ++ new, l1 := t.m.l1, bank := t.m.bank, bankPoison := t.m.bankPoison } ∧
    (∀ g ∈ new, g.op = c.id ∨ g.op = 0) ∧ (∀ q, t.m.bankGet q = (bankStored ps q).getD (s.m.bankGet q)) ∧
    (∀ line j, j < 128 → s.newest t.m new line j = (memStored ps line j).or (s.newest s.m [] line j)) ∧
    ∀ cl line, (cl ≠ s.w.cl ∨ ∀ x ∈ ps, ∀ p, x.tgt = .mem p → lineOf p.loc ≠ line) →
      t.m.l1Find cl line = s.m.l1Find cl line ∨ (cl = s.w.cl ∧ t.m.l1Find cl line = none)

/-- The bytes of banks after the atomics of some lanes, in their order, on the words of banks that they name (06 R194). -/
def bankAtoms (f : Fields) (c : Ctx) (s : State) (a : Nat → Target) : List Nat → (Nat → Byte) → Nat → Byte
  | [], m => m
  | l :: ls, m =>
    match a l with
    | .mem _ => bankAtoms f c s a ls m
    | .bank k =>
      let o := atomOf f c s l
      match o.new (leNat ((List.range o.size).map (fun j => m (k + j)))) with
      | none => bankAtoms f c s a ls m
      | some x => bankAtoms f c s a ls (fun q => if k ≤ q ∧ q < k + o.size then (leBytes o.size x).getD (q - k) 0 else m q)

/-- The new value of an integer atomic of old value m and operand c (06 R191). -/
def intUpdate {n : Nat} (fn : Nat) (m c : BitVec n) : BitVec n :=
  match fn with
  | 0 => m + c
  | 1 => if m.sle c then m else c
  | 2 => if m.sle c then c else m
  | 3 => if m.ule c then m else c
  | 4 => if m.ule c then c else m
  | 5 => m &&& c
  | 6 => m ||| c
  | 7 => m ^^^ c
  | 8 => c
  | 9 => if c.ule m then 0 else m + 1
  | _ => if m = 0 ∨ c.ult m = true then c else m - 1

/-- A message of a nested act can be done at its home (06 R182, R183; 12 R262): nothing is in front of it, no engine owns a line of it and no blocking sequence holds it, the home has every byte of its regions and none is poisoned, the cluster's L1 has no
copy of a line of it, its regions lie in device memory, apart from each other, each in one line, and no sequence runs. -/
def State.nestReady (s : State) (g : Msg) (a : HomeAct) (b : NBlock) : Prop :=
  s.msgOf g.id = some g ∧ g.kind = .act a ∧ s.behind g = false ∧ g.level < 2 ∧ s.e.seqs = [] ∧
    (∀ line ∈ b.lines, s.owned line = false ∧ s.m.l1Find g.cluster line = none) ∧
    (∀ x ∈ b.regions, x.1.loc + x.2 ≤ hostBase ∧ x.1.loc % 128 + x.2 ≤ 128 ∧ s.m.lacksRegion x = false ∧ s.regionPoison x = false) ∧
    (b.regions.flatMap (fun x => (List.range x.2).map (x.1.loc + ·))).Nodup

/-! Barriers (04 R113-R122). -/

/-- A group instruction that waits, and what its arrival is (04 R114, R121, R122): the phase kind, the contribution of the warp, where the result goes. -/
def Ctx.Arrives (c : Ctx) (s : State) (i : Instr) (f : Fields) (kind : Nat) (x : W32) (dest : Opnd) : Prop :=
  (i = .barSync f ∧ kind = kindPlain ∧ x = 0 ∧ dest = .sp .zero) ∨
    (i = .gvote f ∧ kind = kindVote f.sub.toNat ∧ dest = f.d ∧
      x = (if (if f.sub = 0 then (bitList c.g).all (fun l => (s.read32 f.a l).getLsbD 0) else (bitList c.g).any (fun l => (s.read32 f.a l).getLsbD 0)) then 1 else 0)) ∨
    (i = .gred f ∧ kind = kindRed f.sub.toNat (f.mod.toNat / 4 * 4) ∧ dest = f.d ∧ c.uni32 s f.a = some x)

/-- The latest contribution of a warp among the arrivals of a phase (04 R113). -/
def latestOf (arr : List Arrival) (w : Nat) : Option W32 := (arr.reverse.find? (fun a => a.widx == w)).map (·.contrib)

/-- The result of a phase and its flags (04 R121, R122), over the arrivals that belong to it: a warp that is not among them contributes 1 to ALL, 0 to ANY and BALLOT and the identity to a reduction. The integer
reductions do not depend on the order; the floating ones are tree() of R72 in the modes of MOD. -/
def groupResult (i : Instr) (arr : List Arrival) : W32 × BitVec 5 :=
  let fold (id : W32) (h : W32 → W32 → W32) : W32 × BitVec 5 := (((List.range 32).map (fun w => (latestOf arr w).getD id)).foldl h id, 0)
  match i with
  | .gvote f =>
    match f.sub.toNat with
    | 0 => (if (List.range 32).all (fun w => latestOf arr w == none || latestOf arr w == some 1) then 1 else 0, 0)
    | 1 => (if (List.range 32).any (fun w => latestOf arr w == some 1) then 1 else 0, 0)
    | _ => (ofBits 32 ((List.range 32).filter (fun w => latestOf arr w == some 1)), 0)
  | .gred f =>
    match f.sub.toNat with
    | 0 => fold 0 (· + ·)
    | 1 => fold 0x7FFFFFFF (fun a b => if a.slt b then a else b)
    | 2 => fold 0x80000000 (fun a b => if a.slt b then b else a)
    | 3 => fold 0xFFFFFFFF (fun a b => if a.ult b then a else b)
    | 4 => fold 0 (fun a b => if a.ult b then b else a)
    | 5 => fold 0xFFFFFFFF (· &&& ·)
    | 6 => fold 0 (· ||| ·)
    | 7 => fold 0 (· ^^^ ·)
    | n => redTree n (FpMode.of (f.modBits 4 2) (f.modBits 6 5)) 5
        ((List.range 32).map (fun w => (latestOf arr w).getD (if n = 8 then 0x80000000 else if n = 9 then 0x7F800000 else 0xFF800000)))
  | _ => (0, 0)

/-- The result of GRED on a signed type is sign-extended into a scalar (01 R28; 04 R122). -/
def groupSigned (i : Instr) : Bool := match i with | .gred f => f.sub.toNat ≤ 2 | _ => false

/-- The barrier after a phase that so many arrivals complete (04 R113), no member having left. -/
def Barrier.next (b : Barrier) (all : List Arrival) : Barrier :=
  { b with phase := b.phase + 1, arr := b.arr + 1 - b.need, arrivals := all.drop b.need
           kind := match all.drop b.need with | [] => kindNone | a :: _ => a.kind }

/-- A warp that waited for a phase has been released with its result (04 R113, R117): its lanes have passed, the flags are added, the destination holds the
result in its lanes and nothing else of its registers has changed. -/
def Warp.Released (w u : Warp) (lanes : Lanes) (dest : Opnd) (len : Nat) (signed : Bool) (r : W32 × BitVec 5) : Prop :=
  u.wait = .ready ∧ u.csr = { w.csr with fpstatus := w.csr.fpstatus ||| r.2.setWidth 64 } ∧
    (∀ l < 32, u.lpc.get l = if lanes.getLsbD l then w.lpc.get l + BitVec.ofNat 32 len else w.lpc.get l) ∧
    (∀ q, u.v.get q = match dest with | .v d => if q / 32 = d ∧ lanes.getLsbD (q % 32) = true then r.1 else w.v.get q | .s _ => w.v.get q | .sp _ => w.v.get q) ∧
    ∀ q, u.s.get q = match dest with | .s d => if q = d then extendRes signed r.1 else w.s.get q | .v _ => w.s.get q | .sp _ => w.s.get q

/-- The other warps after a phase of an entry of the focus warp's cohort has completed: those that waited on it are released, and every other is as it was. -/
def State.OthersReleased (s t : State) (e : Nat) (phase : W32) (signed : Bool) (r : W32 × BitVec 5) : Prop :=
  t.warps.length = s.warps.length ∧ ∀ (j : Nat) (w : Warp), s.warps[j]? = some w → ∃ u : Warp, t.warps[j]? = some u ∧
    (∀ lanes dest op len o, w.live = true → w.ref.die = s.w.ref.die → w.ref.cluster = s.w.ref.cluster → w.ref.cslot = s.w.ref.cslot →
      w.wait = .barrier e phase lanes dest op len → w.findOp op = some o → o.dests = destOf dest lanes → w.Released u lanes dest len signed r) ∧
    (¬ (w.live = true ∧ w.ref.die = s.w.ref.die ∧ w.ref.cluster = s.w.ref.cluster ∧ w.ref.cslot = s.w.ref.cslot ∧
      ∃ lanes dest op len, w.wait = .barrier e phase lanes dest op len) → u = w)

/-! Graph memory (10 R231-R249). -/

/-- What a graph instruction that names a handle asks of the homes of its lists (10 R240-R243): its fields, the directions it asks in, the operands that
must name vertices, what each lane sends, the predicate it sets, the registers of its results, and whether the replies are counted by lane. -/
structure GraphForm where
  f : Fields
  dirs : List Bool
  kind : GKind
  vertices : List Opnd
  x : Opnd
  w : Opnd
  pred : Option (Nat × Nat) := none
  dests : Lanes → List (Nat × Lanes)
  byLane : Bool := false

def graphForm : Instr → Option GraphForm
  | .gadd f => some { f := f, dirs := [false], kind := .add, vertices := [f.b, f.c], x := f.c, w := f.e, dests := one f.d, byLane := true }
  | .gdel f => some { f := f, dirs := [false], kind := .del, vertices := [f.b, f.c], x := f.c, w := .sp .zero, dests := one f.d, byLane := true }
  | .gsetw f => some { f := f, dirs := [false], kind := .setw, vertices := [f.b, f.c], x := f.c, w := f.e, dests := one f.d, byLane := true }
  | .grmw f =>
    some { f := f, dirs := [false], kind := .rmw f.sub.toNat, vertices := [f.b, f.c], x := f.c, w := f.e, dests := two f.d, byLane := true }
  | .gdelv f =>
    some { f := f, dirs := if f.sub = 0 then [false] else if f.sub = 1 then [true] else [false, true], kind := .delv, vertices := [f.b], x := .sp .zero
           w := .sp .zero, dests := one f.d }
  | .gdeg f => some { f := f, dirs := [f.subBits 0 0 == 1], kind := .deg, vertices := [f.b], x := .sp .zero, w := .sp .zero, dests := one f.d }
  | .glde f =>
    some { f := f, dirs := [f.subBits 0 0 == 1], kind := .lde, vertices := [f.b], x := f.c, w := .sp .zero, pred := bit f.e (f.modBits 4 0)
           dests := fun g => two f.d g ++ lanesOf f.e g }
  | .gfind f =>
    some { f := f, dirs := [f.subBits 0 0 == 1], kind := .find, vertices := [f.b, f.c], x := f.c, w := .sp .zero, pred := bit f.e (f.modBits 4 0)
           dests := fun g => two f.d g ++ lanesOf f.e g }
  | _ => none
where
  one (o : Opnd) (g : Lanes) : List (Nat × Lanes) := match o with | .v r => [(r, g)] | .s r => [(640 + r, BitVec.allOnes 32)] | .sp _ => []
  two (o : Opnd) (g : Lanes) : List (Nat × Lanes) := match o with | .v r => [(r, g), (r + 1, g)] | .s r => [(640 + r, BitVec.allOnes 32)] | .sp _ => []
  lanesOf (o : Opnd) (g : Lanes) : List (Nat × Lanes) := match o with | .v r => [(r, g)] | .s _ => [] | .sp _ => []
  bit (o : Opnd) (b : Nat) : Option (Nat × Nat) := match o with | .v r => some (r, b) | .s _ => none | .sp _ => none

/-- The list that a cursor walks: the graph, the direction and the vertex (10 R244). -/
def cursorList (x : BitVec 128) : Nat × Bool × Nat := (fieldOf x 31 20, x.getLsbD 8, fieldOf x 63 32)

/-- Open cursors of the executing lanes, by number and lane. -/
def Ctx.opened (c : Ctx) (s : State) (curs : List Nat) : List (Nat × Nat) :=
  (curs.flatMap (fun k => (bitList c.g).map (fun l => (k, l)))).filter (fun p => curState (s.w.cursor p.1 p.2) != 0)

/-- Messages that tell the lists of some open cursors that they close: one a list, counting its cursors (10 R249). -/
def Ctx.Closes (c : Ctx) (s : State) (op : Nat) (curs : List Nat) (ms : List GMsg) : Prop :=
  (ms.map (fun m => (m.idx, m.dir, m.vertex))).Nodup ∧
  (∀ p ∈ c.opened s curs, ∃ m ∈ ms, (m.idx, m.dir, m.vertex) = cursorList (s.w.cursor p.1 p.2)) ∧
  ∀ m ∈ ms, m.kind = .close ∧ m.op = op ∧ m.ctx = s.w.ctx ∧ m.lanes ≠ [] ∧
    m.lanes.length = ((c.opened s curs).filter (fun p => cursorList (s.w.cursor p.1 p.2) == (m.idx, m.dir, m.vertex))).length

/-- The cursors of the warp after some of the executing lanes' have closed. -/
def Ctx.ClosedCursors (c : Ctx) (s t : State) (curs : List Nat) : Prop :=
  ∀ k < 8, ∀ l < 32, t.w.cursor k l = if (k, l) ∈ c.opened s curs then closedCursor else s.w.cursor k l

/-- Nothing but the focus warp, the graph engines and the numbering of messages has changed. -/
def OnlyGraphs (s t : State) : Prop := t = { s with fresh := t.fresh, w := t.w, g := t.g }

/-- What an update asks of a list in one lane (10 R240, R241): the list after it, and what the mirror list is told. -/
def GList.edit (kind : GKind) (l : GLane) (x : GList) : GList × Option MKind :=
  match x.find l.x with
  | none => match kind with
    | .add => ({ x with slots := x.slots ++ [⟨l.x, l.w, .live⟩] }, some (.append l.w))
    | _ => (x, none)
  | some q => match kind with
    | .add | .setw => (x.change l.x (fun q => { q with payload := l.w }), some (.setw l.w))
    | .del => (x.change l.x (fun q => { q with life := .dying }), some .kill)
    | .rmw fn => (x.change l.x (fun q => { q with payload := rmwNew fn q.payload l.w }), some (.setw (rmwNew fn q.payload l.w)))
    | _ => (x, none)

/-- Lanes in ascending order. -/
def GList.edits (kind : GKind) : List GLane → GList → GList × List (Nat × MKind)
  | [], x => (x, [])
  | l :: ls, x =>
    let y := x.edit kind l
    let z := GList.edits kind ls y.1
    (z.1, y.2.toList.map (fun k => (l.x.toNat, k)) ++ z.2)

/-- The status of each lane of an update, in ascending order, with the old payload in front for GRMW (10 R240, R241): 1 where the edge was there, else 0. -/
def GList.statuses (kind : GKind) : List GLane → GList → List (Nat × List W32)
  | [], _ => []
  | l :: ls, x =>
    let old : List W32 := match kind with | .rmw _ => [((x.find l.x).map (·.payload)).getD 0] | _ => []
    (l.lane, old ++ [if (x.find l.x).isSome then 1 else 0]) :: GList.statuses kind ls (x.edit kind l).1

/-- What a read by rank or neighbour answers in one lane (10 R243). -/
def GList.answer (kind : GKind) (l : GLane) (x : GList) : List W32 :=
  let live := x.slots.filter (fun q => q.life == .live)
  let edge (r : Nat) (first : W32) : List W32 := match live[r]? with | some q => [first, q.payload] | none => [0xFFFFFFFF, 0]
  match kind with
  | .deg => [BitVec.ofNat 32 live.length]
  | .lde => edge l.x.toNat ((live.map (·.nbr)).getD l.x.toNat 0)
  | .find => edge (live.findIdx (fun q => q.nbr == l.x)) (BitVec.ofNat 32 (live.findIdx (fun q => q.nbr == l.x)))
  | _ => []

/-! Requests of the streamer and the sequencers (12 R263-R276; 14 R317-R323). -/

/-- A request of the streamer that names a record (12 R270-R274): what it asks, the bytes it counts, which side the record is on, and whether its rows
are indexed. -/
structure TileForm where
  f : Fields
  kind : XKind
  size : Nat
  load : Bool
  gather : Bool

def tileForm : Instr → Option TileForm
  | .tld f => some ⟨f, .tld (f.modBits 2 0) (f.modBits 4 3 + 1) (f.modBits 5 5 = 1), tileSize (f.modBits 2 0), true, false⟩
  | .tst f => some ⟨f, .tst (f.modBits 2 0), tileSize (f.modBits 2 0), false, false⟩
  | .tgath f => some ⟨f, .tgath (f.modBits 2 0) (f.modBits 4 3 + 1) (f.modBits 5 5 = 1) (f.modBits 13 6), tileSize (f.modBits 2 0), true, true⟩
  | .tscat f => some ⟨f, .tscat (f.modBits 1 0) (f.modBits 4 2) (f.modBits 13 6), tileSize (f.modBits 4 2), false, true⟩
  | _ => none

/-- The request as its operands give it (12 R266, R270, R273): the tile, the record, the coordinates or the rows' indices, the completion target. -/
def TileForm.request (r : TileForm) (c : Ctx) (s : State) (t : TRec) : XReq :=
  let lane := lowLane c.g
  let tile := s.read64 r.f.d lane
  { XReq.new r.f r.kind (r.f.subBits 1 0) (s.read32 r.f.c lane) r.size (if r.load then tile else 0) (if r.load then 0 else tile) with
    trec := some t
    coords := if r.gather then [] else (List.range t.rank).map (fun i => s.read32 (opndPlus r.f.b i) lane)
    rows := if r.gather then (List.range 64).map (fun r' => s.read32 (if r' < 32 then r.f.b else opndPlus r.f.b 1) (r' % 32)) else [] }

/-- The registers of the coordinates. -/
def TileForm.coordRegs (r : TileForm) (t : TRec) : List Nat :=
  if r.gather then []
  else match r.f.b with
    | .v x => (List.range t.rank).map (x + ·)
    | .s x => (List.range t.rank).map (640 + x + ·)
    | .sp _ => []

/-- They exist, can be reached and are settled. -/
def TileForm.coordsReady (r : TileForm) (s : State) (t : TRec) : Prop :=
  (r.gather = false → match r.f.b with | .v x => x + t.rank ≤ 640 | .s x => x + t.rank ≤ 64 | .sp _ => False) ∧
    ∀ k ∈ r.coordRegs t, s.w.regMissing k = false ∧ s.w.reachable k = true ∧ s.w.settled k = true

/-- Nothing that comes before the values of its operands stops a request that names a record (15 R329): the instruction takes the record's tiles, its
coordinates can be read, and no block of it waits for the end of a thermal hold. -/
def TileForm.Checked (r : TileForm) (c : Ctx) (s : State) (t : TRec) : Prop :=
  (suits r.kind t).map Prod.fst ≠ some 0x01 ∧ r.coordsReady s t ∧
    ∀ b ∈ (r.request c s t).nestBlocks t, ∀ e, s.nblock s.w.id.core s.w.ctx (if r.load then .read else .write) t b = .error e → e.1.code ≠ 0

/-- Nothing but the focus warp, the engines and the numbering of operations has changed. -/
def OnlyEngines (s t : State) : Prop := t = { s with fresh := t.fresh, w := t.w, e := t.e }

/-- The warp's ticket counter has risen by one, and the ticket is on its way to a register, of a vector in the leader's lane alone (12 R266); the rest of
the warp is kept. -/
def Ctx.Ticketed (c : Ctx) (s t : State) (o : Opnd) : Prop :=
  WarpKept (s.updW (fun w => { w with ticket := w.ticket + 1 })) t ∧
  match o with
  | .v r => ∃ q ∈ t.w.ops, q.slot = none ∧ q.parts = 0 ∧ q.dests = [(r, c.leader)] ∧ (r * 32 + lowLane c.g, s.w.ticket + 1) ∈ q.vvals
  | .s r => ∃ q ∈ t.w.ops, q.slot = none ∧ q.parts = 0 ∧ q.dests = [(640 + r, BitVec.allOnes 32)] ∧ (r, (s.w.ticket + 1).setWidth 64) ∈ q.svals
  | .sp _ => True

/-- The lumens of an instruction are granted at once (18 R390-R392): nothing waits on a pool, and the pool's level admits them. -/
def State.lumensReady (s : State) (die amount : Nat) : Prop := s.e.lumens = [] ∧ 0 < (s.pool die).level ∧ (s.pool die).fits amount = true

/-! The register fabric (14 R295-R316). -/

/-- Nothing but the focus warp, the register fabric and the numbering of operations has changed. -/
def OnlyFabric (s t : State) : Prop := t = { s with fresh := t.fresh, w := t.w, f := t.f }

/-- The status that TASK.SIGNAL or TASK.LAUNCH of a task that is not being checked gets (14 R324; 18 R381). -/
def taskStatus (launch : Bool) : Option Task → Nat
  | none => 1
  | some k => match k.st with
    | .checking => 0
    | .waiting => if launch then (if k.held then 0 else 4) else (if k.counter = 0 then 3 else 0)
    | .ready | .running | .draining | .ending => 2

/-- A call of the focus warp whose registers for the echo are all armed and present, but for those of blocks that it has released (14 R325). -/
def State.awaits (s : State) (c : Call) : Prop :=
  s.w.live = true ∧ s.w.exited = false ∧ c.caller = s.w.ref ∧ c.echoReg + c.echoCnt ≤ 640 ∧
    (∀ i < c.echoCnt, c.echoReg + i ∉ c.gone → s.w.arr.get (c.echoReg + i) = 1 ∧ s.w.absent.getLsbD (c.echoReg + i) = false) ∧
    (∀ r, c.nf = some r → r < 64 ∧ s.w.arr.get (640 + r) = 1 ∧ s.w.absent.getLsbD (640 + r) = false)

/-- The echo's registers are full: they hold given vectors, and, with NF, a status word (14 R311); one of a block released since is as it was (14 R325). -/
def Call.Filled (c : Call) (s t : State) (vals : List (List W32)) (word : W64) : Prop :=
  (∀ i < c.echoCnt,
    if c.echoReg + i ∈ c.gone then t.w.arr.get (c.echoReg + i) = s.w.arr.get (c.echoReg + i) ∧ ∀ l < 32, t.w.v.get ((c.echoReg + i) * 32 + l) = s.w.v.get ((c.echoReg + i) * 32 + l)
    else t.w.arr.get (c.echoReg + i) = 2 ∧ ∀ l < 32, t.w.v.get ((c.echoReg + i) * 32 + l) = (vals.getD i []).getD l 0) ∧
    ∀ r, c.nf = some r → t.w.arr.get (640 + r) = 2 ∧ t.w.s.get r = word

/-- They are marked with a fault (14 R311, R312), with the same exception. -/
def Call.Marked (c : Call) (s t : State) (code : BitVec 8) : Prop :=
  ∀ i < c.echoCnt,
    if c.echoReg + i ∈ c.gone then t.w.arr.get (c.echoReg + i) = s.w.arr.get (c.echoReg + i)
    else t.w.arr.get (c.echoReg + i) = 3 ∧ ∃ k ∈ t.w.marks, k.reg = c.echoReg + i ∧ k.info.code = code

/-! Events of the memory system and from outside. -/

/-- The sectors of a block's set (17 R362); the block's sector is there, or its set has room for it. -/
def MemSys.setOf (m : MemSys) (b : Nat) : List Sector :=
  m.sectors.filter (fun x => unitOf (x.block * 512) == unitOf (b * 512) && Config.sectorSetOf x.block % 65536 == Config.sectorSetOf b % 65536)
def MemSys.sectorFits (m : MemSys) (b : Nat) : Prop := (m.sector b).isSome = true ∨ (m.setOf b).length < 16

/-- L2 takes a line: its set has room, or a line of it that no engine owns makes room (17 R357). -/
def MemSys.l2Takes (m : MemSys) (t line slice : Nat) : Bool := (m.l2Room t line slice).l2Fits line slice

/-- Places of n consecutive bytes of this device's memory from a location, in one line. -/
def OneLine (ps : List Phys) (loc n : Nat) : Prop := ps.map (·.loc) = (List.range n).map (loc + ·) ∧ loc % 128 + n ≤ 128 ∧ loc + n ≤ hostBase

/-- The byte that the last write-back of a line by a cluster that is on its way carries at a place, where one does. -/
def MemSys.sentByte (m : MemSys) (cl line j : Nat) : Option Byte :=
  (m.msgs.filterMap (fun g =>
    match g.kind with
    | .write d mask _ _ _ _ => if g.wb = true ∧ g.cluster = cl ∧ g.line = line ∧ mask.getLsbD j = true then some (byteOf d j) else none
    | .fill .. => none
    | .read .. => none
    | .atomic _ => none
    | .act _ => none)).getLast?

/-- The bytes that a load of a cluster has at a line: a dirty byte of its L1, else of a write-back of the cluster on its way, else what the home holds (06 R171; 07 R205). -/
def MemSys.seenByte (m : MemSys) (cl line key j : Nat) : Byte :=
  let below := (m.sentByte cl line j).getD (m.homeByte (line * 128 + j) key)
  match m.l1Find cl line with
  | some y => if y.dirty.getLsbD j then byteOf y.data j else below
  | none => below

/-- The word of an event (19 R398). -/
def eventWord (time type unit : Nat) : W64 := BitVec.ofNat 64 (time / 65536 * 65536 + unit * 256 + type)

/-- A mailbox command has ended with a result (19 R399): MBDOOR is clear, word 0 carries the result, vector 66 is raised. -/
def State.mailboxAnswered (t : State) (r : Nat) : Prop := t.h.door = false ∧ fieldOf (t.h.mbox.get 0) 15 8 = r ∧ t.h.msix.getLsbD 66 = true

/-- The record of a fault can be posted at once: none waits before it, and the buffer takes it (19 R397). -/
def State.postsNow (s : State) : Prop := (∀ r ∈ s.h.records, r.posted.isSome = true) ∧ s.h.fbOpen = true

/-- A task has ended: its number is free, or still taken while its completion record is on its way (18 R382). -/
def State.TaskOver (t : State) (ctx : Nat) (id : W32) : Prop := ∀ k, t.task ctx id = some k → k.st = .ending

/-- A fatal fault of the focus warp whose record waits for the buffer (15 R328; 19 R397): every cohort of its task has stopped, unsaved, and the task has not
ended. -/
def State.FatalWaits (s t : State) (x : FaultInfo) : Prop :=
  (∀ w ∈ t.allWarps, w.ctx = s.w.ctx → w.taskId = s.w.taskId → w.onStackCore = true) ∧
    (∀ k ∈ t.cohorts, ¬ (k.ctx = s.w.ctx ∧ k.task = s.w.taskId)) ∧ t.t.tasks = s.t.tasks ∧
    ∃ r ∈ t.h.records, r.posted = none ∧ r.who = some (.fatal s.w.ctx s.w.taskId) ∧ r.info = x

/-- A write of an agent of n bytes at places reaches its homes at once: they are in one line from a location, nothing holds the write back there, and L2 takes the line. -/
def State.WritesNow (s : State) (ps : List Phys) (loc n : Nat) : Prop :=
  OneLine ps loc n ∧ s.heldBack ps = false ∧ s.e.seqs = [] ∧ s.m.writing s.fresh = false ∧ ∀ p ∈ ps, s.m.l2Takes s.time (lineOf p.loc) p.slice = true

/-- A completion record of the scheduler can be written at once at a location (18 R380): its address names one, is aligned and can be written. -/
def State.RecordFits (s : State) (ctx : Nat) (cpl : W64) (loc : Nat) : Prop :=
  cpl ≠ 0 ∧ cpl.toNat % 16 = 0 ∧ ∃ ps, ({ s.m with msgs := [] } : MemSys).places (agentCore 0) ctx cpl.toNat 16 .write = .ok ps ∧ s.WritesNow ps loc 16

/-- Such a record has been written: its bytes stand at the location, and the vector is raised that it asks for. -/
def State.RecordAt (t : State) (loc : Nat) (bs : List Byte) (irq : Bool) (vec : Nat) : Prop :=
  (∀ key, t.m.homeBytes loc 16 key = bs) ∧ (irq = true → t.h.msix.getLsbD vec = true)

/-- The state in which the save area of a cohort holds its regions and, for warps with every register present, their frames; none where a byte cannot be written (15 R344, R345). -/
def State.areaWritten (s : State) (c : Cohort) (full : List Warp) : Option State :=
  let bits : BitVec 64 := ofBits 64 ((s.warpsOf c).map (fun w => slotBit w.id))
  let s1 := s.writeBackAll (c.die * 48 + c.cluster) false (fun x => x.dirty != 0 && x.dirtying &&& bits != 0)
  (s1.writeRegions (agentCore c.die) c.ctx c.saveAddr.toNat (s1.saveRegions c)).bind (fun s2 =>
    full.foldlM (fun acc w => acc.writeRegions (agentCore c.die) c.ctx (c.frameVa w.widx) (w.frame0 acc.f.grants false)) s2)

/-- The banks of a cohort that comes back to its cluster, and the state in which they hold what its save area keeps of them; none where that cannot be read (15 R346). -/
def State.backOn (s : State) (c : Cohort) : Cohort :=
  { c with banks := (s.room c.die c.cluster (fun _ => false)).banks.take c.banks.length, away := false }
def State.banksRead (s : State) (c : Cohort) : Option State := (runOf 0 c.banks).foldlM (fun acc b => acc.loadBank c b.1 b.2) s

/-- A packet is the next one of a queue (18 R377). -/
def State.nextPacket (s : State) (q : Nat) (bs : List Byte) : Prop := s.nextQueue = some q ∧ s.headPacket q = some bs

/-- What a power-up, a power-off or a reset leaves (00 R3; 19 R400, R409): nothing of the device but that boot waits for an image. -/
def State.Lost (t : State) : Prop :=
  t.h.boot = .waiting ∧ t.h.err = 0 ∧ t.m.exports = [] ∧ t.h.session = none ∧ t.h.records = [] ∧ t.allWarps = [] ∧ t.cohorts = [] ∧ t.t.tasks = [] ∧
    t.m.keys = [] ∧ t.m.contexts = [] ∧ t.m.l1 = [] ∧ t.m.l2 = [] ∧ t.m.sectors = [] ∧ t.m.tlb = [] ∧ t.e.reqs = [] ∧ t.e.seqs = [] ∧ t.f.calls = []

end Sys2Proof.Machine
end

