-- ==== Sys2Proof/Certificates/Slice0/Obligations.lean ====
section
/-!
DEFINITION. The statements for the provers: what the rules of spec/ say an instruction or the machine does, family by family. A statement about an
instruction holds for every state in which it issues with nothing in its way (`State.clear`); where an instruction traps, is held or is turned
away is stated apart.
-/
open Sys2Proof Sys2Proof.Machine

/-! Encoding (03). -/

/-- Decode after encode (03 R74-R94): the bytes of a well-formed warp instruction, whatever follows them, decode to it, with every operand, guard,
hint and modifier at every value its encoding admits. -/
def Obligations.DecodeOfEncode : Prop :=
  ∀ (i : Instr) (bs rest : List Byte), i.wellFormed = true → encode i = some bs → decode (bs ++ rest) = .ok (i, bs.length)

/-- Encode after decode (03 R74-R94): bytes that decode to an instruction are the encoding of that instruction, which is well formed, so that every
word has one meaning and no bit of it is dropped. -/
def Obligations.EncodeOfDecode : Prop :=
  ∀ (bs : List Byte) (i : Instr) (n : Nat), decode bs = .ok (i, n) → i.wellFormed = true ∧ n ≤ bs.length ∧ encode i = some (bs.take n)

/-- Words written out bit by bit from the field maps of chapter 03 decode to the instructions they stand for: NOP, IADD with a guard, MOVI, LD,
MMA, CSRR and TRET; and words with LEN 3, a slot of 6 or an unassigned operand code are none (03 R74, R79, R90, R94). -/
def Obligations.DecodedWords : Prop :=
  let f : Fields := { noFields with slot := 7 }
  decode [0x00, 0xC0, 0x01, 0, 0, 0, 0, 0] = .ok (.nop f, 8) ∧
  -- F64 IADD.I32 v5, v6, s2, guard s3[4] negated: opcode 0x23, slot 7, G0 = 1 | 1 << 1 | 3 << 2 | 4 << 7 | 1 << 12
  decode (leBytes 8 (0x23 * 2 ^ 2 + 7 * 2 ^ 14 + (1 + 2 + 3 * 4 + 4 * 128 + 4096) * 2 ^ 23 + 5 * 2 ^ 40 + 6 * 2 ^ 48 + (192 + 2) * 2 ^ 56)) =
    .ok (.iadd { f with g0 := some ⟨true, 4, 3, true⟩, d := .v 5, a := .v 6, b := .s 2 }, 8) ∧
  -- F128I MOVI, form 0, v1, 0xDEADBEEF: LEN 2, opcode 0x21, D at bit 64, IMM at bit 94
  decode (leBytes 16 (2 + 0x21 * 2 ^ 2 + 7 * 2 ^ 14 + 1 * 2 ^ 64 + 0xDEADBEEF * 2 ^ 94)) =
    .ok (.movi { f with fmt := .f128i, d := .v 1, imm := 0xDEADBEEF }, 16) ∧
  -- F128I LD.16.SX v20, s4 + v2 + 0x40, slot 1: LEN 2, opcode 0x90, SUB 9 at bit 36, D at 64, A at 74, B at 84, IMM at 94 (06 R173)
  decode (leBytes 16 (2 + 0x90 * 2 ^ 2 + 1 * 2 ^ 14 + 9 * 2 ^ 36 + 20 * 2 ^ 64 + (640 + 4) * 2 ^ 74 + 2 * 2 ^ 84 + 0x40 * 2 ^ 94)) =
    .ok (.ld { f with fmt := .f128i, slot := 1, sub := 9, d := .v 20, a := .s 4, b := .v 2, imm := 0x40 }, 16) ∧
  -- F128 MMA of the tiles at s10, s11 and s12, slot 4, MOD 0x12: opcode 0xD0, A at bit 74, B at 84, C at 94, MOD at 114 (12 R284)
  decode (leBytes 16 (2 + 0xD0 * 2 ^ 2 + 4 * 2 ^ 14 + (640 + 10) * 2 ^ 74 + (640 + 11) * 2 ^ 84 + (640 + 12) * 2 ^ 94 + 0x12 * 2 ^ 114)) =
    .ok (.mma { f with fmt := .f128, slot := 4, a := .s 10, b := .s 11, c := .s 12, mod := 0x12 }, 16) ∧
  -- F96 CSRR s40, TRAPINFO, stall 4 (15 R340)
  decode [0xC1, 0xD3, 0x01, 0x00, 0x00, 0x00, 0xA8, 0x02, 0x00, 0x40, 0x40, 0x00] =
    .ok (.csrr { f with fmt := .f96, stall := 4, d := .s 40, mod := 0x101 }, 12) ∧
  decode [0xC8, 0xC3, 0x01, 0x00, 0x10, 0x00, 0x00, 0x00] = .ok (.tret { f with sub := 1 }, 8) ∧
  (decode [0x03, 0xC0, 0x01, 0, 0, 0, 0, 0] = .error .length) ∧
  (decode [0x00, 0x80, 0x01, 0, 0, 0, 0, 0] = .error .slotSix) ∧
  (decode (leBytes 12 (1 + 0x20 * 2 ^ 2 + 7 * 2 ^ 14 + 1 * 2 ^ 48 + 712 * 2 ^ 58)) = .error .operand)

/-- LEN gives the length (03 R74): a word whose first byte has LEN 0, 1 or 2 in bits [1:0] is an instruction, if it is one, of that format and of 8, 12 or 16 consecutive bytes, and bits [7:0]
of the instruction are its first byte. LEN 3 is none, and at the fetch of such a word, as of any other that is no instruction, ILLEGAL_ENCODING is raised, with no effect: by the model's
choice the executing and the faulting lanes of that fault are all the lanes at the address (log entry 20), and the bytes are those a fetch returns (log entry 16). -/
def Obligations.LengthByLen : Prop :=
  (∀ (b : Byte) (bs : List Byte) (i : Instr) (n : Nat), decode (b :: bs) = .ok (i, n) →
    n ≤ bs.length + 1 ∧ ∃ ent f, opEntry i = some (ent, f) ∧ b.toNat % 4 = f.fmt.len ∧ joinWord ent.opc f % 256 = b.toNat ∧
      ((b.toNat % 4 = 0 ∧ n = 8 ∧ f.fmt = .f64) ∨ (b.toNat % 4 = 1 ∧ n = 12 ∧ (f.fmt = .f96 ∨ f.fmt = .f96i)) ∨
        (b.toNat % 4 = 2 ∧ n = 16 ∧ (f.fmt = .f128 ∨ f.fmt = .f128i)))) ∧
  (∀ (b : Byte) (bs : List Byte), b.toNat % 4 = 3 → 7 ≤ bs.length → decode (b :: bs) = .error .length) ∧
  (∀ (s : State) (ph : Phys), let p := s.w.issuePc
    let bs := (List.range (fetchLen p)).map (fun j => s.codeByte s.w (s.w.codeVa p + BitVec.ofNat 64 j) { ph with loc := ph.loc + j })
    s.m.translate s.w.id.core s.w.ctx (s.w.codeVa p) .exec = .ok ph → inScratch (s.w.codeVa p) = false →
    (∀ j < fetchLen p, s.m.byteHeld (ph.loc + j) = false ∧ s.m.placePoison { ph with loc := ph.loc + j } = false) →
    ((bs.headD 0).toNat % 4 = 3 ∨ ∃ e, decode bs = .error e) → s.w.live = true → s.w.heldAt ≠ s.tick → s.w.running ≠ 0 → (∀ k < 8, s.w.collects k = false) →
    s.candidates s.w.id.core = [s.w.id] → s.others s.w.id.core = [] → s.w.wait = .ready → s.farErr ph = none → s.w.releasable s.w.running 0 = 0 →
    ∃ x : FaultInfo, x.code = 0x01 ∧ x.offset = p ∧ x.xlanes = s.w.lanesAt p ∧ x.flanes = s.w.lanesAt p ∧
      exec (.issueStep s.w.id.core) s = .next (((({ s with alone := true } : State).raise x).passCycles s.w.id.core 1).setLast s.w.id.core s.w.id.slot))

/-! The step, reset and invariants. -/

/-- A step with nothing else due issues the focus warp, and that issue is the instruction that the bytes at the issue address decode to: exec of it, on the
state in which parked lanes that may return have returned (01 R20; log entry 47) and the fetch has filled the TLBs (15 R338); around it the step adds the
passing of time, and after it the parked lanes that may return then, a cycle of the core (01 R37), and the slot that issued last (18 R387). The step is the model's: one event a step from an
agenda, which is empty here (log entry 2), and an instruction that is held leaves the issue to another warp, of which there is none here, nor one of the active set that is ready beside it (log entry 7). The bytes are those that a fetch returns: each is
the byte that the home holds, where no store to it is on its way and none was replaced that a fetch may still return (03 R77; log entry 16). -/
def Obligations.StepRunsDecoded : Prop :=
  ∀ (s : State) (i : Instr) (n : Nat) (ph : Phys),
    let s0 := s.advance
    let s1 : State := { s0.updW (fun w => w.releaseParked w.running 0) with alone := true }
    let p := s1.w.issuePc
    s.agenda = [] → s0.w.wait = .ready → s0.others s0.w.id.core = [] → s1.farErr ph = none → s.w.live = true → s0.candidates s0.w.id.core = [s0.w.id] →
    (∀ k < 8, s1.w.collects k = false) → s1.w.running ≠ 0 →
    s1.m.translate s1.w.id.core s1.w.ctx (s1.w.codeVa p) .exec = .ok ph → inScratch (s1.w.codeVa p) = false →
    (∀ j < fetchLen p, s1.m.byteHeld (ph.loc + j) = false ∧ s1.m.placePoison { ph with loc := ph.loc + j } = false) → p.toNat % 4 = 0 →
    decode ((List.range (fetchLen p)).map (fun j => s1.codeByte s1.w (s1.w.codeVa p + BitVec.ofNat 64 j) { ph with loc := ph.loc + j })) = .ok (i, n) →
    (∀ j < fetchLen p, (∀ o ∈ s1.m.oldCode, o.line = lineOf (ph.loc + j) → o.mask.getLsbD ((ph.loc + j) % 128) = false) → s1.m.comingBytes (ph.loc + j) = [] →
      s1.codeByte s1.w (s1.w.codeVa p + BitVec.ofNat 64 j) { ph with loc := ph.loc + j } = s1.m.homeByte (ph.loc + j) ph.key) ∧
    step s = exec (.issueStep s0.w.id.core) s0 ∧ ∃ t, exec i (s1.touch s1.w.id.core s1.w.ctx (s1.w.codeVa p)) = .next t ∧
      let u := if t.notIssued then t else t.updW (fun w => w.endIssue s1.w.running (justParked i s1.w w))
      let v := u.passCycles s1.w.id.core 1
      step s = .next (if u.w.live = true ∧ u.w.id = s1.w.id ∧ u.w.heldAt = s0.tick then v else v.setLast s1.w.id.core s1.w.id.slot)

/-- The machine never stops: every step of every state leads to a next state, since every fault the spec names is taken as a next state. -/
def Obligations.StepAlwaysGoes : Prop := ∀ s : State, ∃ t, step s = .next t

/-- What power-up leaves (01 R34; 15 R333; 17 R353; 19 R396, R400): boot waits for an image, no error, DEVID 0, nothing resident or in flight, every cache and TLB empty, every bank in
cache mode, no key slot loaded, no context, no task, no export; PARTITION is 5 (32 lanes), ECHOTIMEOUT 1,000,000 ns, and FPMODE, FPSTATUS, CHECKSB, HORIZON, RESUME and the trap
registers are zero, where the model holds them without a warp (log entry 1); the memories are in their canonical form, and no L1 lists a line twice. -/
def Obligations.ResetState : Prop :=
  (let s := State.reset
   s.h.boot = .waiting ∧ s.h.err = 0 ∧ s.m.devId = 0 ∧ s.m.exports = [] ∧ s.h.session = none ∧ s.allWarps = [] ∧ s.cohorts = [] ∧ s.t.tasks = [] ∧
     s.m.l1 = [] ∧ s.m.l2 = [] ∧ s.m.sectors = [] ∧ s.m.tlb = [] ∧ s.m.msgs = [] ∧ s.m.packets = [] ∧ (∀ k, s.m.bankMode.get k = 0) ∧ s.m.keys = [] ∧
     s.m.contexts = [] ∧ s.e.reqs = [] ∧ s.e.seqs = [] ∧ s.f.calls = [] ∧ s.g.msgs = []) ∧
  (let c := State.reset.w.csr
   c.partition = 5 ∧ c.echotimeout = 1000000 ∧ c.fpmode = 0 ∧ c.fpstatus = 0 ∧ c.checksb = 0 ∧ c.horizon = 0 ∧ c.resume = 0 ∧ c.trapinfo = 0 ∧
     c.trapaddr = 0 ∧ c.trapaux = 0 ∧ c.traplanes = 0 ∧ c.trapremote = 0) ∧
  (State.reset.memoryWf = true ∧ State.reset.m.linesOnce = true)

/-- Every step keeps the memories in their canonical form: addresses strictly rising and no byte listed that equals what an unlisted one reads as. The form of the lists, and that an unlisted byte reads as 0, are the model's own choice
(log entry 15). -/
def Obligations.MemoryStaysCanonical : Prop := KeptByStep (fun s => s.memoryWf = true)

/-- Every step keeps each line listed once in an L1: no cluster holds two copies of a line. -/
def Obligations.LinesStayOnce : Prop := KeptByStep (fun s => s.m.linesOnce = true)

/-! Results of one value a lane (04, 05). -/

/-- The instructions of chapter 04 with one result (04 R123, R126, R127, R129-R139) complete with the destination each rule gives, in the executing lanes alone, and change nothing else. -/
def Obligations.ChapterFourResults : Prop :=
  (∀ (i : Instr) (r : LaneForm) (s : State), integerForm i = some r → s.clear i = true → r.agrees i s = true → ∃ t, exec i s = .next t ∧ r.Done i s t) ∧
  (∀ (i : Instr) (r : LaneForm) (s : State), bitForm i = some r → s.clear i = true → r.agrees i s = true → ∃ t, exec i s = .next t ∧ r.Done i s t)

/-- The cross-lane instructions (05 R159-R166). Those that write every executing lane give each the value of its rule; a register that a lane reads from another lane is settled in every lane where the
instruction is clear. In SHPUSH and COMPACT the executing lanes that receive a value get it, and the others keep D: in SHPUSH a lane receives from the highest-numbered executing lane of its tile that
names its position, in COMPACT position j of a tile from the j-th executing lane, ascending, whose bit of B is 1. A scalar D of these two must receive one value in every executing lane or none at all,
or NONUNIFORM is raised (log entry 72 says what no value at all does). That SCAN and REDL give the flags of MIN.F32 and MAX.F32 too, and add the identity -0 as R50 says under RDN,
is the model's choice: log entry 74. -/
def Obligations.CrossLaneResults : Prop :=
  (∀ (i : Instr) (r : LaneForm) (s : State), crossForm i = some r → s.clear i = true → r.agrees i s = true → ∃ t, exec i s = .next t ∧ r.Done i s t) ∧
  (∀ (push : Bool) (f : Fields) (s : State),
     let i : Instr := if push then .shpush f else .compact f
     let c := s.ctxOf i
     let w := s.w.tileWidth
     let ex (l : Nat) : List Nat := (List.range 32).filter (fun m => c.g.getLsbD m && laneBase w m == laneBase w l)
     let from? (l : Nat) : Option Nat :=
       if push then ((ex l).filter (fun m => (s.read32 f.b m).toNat % 32 % w == inTile w l)).getLast?
       else ((ex l).filter (fun m => (s.read32 f.b m).getLsbD (f.modBits 4 0)))[inTile w l]?
     let got : Lanes := ofBits 32 ((bitList c.g).filter (fun l => (from? l).isSome))
     let val (l : Nat) : W64 := s.readW (f.sub = 1) f.a ((from? l).getD 0)
     let c' : Ctx := { c with g := got }
     let scalar : Bool := match f.d with | .s _ => true | .v _ => false | .sp _ => false
     let whole : Bool := !scalar || got == 0 || (got == c.g && c'.agrees f.d (f.sub = 1) val)
     s.clear i = true →
     if whole then ∃ t, exec i s = .next t ∧ c.Went s t ∧ OnlyRegisters s t ∧
       (if got = 0 then t.w.v = s.w.v ∧ t.w.s = s.w.s else c'.Holds s t f.d (f.sub = 1) false val)
     else exec i s = .next (s.raise (c.info 0x03 0 c.g 0)))

/-- The floating instructions (05 R141-R158): results, and the flags of the executing lanes in FPSTATUS. Their arithmetic is that of 02 R48-R52: sums and products of finite values are exact before they are rounded; each of the
five modes rounds as R50 says, and the inexact flag says whether anything was cut off; a result of a format that flushes nothing is the rounded value where the format reaches it, and otherwise the overflow of its mode (the FP8 format without
infinities apart). -/
def Obligations.FloatResults : Prop :=
  (∀ (i : Instr) (r : LaneForm) (s : State), floatForm i = some r → s.clear i = true → r.agrees i s = true → ∃ t, exec i s = .next t ∧ r.Done i s t) ∧
  (∀ (rm : Rm) (neg : Bool) (m sh : Nat), let r := roundShift rm neg m sh
    let x : ℚ := (m : ℚ) / 2 ^ sh
    (r.2 = true ↔ m % 2 ^ sh ≠ 0) ∧ (r.2 = false → (r.1 : ℚ) = x) ∧
    match rm with
    | .rtz => r.1 = m / 2 ^ sh
    | .rup => r.1 = if neg then m / 2 ^ sh else (m + 2 ^ sh - 1) / 2 ^ sh
    | .rdn => r.1 = if neg then (m + 2 ^ sh - 1) / 2 ^ sh else m / 2 ^ sh
    | .rne => |(r.1 : ℚ) - x| ≤ 1 / 2 ∧ (|(r.1 : ℚ) - x| = 1 / 2 → r.1 % 2 = 0)
    | .rna => |(r.1 : ℚ) - x| ≤ 1 / 2 ∧ (|(r.1 : ℚ) - x| = 1 / 2 → x < r.1)) ∧
  (∀ (t : Flt) (md : FpMode) (neg : Bool) (m : Nat) (e : Int), (t = f32 ∨ t = f16 ∨ t = bf16 ∨ t = e5m2 ∨ t = e4m3) → md.flushOut = false → m ≠ 0 →
    let q : Int := max (topExp m e) t.emin - t.mb
    let r := roundTo md.rm neg m e q
    let y := fround t md (.fin neg m e)
    let away : Bool := match md.rm with | .rne => true | .rna => true | .rtz => false | .rup => !neg | .rdn => neg
    ((r.1 : ℚ) * 2 ^ q ≤ (t.val t.maxCode).rat →
      (t.val y.1).isFinite = true ∧ (t.val y.1).rat = (if neg then -1 else 1) * (r.1 : ℚ) * 2 ^ q ∧ (y.2 &&& flNX = if r.2 then flNX else 0) ∧ y.2 &&& flOF = 0) ∧
    ((t.val t.maxCode).rat < (r.1 : ℚ) * 2 ^ q → t ≠ e4m3 → y = (t.signed neg (if away then t.infCode else t.maxCode), flOF ||| flNX))) ∧
  (∀ (rm : Rm) (ts : List Val), (∀ x ∈ ts, x.isFinite = true) →
    (sumVals rm ts).1.isFinite = true ∧ (sumVals rm ts).1.rat = (ts.map Val.rat).sum ∧ (sumVals rm ts).2 = 0) ∧
  (∀ (a b : Val), a.isFinite = true → b.isFinite = true → (mulVals a b).1.isFinite = true ∧ (mulVals a b).1.rat = a.rat * b.rat ∧ (mulVals a b).2 = 0) ∧
  (∀ (t : Flt) (md : FpMode) (a b c : Val), a.isFinite = true → b.isFinite = true → c.isFinite = true →
    addF t md a b = fround t md (sumVals md.rm [a, b]).1 ∧ mulF t md a b = fround t md (mulVals a b).1 ∧
    fmaF t md a b c = fround t md (sumVals md.rm [(mulVals a b).1, c]).1)

/-- Faults of operands, which leave the instruction without an effect. Executing lanes that disagree on the value of a scalar destination raise NONUNIFORM (01 R28; 04 R107).
A load or store at an address that is not a multiple of its size raises ALIGN, before any other fault of an address
(06 R169, R179; 15 R329). A handle of no live graph raises GRAPH 1, a vertex outside the graph GRAPH 2, GNEXT on a closed cursor GRAPH 3, in the lanes at fault (10 R231, R237, R238, R247). A tile
address that is no multiple of 256 raises ALIGN in the leader (12 R266). -/
def Obligations.OperandFaults : Prop :=
  (∀ (i : Instr) (r : LaneForm) (s : State), laneForm i = some r → s.clear i = true → r.agrees i s = false →
     exec i s = .next (s.raise ((s.ctxOf i).info 0x03 0 (s.ctxOf i).g 0))) ∧
  (∀ (store : Bool) (f : Fields) (s : State),
     let i : Instr := if store then .st f else .ld f
     let c := s.ctxOf i
     let n := 2 ^ f.subBits 2 0
     let ea (l : Nat) : W64 := s.ea f (f.subBits 7 7 = 1) (f.imm.signExtend 64) l
     let bad : List Nat := (bitList c.g).filter (fun l => (ea l).toNat % n ≠ 0)
     s.clear i = true → bad ≠ [] →
     ∃ x : FaultInfo, exec i s = .next (s.raise x) ∧ x.code = 0x09 ∧ x.lane.toNat = bad.headD 0 ∧ x.addr = ea (bad.headD 0) ∧ x.offset = c.p ∧ x.xlanes = c.g ∧
       x.acc = (if store then 1 else 0) ∧ ∀ l ∈ bad, x.flanes.getLsbD l = true) ∧
  ((∀ (i : Instr) (r : GraphForm) (s : State) (h : W64), let c := s.ctxOf i
     graphForm i = some r → s.clear i = true → s.w.acquiring = false → c.uni64 s r.f.a = some h →
     (s.graphOf s.w.ctx h = none → exec i s = .next (s.raise (c.info 0x0B 1 c.g 0))) ∧
     (∀ e bad, s.graphOf s.w.ctx h = some e →
       bad = ofBits 32 ((bitList c.g).filter (fun l => r.vertices.any (fun o => e.nv ≤ (s.read32 o l).toNat))) → bad ≠ 0 →
       exec i s = .next (s.raise (c.info 0x0B 2 bad 0)))) ∧
   (∀ (f : Fields) (s : State), let c := s.ctxOf (.gnext f)
     let bad := ofBits 32 ((bitList c.g).filter (fun l => curState (s.w.cursor (f.modBits 2 0) l) == 0))
     s.clear (.gnext f) = true → s.w.acquiring = false → s.w.cursorBusy (f.modBits 2 0) c.g = false → bad ≠ 0 →
     exec (.gnext f) s = .next (s.raise (c.info 0x0B 3 bad 0)))) ∧
  (∀ (i : Instr) (r : TileForm) (s : State),
     let c := s.ctxOf i
     let lane := lowLane c.g
     tileForm i = some r → s.clear i = true → (s.read64 r.f.d lane).toNat % 256 ≠ 0 →
     (match s.recordAt s.w.id.core s.w.ctx (s.read64 r.f.a lane) with
      | .error e => e.code ≠ 0
      | .ok rec => r.Checked c s rec) →
     exec i s = .next (s.raise { c.info 0x09 0 (BitVec.ofNat 32 (2 ^ lane)) (s.read64 r.f.d lane) with acc := if r.load then 1 else 0 }))

/-- ADDC and SUBB (04 R128), F128 with SUB 0 for 32 bits and 1 for 64: D holds the sum or difference with bit 0 of C as the carry or borrow in, modulo 2 to the width, and E the carry or borrow out, 1 or 0,
both compared as unsigned; nothing else changes. A word whose D and E name the same register, the special register ZERO among them, is no instruction, so that its fetch raises
ILLEGAL_ENCODING. -/
def Obligations.CarryResults : Prop :=
  (∀ (sub : Bool) (f : Fields) (s : State),
    let i : Instr := if sub then .subb f else .addc f
    let c := s.ctxOf i
    let wide : Bool := f.sub = 1
    let k (l : Nat) : W64 := (s.read32 f.c l &&& 1).setWidth 64
    let a (l : Nat) : W64 := s.readW wide f.a l
    let b (l : Nat) : W64 := s.readW wide f.b l
    let d (l : Nat) : W64 := if sub then a l - b l - k l else a l + b l + k l
    let out (l : Nat) : Bool :=
      if sub then (a l).toNat < (b l).toNat + (k l).toNat else 2 ^ (if wide then 64 else 32) ≤ (a l).toNat + (b l).toNat + (k l).toNat
    let e (l : Nat) : W64 := if out l then 1 else 0
    s.clear i = true → c.agrees f.d wide d = true → c.agrees f.e false e = true →
    ∃ t u, exec i s = .next t ∧ c.Holds s u f.d wide false d ∧ c.Holds u t f.e false false e ∧ c.Went s t ∧ OnlyRegisters s t) ∧
  (∀ (sub : Bool) (f : Fields) (bs : List Byte) (n : Nat), decode bs = .ok (if sub then .subb f else .addc f, n) →
    leNat (bs.take 2) / 4 % 256 = (if sub then 0x26 else 0x25) ∧ f.fmt = .f128 ∧ f.sub.toNat ≤ 1 ∧
      (∀ r, f.d = .v r → f.e ≠ .v r ∧ (f.sub = 1 → f.e ≠ .v (r + 1))) ∧ (∀ r, f.d = .s r → f.e ≠ .s r) ∧ (f.d = .sp .zero → f.e ≠ .sp .zero))

/-! Control (04 R109-R124; 01 R19-R25, R43). -/

/-- NOP and WAITSB do nothing but move the lanes on (03 R99; 04 R123); so do BAR.WAIT, BAR.SYNC and BAR.EXPECT on a group slot that is not valid, and
SLEEP of 0 (04 R118, R123). An instruction that no lane executes, whatever it is but one that collects its signers, and whatever its operands are, does no more: no operation is started, no slot is raised (01 R37; 03 R79). -/
def Obligations.NothingDone : Prop :=
  (∀ (i : Instr) (s : State),
    (match i with
      | .nop _ | .waitsb _ => True
      | .barSync f => s.w.groupEntry (f.modBits 1 0) = none
      | .barWait f | .barExpect f => s.w.groupEntry (f.modBits 1 0) = none ∧ ((s.ctxOf i).uni32 s f.a).isSome = true
      | .sleep f => (s.ctxOf i).uni32 s f.a = some 0
      | _ => False) →
    s.clear i = true → ∃ t, exec i s = .next t ∧ (s.ctxOf i).Went s t ∧ WarpKept s t ∧ RestKept s t) ∧
  (∀ (i : Instr) (s : State), collectiveOf i = none → s.passedOver i = true →
    ∃ t, exec i s = .next t ∧ (s.ctxOf i).Went s t ∧ WarpKept s t ∧ RestKept s t ∧ t.w.ops = s.w.ops ∧ t.w.sb = s.w.sb ∧ t.w.marks = s.w.marks ∧ t.w.absent = s.w.absent)

/-- Branches (04 R109, R110), encoded as the table of R109 says: BRA and CALL go to the issue address plus four times the signed offset, modulo 2 to the 32, BRX and RET to the offset in A where it is a multiple
of 4 in every executing lane, and raise ALIGN, with no effect for any lane, where it is not; CALL leaves the return offset in D; lanes whose guard is false move on; nothing else changes, wherever the
target lies. -/
def Obligations.Branches : Prop :=
  (∀ (i : Instr) (s : State) (f : Fields) (link : Bool) (target : Ctx → Nat → W32),
    ((i = .bra f ∧ link = false ∧ target = fun c _ => c.p + ((f.imm.setWidth 28).signExtend 32) * 4) ∨
      (i = .call f ∧ link = true ∧ target = fun c _ => c.p + ((f.imm.setWidth 28).signExtend 32) * 4) ∨
      ((i = .brx f ∨ i = .ret f) ∧ link = false ∧ (target = fun _ l => s.read32 f.a l) ∧
        ∀ l, (s.ctxOf i).g.getLsbD l = true → (s.read32 f.a l).toNat % 4 = 0)) →
    s.clear i = true →
    ∃ t, exec i s = .next t ∧ (s.ctxOf i).Jumped s t (target (s.ctxOf i)) ∧ (s.ctxOf i).Spent s t ∧ OnlyRegisters s t ∧
      (if link then (s.ctxOf i).Holds s t f.d false false (fun _ => ((s.ctxOf i).p + 12).setWidth 64) else t.w.v = s.w.v ∧ t.w.s = s.w.s)) ∧
  (∀ (ret : Bool) (f : Fields) (s : State),
     let i : Instr := if ret then .ret f else .brx f
     let c := s.ctxOf i
     let bad : Lanes := ofBits 32 ((bitList c.g).filter (fun l => (s.read32 f.a l).toNat % 4 ≠ 0))
     s.clear i = true → bad ≠ 0 → exec i s = .next (s.raise (c.info 0x09 0 bad (s.w.codeVa (s.read32 f.a (lowLane bad)))))) ∧
  (∀ (i : Instr) (bs : List Byte) (n : Nat) (f : Fields), decode bs = .ok (i, n) →
    let opc := leNat (bs.take 2) / 4 % 256
    (i = .bra f → opc = 0x01 ∧ f.fmt = .f96i ∧ f.sub = 0 ∧ f.d = .v 0 ∧ f.a = .v 0) ∧
    (i = .brx f → opc = 0x02 ∧ f.fmt = .f96 ∧ f.sub = 0 ∧ f.d = .v 0 ∧ f.b = .v 0 ∧ f.mod = 0) ∧
    (i = .call f → opc = 0x03 ∧ f.fmt = .f96i ∧ f.sub = 0 ∧ f.a = .v 0 ∧ ((∃ r, f.d = .v r) ∨ (∃ r, f.d = .s r) ∨ f.d = .sp .zero)) ∧
    (i = .ret f → opc = 0x04 ∧ (f.fmt = .f64 ∨ f.fmt = .f96) ∧ f.sub = 0 ∧ f.d = .v 0 ∧ f.b = .v 0 ∧ f.mod = 0))

/-- YIELD (01 R21): the executing lanes park at the next instruction with the issue address as their YIELD address, not yet seen; EXIT (01 R43) of some lanes, with others left: they become exited and leave
every convergence register; SLEEP (04 R123): the warp waits until TIME reaches the time of issue plus A nanoseconds; KDECL (01 R25; 04 R112): the declared mask, exited lanes cleared. SIGN (01 R25) at an address where no
other is being signed: lanes that are not declared pass; declared lanes sign and wait there, until the last of them signs, which lets every signer run on at the next instruction. -/
def Obligations.LaneStates : Prop :=
  ((∀ (f : Fields) (s : State), let c := s.ctxOf (.yield f)
     s.clear (.yield f) = true → ∃ t, exec (.yield f) s = .next t ∧ c.Went s t ∧ RestKept s t ∧
       (∀ l < 32, t.w.laneState l = (if c.g.getLsbD l then 1 else s.w.laneState l) ∧ t.w.yaddr.get l = (if c.g.getLsbD l then c.p else s.w.yaddr.get l) ∧
         t.w.seen.getLsbD l = (s.w.seen.getLsbD l && !c.g.getLsbD l)) ∧
       WarpKept (s.updW (fun w => { w with lstate := t.w.lstate, yaddr := t.w.yaddr, seen := t.w.seen })) t) ∧
   (∀ (f : Fields) (s : State), let c := s.ctxOf (.exit f)
     s.clear (.exit f) = true → (∃ l < 32, s.w.laneState l ≠ 3 ∧ c.g.getLsbD l = false) → (∀ k < 8, (s.w.exitLanes c.g).collects k = false) →
     ∃ t, exec (.exit f) s = .next t ∧ c.Jumped s t (fun l => s.w.lpc.get l) ∧ c.Spent s t ∧ RestKept s t ∧
       (∀ l < 32, t.w.laneState l = if c.g.getLsbD l then 3 else s.w.laneState l) ∧
       (∀ k < 8, t.w.decl k = s.w.decl k &&& ~~~c.g ∧ t.w.signed k = s.w.signed k &&& ~~~c.g) ∧
       WarpKept (s.updW (fun w => { w with lstate := t.w.lstate, kdecl := t.w.kdecl, ksigned := t.w.ksigned })) t) ∧
   (∀ (f : Fields) (s : State) (n : W32), let c := s.ctxOf (.sleep f)
     s.clear (.sleep f) = true → c.uni32 s f.a = some n → n ≠ 0 → ∃ t, exec (.sleep f) s = .next t ∧ c.Went s t ∧ RestKept s t ∧
       WarpKept (s.updW (fun w => { w with wait := .sleep (s.time + n.toNat) })) t) ∧
   (∀ (f : Fields) (s : State) (m : W32), let c := s.ctxOf (.kdecl f)
     s.clear (.kdecl f) = true → c.uni32 s f.a = some m → s.w.signed (f.modBits 2 0) = 0 → ∃ t, exec (.kdecl f) s = .next t ∧ c.Went s t ∧ RestKept s t ∧
       (∀ k, t.w.decl k = if k = f.modBits 2 0 then m &&& ~~~(s.w.lanesIn 3) else s.w.decl k) ∧
       WarpKept (s.updW (fun w => { w with kdecl := t.w.kdecl })) t)) ∧
  (∀ (f : Fields) (s : State),
     let i : Instr := .sign f
     let c := s.ctxOf i
     let k := f.modBits 2 0
     let mine : Lanes := c.x &&& s.w.decl k
     let all : Lanes := s.w.signed k ||| mine
     s.clear i = true → (s.w.signed k = 0 ∨ s.w.kaddr.get k = c.p) →
     ∃ t, exec i s = .next t ∧ RestKept s t ∧
       (if mine = 0 then c.Went s t ∧ WarpKept s t
        else if s.w.decl k &&& ~~~all ≠ 0 then
         t.w.signed k = all ∧ t.w.kaddr.get k = c.p ∧
           ∀ l < 32, (mine.getLsbD l = true → t.w.laneState l = 2 ∧ t.w.lpc.get l = c.p) ∧
             (c.x.getLsbD l = true → mine.getLsbD l = false → t.w.laneState l = s.w.laneState l ∧ t.w.lpc.get l = c.p + BitVec.ofNat 32 c.len)
        else
         t.w.signed k = 0 ∧ ∀ l < 32, all.getLsbD l = true → t.w.laneState l = 0 ∧
           (mine.getLsbD l = true ∨ s.w.lpc.get l = c.p → t.w.lpc.get l = c.p + BitVec.ofNat 32 c.len)))

/-- Barriers of a valid group slot whose entry takes the arrival (04 R113-R117, R121, R122). Where the arrival does not complete the phase, BAR.ARRIVE counts it and gives the phase; BAR.SYNC, GVOTE and GRED count
it, with the warp's contribution, and the warp waits on that phase. Where it completes the phase, and no member has left and the next phase is not complete at once, the arrivals beyond NEED are carried over, the result over the first NEED
arrivals is in D of every warp of the cohort that waits on the phase, its lanes have passed and its FPSTATUS has the flags; the issuing warp, which waits with BAR.SYNC, GVOTE and GRED, is one of them. BAR.WAIT on a token
whose phase has passed moves on; BAR.EXPECT adds its bytes. On a slot that is not valid (R118), BAR.ARRIVE gives token 0 and GVOTE and GRED complete at once over the one contribution. (The flags of MIN.F32 and
MAX.F32, and the identity -0 added as R50 says under RDN, are the model's choice: log entry 74.) -/
def Obligations.Barriers : Prop :=
  (∀ (f : Fields) (s : State) (e : Nat) (b : Barrier), let c := s.ctxOf (.barArrive f)
    s.clear (.barArrive f) = true → s.w.groupEntry (f.modBits 1 0) = some e → s.barrierAt e = some b → b.arriveErr kindPlain = none → s.writesPending s.w = false →
    (b.arrive kindPlain s.w.ref.widx 0).done = false → (∀ k, s.cohortOf s.w.ref = some k → k.away = false) →
    ∃ t, exec (.barArrive f) s = .next t ∧ c.Went s t ∧ c.Holds s t f.d false false (fun _ => b.phase.setWidth 64) ∧
      t.barrierAt e = some { b with arr := b.arr + 1, kind := kindPlain, arrivals := b.arrivals ++ [⟨s.w.ref.widx, kindPlain, 0⟩] } ∧ t.m = s.m ∧ t.warps = s.warps) ∧
  (∀ (i : Instr) (f : Fields) (s : State) (e kind : Nat) (x : W32) (dest : Opnd) (b : Barrier), let c := s.ctxOf i
    c.Arrives s i f kind x dest → s.clear i = true → s.w.groupEntry (f.modBits 1 0) = some e → s.barrierAt e = some b → b.arriveErr kind = none → s.writesPending s.w = false →
    (b.arrive kind s.w.ref.widx x).done = false → (∀ k, s.cohortOf s.w.ref = some k → k.away = false) →
    ∃ t, exec i s = .next t ∧ t.w.wait = .barrier e b.phase c.g dest c.id c.len ∧ t.w.v = s.w.v ∧ t.w.s = s.w.s ∧ c.Spent s t ∧ t.m = s.m ∧ t.warps = s.warps ∧
      c.Jumped s t (fun _ => c.p) ∧
      t.barrierAt e = some { b with arr := b.arr + 1, kind := kind, arrivals := b.arrivals ++ [⟨s.w.ref.widx, kind, x⟩] }) ∧
  (∀ (f : Fields) (s : State) (e : Nat) (b : Barrier), let c := s.ctxOf (.barArrive f)
    let all := b.arrivals ++ [⟨s.w.ref.widx, kindPlain, 0⟩]
    s.clear (.barArrive f) = true → s.w.groupEntry (f.modBits 1 0) = some e → s.barrierAt e = some b → b.arriveErr kindPlain = none → s.writesPending s.w = false →
    (b.arrive kindPlain s.w.ref.widx 0).done = true → b.leaving = 0 → (b.next all).done = false → (∀ k, s.cohortOf s.w.ref = some k → k.away = false) →
    ∃ t, exec (.barArrive f) s = .next t ∧ c.Went s t ∧ c.Holds s t f.d false false (fun _ => b.phase.setWidth 64) ∧ t.barrierAt e = some (b.next all) ∧ t.m = s.m ∧
      s.OthersReleased t e b.phase false (0, 0)) ∧
  (∀ (i : Instr) (f : Fields) (s : State) (e kind : Nat) (x : W32) (dest : Opnd) (b : Barrier), let c := s.ctxOf i
    let all := b.arrivals ++ [⟨s.w.ref.widx, kind, x⟩]
    let r := groupResult i (all.take b.need)
    c.Arrives s i f kind x dest → s.clear i = true → s.w.groupEntry (f.modBits 1 0) = some e → s.barrierAt e = some b → b.arriveErr kind = none → s.writesPending s.w = false →
    (b.arrive kind s.w.ref.widx x).done = true → b.leaving = 0 → (b.next all).done = false → (∀ k, s.cohortOf s.w.ref = some k → k.away = false) → (∀ o ∈ s.w.ops, o.id ≠ c.id) →
    ∃ t, exec i s = .next t ∧ c.Went s t ∧ c.Holds s t dest false (groupSigned i) (fun _ => r.1.setWidth 64) ∧ t.w.wait = .ready ∧
      t.w.csr = { s.w.csr with fpstatus := s.w.csr.fpstatus ||| r.2.setWidth 64 } ∧ t.barrierAt e = some (b.next all) ∧ t.m = s.m ∧ s.OthersReleased t e b.phase (groupSigned i) r) ∧
  (∀ (i : Instr) (f : Fields) (s : State) (kind : Nat) (x : W32) (dest : Opnd), let c := s.ctxOf i
    let r := groupResult i [⟨s.w.ref.widx, kind, x⟩]
    ((i = .barArrive f ∧ dest = f.d) ∨ ((∃ g, i = .gvote g ∨ i = .gred g) ∧ c.Arrives s i f kind x dest)) → s.clear i = true → s.w.groupEntry (f.modBits 1 0) = none →
    ∃ t, exec i s = .next t ∧ c.Went s t ∧ OnlyRegistersAndFlags s t r.2 ∧ c.Holds s t dest false (groupSigned i) (fun _ => r.1.setWidth 64)) ∧
  (∀ (f : Fields) (s : State) (e : Nat) (b : Barrier) (token : W32), let c := s.ctxOf (.barWait f)
    s.clear (.barWait f) = true → s.w.groupEntry (f.modBits 1 0) = some e → s.barrierAt e = some b → c.uni32 s f.a = some token → b.ovf = false →
    0 < (b.phase - token).toNat → (b.phase - token).toNat < 2 ^ 31 →
    ∃ t, exec (.barWait f) s = .next t ∧ c.Went s t ∧ WarpKept s t ∧ RestKept s t) ∧
  (∀ (f : Fields) (s : State) (e : Nat) (b : Barrier) (n : W32), let c := s.ctxOf (.barExpect f)
    s.clear (.barExpect f) = true → s.w.groupEntry (f.modBits 1 0) = some e → s.barrierAt e = some b → c.uni32 s f.a = some n → b.ovf = false →
    b.pend + n.toNat ≤ 2 ^ 27 - 1 → ({ b with pend := b.pend + n.toNat } : Barrier).done = false → (∀ k, s.cohortOf s.w.ref = some k → k.away = false) →
    ∃ t, exec (.barExpect f) s = .next t ∧ c.Went s t ∧ WarpKept s t ∧ t.barrierAt e = some { b with pend := b.pend + n.toNat } ∧ t.m = s.m ∧ t.warps = s.warps)

/-- TRAP and BKPT (04 R124; 15 R332) of a user-mode warp with a handler for the code: trap entry. The lanes at the address have moved past TRAP, and at BKPT
those whose guard is false have; TLPC and TLSTATE keep the lanes as they then are; the warp is in privileged mode with every lane that has not exited
running at the handler; TRAPINFO holds the code and the offset, s63, filled before where a restore left it absent (15 R346), and TRAPSWAP are exchanged; memory is unchanged. -/
def Obligations.TrapInstructions : Prop :=
  ∀ (bkpt : Bool) (f : Fields) (s : State) (h : W32) (w1 : Warp),
    let i : Instr := if bkpt then .bkpt f else .trap f
    let c := s.ctxOf i
    let code : BitVec 8 := if bkpt then 0x21 else 0x20
    s.clear i = true → s.w.onStackCore = false → s.w.priv = false → s.handlerOf s.w code = some h → s.fillHeld s.w [703] = false → s.fillRegs s.w [703] = some w1 →
    ∃ t, exec i s = .next t ∧ RestKept s t ∧ t.w.priv = true ∧
      (∀ l < 32, t.w.tlpc.get l = if c.x.getLsbD l && !(bkpt && c.g.getLsbD l) then c.p + BitVec.ofNat 32 c.len else s.w.lpc.get l) ∧
      t.w.tlstate = s.w.lstate ∧
      (∀ l < 32, if s.w.laneState l = 3 then t.w.laneState l = 3 else t.w.laneState l = 0 ∧ t.w.lpc.get l = h) ∧
      fieldOf t.w.csr.trapinfo 7 0 = code.toNat ∧ fieldOf t.w.csr.trapinfo 63 32 = c.p.toNat ∧ fieldOf t.w.csr.traplanes 31 0 = c.g.toNat ∧
      fieldOf t.w.csr.traplanes 63 32 = c.g.toNat ∧ fieldOf t.w.csr.trapaux 63 32 = (if bkpt then 0 else f.imm.toNat) ∧
      t.w.csr.trapswap = w1.s.get 63 ∧ (∀ r, t.w.s.get r = if r = 63 then s.w.csr.trapswap else s.w.s.get r) ∧ t.w.v = s.w.v

/-! Memory (06 R167-R195). -/

/-- LD and LDU whose addresses are aligned, mapped and readable (06 R173-R179; A and B of LDU uniform), with no acquire of the warp outstanding: the result is outstanding for the registers of D. LDU reads once, for every executing lane. A lane whose
bytes are in a scratchpad bank, or all in a line of the cluster's L1 as dirty bytes or as valid ones under an unexpired lease, has its value at once, little-endian and extended as the form says, unless the access goes to the home (an acquire
at D or wider, a page without C, a message of the warp's own to the line on its way); one message goes to the home of each line that is asked, for just the pieces that the lanes lack. No byte of memory, bank or L1 changes, and of an L1 line only its
replacement class and its place in the order of use. -/
def Obligations.LoadsIssue : Prop :=
  ∀ (u : Bool) (f : Fields) (s : State) (a : Nat → Target),
    let i : Instr := if u then .ldu f else .ld f
    let c := s.ctxOf i
    let n := 2 ^ f.subBits 2 0
    let ea (l : Nat) : W64 := s.ea f (f.subBits 7 7 = 1) (f.imm.signExtend 64) l
    let home : Bool := f.mod = 1 && 2 ≤ f.subBits 6 4
    let piece (l : Nat) : Piece :=
      { lanes := (match f.d with | .v _ => if u then c.g else BitVec.ofNat 32 (2 ^ l) | .s _ => BitVec.allOnes 32 | .sp _ => 0), off := 0, size := n
        reg := (match f.d with | .v d => d | .s d => d | .sp _ => 0), scalar := (match f.d with | .s _ => true | .v _ => false | .sp _ => false)
        sext := f.subBits 3 3 = 1, va := ea l }
    let dests : List (Nat × Lanes) := match f.d with
      | .v d => (List.range ((n + 3) / 4)).map (fun j => (d + j, c.g))
      | .s d => (List.range ((n + 7) / 8)).map (fun j => (640 + d + j, BitVec.allOnes 32))
      | .sp _ => []
    let y (bs : List Byte) : Nat := if f.subBits 3 3 = 1 ∧ 2 ^ (8 * n - 1) ≤ leNat bs then leNat bs + (2 ^ 64 - 2 ^ (8 * n)) else leNat bs
    s.clear i = true → s.w.acquiring = false → (∀ l, c.g.getLsbD l = true → s.aim n .read (ea l) = .ok (a l)) →
    (u = true → (c.uni64 s f.a).isSome = true ∧ (c.uni32 s f.b).isSome = true) →
    ∃ t new o, exec i s = .next t ∧ c.Went s t ∧ WarpKept s t ∧ OnlyMemory s t ∧ HomesKept s t ∧ (∀ cl line, t.m.lineOfL1 cl line = s.m.lineOfL1 cl line) ∧
      c.Asks s t home (s.unanswered home ((if u then (bitList c.g).take 1 else bitList c.g).map (fun l => (a l, piece l)))) new ∧
      c.Outstanding t dests new.length ∧ t.w.ops.getLast? = some o ∧
      ∀ l bs, c.g.getLsbD l = true → s.atOnce home n (a (if u then lowLane c.g else l)) = some bs →
        match f.d with
        | .v d => ∀ j < (n + 3) / 4, (o.vvals.find? (fun p => p.1 == (d + j) * 32 + l)).map Prod.snd = some (BitVec.ofNat 32 (y bs / 2 ^ (32 * j)))
        | .s d => ∀ j < (n + 7) / 8, (o.svals.find? (fun p => p.1 == d + j)).map Prod.snd = some (BitVec.ofNat 64 (y bs / 2 ^ (64 * j)))
        | .sp _ => True

/-- The conditions under which a release issues at once (06 R176, R189, R194): no write of the warp on its way and, at D and wider, no dirty line of
its own and TIME at HORIZON. -/
def releaseReady (s : State) (scope : Nat) : Prop :=
  s.writesPending s.w = false ∧ (2 ≤ scope → s.hasDirty s.w = false ∧ s.w.csr.horizon.toNat ≤ s.time)

/-- ST (06 R173-R179) with good addresses, nothing in front of it: every byte stored is in the bank, or in the cluster's L1 as a dirty byte or on its way to its home in a message, newer than any other of the position (of lanes that store to one byte, the
highest). Every other bank byte is as it was; every other byte that was dirty in the cluster's L1 is there still or on its way, and no other is; every home holds what it held; and a line that is not stored to is as it was, or has left the cluster's L1 to
make room (17 R355). -/
def Obligations.StoresIssue : Prop :=
  ∀ (f : Fields) (s : State) (a : Nat → Target),
    let c := s.ctxOf (.st f)
    let n := 2 ^ f.subBits 2 0
    s.clear (.st f) = true → s.w.acquiring = false → s.m.linesOnce = true →
    (∀ l, c.g.getLsbD l = true → s.aim n .write (s.ea f (f.subBits 7 7 = 1) (f.imm.signExtend 64) l) = .ok (a l)) →
    (∀ l p, c.g.getLsbD l = true → a l = .mem p → s.lineBusy (lineOf p.loc) = false) →
    (f.mod = 2 → releaseReady s (f.subBits 6 4)) →
    ∃ t new, exec (.st f) s = .next t ∧ c.Went s t ∧ WarpKept s t ∧ OnlyMemory s t ∧ c.Stores s t ((bitList c.g).map (fun l => ⟨a l, s.dataBytes f.d n l⟩)) new

/-- The atomics (06 R190-R194) with good addresses and nothing in front of them: ATOM, ATOMF and CAS leave their old values outstanding for D. On scratchpad banks the operations have happened, in ascending lane order: a lane's result is what its word
holds after the lower lanes, and the banks hold what the last has left, every other byte as it was. On memory one message a line, with the operations of its lanes in order, goes to the home; the cluster's copy of the line leaves its L1, its dirty bytes on their way
in front; every home, and every other line of an L1, is as it was. -/
def Obligations.AtomicsIssue : Prop :=
  ∀ (i : Instr) (f : Fields) (s : State) (a : Nat → Target),
    let c := s.ctxOf i
    let n := (atomOf f c s 0).size
    let inLine (line : Nat) : List AtomOp := (bitList c.g).filterMap (fun l => match a l with
      | .mem p => if lineOf p.loc = line then some { atomOf f c s l with off := p.loc % 128 } else none
      | .bank _ => none)
    let named (line : Nat) : Prop := inLine line ≠ []
    (i = .atom f ∨ i = .atomf f ∨ i = .cas f ∨ i = .red f ∨ i = .redf f) →
    s.clear i = true → s.w.acquiring = false →
    (∀ l, c.g.getLsbD l = true → s.aim n .both (s.ea f (f.subBits 5 5 = 1) 0 l) = .ok (a l)) →
    (∀ l p, c.g.getLsbD l = true → a l = .mem p → s.lineBusy (lineOf p.loc) = false) →
    (∀ l k, c.g.getLsbD l = true → a l = .bank k → s.m.bankPoisoned k n = false) →
    (2 ≤ f.modBits 4 3 → releaseReady s (f.modBits 2 0)) →
    ∃ t new, exec i s = .next t ∧ c.Went s t ∧ WarpKept s t ∧ OnlyMemory s t ∧ HomesKept { s with m := { s.m with bank := t.m.bank, bankPoison := t.m.bankPoison } } t ∧
      t.m.msgs = s.m.msgs ++ new ∧
      (∀ q, t.m.bankGet q = bankAtoms f c s a (bitList c.g) s.m.bankGet q) ∧
      (∀ d, f.d = .v d → c.opc ≤ 0xA2 → ∃ o, c.AwaitsReplies s t ((List.range (n / 4)).map (fun j => (d + j, c.g))) (new.filter (fun g => g.op == c.id)).length ∧ t.w.ops.getLast? = some o ∧
        ∀ l k, c.g.getLsbD l = true → a l = .bank k →
          let old := leNat ((List.range n).map (fun j => bankAtoms f c s a ((bitList c.g).filter (· < l)) s.m.bankGet (k + j)))
          ∀ j < n / 4, (o.vvals.find? (fun p => p.1 == (d + j) * 32 + l)).map Prod.snd = some (BitVec.ofNat 32 (old / 2 ^ (32 * j)))) ∧
      (∀ line, named line → ∃ g ∈ new, g.op = c.id ∧ g.warp = s.w.ref ∧ g.line = line ∧ g.kind = .atomic (inLine line)) ∧
      (∀ g ∈ new, g.op ≠ c.id → g.cluster = s.w.cl ∧ named g.line ∧ ∃ x pz cv ws mm, s.m.l1Find s.w.cl g.line = some x ∧ x.dirty ≠ 0 ∧ g.kind = .write x.data x.dirty pz cv ws mm) ∧
      ((new.filter (fun g => g.op == c.id)).map (·.line)).Nodup ∧ (∀ g ∈ new, g.op = c.id → named g.line) ∧
      (∀ line, named line → s.w.onStackCore = false → t.m.l1Find s.w.cl line = none ∧
        ∀ x, s.m.l1Find s.w.cl line = some x → x.dirty ≠ 0 → ∃ g ∈ new, g.line = line ∧ g.op ≠ c.id ∧ ∃ pz cv ws mm, g.kind = .write x.data x.dirty pz cv ws mm) ∧
      (∀ cl line, (cl ≠ s.w.cl ∨ ¬ named line) → t.m.l1Find cl line = s.m.l1Find cl line)

/-- CAS (06 R193): SUB[0] is the width and SUB[4:1] reserved; the operation of a lane, which a bank does at once and a home when the message that carries it comes, compares the old value m bit by bit with C and
writes E when they are equal, and otherwise nothing. In a scratchpad bank, in one lane and with nothing in front of it, CAS returns m in D and does just that. And the new values of the integer operations of R191, ATOM's and RED's, on
32-bit and on 64-bit words; and of the floating ones of R192, ATOMF's and REDF's, on 32-bit words, with SUB[3:0] the operation, SUB[4] reserved and NUM in MOD[5]. -/
def Obligations.AtomicOperations : Prop :=
  (∀ (f : Fields) (s : State) (l d k : Nat),
    let c := s.ctxOf (.cas f)
    let wide : Bool := f.subBits 0 0 = 1
    let n := if wide then 8 else 4
    let m := leNat (s.m.bankBytes k n)
    s.clear (.cas f) = true → s.w.acquiring = false → f.d = .v d → l < 32 → c.g = BitVec.ofNat 32 (2 ^ l) →
    s.aim n .both (s.ea f (f.subBits 5 5 = 1) 0 l) = .ok (.bank k) → s.m.bankPoisoned k n = false → (2 ≤ f.modBits 4 3 → releaseReady s (f.modBits 2 0)) →
    ∃ t o, exec (.cas f) s = .next t ∧ c.Went s t ∧ WarpKept s t ∧ t.w.ops.getLast? = some o ∧ o.id = c.id ∧ o.parts = 0 ∧
      o.dests = (List.range (n / 4)).map (fun j => (d + j, c.g)) ∧
      (∀ j < n / 4, (o.vvals.find? (fun p => p.1 == (d + j) * 32 + l)).map Prod.snd = some (BitVec.ofNat 32 (m / 2 ^ (32 * j)))) ∧
      t.m.bankBytes k n = (if m = (s.readW wide f.c l).toNat then leBytes n (s.readW wide f.e l).toNat else s.m.bankBytes k n) ∧
      ∀ q, (q < k ∨ k + n ≤ q) → t.m.bankGet q = s.m.bankGet q) ∧
  (∀ f : Fields, (Instr.cas f).wellFormed = true → f.subBits 4 1 = 0) ∧
  (∀ (f : Fields) (s : State) (l m : Nat), let o := atomOf f (s.ctxOf (.cas f)) s l
    let wide : Bool := f.subBits 0 0 = 1
    o.wide = wide ∧ (∀ d, f.d = .v d → o.dest = some d) ∧
      o.new m = if m = (s.readW wide f.c l).toNat then some (s.readW wide f.e l).toNat else none) ∧
  (∀ (m c : W32) (o : AtomOp), o.wide = false → (o.opc = 0xA0 ∨ o.opc = 0xA3) → o.c = c.setWidth 64 → o.fn ≤ 10 → o.new m.toNat = some (intUpdate o.fn m c).toNat) ∧
  (∀ (m c : W64) (o : AtomOp), o.wide = true → (o.opc = 0xA0 ∨ o.opc = 0xA3) → o.c = c → o.fn ≤ 10 → o.new m.toNat = some (intUpdate o.fn m c).toNat) ∧
  (∀ f : Fields, ((Instr.atomf f).wellFormed = true ∨ (Instr.redf f).wellFormed = true) → f.subBits 4 4 = 0 ∧ f.subBits 3 0 ≤ 4) ∧
  (∀ (m c : W32) (o : AtomOp), o.wide = false → (o.opc = 0xA1 ∨ o.opc = 0xA4) → o.c = c.setWidth 64 → o.fn ≤ 4 →
    ∃ r < 2 ^ 32, o.new m.toNat = some r ∧ FltUpdate o.fn o.num m.toNat c.toNat r) ∧
  (∀ (f : Fields) (s : State) (l : Nat) (i : Instr), i = .atomf f ∨ i = .redf f →
    let o := atomOf f (s.ctxOf i) s l
    o.wide = false ∧ o.fn = f.subBits 3 0 ∧ (o.num = true ↔ f.modBits 5 5 = 1) ∧ o.c = (s.read32 f.c l).setWidth 64 ∧ (o.opc = 0xA1 ∨ o.opc = 0xA4))

/-- Prefetch, cache maintenance and FENCE (06 R186-R189). PF only sends prefetches of no operation and faults on no address. With no acquire of the warp outstanding, CLEAN, INVL and CCTL leave, in the cluster's L1, no dirty byte of the lines they name (INVL and
CCTL.INVC no such line at all) and change no other line, of whatever cluster; FENCE makes the warp wait in the fence of its scope, its lanes still at it, at D and wider with no dirty byte of a line it dirtied left in the L1. The dirty bytes of a line so cleaned go out in one message to
its home. No home or bank byte changes at the issue. -/
def Obligations.CacheMaintenance : Prop :=
  (∀ (f : Fields) (s : State), let c := s.ctxOf (.pf f)
    s.clear (.pf f) = true → ∃ t new, exec (.pf f) s = .next t ∧ c.Went s t ∧ WarpKept s t ∧ OnlyMemory s t ∧
      t.m = { s.m with msgs := s.m.msgs ++ new } ∧ ∀ g ∈ new, g.op = 0 ∧ ∃ al, g.kind = .fill [] al) ∧
  (∀ (drop : Bool) (f : Fields) (s : State) (runs : List PageRun), let i : Instr := if drop then .invl f else .clean f
    let c := s.ctxOf i
    s.clear i = true → s.w.acquiring = false → s.w.onStackCore = false → s.m.linesOnce = true → cleanPages f c s = .ok runs →
    ∃ t, exec i s = .next t ∧ c.Went s t ∧ WarpKept s t ∧ OnlyMemory s t ∧ HomesKept s t ∧
      (∀ x ∈ t.m.l1, x.cluster = s.w.cl → runs.any (fun r => r.has x.line) = true → drop = false ∧ x.dirty = 0) ∧
      (∀ x, (x.cluster ≠ s.w.cl ∨ runs.any (fun r => r.has x.line) = false) → (x ∈ t.m.l1 ↔ x ∈ s.m.l1)) ∧
      (∀ x ∈ s.m.l1, x.cluster = s.w.cl → runs.any (fun r => r.has x.line) = true → x.dirty ≠ 0 →
        ∃ g ∈ t.m.msgs, g.line = x.line ∧ g.op = c.id ∧ ∃ pz cv ws mm, g.kind = .write x.data x.dirty pz cv ws mm)) ∧
  (∀ (f : Fields) (s : State), let c := s.ctxOf (.cctl f)
    let named (x : L1Line) : Bool :=
      x.cluster == s.w.cl && (f.sub == 2 || (x.dirty != 0 && (f.sub == 1 || x.dirtying.getLsbD (slotBit s.w.id))))
    s.clear (.cctl f) = true → s.w.acquiring = false → s.w.onStackCore = false → s.m.linesOnce = true →
    ∃ t, exec (.cctl f) s = .next t ∧ c.Went s t ∧ WarpKept s t ∧ OnlyMemory s t ∧ HomesKept s t ∧
      (∀ cl line x, s.m.l1Find cl line = some x → named x = true →
        if f.sub = 2 then t.m.l1Find cl line = none else ∃ y, t.m.l1Find cl line = some y ∧ y.dirty = 0 ∧ y.data = x.data ∧ y.valid = x.valid ∧ y.leaseEnd = x.leaseEnd) ∧
      (∀ cl line, (∀ x, s.m.l1Find cl line = some x → named x = false) → t.m.l1Find cl line = s.m.l1Find cl line) ∧
      (∀ x ∈ s.m.l1, named x = true → x.dirty ≠ 0 → ∃ g ∈ t.m.msgs, g.line = x.line ∧ g.op = c.id ∧ ∃ pz cv ws mm, g.kind = .write x.data x.dirty pz cv ws mm)) ∧
  (∀ (f : Fields) (s : State), let c := s.ctxOf (.fence f)
    let own (x : L1Line) : Prop := 2 ≤ f.sub.toNat ∧ s.w.onStackCore = false ∧ x.cluster = s.w.cl ∧ x.dirtying.getLsbD (slotBit s.w.id) = true
    s.clear (.fence f) = true → s.w.acquiring = false → s.m.linesOnce = true →
    ∃ t, exec (.fence f) s = .next t ∧ t.w.wait = .fence f.sub.toNat c.g c.len ∧ c.Jumped s t (fun _ => c.p) ∧ c.Spent s t ∧ OnlyMemory s t ∧ HomesKept s t ∧
      t.w.v = s.w.v ∧ t.w.s = s.w.s ∧ t.w.csr = s.w.csr ∧ (∀ x ∈ t.m.l1, own x → x.dirty = 0) ∧
      (∀ cl line, (∀ x, s.m.l1Find cl line = some x → ¬ (own x ∧ x.dirty ≠ 0)) → t.m.l1Find cl line = s.m.l1Find cl line) ∧
      ∀ x ∈ s.m.l1, own x → x.dirty ≠ 0 → ∃ g ∈ t.m.msgs, g.line = x.line ∧ ∃ pz cv ws mm, g.kind = .write x.data x.dirty pz cv ws mm ∧ s.w.ref ∈ ws)

/-- SPILL and FILL of a range of vectors or of scalars, with no acquire of the warp outstanding (06 R184, R185; 01 R35). The vector form stands for lane l of register j at base + 128 j + 4 l, in the executing lanes, the scalar form for register j at base + 8 j. Where RESUME holds VALID
and this opcode, the transfer goes on at register PROGRESS, else it begins at 0. With an aligned base and good addresses SPILL stores every register from there, in banks and in memory as ST does, with no message of the warp's to those lines on its way; FILL leaves those registers outstanding, with the
values that a bank or the cluster's L1 answers at once, and asks the home of each other line, as LD does; RESUME is zero after either. Where an address of a register is bad, the registers before it are transferred so and none after, RESUME holds VALID, the opcode and that register's number, and its fault
is raised, the first of 15 R329 in its lowest lane, the lanes still at the instruction. A base that is not aligned raises ALIGN. -/
def Obligations.SpillFill : Prop :=
  ∀ (fill scalar : Bool) (f : Fields) (s : State) (d : Nat) (a : Nat → Nat → Target),
    let i : Instr := if fill then .fill f else .spill f
    let c := s.ctxOf i
    let m := f.subBits 5 0 + 1
    let base := s.read64 f.a 0 + f.imm.signExtend 64
    let size := if scalar then 8 else 4
    let need : Need := if fill then .read else .write
    let va (j l : Nat) : W64 := base + BitVec.ofNat 64 ((if scalar then 8 else 128) * j) + BitVec.ofNat 64 (if scalar then 0 else 4 * l)
    let ls := if scalar then [lowLane c.g] else bitList c.g
    let done := if fieldOf s.w.csr.resume 31 31 = 1 ∧ fieldOf s.w.csr.resume 15 8 = c.opc then fieldOf s.w.csr.resume 6 0 else 0
    let piece (p : Nat × Nat) : Piece :=
      { lanes := if scalar then BitVec.allOnes 32 else BitVec.ofNat 32 (2 ^ p.2), off := 0, size := size, reg := d + p.1, scalar := scalar, sext := false, va := va p.1 p.2 }
    let good (js : List Nat) : Prop := ∀ j ∈ js, ∀ l ∈ ls, s.aim size need (va j l) = .ok (a j l) ∧ (fill = false → ∀ q, a j l = .mem q → s.lineBusy (lineOf q.loc) = false)
    let moved (js : List Nat) (t : State) (new : List Msg) : Prop :=
      let all := js.flatMap (fun j => ls.map (fun l => (j, l)))
      if fill then
        HomesKept s t ∧ (∀ cl line, t.m.lineOfL1 cl line = s.m.lineOfL1 cl line) ∧ c.Asks s t false (s.unanswered false (all.map (fun p => (a p.1 p.2, piece p)))) new ∧
          ∃ o, t.w.ops.getLast? = some o ∧ o.id = c.id ∧ o.parts = new.length ∧ o.ready = none ∧
            o.dests = js.map (fun j => if scalar then (640 + d + j, BitVec.allOnes 32) else (d + j, c.g)) ∧
            ∀ p ∈ all, ∀ bs, s.atOnce false size (a p.1 p.2) = some bs →
              if scalar then (o.svals.find? (fun q => q.1 == d + p.1)).map Prod.snd = some (BitVec.ofNat 64 (leNat bs))
              else (o.vvals.find? (fun q => q.1 == (d + p.1) * 32 + p.2)).map Prod.snd = some (BitVec.ofNat 32 (leNat bs))
      else
        c.Stores s t (all.map (fun p => ⟨a p.1 p.2, if scalar then leBytes 8 (s.w.s.get (d + p.1)).toNat else leBytes 4 (s.w.v.get ((d + p.1) * 32 + p.2)).toNat⟩)) new
    s.clear i = true → s.w.acquiring = false → s.m.linesOnce = true → f.d = (if scalar then .s d else .v d) →
    (base.toNat % (if scalar then 8 else 128) ≠ 0 → exec i s = .next (s.raise { c.info 0x09 0 c.g base with acc := if fill then 0 else 1 })) ∧
    (base.toNat % (if scalar then 8 else 128) = 0 → good ((List.range m).drop done) →
      ∃ t new, exec i s = .next t ∧ c.Went s t ∧ OnlyMemory s t ∧ WarpKept (s.updW (fun w => { w with csr := { w.csr with resume := 0 } })) t ∧ moved ((List.range m).drop done) t new ∧
        (fill = true → ∃ o, t.w.ops.getLast? = some o ∧ o.slot = slotOf f)) ∧
    (∀ j, base.toNat % (if scalar then 8 else 128) = 0 → done ≤ j → j < m → good ((List.range j).drop done) →
      (∃ l ∈ ls, ∃ e, s.aim size need (va j l) = .error e) → (∀ l ∈ ls, ∀ e, s.aim size need (va j l) = .error e → e.code ≠ 0) →
      ∃ (u : State) (new : List Msg) (x : FaultInfo), exec i s = .next (u.raise x) ∧ OnlyMemory s u ∧ u.w.lpc = s.w.lpc ∧ u.w.cycle = s.w.cycle ∧ u.w.sb = s.w.sb ∧
        WarpKept (s.updW (fun w => { w with csr := { w.csr with resume := BitVec.ofNat 64 (2 ^ 31 + c.opc * 256 + j) } })) u ∧ moved ((List.range j).drop done) u new ∧
        (fill = true → ∃ o, u.w.ops.getLast? = some o ∧ o.slot = none) ∧ x.offset = c.p ∧
        ∃ l ∈ ls, ∃ e, s.aim size need (va j l) = .error e ∧ x.code = e.code ∧ x.cause = e.cause ∧ x.addr = va j l ∧ x.lane.toNat = l ∧
          ∀ l' ∈ ls, ∀ e', s.aim size need (va j l') = .error e' → faultRank e.code.toNat ≤ faultRank e'.code.toNat ∧ (faultRank e.code.toNat = faultRank e'.code.toNat → l ≤ l'))

/-- LDN, STN and the plane updates (06 R181-R183; 12 R281-R283) on a record and blocks that pass their checks, with nothing of the warp's in front of them: one message goes to the home of each block that a lane names, with what is asked of the block and the elements and operands of the lanes that name it,
in order; LDN's result is outstanding for D in the executing lanes; TSEAL sends one message to the home of its record (12 R262). No byte of memory changes at the issue. At the home, once nothing holds the message back and no byte it needs is lacking, poisoned or in the cluster's L1: LDN gives each lane
the value of its element's code, read through k planes with the block's scale, or with RAW and TRUNC the code itself, and changes no byte; STN and the plane updates write the scale and the planes as one action and no other byte; TSEAL writes the CRC-32C of the record's first 60 bytes into its last
four. -/
def Obligations.NestedIssue : Prop :=
  (∀ (i : Instr) (f : Fields) (s : State) (ra : W64) (need : Need) (rec : TRec) (blk : Nat → NBlock) (act : NBlock → List NLane → HomeAct) (dests : List (Nat × Lanes)),
    let c := s.ctxOf i
    let whole : Bool := match i with | .plresc _ => true | _ => false
    let num (l : Nat) : Nat := if whole then (s.read32 f.b l).toNat else (s.read32 f.b l).toNat / 32
    let elt (l : Nat) : NLane := if whole then ⟨l, 0, 0, 0⟩ else ⟨l, (s.read32 f.b l).toNat % 32, s.read32 f.c l, s.read32 f.e l⟩
    let k := min (f.subBits 1 0 + 1) rec.planes
    let nums := ((bitList c.g).map num).dedup
    ((∃ r, i = .ldn f ∧ need = .read ∧ f.d = .v r ∧ dests = [(r, c.g)] ∧ act = fun b ls => .ldn b k (f.subBits 2 2 = 1) (f.subBits 3 3 = 1) r ls) ∨
      (i = .stn f ∧ need = .write ∧ dests = [] ∧ act = fun b ls => .stn b k (f.subBits 3 3 = 1) ls) ∨
      (i = .plupd f ∧ need = .both ∧ dests = [] ∧ act = fun b ls => .plane b (if f.subBits 3 3 = 1 then .raw else .upd) ls) ∨
      (i = .plaxpy f ∧ need = .both ∧ dests = [] ∧ act = fun b ls => .plane b .axpy ls) ∨
      (i = .plresc f ∧ need = .both ∧ dests = [] ∧ act = fun b ls => .plane b .resc ls)) →
    s.clear i = true → c.uni64 s f.a = some ra → s.recordAt s.w.id.core s.w.ctx ra = .ok rec → rec.fmt = 7 →
    (∀ l, c.g.getLsbD l = true → s.nblock s.w.id.core s.w.ctx need rec (num l) = .ok (blk (num l))) →
    s.w.acquiring = false → (∀ l, c.g.getLsbD l = true → ∀ line ∈ (blk (num l)).lines, s.lineBusy line = false) →
    ∃ t new, exec i s = .next t ∧ c.Went s t ∧ WarpKept s t ∧ OnlyMemory s t ∧ HomesKept s t ∧ t.m.l1 = s.m.l1 ∧ t.m.msgs = s.m.msgs ++ new ∧ new.length = nums.length ∧
      (∀ (j : Nat) (n : Nat), nums[j]? = some n → ∃ g, new[j]? = some g ∧ g.op = c.id ∧ g.warp = s.w.ref ∧ g.cluster = s.w.cl ∧ g.line = lineOf (blk n).scale.loc ∧
        g.kind = .act (act (blk n) (((bitList c.g).filter (fun l => num l == n)).map elt))) ∧
      c.AwaitsReplies s t dests new.length) ∧
  (∀ (f : Fields) (s : State) (p : Phys), let c := s.ctxOf (.tseal f)
    let ra := s.read64 f.a (lowLane c.g)
    s.clear (.tseal f) = true → ra.toNat % 64 = 0 → inScratch ra = false → s.m.translate s.w.id.core s.w.ctx ra .both = .ok p → p.tgt ≠ 1 →
    s.w.acquiring = false → s.lineBusy (lineOf p.loc) = false →
    ∃ t g, exec (.tseal f) s = .next t ∧ c.Went s t ∧ WarpKept s t ∧ OnlyMemory s t ∧ HomesKept s t ∧ t.m.l1 = s.m.l1 ∧ t.m.msgs = s.m.msgs ++ [g] ∧ g.op = c.id ∧ g.warp = s.w.ref ∧
      g.line = lineOf p.loc ∧ g.kind = .act (.seal p (lowLane c.g)) ∧ c.AwaitsReplies s t [] 1) ∧
  (∀ (s : State) (g : Msg) (b : NBlock) (k : Nat) (rne raw : Bool) (reg : Nat) (lanes : List NLane) (q : Op),
    s.nestReady g (.ldn b k rne raw reg lanes) b → s.w.live = true → s.w.ref = g.warp → s.w.findOp g.op = some q → q.dests ≠ [] → (∀ d ∈ q.dests, d.1 < 640) →
    ∃ t q', exec (.leaseGrant g.id) s = .next t ∧ t.m.msgs = s.m.msgs.filter (fun x => x.id != g.id) ∧ t.m.dram = s.m.dram ∧ (∀ loc key, t.m.homeByte loc key = s.m.homeByte loc key) ∧
      t.w.findOp g.op = some q' ∧ q'.marks = q.marks ∧
      q'.vvals = q.vvals ++ lanes.map (fun l =>
        let w := (s.blockWords b).getD l.elt 0
        (reg * 32 + l.lane,
          if raw = true ∧ rne = false then BitVec.ofNat 32 (w / 2 ^ (32 - planeWidth k) * 2 ^ (32 - planeWidth k)) else ldnValue k b.planes.length rne raw (s.blockScale b) w))) ∧
  (∀ (s : State) (g : Msg) (b : NBlock) (a : HomeAct) (h : Nat → List Nat → Nat × List Nat),
    ((∃ k raw lanes, a = .stn b k raw lanes ∧ h = fun sc ws => stnBlock k raw sc ws lanes) ∨
      (∃ what lanes, a = .plane b what lanes ∧ h = fun sc ws => planeBlock what b.planes.length sc ws lanes)) →
    s.nestReady g a b →
    let r := h (s.blockScale b) (s.blockWords b)
    ∃ t, exec (.homeWriteApply g.id) s = .next t ∧ t.w = s.w ∧ t.m.msgs = s.m.msgs.filter (fun x => x.id != g.id) ∧ (g.warp ≠ WRef.none → ∃ x ∈ t.m.acks, x.warp = g.warp ∧ x.op = g.op) ∧
      (∀ key, t.m.homeByte b.scale.loc key = BitVec.ofNat 8 r.1) ∧
      (∀ (p j : Nat) (x : Phys), b.planes[p]? = some x → j < planeBytes p → ∀ key, t.m.homeByte (x.loc + j) key = (planeOf p r.2).getD j 0) ∧
      (∀ loc key, (∀ x ∈ b.regions, ¬ (x.1.loc ≤ loc ∧ loc < x.1.loc + x.2)) → t.m.homeByte loc key = s.m.homeByte loc key)) ∧
  (∀ (s : State) (g : Msg) (p : Phys) (lane : Nat), g.line = lineOf p.loc → p.loc % 64 = 0 → s.nestReady g (.seal p lane) ⟨p, []⟩ →
    s.missing g [(p, 60)] = none → s.regionPoison (p, 60) = false →
    let x := (crc32c ((List.range 60).map (fun j => s.m.homeByte (p.loc + j) p.key))).toNat
    ∃ t, exec (.homeWriteApply g.id) s = .next t ∧ t.w = s.w ∧ t.m.msgs = s.m.msgs.filter (fun x => x.id != g.id) ∧ (g.warp ≠ WRef.none → ∃ x ∈ t.m.acks, x.warp = g.warp ∧ x.op = g.op) ∧
      (∀ j < 4, ∀ key, t.m.homeByte (p.loc + 60 + j) key = (leBytes 4 x).getD j 0) ∧
      (∀ loc key, ¬ (p.loc + 60 ≤ loc ∧ loc < p.loc + 64) → t.m.homeByte loc key = s.m.homeByte loc key))

/-! Graph memory (10 R231-R250, R423). -/

/-- The graph instructions that name a handle (10 R231, R235-R243) with a valid handle and vertices of the graph: one message goes to the home of each list
that executing lanes name, carrying those lanes in ascending order; the results are outstanding for the registers the rule names. -/
def Obligations.GraphRequests : Prop :=
  ∀ (i : Instr) (r : GraphForm) (s : State) (h : W64) (e : GEntry),
    let c := s.ctxOf i
    graphForm i = some r → s.clear i = true → s.w.acquiring = false → c.uni64 s r.f.a = some h → s.graphOf s.w.ctx h = some e →
    (∀ o ∈ r.vertices, ∀ l, c.g.getLsbD l = true → (s.read32 o l).toNat < e.nv) →
    ∃ t new, exec i s = .next t ∧ c.Went s t ∧ WarpKept s t ∧ OnlyGraphs s t ∧ t.g = { s.g with msgs := s.g.msgs ++ new } ∧
      (new.map (fun m => (m.dir, m.vertex))).Nodup ∧
      (∀ l d, c.g.getLsbD l = true → d ∈ r.dirs → ∃ m ∈ new, m.dir = d ∧ m.vertex = (s.read32 r.f.b l).toNat) ∧
      (∀ m ∈ new, m.op = c.id ∧ m.warp = s.w.ref ∧ m.ctx = s.w.ctx ∧ m.idx = e.idx ∧ m.dir ∈ r.dirs ∧ m.kind = r.kind ∧ m.dest = r.f.d ∧ m.pred = r.pred ∧
        m.lanes ≠ [] ∧
        m.lanes = ((bitList c.g).filter (fun l => (s.read32 r.f.b l).toNat == m.vertex)).map (fun l => ⟨l, s.read32 r.x l, s.read32 r.w l⟩)) ∧
      c.Outstanding t (r.dests c.g) (if r.byLane then (bitList c.g).length else new.length)

/-- Cursors (10 R244-R249), with no earlier operation on them outstanding. GOPEN closes the executing lanes' cursor, telling the homes of lists that were
open, and asks each list's home to open it: plainly with offset 0 and stride 1, or, where it collects its signers and all have signed, for the j-th
executing signer with offset j and the number of them as stride. GNEXT asks the home of each lane's list. GCLOSE closes and completes when the homes
have answered. GCUR gives POS and H, all ones for a closed cursor. -/
def Obligations.Cursors : Prop :=
  (∀ (f : Fields) (s : State) (h : W64) (e : GEntry),
    let c0 := s.ctxOf (.gopen f)
    let cur := f.modBits 2 0
    let split : Bool := f.modBits 3 3 = 1
    let k := f.modBits 6 4
    let c : Ctx := if split then { c0 with g := s.guardLanes f (s.w.decl k) } else c0
    s.clear (.gopen f) = true → s.w.acquiring = false → s.w.cursorBusy cur c.g = false → c.uni64 s f.a = some h → s.graphOf s.w.ctx h = some e →
    (∀ l, c.g.getLsbD l = true → (s.read32 f.b l).toNat < e.nv) →
    (split = true → s.w.signed k = 0 ∧ s.w.decl k &&& ~~~c0.x = 0 ∧ c.g ≠ 0 ∧ (c.uni32 s f.b).isSome = true) →
    ∃ t cl new, exec (.gopen f) s = .next t ∧ c0.Went s t ∧ OnlyGraphs s t ∧
      WarpKept (s.updW (fun w => { w with cur := t.w.cur, kaddr := t.w.kaddr, ksigned := t.w.ksigned, kguard := t.w.kguard })) t ∧ (∀ j, t.w.signed j = s.w.signed j) ∧
      (split = false → t.w.kaddr = s.w.kaddr ∧ t.w.kguard = s.w.kguard) ∧
      c.ClosedCursors s t [cur] ∧ t.g = { s.g with msgs := s.g.msgs ++ cl ++ new } ∧ c.Closes s 0 [cur] cl ∧ (new.map (·.vertex)).Nodup ∧
      (∀ l, c.g.getLsbD l = true → ∃ m ∈ new, m.vertex = (s.read32 f.b l).toNat) ∧
      (∀ m ∈ new, m.op = c.id ∧ m.warp = s.w.ref ∧ m.ctx = s.w.ctx ∧ m.idx = e.idx ∧ m.dir = (f.subBits 0 0 == 1) ∧ m.dest = f.d ∧
        m.kind = .openc cur (if split then (bitList c.g).length else 1) ∧ m.lanes ≠ [] ∧
        m.lanes = ((bitList c.g).filter (fun l => (s.read32 f.b l).toNat == m.vertex)).map (fun l =>
          ⟨l, if split then BitVec.ofNat 32 ((bitList c.g).filter (· < l)).length else 0, 0⟩)) ∧
      ∃ o, t.w.ops.getLast? = some o ∧ o.id = c.id ∧ o.slot = slotOf f ∧ o.parts = new.length ∧ o.ready = none ∧ o.cursor = some (cur, c.g) ∧
        o.dests = graphDests f.d false c.g) ∧
  (∀ (f : Fields) (s : State), let c := s.ctxOf (.gnext f)
    let cur := f.modBits 2 0
    s.clear (.gnext f) = true → s.w.acquiring = false → s.w.cursorBusy cur c.g = false → (∀ l, c.g.getLsbD l = true → curState (s.w.cursor cur l) ≠ 0) →
    ∃ t new, exec (.gnext f) s = .next t ∧ c.Went s t ∧ WarpKept s t ∧ OnlyGraphs s t ∧ t.g = { s.g with msgs := s.g.msgs ++ new } ∧
      (new.map (fun m => (m.idx, m.dir, m.vertex))).Nodup ∧
      (∀ l, c.g.getLsbD l = true → ∃ m ∈ new, (m.idx, m.dir, m.vertex) = cursorList (s.w.cursor cur l)) ∧
      (∀ m ∈ new, m.op = c.id ∧ m.warp = s.w.ref ∧ m.ctx = s.w.ctx ∧ m.kind = .next cur ∧ m.dest = f.d ∧ m.pred = predOf f.a (f.modBits 7 3) ∧
        m.lanes.map (·.lane) = (bitList c.g).filter (fun l => cursorList (s.w.cursor cur l) == (m.idx, m.dir, m.vertex))) ∧
      ∃ o, t.w.ops.getLast? = some o ∧ o.id = c.id ∧ o.parts = new.length ∧ o.ready = none ∧ o.cursor = some (cur, c.g) ∧
        o.dests = graphDests f.d true c.g ++ predDest f.a c.g) ∧
  (∀ (f : Fields) (s : State), let c := s.ctxOf (.gclose f)
    let all : Bool := f.subBits 3 3 = 1
    let curs := if all then List.range 8 else [f.subBits 2 0]
    s.clear (.gclose f) = true → s.w.acquiring = false → s.w.cursorBusy (if all then 8 else f.subBits 2 0) c.g = false →
    ∃ t cl, exec (.gclose f) s = .next t ∧ c.Went s t ∧ OnlyGraphs s t ∧ WarpKept (s.updW (fun w => { w with cur := t.w.cur })) t ∧
      c.ClosedCursors s t curs ∧ t.g = { s.g with msgs := s.g.msgs ++ cl } ∧ c.Closes s c.id curs cl ∧
      (if cl = [] then t.w.ops = s.w.ops else c.Outstanding t [] cl.length)) ∧
  (∀ (f : Fields) (s : State), let c := s.ctxOf (.gcur f)
    let x (l : Nat) := s.w.cursor (f.modBits 2 0) l
    let val (l : Nat) : W64 := if curState (x l) = 0 then BitVec.allOnes 64 else BitVec.ofNat 64 (curPos (x l) + curHorizon (x l) * 2 ^ 32)
    s.clear (.gcur f) = true → s.w.cursorBusy (f.modBits 2 0) c.g = false → c.agrees f.d true val = true →
    ∃ t, exec (.gcur f) s = .next t ∧ c.Went s t ∧ OnlyRegisters s t ∧ c.Holds s t f.d true false val)

/-- What a graph's homes do with the message of an operation that no other of its warp on the list precedes, the list being whole and its stack not held.
Updates (10 R240, R241, R423), given room: the list is edited in the lanes' order, the in-homes are told in that order, every other list is as it was, and each lane has its status, for GRMW after the old payload.
GDELV (10 R242): of an out-list the first live edge is removed at each event, counted for the operation's lane, and its in-home told; when none is left the message is answered. Of a mirror list the out-homes are asked for each live edge, and one that is asked removes and counts it
where it is there. Reads (10 R243): no list changes, and the waiting result of the focus warp holds the answer of each lane. GNEXT (10 R247, R248): each lane's cursor moves a stride past the first slot it returns, none at or past its death time, and its result is that edge; a walk without one is
exhausted and gives all ones and 0. Opening (10 R246): the lanes' cursors stand at their offsets below the slots the list has, and count as open. Closing (10 R249): they count no more. -/
def Obligations.GraphHomes : Prop :=
  (∀ (s : State) (k : Nat) (g : GMsg) (e : GEntry),
    let x := s.g.list g.ctx g.idx g.dir g.vertex
    let w0 := s.w
    let full (o : Op) (d : Nat) : Prop := s.w.live = true ∧ s.w.exited = false ∧ s.w.ref = g.warp ∧ s.w.findOp g.op = some o ∧ g.op ≠ 0 ∧ g.dest = .v d ∧
      o.dests ≠ [] ∧ (∀ p ∈ o.dests, p.1 < 640) ∧ (∀ r b, g.pred = some (r, b) → r ≠ d ∧ r ≠ d + 1)
    let gives (t : State) (d : Nat) (l : Nat) (vals : List W32) : Prop := ∃ o, t.w.findOp g.op = some o ∧ ∀ n v, vals[n]? = some v →
      (o.vvals.find? (fun p => p.1 == (d + n) * 32 + l)).map Prod.snd = some v
    let rest (t : State) (dir : Bool) : Prop := ∀ cx ix d v, ¬ (cx = g.ctx ∧ ix = g.idx ∧ d = dir ∧ v = g.vertex) → t.g.list cx ix d v = s.g.list cx ix d v
    let done (t : State) : Prop := t.g.msgs = s.g.msgs.filter (fun m => m.id != k)
    let acked (t : State) : Prop := g.warp ≠ WRef.none → ∃ a ∈ t.m.acks, a.warp = g.warp ∧ a.op = g.op ∧ a.wct = s.time + 8
    s.g.msgs.find? (fun m => m.id == k) = some g → s.g.entry g.ctx g.idx = some e → s.engineHeld (e.home g.vertex) = false → x.bad = false →
    (∀ m ∈ s.g.msgs.takeWhile (fun m => m.id != k), ¬ (m.warp = g.warp ∧ m.ctx = g.ctx ∧ m.idx = g.idx ∧ m.dir = g.dir ∧ m.vertex = g.vertex)) →
    (∀ l ∈ g.lanes, l.lane < 32) → (g.lanes.map (·.lane)).Nodup →
    (((g.kind = .add ∧ x.slots.length + g.lanes.length < 2 ^ 32 - 1 ∧ g.lanes.length ≤ (s.g.share g.ctx g.idx (e.home g.vertex)).free ∧
        ∀ l ∈ g.lanes, g.lanes.length ≤ (s.g.credit g.ctx g.idx (e.home g.vertex) (e.home l.x.toNat)).unused ∧
          s.g.inSlots g.ctx g.idx l.x.toNat + g.lanes.length < 2 ^ 32 - 1) ∨
        g.kind = .del ∨ g.kind = .setw ∨ ∃ fn, g.kind = .rmw fn) → g.dir = false →
      ∃ t, exec (.graphOutHomeApply k) s = .next t ∧ t.m.dram = s.m.dram ∧ done t ∧
        (t.g.list g.ctx g.idx false g.vertex).slots = (x.edits g.kind g.lanes).1.slots ∧ rest t false ∧
        (∀ o d, full o d → ∀ p ∈ x.statuses g.kind g.lanes, gives t d p.1 p.2) ∧
        ∃ new, t.g.mirrors = s.g.mirrors ++ new ∧ new.map (fun m => (m.v, m.kind)) = (x.edits g.kind g.lanes).2 ∧ ∀ m ∈ new, m.u = g.vertex ∧ m.ctx = g.ctx ∧ m.idx = g.idx) ∧
    (∀ l ls q, g.kind = .delv → g.dir = false → g.lanes = l :: ls → x.slots.find? (fun q => q.life == .live) = some q →
      ∃ t m, exec (.graphOutHomeApply k) s = .next t ∧ t.m = s.m ∧ t.g.msgs = s.g.msgs ∧ rest t false ∧
        (t.g.list g.ctx g.idx false g.vertex).slots = updFirst (fun y => y.life == .live && y.nbr == q.nbr) (fun y => { y with life := .dying }) x.slots ∧
        t.g.mirrors = s.g.mirrors ++ [m] ∧ m.u = g.vertex ∧ m.v = q.nbr.toNat ∧ m.kind = .kill ∧ m.warp = g.warp ∧ m.op = g.op ∧
        ∀ o d v, full o d → (o.vvals.find? (fun p => p.1 == d * 32 + l.lane)).map Prod.snd = some v →
          gives t d l.lane [v + 1] ∧ ∀ o', t.w.findOp g.op = some o' → o'.parts = o.parts + 1) ∧
    (g.kind = .delv → g.dir = false → (∀ q ∈ x.slots, q.life ≠ .live) → ∃ t, exec (.graphOutHomeApply k) s = .next t ∧ done t ∧ t.g.lists = s.g.lists ∧ t.w = s.w ∧ acked t) ∧
    (g.kind = .delv → g.dir = true →
      ∃ t new, exec (.graphOutHomeApply k) s = .next t ∧ done t ∧ t.g.lists = s.g.lists ∧ acked t ∧ t.g.mirrors = s.g.mirrors ++ new ∧
        new.map (fun m => (m.lane, m.u)) = g.lanes.flatMap (fun l => (x.slots.filter (fun q => q.life == .live)).map (fun q => (l.lane, q.nbr.toNat))) ∧
        (∀ m ∈ new, m.v = g.vertex ∧ m.kind = .asked ∧ m.warp = g.warp ∧ m.op = g.op ∧ m.dest = g.dest) ∧
        ∀ o d, full o d → ∀ o', t.w.findOp g.op = some o' → o'.parts = o.parts + new.length) ∧
    ((g.kind = .deg ∨ g.kind = .lde ∨ g.kind = .find) →
      ∃ t, exec (.graphOutHomeApply k) s = .next t ∧ t.g = { s.g with msgs := s.g.msgs.filter (fun m => m.id != k) } ∧ t.m = s.m ∧
        ∀ o d, full o d → ∀ l ∈ g.lanes, gives t d l.lane (x.answer g.kind l)) ∧
    (∀ cur, g.kind = .next cur → cur < 8 →
      ∃ t, exec (.graphOutHomeApply k) s = .next t ∧ t.g = { s.g with msgs := s.g.msgs.filter (fun m => m.id != k) } ∧ t.m = s.m ∧
        ∀ o d, full o d → ∀ l ∈ g.lanes,
          let q := w0.cursor cur l.lane
          let n := max 1 (fieldOf q 19 14)
          let seen := s.withDeaths x
          match seen.nextSlot s.time (curPos q) (curHorizon q) n with
          | some i => t.w.cursor cur l.lane = setField q 95 64 (i + n) ∧ ∃ y, seen.slots[i]? = some y ∧ y.visible s.time = true ∧ gives t d l.lane [y.nbr, y.payload]
          | none => curState (t.w.cursor cur l.lane) = 2 ∧ gives t d l.lane [0xFFFFFFFF, 0]) ∧
    (∀ cur n, g.kind = .openc cur n → cur < 8 → x.opens + g.lanes.length ≤ 65535 → (s.warpNow g.warp).isSome = true →
      ∃ t, exec (.graphOutHomeApply k) s = .next t ∧ (t.g.list g.ctx g.idx g.dir g.vertex).opens = x.opens + g.lanes.length ∧
        (t.g.list g.ctx g.idx g.dir g.vertex).slots = x.slots ∧
        ∀ o d, full o d → ∀ l ∈ g.lanes, t.w.cursor cur l.lane = cursorWord x.slots.length l.x.toNat g.vertex g.idx n l.x.toNat g.dir 1 ∧ gives t d l.lane [0]) ∧
    (g.kind = .close →
      ∃ t, exec (.graphOutHomeApply k) s = .next t ∧ t.m = s.m ∧ done t ∧ t.g.list g.ctx g.idx g.dir g.vertex = { x with opens := x.opens - g.lanes.length } ∧ rest t g.dir ∧
        (g.op = 0 → t.w = s.w))) ∧
  (∀ (s : State) (k : Nat) (m : MirrorMsg) (e : GEntry), let x := s.g.list m.ctx m.idx false m.u
    let here : Bool := x.slots.any (fun q => q.life == .live && q.nbr == BitVec.ofNat 32 m.v)
    (∀ g ∈ s.g.msgs, g.id ≠ k) → s.g.mirrors.head? = some m → m.id = k → m.kind = .asked → s.g.entry m.ctx m.idx = some e → s.engineHeld (e.home m.u) = false → x.bad = false →
    ∃ t, exec (.graphOutHomeApply k) s = .next t ∧
      (here = false → t.g.lists = s.g.lists ∧ t.g.mirrors = s.g.mirrors.filter (fun y => y.id != k) ∧ t.w = s.w ∧
        (m.warp ≠ WRef.none → ∃ a ∈ t.m.acks, a.warp = m.warp ∧ a.op = m.op ∧ a.wct = s.time + 8)) ∧
      (here = true → t.m = s.m ∧ (t.g.list m.ctx m.idx false m.u).slots =
          updFirst (fun q => q.life == .live && q.nbr == BitVec.ofNat 32 m.v) (fun q => { q with life := .dying }) x.slots ∧
        ∃ n, t.g.mirrors = s.g.mirrors.filter (fun y => y.id != k) ++ [n] ∧ n.kind = .kill ∧ n.u = m.u ∧ n.v = m.v ∧ n.warp = m.warp ∧ n.op = m.op ∧
          ∀ o d v, s.w.live = true → s.w.ref = m.warp → s.w.findOp m.op = some o → m.dest = .v d → (o.vvals.find? (fun p => p.1 == d * 32 + m.lane)).map Prod.snd = some v →
            ∃ o', t.w.findOp m.op = some o' ∧ o'.parts = o.parts ∧ (o'.vvals.find? (fun p => p.1 == d * 32 + m.lane)).map Prod.snd = some (v + 1)))

/-- The other events of graph memory (10 R234, R235, R250, R423). A mirror update with none of the same two homes in front of it edits the in-list: an edge
appended, a payload set, a removal dead from its completion time. A death time set makes the edge's first dying slot of the out-list dead from then on. Credit takes a chunk of the
in-home's share for 60 slots. A list with no open cursor gives up its dead slots whose times have passed, and keeps the rest in order; chunks of 60 slots that this leaves empty return to the share, of a mirror list no more than these (log entry 36). -/
def Obligations.GraphUpkeep : Prop :=
  (∀ (s : State) (k : Nat) (m : MirrorMsg) (e : GEntry), let x := s.g.list m.ctx m.idx true m.v
    s.g.mirrors.find? (fun m => m.id == k && m.kind != .asked) = some m → s.g.entry m.ctx m.idx = some e → s.engineHeld (e.home m.v) = false →
    x.bad = false → s.g.mirrors.head? = some m →
    ∃ t, exec (.mirrorUpdateApply k) s = .next t ∧ t.w = s.w ∧ t.m.dram = s.m.dram ∧
      (t.g.list m.ctx m.idx true m.v).slots =
        (match m.kind with
          | .append p => x.slots ++ [⟨BitVec.ofNat 32 m.u, p, .live⟩]
          | .setw p => updFirst (fun q => q.life == .live && q.nbr == BitVec.ofNat 32 m.u) (fun q => { q with payload := p }) x.slots
          | .kill => updFirst (fun q => q.life == .live && q.nbr == BitVec.ofNat 32 m.u) (fun q => { q with life := .dead (s.time + 8) }) x.slots
          | .asked => x.slots) ∧
      (∀ cx ix d v, ¬ (cx = m.ctx ∧ ix = m.idx ∧ d = true ∧ v = m.v) → t.g.list cx ix d v = s.g.list cx ix d v) ∧
      (m.kind = .kill → ∃ d ∈ t.g.deaths, d.u = m.u ∧ d.v = m.v ∧ d.wct = s.time + 8) ∧
      (m.warp ≠ WRef.none → ∃ a ∈ t.m.acks, a.warp = m.warp ∧ a.op = m.op ∧ a.wct = s.time + 8)) ∧
  (∀ (s : State) (k : Nat) (d : DeathMsg), let x := s.g.list d.ctx d.idx false d.u
    s.g.deaths.find? (fun y => y.id == k) = some d → s.g.deaths.head? = some d →
    ∃ t, exec (.deathTimeSet k) s = .next t ∧ t = { s with g := t.g } ∧
      (t.g.list d.ctx d.idx false d.u).slots =
        updFirst (fun q => q.life == .dying && q.nbr == BitVec.ofNat 32 d.v) (fun q => { q with life := .dead d.wct }) x.slots ∧
      (∀ cx ix dd v, ¬ (cx = d.ctx ∧ ix = d.idx ∧ dd = false ∧ v = d.u) → t.g.list cx ix dd v = s.g.list cx ix dd v)) ∧
  (∀ (s : State) (g o i : Nat), let cr := s.g.credit (g / 4096) (g % 4096) o i
    let sh := s.g.share (g / 4096) (g % 4096) i
    (s.g.entry (g / 4096) (g % 4096)).isSome = true → o < 16 → i < 16 → s.engineHeld i = false → cr.unused + 60 ≤ 1024 → sh.free ≠ 0 →
    ∃ t, exec (.mirrorCreditReserve g o i) s = .next t ∧ t = { s with g := t.g } ∧ t.g.lists = s.g.lists ∧
      (t.g.credit (g / 4096) (g % 4096) o i).unused = cr.unused + 60 ∧ (t.g.share (g / 4096) (g % 4096) i).free + 1 = sh.free) ∧
  (∀ (s : State) (g dir v : Nat) (e : GEntry), let x := s.g.list (g / 4096) (g % 4096) (dir == 1) v
    let keep (q : GSlot) : Bool := match q.life with | .live => true | .dying => true | .dead d => decide (s.time < d)
    s.g.entry (g / 4096) (g % 4096) = some e → s.engineHeld (e.home v) = false → x.opens = 0 → x.slots.all keep = false →
    ∃ t, exec (.listReclamation g dir v) s = .next t ∧ t = { s with g := t.g } ∧
      (t.g.list (g / 4096) (g % 4096) (dir == 1) v).slots = x.slots.filter keep ∧
      (let free (u : State) : Nat := (u.g.share (g / 4096) (g % 4096) (e.home v)).free
       let empty := (x.slots.length + 59) / 60 - ((x.slots.filter keep).length + 59) / 60
       (dir ≠ 1 → free t = free s + empty) ∧ free s ≤ free t ∧ free t ≤ free s + empty) ∧
      (∀ cx ix d u, ¬ (cx = g / 4096 ∧ ix = g % 4096 ∧ d = (dir == 1) ∧ u = v) → t.g.list cx ix d u = s.g.list cx ix d u))

/-! The streamer and the sequencers (12 R262-R276; 14 R317-R323; 17 R369-R374). -/

/-- TLD, TST, TGATH and TSCAT (12 R266, R270-R274) that pass the checks of acceptance, with fewer than 64 requests of the warp not completed: the request is
kept as its operands give it, with the next ticket, which is on its way to E; the result of the instruction is outstanding; no byte of memory or of a
bank changes. -/
def Obligations.TileRequests : Prop :=
  ∀ (i : Instr) (r : TileForm) (s : State) (rec : TRec),
    let c := s.ctxOf i
    let lane := lowLane c.g
    let q := r.request c s rec
    tileForm i = some r → s.clear i = true → (s.read64 r.f.d lane).toNat % 256 = 0 → s.recordAt s.w.id.core s.w.ctx (s.read64 r.f.a lane) = .ok rec →
    s.windowRun (s.read64 r.f.d lane) r.size = none → suits r.kind rec = none → q.blockAlign rec = true →
    (∀ b ∈ q.nestBlocks rec, ∃ x, s.nblock s.w.id.core s.w.ctx (if r.load then .read else .write) rec b = .ok x) →
    r.coordsReady s rec → s.engineFull = false →
    ∃ t, exec i s = .next t ∧ c.Went s t ∧ OnlyEngines s t ∧ c.Ticketed s t r.f.e ∧ c.Outstanding t [] 1 ∧
      t.e = { s.e with reqs := s.e.reqs ++ [{ q with
        id := c.id, op := c.id, warp := s.w.ref, lane := lane, core := s.w.id.core, ctx := s.w.ctx, ticket := s.w.ticket + 1, target := keepTarget s.w q.ck q.target }] }

/-- XCOPY (12 R267, R275; 14 R317) with aligned operands (that the destination of .CAST is aligned to 2 bytes is the model's reading of R275, its choice: log entry 33): of a length of 0 it is complete at once and acts on its target; otherwise, with windows in order, it is accepted by the sequencer of a stack
where both ranges lie in one stack and their pages permit it, and its lumens are granted, and else by the streamer. NBSEQ (14 R317, R318) with a descriptor that keeps to its map is accepted by the
sequencer with its lumens. Either way the ticket is on its way to its register and no byte of memory changes. XWAIT (12 R276) moves on once nothing it covers is left, and is held while a request or a
sequence is. -/
def Obligations.Copies : Prop :=
  (∀ (f : Fields) (s : State),
     let c := s.ctxOf (.xcopy f)
     let lane := lowLane c.g
     let d := s.read64 f.d lane
     let a := s.read64 f.a lane
     let len := (s.read32 f.b lane).toNat
     let k := s.read64 f.c lane
     let x := f.modBits 2 0
     let z := if x = 0 then 1 else if f.modBits 3 3 = 0 then 4 else 2
     let ck := f.subBits 1 0
     let target : W32 := BitVec.ofNat 32 (fieldOf k 63 32)
     let y := xseqOf x (f.modBits 3 3) len d a (k.setWidth 32)
     s.clear (.xcopy f) = true → a.toNat % z = 0 → len % z = 0 → d.toNat % (if x = 3 then 2 else z) = 0 → s.engineFull = false →
     (len = 0 → ∃ t u : State, exec (.xcopy f) s = .next t ∧ c.Went s t ∧ c.Ticketed s t f.e ∧ u = { s with fresh := u.fresh, w := u.w } ∧
       t = { (u.actOn s.w.ref s.w.ctx ck (keepTarget s.w ck target) 0) with fresh := t.fresh, w := t.w }) ∧
     (len ≠ 0 → s.windowRun a len = none → s.windowRun d y.total = none →
       (∀ e, s.placeSeq s.w.id.core s.w.ctx y = .error e →
         if e.1 = waitErr then exec (.xcopy f) s = .next s.held
         else ∃ t, exec (.xcopy f) s = .next t ∧ c.Went s t ∧ OnlyEngines s t ∧ c.Ticketed s t f.e ∧ c.Outstanding t [] 1 ∧
           t.e = { s.e with reqs := s.e.reqs ++ [{ XReq.new f (.xcopy x (f.modBits 3 3) len (k.setWidth 32)) ck (keepTarget s.w ck target) y.total d a with
             id := c.id, op := c.id, warp := s.w.ref, lane := lane, core := s.w.id.core, ctx := s.w.ctx, ticket := s.w.ticket + 1 }] }) ∧
       (∀ q, s.placeSeq s.w.id.core s.w.ctx y = .ok q → (s.e.seqs.filter (fun x => x.stack == q.stack && !x.finished)).length < 64 →
         s.lumensReady (q.stack / 4) q.lumens →
         ∃ t, exec (.xcopy f) s = .next t ∧ c.Went s t ∧ OnlyEngines s t ∧ c.Ticketed s t f.e ∧ c.Outstanding t [] 1 ∧ t.e.reqs = s.e.reqs ∧
           t.e.seqs = s.e.seqs ++ [{ q with
             id := c.id, op := c.id, warp := s.w.ref, lane := lane, core := s.w.id.core, ctx := s.w.ctx, ticket := s.w.ticket + 1, ck := ck, target := keepTarget s.w ck target }] ∧
           (t.pool (q.stack / 4)).level = (s.pool (q.stack / 4)).level - q.lumens))) ∧
  (∀ (f : Fields) (s : State) (p : Phys) (q y : SeqRun),
     let c := s.ctxOf (.nbseq f)
     let lane := lowLane c.g
     let a := s.read64 f.a lane
     let ck := f.subBits 1 0
     s.clear (.nbseq f) = true → a.toNat % 64 = 0 → inScratch a = false → s.m.translate s.w.id.core s.w.ctx a .read = .ok p → p.tgt ≠ 1 →
     (∀ j < 64, s.m.byteHeld (p.loc + j) = false ∧ s.m.placePoison { p with loc := p.loc + j } = false) → seqOf (numOf (s.m.homeBytes p.loc 64 p.key)) = some q →
     s.placeSeq s.w.id.core s.w.ctx q = .ok y → q.overlaps = false → s.engineFull = false →
     (s.e.seqs.filter (fun x => x.stack == y.stack && !x.finished)).length < 64 → s.lumensReady (y.stack / 4) y.lumens →
     ∃ t, exec (.nbseq f) s = .next t ∧ c.Went s t ∧ OnlyEngines s t ∧ c.Ticketed s t f.d ∧ c.Outstanding t [] 1 ∧ t.e.reqs = s.e.reqs ∧
       t.e.seqs = s.e.seqs ++ [{ y with
         id := c.id, op := c.id, warp := s.w.ref, lane := lane, core := s.w.id.core, ctx := s.w.ctx, ticket := s.w.ticket + 1, ck := ck
         target := keepTarget s.w ck (s.read32 f.c lane) }] ∧
       (t.pool (y.stack / 4)).level = (s.pool (y.stack / 4)).level - y.lumens) ∧
  (∀ (f : Fields) (s : State) (a : W32), let c := s.ctxOf (.xwait f)
     let covers (k : W32) : Prop := (a - k).toNat < 2 ^ 31
     s.clear (.xwait f) = true → c.uni32 s f.a = some a →
     ((∀ q ∈ s.e.reqs, q.warp = s.w.ref → ¬ covers q.ticket) → (∀ q ∈ s.e.seqs, q.warp = s.w.ref → ¬ covers q.ticket) →
       ∃ t, exec (.xwait f) s = .next t ∧ c.Went s t ∧ WarpKept s t ∧ RestKept s t) ∧
     (((∃ q ∈ s.e.reqs, q.warp = s.w.ref ∧ covers q.ticket) ∨ ∃ q ∈ s.e.seqs, q.warp = s.w.ref ∧ covers q.ticket) → exec (.xwait f) s = .next s.held))

/-- A request of the streamer at work (07 R214; 12 R267-R269, R272, R274). Issuing: with its pages good, no byte that it reads held back and no line of its destination owned by another or held by a blocking
sequence, it comes to own every destination line, in L2 or, where the line's set there has no room, outside it (log entry 52), the dirty bytes that L1s hold of them are at their homes first, and what it will write is decided by what it then reads (that it reads all its sources in this one event is the model's choice: log entry 18). A missing page suspends it with a record for the host, and it does nothing
until that is answered; an access that its pages forbid, or that another device refuses, aborts it with a fault deferred to its ticket. Writing, of a request whose hints keep its lines in L2 (03 R89): the next group is at the homes, with the additions that it makes there, or
in the scratchpad banks of its cohort, and the blocks and words that it leaves poisoned are. Completion: once all is written and TIME has passed the completion times, it is gone and acts on its target. -/
def Obligations.StreamerWork : Prop :=
  ∀ (s : State) (k : Nat) (q : XReq), s.reqAt k = some q →
    let own := engOwns (s.engGroups q (s.engOut q))
    (q.staged = none → q.paged = none → s.engErr q = none →
      s.engineWaits q.warp q.core q.ctx [] ((q.pieces.1 ++ q.pieces.2.filter (fun x => x.2 == .both)).map (fun x => (x.1.va, x.1.n))) = false →
      (∀ p ∈ own, s.owned (lineOf p.loc) = false ∧ s.seqBlocks (lineOf p.loc) = false ∧ s.peerErr (lineOf p.loc * 128) = none) → s.m.linesOnce = true →
      ∃ u : State, u = { s with fresh := u.fresh, m := u.m, e := u.e } ∧ u.reqAt k = some q ∧
        exec (.engineLineWrite k) s = .next (u.setReq { q with
          staged := some (u.engGroups q (u.engOut q)), brought := (own.map (fun p => lineOf p.loc)).filter (fun l => (s.m.l2Find l).isNone) }) ∧
        (∀ p ∈ own, (p.loc < hostBase ∧ ∃ x, u.m.l2Find (lineOf p.loc) = some x ∧ x.owner = some q.id) ∨ (lineOf p.loc, q.id) ∈ u.m.farOwned) ∧
        (∀ p ∈ own, ∀ x ∈ u.m.l1, x.line = lineOf p.loc → x.dirty = 0) ∧
        ((∀ p ∈ own, p.loc < hostBase → (s.m.l2Find (lineOf p.loc)).isSome = true) →
          ∀ p ∈ own, p.loc < hostBase → (∃ x, u.m.l2Find (lineOf p.loc) = some x ∧ x.owner = some q.id) ∧ ∀ x ∈ s.m.l1, x.line = lineOf p.loc → (∀ y ∈ s.m.l1, y.line = x.line → y.dirty ≠ 0 → y = x) →
          ∀ j < 128, x.dirty.getLsbD j = true → ∀ key, u.m.homeByte (x.line * 128 + j) key = byteOf x.data j) ∧
        (own = [] → u = s.hintSources q)) ∧
    (∀ e va acc, q.staged = none → q.paged = none → s.engErr q = some (e, va, acc) → e.code ≠ 0 → e.code ≠ 0x07 →
      ∃ t, exec (.engineLineWrite k) s = .next t ∧ t.reqAt k = some { q with aborted := true, staged := some [] } ∧ t.m = s.m ∧
        (s.w.live = true → s.w.ref = q.warp → ∃ d ∈ t.w.deferred, d.ticket = some q.ticket ∧ d.info.code = e.code ∧ d.info.cause = e.cause ∧ d.info.addr = va ∧
          d.info.lane = BitVec.ofNat 5 q.lane)) ∧
    (∀ e va acc, q.staged = none → q.paged = none → s.engErr q = some (e, va, acc) → e.code = 0x07 → (∀ r ∈ s.h.records, r.posted.isSome = true) →
      ∃ t r, exec (.engineLineWrite k) s = .next t ∧ t.reqAt k = some { q with paged := some s.fresh } ∧ t.w = s.w ∧ (s.h.fbOpen = false → t.m = s.m) ∧
        r ∈ t.h.records ∧ r.num = s.fresh ∧
        r.who = some (.request q.id) ∧ r.info.code = 0x07 ∧ r.info.addr = va ∧ r.info.ticket = q.ticket ∧ r.answered = false) ∧
    (q.staged = none → q.paged.isSome = true → exec (.engineLineWrite k) s = .next s) ∧
    (∀ g rest, q.staged = some (g :: rest) → s.e.seqs = [] → q.level < 2 → (∀ p ∈ g.places, p.loc < hostBase → (s.m.l2Find (lineOf p.loc)).isSome = true) →
      ∃ t n, exec (.engineLineWrite k) s = .next t ∧ t.reqAt k = some { q with staged := some rest, wct := max q.wct n } ∧ t.w = s.w ∧
        (g.scratch = [] → g.adds = [] → (g.linear.map (fun p => p.1.loc)).Nodup → ∀ p ∈ g.linear, p.1.loc < hostBase → ∀ key, t.m.homeByte p.1.loc key = p.2) ∧
        (g.scratch = [] → g.adds = [] → ∀ loc key, loc < hostBase → (∀ p ∈ g.linear, blockOf p.1.loc ≠ blockOf loc) → t.m.homeByte loc key = s.m.homeByte loc key) ∧
        (∀ p half v, g.scratch = [] → g.linear = [] → g.adds = [(p, half, v)] →
          let z := if half then 2 else 4
          let ty := if half then bf16 else f32
          p.loc % 128 + z ≤ 128 → p.loc + z ≤ hostBase → (∀ j < z, s.m.homePoison (p.loc + j) = false) →
          ∀ key, t.m.homeBytes p.loc z key = leBytes z (addF ty FpMode.plain (ty.val (leNat (s.m.homeBytes p.loc z p.key))) (f32.val v.toNat)).1) ∧
        (∀ p ∈ g.poison, t.m.homePoison p.loc = true) ∧
        (∀ h c b, g.linear = [] → g.adds = [] → (g.scratch.map Prod.fst).Nodup → s.cohortOf q.warp = some h → h.away = false →
          h.banks.Nodup → ∀ p ∈ g.scratch, h.banks[p.1 / 65536]? = some b → c = (h.die * 48 + h.cluster) * 16 + b → s.m.bankMode.get c ≠ 0 →
          t.m.bankGet (c * 65536 + p.1 % 65536) = p.2 ∧ (p.1 ∈ g.spoison → t.m.bankPoisoned (c * 65536 + p.1 % 65536) 1 = true))) ∧
    (q.staged = some [] → q.wct ≤ s.time →
      ∃ u : State, exec (.streamerCompletion k) s = .next (u.actOn q.warp q.ctx q.ck q.target q.counted) ∧ u.m = s.m ∧
        u.e = { s.e with reqs := s.e.reqs.filter (fun x => x.id != k) } ∧
        (s.w.live = true → s.w.ref = q.warp → u.w = s.w.gotPart q.op (fun o => o)))

/-- A sequence at work (14 R319-R323; 17 R369, R370, R374), its stack not held. It starts where fewer than 8 run on its stack, no earlier or running one there clashes with it
and no write is on its way to its blocks. A row asks the base die for each of its channels where each has a free tag, and else for none (17 R366), waits until they are given, and then puts its results into sectors, outside blocking mode speculative ones, while DRAM keeps what it held where their sets have room. A run that a home write met is undone: every
saved block has its earlier bytes again, in its sector or, where that has been evicted, in DRAM (log entry 52), and it runs again from row 0, in blocking mode after the third rerun; a run without a conflict is final, and DRAM holds the bytes of its sectors, which are speculative no more. Once TIME has passed its completion time it is gone, HORIZON of its warp has
risen and it acts on its target. The watchdog ends every running sequence of a stack that has made no progress for 1 ms: the blocks of the rows that its run has written are poisoned and speculative no more, every other sector and DRAM keep what they held, and the requester gets NEARMEM_RESET. -/
def Obligations.SequenceWork : Prop :=
  (∀ (s : State) (k : Nat) (q : SeqRun), s.seqAt k = some q → s.stackHeld q.stack = false →
    let mates := s.e.seqs.filter (fun x => x.stack == q.stack && x.id != k && !x.finished)
    let given : Prop := ∀ p ∈ s.m.packets, ¬ (p.type = 4 ∧ p.data = BitVec.ofNat 4096 k ∧ p.unit = q.stack)
    let tagFree (p : Phys) : Prop := ∃ tag < 1024, ∀ x ∈ s.m.packets, ¬ (x.unit = unitOf p.loc ∧ x.channel = locChannel p.loc % 32 ∧ x.tag = tag)
    (q.running = false → q.finished = false → (mates.filter (·.running)).length < 8 →
      (∀ x ∈ mates, (x.running = true ∨ x ∈ s.e.seqs.takeWhile (fun x => x.id != k)) → x.clash q = false) →
      (∀ p ∈ s.m.packets, p.isWrite = true → p.block ∉ q.reads ++ q.writes) →
      ∃ t q', exec (.sequenceStart k) s = .next t ∧ t.seqAt k = some q' ∧ q'.running = true ∧ q'.finished = false ∧ q'.row = q.row ∧ t = { s with m := t.m, e := t.e } ∧
        t.m.l1 = s.m.l1 ∧ t.m.msgs = s.m.msgs ∧ t.m.bank = s.m.bank) ∧
    (q.running = true → q.row < q.n → given → q.asked = false → (∀ p ∈ q.rowChannels q.row, tagFree p) →
      ∃ t, exec (.sequenceRowStep k) s = .next t ∧ t.seqAt k = some { q with asked := true } ∧ t = { s with m := { s.m with packets := t.m.packets, trace := t.m.trace }, e := t.e } ∧
        ∃ new : List Packet, t.m.packets = s.m.packets ++ new ∧
          new.map (fun (p : Packet) => (p.unit, p.channel)) = (q.rowChannels q.row).map (fun (p : Phys) => (unitOf p.loc, locChannel p.loc % 32)) ∧
          ∀ p ∈ new, p.type = 4 ∧ p.data = BitVec.ofNat 4096 k) ∧
    (q.running = true → q.row < q.n → given → q.asked = false → (∃ p ∈ q.rowChannels q.row, ¬ tagFree p) → exec (.sequenceRowStep k) s = .next s) ∧
    (q.running = true → q.row < q.n → ¬ given → exec (.sequenceRowStep k) s = .next s) ∧
    (q.running = true → q.row < q.n → given → q.asked = true →
      ∃ t q', exec (.sequenceRowStep k) s = .next t ∧ t.seqAt k = some q' ∧ q'.row = q.row + 1 ∧ q'.running = true ∧ t.w = s.w ∧
        let cells := (s.seqRow q q.row).flatMap (fun o => (List.range o.bytes.length).filterMap (fun j =>
          (placeAt q.pages (o.va + j)).map (fun p => (p.loc, o.bytes.getD j 0))))
        let blocks := (cells.map (fun x => blockOf x.1)).dedup
        (∀ b ∈ blocks, (s.m.sector b).isSome = true ∨ (s.m.setOf b).length + blocks.length ≤ 16) →
        t.m.dram = s.m.dram ∧ ((cells.map Prod.fst).Nodup →
          ∀ x ∈ cells, ∃ y, t.m.sector (blockOf x.1) = some y ∧ byteOf y.data (x.1 % 512) = x.2 ∧ (q.blocking = false → y.spec = some q.id))) ∧
    (q.running = true → q.n ≤ q.row → q.blocking = false → (∃ b ∈ q.homeWrites, b ∈ q.reads ∨ b ∈ q.writes) →
      ∃ t q', exec (.sequenceRunEnd k) s = .next t ∧ t.seqAt k = some q' ∧ q'.row = 0 ∧ q'.run = q.run + 1 ∧ q'.running = true ∧ q'.homeWrites = [] ∧
        q'.blocking = decide (3 ≤ q.run) ∧ t.w = s.w ∧ ((∀ u ∈ q.undo, (s.m.sector u.1).isSome = true) → t.m.dram = s.m.dram) ∧
        ((q.undo.map (fun u => u.1)).Nodup → ∀ u ∈ q.undo,
          (∀ y, s.m.sector u.1 = some y → t.m.sector u.1 = some { y with data := u.2.1, poison := u.2.2, spec := none }) ∧
          (s.m.sector u.1 = none → ∀ j < 512, t.m.dram.get (u.1 * 512 + j) = byteOf u.2.1 j))) ∧
    (q.running = true → q.n ≤ q.row → (q.blocking = true ∨ q.conflict s.tick = false) →
      ∃ t q', exec (.sequenceRunEnd k) s = .next t ∧ t.seqAt k = some q' ∧ q'.finished = true ∧ q'.running = false ∧ q'.wct = s.time + 8 ∧ ((∀ p ∈ q.dstPlaces, p.loc < hostBase) → t.w = s.w) ∧
        (∀ b ∈ q.writes, ∀ y, t.m.sector b = some y → y.spec = none ∧ y.dirty = false ∧ ∀ j < 512, t.m.dram.get (b * 512 + j) = byteOf y.data j) ∧
        ((∀ p ∈ q.dstPlaces, blockOf p.loc ∈ q.writes) → (∀ x ∈ s.m.l1, x.line / 4 ∉ q.writes) → (∀ x ∈ s.m.l2, x.line / 4 ∉ q.writes) →
          ∀ b ∈ q.writes, ∀ y, s.m.sector b = some y → ∀ j < 512, t.m.dram.get (b * 512 + j) = byteOf y.data j)) ∧
    (q.finished = true → q.wct ≤ s.time →
      ∃ u : State, exec (.sequenceCompletion k) s = .next (u.actOn q.warp q.ctx q.ck q.target q.counted) ∧ u.m = s.m ∧
        u.e = { s.e with seqs := s.e.seqs.filter (fun x => x.id != k) } ∧
        (s.w.live = true → s.w.ref = q.warp → u.w = (s.w.raiseHorizon q.wct).gotPart q.op (fun o => o)))) ∧
  (∀ (s : State) (stack : Nat), (s.e.seqs.map (·.id)).Nodup → s.stackHeld stack = false → (∃ q ∈ s.e.seqs, q.stack = stack ∧ q.running = true) →
    ((s.e.lastRow.find? (fun x => x.1 == stack)).map Prod.snd).getD 0 + 1000000 ≤ s.time →
    ∃ t, exec (.sequencerWatchdogExpiry stack) s = .next t ∧ t.m.dram = s.m.dram ∧
      (∀ q ∈ t.e.seqs, q.stack = stack → q.running = false) ∧ (∀ q ∈ s.e.seqs, (q.stack ≠ stack ∨ q.running = false) → q ∈ t.e.seqs) ∧
      (∀ q ∈ s.e.seqs, q.stack = stack → q.running = true → ∀ b ∈ q.written, t.m.blockPoison b = true ∧
        ∀ y, s.m.sector b = some y → t.m.sector b = some { y with spec := none, poison := true }) ∧
      (∀ b, (∀ q ∈ s.e.seqs, q.stack = stack → q.running = true → b ∉ q.written) → t.m.sector b = s.m.sector b) ∧
      (∀ q ∈ s.e.seqs, q.stack = stack → q.running = true → s.w.live = true → s.w.ref = q.warp →
        ∃ d ∈ t.w.deferred, d.ticket = some q.ticket ∧ d.info.code = 0x14 ∧ d.info.lane = BitVec.ofNat 5 q.lane))

/-! The matrix engine (12 R284-R290). -/

/-- The matrix instructions at issue. MMA (12 R284-R286), when every declared lane signs at once and the checks of its tiles pass, with its lumens granted: its remaining
row blocks enter its stream in order, with the pages of its operands as they translate now, RESUME is zero, its result is outstanding, and accumulators, banks and homes are untouched. MZERO, MLDA and MSTA (12 R288,
R289) enter their stream; MSTA carries the registers' values. An entry stands last in its stream, and is not ordered with the entries of another stream on its tile where one of the two writes the tile, unless an MSYNC that covers that stream lies between. MSYNC moves on when no stream it names has an instruction
left, what follows being ordered after those streams, and is held while one has. MRDP gives the progress of a faulted MMA and the busy streams. -/
def Obligations.MatrixIssue : Prop :=
  (∀ (f : Fields) (s : State),
    let c0 := s.ctxOf (.mma f)
    let k := f.modBits 8 6
    let c : Ctx := { c0 with g := s.guardLanes f (s.w.decl k) }
    let m : MmaArgs := { mmaArgs f s with pages := s.runPages s.w ((mmaArgs f s).bRuns ++ (List.range 8).flatMap (mmaArgs f s).aRuns) }
    let j0 := s.w.progress 0xD0
    let act := max (s.tileAct (mmaType m.ta) m.a) (s.tileAct (mmaType m.tb) m.b)
    let amount := (m.tiles * mmaLumens m.ta act * (8 - j0) + 7) / 8
    s.clear (.mma f) = true → s.w.signed k = 0 → s.w.decl k &&& ~~~c0.x = 0 → c.g ≠ 0 → j0 < 8 → s.lumensReady s.w.id.core.die amount →
    m.misaligned = none → s.checkB m = none → (∀ j, j0 ≤ j → j < 8 → s.checkA m j = none) →
    ∃ t, exec (.mma f) s = .next t ∧ c0.Went s t ∧ c.Outstanding t [] 1 ∧
      t = { s with fresh := t.fresh, w := t.w, m := { s.m with tlb := t.m.tlb }, e := { s.e with pools := t.e.pools } } ∧
      (t.pool s.w.id.core.die).level = (s.pool s.w.id.core.die).level - amount ∧ (∀ j, t.w.signed j = s.w.signed j) ∧
      WarpKept (s.updW (fun w =>
        ((List.range 8).drop j0).foldl (fun (w : Warp) j => w.enter (f.modBits 5 4) c.id (j == 7) (.rowBlock m j))
          { w with kaddr := t.w.kaddr, ksigned := t.w.ksigned, kguard := t.w.kguard, csr := { w.csr with resume := 0 } })) t) ∧
  (∀ (i : Instr) (f : Fields) (s : State) (body : MOp) (dests : List (Nat × Lanes)), let c := s.ctxOf i
    let n := f.modBits 8 6 + 1
    let reg (j : Nat) : Nat := firstReg f.d + j
    ((i = .mzero f ∧ body = .zero (f.modBits 3 0) ∧ dests = []) ∨
      (∃ row, i = .mlda f ∧ c.uni32 s f.a = some row ∧ body = .load (f.modBits 3 0) (row.toNat % 64) n (firstReg f.d) c.g ∧
        dests = (List.range (2 * n)).map (fun j => (reg j, c.g))) ∨
      (∃ row vals, i = .msta f ∧ c.uni32 s f.a = some row ∧ body = .store (f.modBits 3 0) (row.toNat % 64) n c.g vals ∧ dests = [] ∧
        vals = (List.range (2 * n)).flatMap (fun j => (bitList c.g).map (fun l => (j * 32 + l, s.read32 (opndPlus f.d j) l))))) →
    s.clear i = true →
    ∃ t, exec i s = .next t ∧ c.Went s t ∧ RestKept s t ∧ c.Outstanding t dests 1 ∧ WarpKept (s.updW (fun w => w.enter (f.modBits 5 4) c.id true body)) t) ∧
  (∀ (w : Warp) (stream op : Nat) (last : Bool) (body : MOp), let x := w.enter stream op last body
    x = { w with used := x.used, streams := x.streams } ∧
      x.streams = w.streams.map (fun e => { e with racy := e.racy || (body.writes && e.stream != stream && e.body.tile == body.tile) }) ++
        [⟨stream, op, last, body, w.used.any (fun u => u.stream != stream && u.tile == body.tile && u.writes)⟩] ∧
      ∀ u, u ∈ x.used ↔ u ∈ w.used ∨ u = ⟨stream, body.tile, body.writes⟩) ∧
  (∀ (f : Fields) (s : State), let c := s.ctxOf (.msync f)
    let named (k : Nat) : Prop := f.subBits 3 0 = 0 ∨ (f.subBits 3 0).testBit k = true
    let waits (e : MEntry) : Prop := e.stream < 4 ∧ named e.stream
    s.clear (.msync f) = true →
    ((∀ e ∈ s.w.streams, ¬ waits e) → ∃ t, exec (.msync f) s = .next t ∧ c.Went s t ∧ WarpKept (s.updW (fun w => { w with used := t.w.used })) t ∧ RestKept s t ∧
      ∀ u, u.stream < 4 → (u ∈ t.w.used ↔ u ∈ s.w.used ∧ ¬ named u.stream)) ∧
    ((∃ e ∈ s.w.streams, waits e) → exec (.msync f) s = .next s.held)) ∧
  (∀ (f : Fields) (s : State), let c := s.ctxOf (.mrdp f)
    let mine : Bool := s.w.csr.resume.getLsbD 31 && fieldOf s.w.csr.resume 15 8 == 0xD0
    let x := (if mine then 128 + fieldOf s.w.csr.resume 6 0 else 0) + 256 * s.w.streamsBusy
    s.clear (.mrdp f) = true → ∃ t, exec (.mrdp f) s = .next t ∧ c.Went s t ∧ OnlyRegisters s t ∧ c.Holds s t f.d false false (fun _ => BitVec.ofNat 64 x))

/-- ROW_BLOCK_COMPLETION (12 R285-R289): the oldest entry of a stream of the focus warp leaves it, and nothing outside the warp changes; it waits while bytes of its operands do (17 R372). That a row block reads its operands when it
completes, where R287 allows any time from its dispatch on, is the model's choice (log entry 35). A row block gives each element of its
eight rows the sum of the products over k added to what it held, or to 0, and changes no other element; MZERO clears its tile; MSTA stores its values; MLDA's
registers get the elements of its rows; a row is poisoned that draws on a poisoned row of A or on a poisoned B. The elements are those given where the entry is ordered with the other streams; otherwise the elements that it writes or reads are free (R288), and the same others are kept. The
sum of products (02 R70): of integers it wraps to 32 bits; of finite values it is exact and is rounded once, RNE, into FP32. -/
def Obligations.MatrixCompletion : Prop :=
  (∀ (s : State) (e : MEntry), s.w.live = true → s.w.streams.find? (fun x => x.stream == e.stream) = some e →
    (s.entryHeld s.w e.body = true → exec (.rowBlockCompletion s.w.id e.stream) s = .next s) ∧
    (s.entryHeld s.w e.body = false → ∃ t, exec (.rowBlockCompletion s.w.id e.stream) s = .next t ∧ t = { s with w := t.w } ∧
      t.w.streams = s.w.streams.eraseP (fun x => x.stream == e.stream) ∧ t.w.lpc = s.w.lpc ∧ t.w.csr = s.w.csr ∧
      match e.body with
      | .rowBlock m j =>
        let rowB (r : Nat) := s.kRow s.w e.op m (mmaType m.tb) m.bTile r
        let rowA (r : Nat) := s.kRow s.w e.op m (mmaType m.ta) m.aTile r
        let badB : Prop := (∃ r < 64, (rowB r).2 = true) ∨ ∃ x < m.tiles, s.operandPoison s.w e.op m.pages (mmaType m.tb) (m.bTile x) ≠ 0
        let badA (r : Nat) : Prop := (rowA r).2 = true ∨ ∃ x < m.tiles, (s.operandPoison s.w e.op m.pages (mmaType m.ta) (m.aTile x)).getLsbD r = true
        (e.racy = false → ∀ r c, 8 * j ≤ r → r < 8 * j + 8 → c < 64 →
          t.w.acc.get (accKey m.tile r c) = mmaElt (m.ta == 5) (if m.z then 0 else s.w.acc.get (accKey m.tile r c)) (rowA r).1 (rowB c).1) ∧
          (∀ q, (∀ r c, 8 * j ≤ r → r < 8 * j + 8 → c < 64 → q ≠ accKey m.tile r c) → t.w.acc.get q = s.w.acc.get q) ∧
          (∀ r < 64, (t.w.accPoison.get m.tile).getLsbD r = true ↔
            if 8 * j ≤ r ∧ r < 8 * j + 8 then badB ∨ badA r ∨ (m.z = false ∧ (s.w.accPoison.get m.tile).getLsbD r = true) else (s.w.accPoison.get m.tile).getLsbD r = true) ∧
          ∀ k, k ≠ m.tile → t.w.accPoison.get k = s.w.accPoison.get k
      | .zero k => (∀ q, (e.racy = false ∨ q / 4096 ≠ k) → t.w.acc.get q = if q / 4096 = k then 0 else s.w.acc.get q) ∧
          ∀ j, t.w.accPoison.get j = if j = k then 0 else s.w.accPoison.get j
      | .store k row n _ vals =>
        let at_ (p : Nat × W32) : Nat := accKey k ((row + p.1 / 64) % 64) (32 * (p.1 / 32 % 2) + p.1 % 32)
        n ≤ 64 → (∀ p ∈ vals, p.1 < 64 * n) → (vals.map Prod.fst).Nodup →
          (e.racy = false → ∀ p ∈ vals, t.w.acc.get (at_ p) = p.2) ∧ ∀ q, (∀ p ∈ vals, q ≠ at_ p) → t.w.acc.get q = s.w.acc.get q
      | .load k row n d lanes =>
        (∀ q, t.w.acc.get q = s.w.acc.get q) ∧
          ∀ o, e.racy = false → s.w.findOp e.op = some o → e.last = true → o.dests = (List.range (2 * n)).map (fun i => (d + i, lanes)) →
            ∀ j l, j < 2 * n → lanes.getLsbD l = true →
              t.w.v.get ((d + j) * 32 + l) = s.w.acc.get (accKey k ((row + j / 2) % 64) (32 * (j % 2) + l)))) ∧
  (∀ (init : W32) (xs ys : List Int), mmaElt true init (xs.map intVal) (ys.map intVal) = init + BitVec.ofInt 32 ((xs.zip ys).map (fun p => p.1 * p.2)).sum) ∧
  (∀ (init : W32) (xs ys : List Val), (f32.val init.toNat).isFinite = true → (∀ x ∈ xs ++ ys, x.isFinite = true) →
    ∃ x : Val, x.isFinite = true ∧ x.rat = (f32.val init.toNat).rat + ((xs.zip ys).map (fun p => p.1.rat * p.2.rat)).sum ∧
      mmaElt false init xs ys = BitVec.ofNat 32 (froundPlain f32 x))

/-! Stage rings, tasks and the register fabric (12 R277-R280; 14 R295-R316, R324, R325). -/

/-- The ring instructions on a declared ring and a stage of it (12 R277-R279; 17 R354), the cohort resident: RING.ACQ takes an empty stage and gives its address, and is
held on any other; RING.COMMIT makes a filling stage committed, or full where nothing is pending, which releases the warps that wait for its new phase; RING.WAIT moves on where the stage is full at the phase or a fill has released the warp, and elsewhere waits for the phase; RING.REL counts a
release, and the last empties the stage. In a FIFO-mode bank COMMIT advances HEAD and REL's last TAIL past the stage. Every other stage is as it was. -/
def Obligations.RingStages : Prop :=
  ∀ (i : Instr) (f : Fields) (s : State) (a b : W32) (d : RingDecl) (g : Stage) (h : Cohort),
    let c := s.ctxOf i
    let n := f.modBits 2 0
    let me := s.w.ref.widx
    let others (t : State) : Prop := ∀ r j, ¬ (r = n ∧ j = a.toNat % 16) → t.stageOf s.w.ref r j = s.stageOf s.w.ref r j
    let past (x y : Store 16) : Prop := ∀ k, y.get k =
      if (s.stageBank d g).any (fun j => k == s.w.cl * 16 + j) && s.m.bankMode.get k == 2 then BitVec.ofNat 16 ((g.idx + 1) * d.sbytes) else x.get k
    let is (t : State) (x : Stage) : Prop := t.stageOf s.w.ref n (a.toNat % 16) = some x ∧ others t
    s.clear i = true → c.uni32 s f.a = some a → s.ringAt n (a.toNat % 16) = .ok (d, g) → s.cohortOf s.w.ref = some h → h.away = false → g.ovf = false →
    (i = .ringAcq f → g.st = .empty →
      ∃ t, exec i s = .next t ∧ c.Went s t ∧ is t { g with st := .filling, acq := c.id } ∧ OnlyRegisters { s with cohorts := t.cohorts } t ∧
        c.Holds s t f.d true false (fun _ => BitVec.ofNat 64 (0x7FFFFFFF000000 + 65536 * d.bank + g.idx * d.sbytes))) ∧
    (i = .ringAcq f → g.st ≠ .empty → exec i s = .next s.held) ∧
    (i = .ringCommit f → c.uni32 s f.b = some b → g.st = .filling → g.pend + b.toNat ≤ 2 ^ 27 - 1 → s.writesPending s.w = false →
      ∃ t, exec i s = .next t ∧ c.Went s t ∧ WarpKept s t ∧
        is t (if g.pend + b.toNat = 0 then
            { g with
              st := .full, pend := 0, phase := !g.phase, rcnt := 0, freed := g.freed ++ g.waiting.filter (fun x => x.2 == !g.phase)
              waiting := g.waiting.filter (fun x => x.2 == g.phase) }
          else { g with st := .committed, pend := g.pend + b.toNat }) ∧
        past s.m.bankHead t.m.bankHead ∧ t = { s with fresh := t.fresh, w := t.w, cohorts := t.cohorts, m := { s.m with bankHead := t.m.bankHead } }) ∧
    (i = .ringWait f → c.uni32 s f.b = some b → (me, b.getLsbD 0) ∈ g.freed →
      ∃ t, exec i s = .next t ∧ c.Went s t ∧ WarpKept s t ∧ t = { s with fresh := t.fresh, w := t.w, cohorts := t.cohorts } ∧
        is t { g with waiting := g.waiting.filter (fun x => x.1 != me), freed := g.freed.filter (fun x => x.1 != me) }) ∧
    (i = .ringWait f → c.uni32 s f.b = some b → (me, b.getLsbD 0) ∉ g.freed → g.st = .full → g.phase = b.getLsbD 0 →
      ∃ t, exec i s = .next t ∧ c.Went s t ∧ WarpKept s t ∧ RestKept s t) ∧
    (i = .ringWait f → c.uni32 s f.b = some b → (me, b.getLsbD 0) ∉ g.freed → (g.st ≠ .full ∨ g.phase ≠ b.getLsbD 0) →
      ∃ t, exec i s = .next t ∧ t = { s with w := s.held.w, cohorts := t.cohorts } ∧
        is t { g with waiting := g.waiting.filter (fun x => x.1 != me) ++ [(me, b.getLsbD 0)], freed := g.freed.filter (fun x => x.1 != me) }) ∧
    (i = .ringRel f → g.st = .full → s.writesPending s.w = false →
      ∃ t, exec i s = .next t ∧ c.Went s t ∧ WarpKept s t ∧
        is t (if g.rcnt + 1 = d.ncons then { g with st := .empty, rcnt := g.rcnt + 1 } else { g with rcnt := g.rcnt + 1 }) ∧
        (if g.rcnt + 1 = d.ncons then past s.m.bankTail t.m.bankTail else t.m.bankTail = s.m.bankTail) ∧
        t = { s with fresh := t.fresh, w := t.w, cohorts := t.cohorts, m := { s.m with bankTail := t.m.bankTail } })

/-- Capabilities (14 R295-R298). RGRANT takes the lowest entry that is neither valid nor retired, raises its generation, and gives a capability that names the warp and
the range and passes every check of a sender; no other entry changes. RREVOKE of a capability of the warp's own that is in force ends its entry, RREVOKE.ALL
ends every one; no other warp's entry changes. RARM and RPOLL (14 R300, R301, R305): the named registers become armed, whatever they were; bit i of D says that the i-th is not armed. TASK.SIGNAL and TASK.LAUNCH of a task that is not being checked (14 R324; 18 R381): D gets the status at once. A signal takes one from the counter of a waiting task
where it is not 0; the task becomes ready when a signal takes the last one and it is not held, and when a held one is launched. Any other task is as it was. -/
def Obligations.RightsAndArrivals : Prop :=
  ((∀ (f : Fields) (s : State) (e d r : Nat) (sc : Bool), let c := s.ctxOf (.rgrant f)
     s.clear (.rgrant f) = true → s.f.freeEntry s.w.ref = some e → f.d = .s d → ((f.a = .v r ∧ sc = false) ∨ (f.a = .s r ∧ sc = true)) → r < 704 →
     s.w.ref.die ≤ 3 → s.w.ref.cluster ≤ 47 → s.w.ref.cslot < 64 → s.w.ref.widx < 32 →
     ∃ t, exec (.rgrant f) s = .next t ∧ c.Went s t ∧ OnlyFabric s t ∧ t.w.v = s.w.v ∧ (∀ j, j ≠ d → j ≠ d + 1 → t.w.s.get j = s.w.s.get j) ∧ t.w.csr = s.w.csr ∧
       let x : BitVec 128 := t.w.s.get (d + 1) ++ t.w.s.get d
       let low := capLow x
       capOk s.m s.w.ctx x = true ∧ capEntry low = e ∧ capDev low = s.m.devId.toNat ∧ capRef low = s.w.ref ∧ capFirst low = r ∧
         capCount low = f.modBits 9 0 + 1 ∧ low.getLsbD 47 = sc ∧ low.getLsbD 49 = (f.modBits 11 11 == 1) ∧
         t.f.grant s.w.ref e = ⟨s.w.ref, e, true, (s.f.grant s.w.ref e).gen + 1, low⟩ ∧
         ∀ q j, ¬ (q = s.w.ref ∧ j = e) → t.f.grant q j = s.f.grant q j) ∧
   (∀ (f : Fields) (s : State), let c := s.ctxOf (.rrevoke f)
     let x := s.readCap f.a
     let e := capEntry (capLow x)
     s.clear (.rrevoke f) = true →
     (f.sub = 1 ∨ (capOk s.m s.w.ctx x = true ∧ capRef (capLow x) = s.w.ref ∧ capDev (capLow x) = s.m.devId.toNat ∧
       (s.f.grant s.w.ref e).valid = true ∧ (s.f.grant s.w.ref e).fields = capLow x)) →
     ∃ t, exec (.rrevoke f) s = .next t ∧ c.Went s t ∧ WarpKept s t ∧ OnlyFabric s t ∧
       ∀ q j, (t.f.grant q j).valid = (if q = s.w.ref ∧ (f.sub = 1 ∨ j = e) then false else (s.f.grant q j).valid) ∧
         (t.f.grant q j).gen = (s.f.grant q j).gen ∧ (t.f.grant q j).fields = (s.f.grant q j).fields)) ∧
  ((∀ (f : Fields) (s : State), let c := s.ctxOf (.rarm f)
     let codes := regsOf (shapeOf (.rarm f)).a f.a
     s.clear (.rarm f) = true →
     ∃ t, exec (.rarm f) s = .next t ∧ c.Went s t ∧ WarpKept s t ∧ RestKept s t ∧ (∀ r ∈ codes, t.w.arr.get r = 1) ∧
       (∀ r, r ∉ codes → r ∉ guardRegs f → t.w.arr.get r = s.w.arr.get r) ∧
       ∀ k, k ∈ t.w.marks ↔ k ∈ s.w.marks ∧ ¬ (k.reg ∈ codes ∧ s.w.arr.get k.reg = 3)) ∧
   (∀ (f : Fields) (s : State), let c := s.ctxOf (.rpoll f)
     let codes := regsOf (shapeOf (.rpoll f)).a f.a
     let x : W32 := ofBits 32 ((List.range codes.length).filter (fun j => s.w.arr.get (codes.getD j 0) != 1))
     s.clear (.rpoll f) = true →
     ∃ t, exec (.rpoll f) s = .next t ∧ c.Went s t ∧ OnlyRegisters s t ∧ c.Holds s t f.d false false (fun _ => x.setWidth 64))) ∧
  (∀ (launch : Bool) (f : Fields) (s : State) (id : W32),
     let i : Instr := if launch then .taskLaunch f else .taskSignal f
     let c := s.ctxOf i
     let k := s.task s.w.ctx id
     let st := taskStatus launch k
     s.clear i = true → c.uni32 s f.a = some id → (∀ o ∈ s.w.ops, o.id ≠ c.id) →
     (∀ x, k = some x → x.st = .checking →
       ∃ t, exec i s = .next t ∧ c.Went s t ∧ WarpKept s t ∧ c.Outstanding t (destOf f.d c.g) 1 ∧ t.m = s.m ∧
         t.task s.w.ctx id = some { x with pending := x.pending ++ [if launch then .launch (some (s.w.ref, c.id)) else .decrement (some (s.w.ref, c.id))] }) ∧
     ((∀ x, k = some x → x.st ≠ .checking) →
     ∃ t, exec i s = .next t ∧ c.Went s t ∧ c.Holds s t f.d false false (fun _ => BitVec.ofNat 64 st) ∧ t.m = s.m ∧ t.e = s.e ∧ t.g = s.g ∧ t.f = s.f ∧
       t.w.csr = s.w.csr ∧ t.w.lstate = s.w.lstate ∧
       (∀ ctx j, ¬ (ctx = s.w.ctx ∧ j = id) → t.task ctx j = s.task ctx j) ∧
       (st ≠ 0 → t.t.tasks = s.t.tasks) ∧
       (∀ x, k = some x → st = 0 → ∃ y, t.task s.w.ctx id = some y ∧ y.counter = (if launch then x.counter else x.counter - 1) ∧
         y.st = (if launch ∨ (x.counter = 1 ∧ x.held = false) then .ready else .waiting))))

/-- RPUT (14 R299, R302) with a capability that passes the sender's checks and an offset inside its range, of the class of its source: one write is on its way, of the
executing lanes of a vector or of a scalar, and the status is outstanding for D. An offset outside the range, or a source of the other class, raises CAPABILITY with
cause 3, and a capability that fails a check CAPABILITY with cause 1. A remote write at a warp of this device, and its status (14 R296, R299, R300, R303), the warp being the focus and no earlier write of the same two warps in front. A grant
that is not in force, or that is not the capability's, refuses it with status 3; an armed register, or an idle one under the arm-on-write right, takes it and is
full, with status 0; any other gives status 2. Refused or not, no other register changes. Then the status reaches the sender: its register, or without one a deferred
OVERWRITE or CAPABILITY. -/
def Obligations.RemoteWrite : Prop :=
  (∀ (f : Fields) (s : State) (off : W32), let c := s.ctxOf (.rput f)
     let x := s.readCap f.a
     let low := capLow x
     let sc := (rangeOf f.c).1
     s.clear (.rput f) = true → c.uni32 s f.b = some off →
     (capOk s.m s.w.ctx x = false → exec (.rput f) s = .next (s.raise (c.info 0x0E 1 c.g 0))) ∧
     (capOk s.m s.w.ctx x = true → (capCount low ≤ off.toNat ∨ sc ≠ low.getLsbD 47) → exec (.rput f) s = .next (s.raise (c.info 0x0E 3 c.g 0))) ∧
     (capOk s.m s.w.ctx x = true → off.toNat < capCount low → sc = low.getLsbD 47 → (f.modBits 4 3 = 2 → releaseReady s (f.modBits 2 0)) →
       ∃ t p, exec (.rput f) s = .next t ∧ c.Went s t ∧ WarpKept s t ∧ OnlyFabric s t ∧ t.f = { s.f with puts := s.f.puts ++ [p] } ∧
         p.src = s.w.ref ∧ p.op = c.id ∧ p.dev = capDev low ∧ p.dst = capRef low ∧ p.fields = low ∧ p.lanes = c.g ∧
         p.reg = (if sc then 640 else 0) + capFirst low + off.toNat ∧
         (if sc then p.sval = s.read64 f.c 0 else p.vals = (List.range 32).map (s.read32 f.c)) ∧ c.Outstanding t (destOf f.d c.g) 1)) ∧
  ((∀ (s : State) (k : Nat) (p : Rput),
     let g := s.f.grant p.dst (capEntry p.fields)
     let ok : Bool := g.valid && g.fields == p.fields
     let takes : Bool := s.w.arr.get p.reg == 1 || (s.w.arr.get p.reg == 0 && p.fields.getLsbD 49)
     let st := if !ok then 3 else if takes then 0 else 2
     s.f.puts.find? (fun x => x.id == k) = some p → p.dev = s.m.devId.toNat → p.dst = s.w.ref → s.w.live = true → s.w.exited = false →
     (∀ x ∈ s.f.puts.takeWhile (fun x => x.id != k), ¬ (x.src = p.src ∧ x.dst = p.dst ∧ x.dev = p.dev)) →
     s.w.regMissing p.reg = false → s.w.absent.getLsbD p.reg = false →
     ∃ t x, exec (.rputArrival k) s = .next t ∧ t.f.puts = s.f.puts.filter (fun x => x.id != k) ∧ t.f.statuses = s.f.statuses ++ [x] ∧ x.src = p.src ∧ x.op = p.op ∧
       x.status = st ∧ (st = 3 → x.cause = 2) ∧ t.m = s.m ∧ t.f.grants = s.f.grants ∧
       (st ≠ 0 → t.w = s.w) ∧
       (st = 0 → t.w.arr.get p.reg = 2 ∧ (∀ r, r ≠ p.reg → t.w.arr.get r = s.w.arr.get r) ∧
         (∀ q, t.w.v.get q = if p.reg < 640 ∧ q / 32 = p.reg ∧ p.lanes.getLsbD (q % 32) = true then p.vals.getD (q % 32) 0 else s.w.v.get q) ∧
         ∀ r, t.w.s.get r = if 640 ≤ p.reg ∧ r = p.reg - 640 then p.sval else s.w.s.get r)) ∧
   (∀ (s : State) (k : Nat) (x : RputStatus) (o : Op),
     s.f.statuses.find? (fun y => y.id == k) = some x → x.src = s.w.ref → s.w.live = true → s.w.findOp x.op = some o →
     ∃ t, exec (.rputStatusReturn k) s = .next t ∧ t.f = { s.f with statuses := s.f.statuses.filter (fun y => y.id != k) } ∧ t.m = s.m ∧ t.w.v = s.w.v ∧
       (∀ r ls, o.dests = [(r, ls)] → r < 640 → ∃ o', t.w.findOp x.op = some o' ∧ o'.parts = o.parts - 1 ∧
         o'.vvals = (bitList ls).map (fun l => (r * 32 + l, BitVec.ofNat 32 x.status))) ∧
       (o.dests = [] → 2 ≤ x.status → ∃ d ∈ t.w.deferred, d.slot = o.slot ∧ d.info.code = (if x.status = 2 then 0x0F else 0x0E))))

/-- RCALL (14 R307-R309, R313): with a reserved slot at the unit that its address names, the entry aligned, no write of the warp on its way and none of its lines dirty,
the call is sent with its vectors and scalars, its echo registers become armed and its result is outstanding; before it has a slot it is held, asking for one. An entry
that is no multiple of 4 raises ALIGN. RARG (14 R314) gives a vector, a scalar or the target address of the call it runs in. RRET (14 R315), with nothing of the
warp's in front, sends the echo with status 0 and ends the warp. -/
def Obligations.RemoteCalls : Prop :=
  (∀ (f : Fields) (s : State) (va : W64) (entry : W32), let c := s.ctxOf (.rcall f)
    let base := match f.e with | .s r => r | .v _ => 0 | .sp _ => 0
    let nf := f.modBits 12 12
    s.clear (.rcall f) = true → c.uni64 s f.a = some va → c.uni32 s f.b = some entry →
    (entry.toNat % 4 ≠ 0 → exec (.rcall f) s = .next (s.raise (c.info 0x09 0 c.g (s.w.codeVa entry)))) ∧
    (∀ u, entry.toNat % 4 = 0 → s.callTarget va (s.w.codeVa entry) = .ok u → s.writesPending s.w = false → s.hasDirty s.w = false →
      (s.callAt c.p u = none → ∃ t q, exec (.rcall f) s = .next t ∧ t = { s with fresh := t.fresh, w := s.held.w, f := t.f } ∧ q ∈ t.f.calls ∧ q.st = .asking ∧
        q.caller = s.w.ref ∧ q.dev = u.1 ∧ q.unit = u.2) ∧
      (∀ q, s.callAt c.p u = some q → q.st = .reserved → s.callOf q.id = some q →
        ∃ t q', exec (.rcall f) s = .next t ∧ c.Went s t ∧ WarpKept s t ∧ OnlyFabric s t ∧ c.Outstanding t [] 1 ∧ t.callOf q.id = some q' ∧ q'.st = .sent ∧
          q'.op = c.id ∧ q'.target = va ∧ q'.entry = entry ∧ q'.horizon = s.w.csr.horizon.toNat ∧ q'.caller = q.caller ∧ q'.ctx = q.ctx ∧
          q'.vecs = (List.range (f.modBits 3 0)).map (fun j => (List.range 32).map (s.read32 (opndPlus f.c j))) ∧
          q'.scals = (List.range (f.modBits 7 4)).map (fun j => s.w.readS s.tick (base + nf + j)) ∧ q'.echoCnt = f.modBits 11 8 ∧
          (∀ j < f.modBits 11 8, t.w.arr.get (firstReg f.d + j) = 1) ∧ (nf = 1 → t.w.arr.get (640 + base) = 1) ∧
          ∀ x, x ∈ s.f.calls → x.id ≠ q.id → x ∈ t.f.calls))) ∧
  (∀ (f : Fields) (s : State) (x : CallCtx), let c := s.ctxOf (.rarg f)
    let n := f.modBits 3 0
    s.clear (.rarg f) = true → s.w.call = some x → (f.sub.toNat = 0 → c.agrees f.d false (fun l => ((x.vecs.getD n []).getD l 0).setWidth 64) = true) →
    ∃ t, exec (.rarg f) s = .next t ∧ c.Went s t ∧ OnlyRegisters s t ∧
      (match f.sub.toNat with
        | 0 => c.Holds s t f.d false false (fun l => ((x.vecs.getD n []).getD l 0).setWidth 64)
        | 1 => c.Holds s t f.d true false (fun _ => x.scals.getD n 0)
        | _ => c.Holds s t f.d true false (fun _ => x.target))) ∧
  (∀ (f : Fields) (s : State) (x : CallCtx) (q : Call), let c := s.ctxOf (.rret f)
    s.clear (.rret f) = true → s.w.call = some x → s.callOf x.call = some q → releaseReady s 4 →
    ∃ t, exec (.rret f) s = .next t ∧ c.Spent s t ∧ t.m = s.m ∧ t.w.live = false ∧ t.w.v = s.w.v ∧
      t.callOf x.call = some { q with
        st := .echoing, status := 0, code := 0, roffset := 0
        echo := (List.range (min (f.modBits 3 0) q.echoCnt)).map (fun j => (List.range 32).map (s.read32 (opndPlus f.d j))) })

/-- A remote call on its way (14 R306, R309-R313, R325). The first request that waits at a unit of this device gets a slot while fewer than 64 are taken; a call of another device, which has come whole, is sent with it (19 R403, R404). A call that has been sent
is queued last, and the oldest takes the lowest free warp; once TIME reaches its horizon and the margin the function runs there, every lane at the entry, with the
caller's code base and its cycles counted from 0. The echo of success fills the registers that wait for it, one of failure marks them with REMOTE_FAULT, or with NF fills them with zeros and gives
the status; a call that times out marks them with REMOTE_LOST, or with NF gives status 3, and runs on. Registers of blocks that the caller has released since stay as they are. While another device is unreachable none of its echoes arrives (19 R405). -/
def Obligations.CallEvents : Prop :=
  (∀ (s : State) (k : Nat) (c : Call), s.callOf k = some c →
    let mates := s.f.calls.filter (fun x => x.dev == c.dev && x.unit == c.unit)
    (c.st = .asking → (mates.filter (fun x => x.st == .asking)).head? = some c → (mates.filter (·.slotted)).length < 64 →
      ∃ t, exec (.callSlotReserve k) s = .next t ∧ t = { s with f := t.f } ∧ t.callOf k = some { c with st := if c.src = s.m.devId.toNat then .reserved else .sent }) ∧
    (c.st = .sent → c.dev = s.m.devId.toNat →
      ∃ t, exec (.callArrival k) s = .next t ∧ t = { s with f := { s.f with calls := s.f.calls.filter (fun x => x.id != k) ++ [{ c with st := .queued }] } }) ∧
    (c.st = .waiting → c.horizon + (if c.src = s.m.devId.toNat then 8 else 80) ≤ s.time →
      ∃ t w, exec (.remoteFunctionStart k) s = .next t ∧ t.callOf k = some { c with st := .running } ∧ w ∈ t.allWarps ∧ w.id = ⟨⟨unitDie c.unit, 63, 0⟩, c.slot⟩ ∧
        t.m = s.m ∧ w.ctx = c.ctx ∧ w.csr.codebase = c.codebase ∧ w.csr.horizon = BitVec.ofNat 64 c.horizon ∧ w.csr.partition = 5 ∧ w.csr.fpmode = 0 ∧ w.cycle = 0 ∧
        w.priv = false ∧ w.v = [] ∧ w.s = [] ∧ w.call = some ⟨c.id, c.vecs, c.scals, c.target⟩ ∧ ∀ l < 32, w.laneState l = 0 ∧ w.lpc.get l = c.entry) ∧
    (c.st = .echoing → c.dev = s.m.devId.toNat → c.lost = false → s.awaits c →
      ∃ t, exec (.echoArrival k) s = .next t ∧ t.m = s.m ∧ t.f.calls = s.f.calls.filter (fun x => x.id != k) ∧
        (c.status = 0 → c.Filled s t c.echo (statusWord c.roffset c.code 0)) ∧
        (c.status ≠ 0 → c.nf.isSome = true → c.Filled s t [] (statusWord c.roffset c.code c.status)) ∧
        (c.status ≠ 0 → c.nf = none → c.Marked s t 0x11)) ∧
    (c.dev ≠ s.m.devId.toNat → c.st = .sent → c.lost = false → s.awaits c →
      (s.unreachable c.dev = false → ∃ t, exec (.echoArrival k) s = .next t ∧ t.m = s.m ∧ t.f.calls = s.f.calls.filter (fun x => x.id != k)) ∧
      (s.unreachable c.dev = true → exec (.echoArrival k) s = .next s)) ∧
    (∀ n, c.lost = false → c.asks = false → c.timeout = some n → n ≤ s.time → s.awaits c →
      ∃ t, exec (.echoTimeout k) s = .next t ∧ t.m = s.m ∧ t.callOf k = some { c with lost := true } ∧
        (c.nf.isSome = true → c.Filled s t [] 3) ∧ (c.nf = none → c.Marked s t 0x10))) ∧
  (∀ (s : State) (unit : Nat) (c : Call) (j : Nat),
    s.f.calls.find? (fun x => x.unit == unit && x.dev == s.m.devId.toNat && x.st == .queued) = some c → s.callOf c.id = some c →
    (List.range 8).find? (fun n => !(s.callsOn unit).any (fun x => x.slot == n)) = some j →
    ∃ t, exec (.callDispatch unit) s = .next t ∧ t = { s with f := t.f } ∧ t.callOf c.id = some { c with st := .waiting, slot := j })

/-- Register blocks (01 R29, R30; 14 R325). RACQ of blocks that the warp may hold, with enough free in the core and no request before it: EXTBLK rises, the blocks read
zero, and every other register keeps its value. RREL of blocks held, with no result on its way into them: EXTBLK falls, the registers left keep
their values, and the echoes of the warp's calls for registers of the blocks are to be discarded, however those are armed again. More than 8 blocks, or more than are held, raise REGBLOCK. -/
def Obligations.RegisterBlocks : Prop :=
  ∀ (acq : Bool) (f : Fields) (s : State) (x : W32),
    let i : Instr := if acq then .racq f else .rrel f
    let c := s.ctxOf i
    let n := s.w.blocksHeld
    let k := x.toNat % 16
    let n' := if acq then n + k else n - k
    let inside (r : Nat) : Prop := if acq then 64 * n + 128 ≤ r ∧ r < 64 * (n + k) + 128 else 64 * (n - k) + 128 ≤ r ∧ r < 64 * n + 128
    s.clear i = true → c.uni32 s f.a = some x →
    ((if acq then 8 < n + k else n < k) → exec i s = .next (s.raise (c.info 0x04 0 c.g 0))) ∧
    ((if acq then n + k ≤ 8 ∧ (s.coreSt s.w.id.core).racq = [] ∧ n + k - max n s.w.regs ≤ s.freeBlocks s.w.id.core
        else k ≤ n ∧ n ≤ 8 ∧ ∀ o ∈ s.w.ops, ∀ d ∈ o.dests, ¬ inside d.1) →
      ∃ t, exec i s = .next t ∧ c.Went s t ∧ t.w.blocksHeld = n' ∧ t.w.s = s.w.s ∧ t.m = s.m ∧ t.w.lstate = s.w.lstate ∧
        t.w.csr = { s.w.csr with extblk := t.w.csr.extblk } ∧
        (acq = true → t.f = s.f) ∧
        (acq = false → t.f = { s.f with calls := t.f.calls } ∧ t.f.calls.length = s.f.calls.length ∧ ∀ (j : Nat) (x y : Call), s.f.calls[j]? = some x → t.f.calls[j]? = some y →
          y = { x with gone := y.gone } ∧
          ∀ r, r ∈ y.gone ↔ r ∈ x.gone ∨ (x.caller = s.w.ref ∧ inside r ∧ k ≠ 0 ∧ x.echoReg ≤ r ∧ r < x.echoReg + x.echoCnt)) ∧
        ∀ r l, l < 32 → (inside r → k ≠ 0 → t.w.v.get (r * 32 + l) = 0) ∧ (¬ inside r → t.w.v.get (r * 32 + l) = s.w.v.get (r * 32 + l)))

/-! Traps and the system instructions (15 R328-R348). -/

/-- A fault that goes to a handler (15 R328, R332): of a user-mode warp of a compute core, other than a PAGE at an access, with a handler for its code. The shadow copies keep the lanes, every lane that
has not exited runs at the handler, the trap registers hold the record, s63, filled before where a restore left it absent (15 R346), and TRAPSWAP are exchanged, and no other register, warp or byte of memory changes. Where
the handler's word, or the bytes of an absent s63, wait for a thermal hold (17 R372), the trap waits. In privileged mode, without a handler, or where s63 cannot be filled, the fault is fatal: every cohort of the task stops at once, and so
does each of its warps on a compute core; once the record is posted the task ends, and while the buffer takes no record it has not (19 R397). -/
def Obligations.TrapEntry : Prop :=
  (∀ (s : State) (x : FaultInfo) (h : W32) (w1 : Warp), s.w.onStackCore = false → s.w.priv = false → (x.code ≠ 0x07 ∨ x.defer = true) → s.handlerOf s.w x.code = some h →
     s.fillHeld s.w [703] = false → s.fillRegs s.w [703] = some w1 →
     let t := s.raise x
     RestKept s t ∧ t.w.priv = true ∧ t.w.tlpc = s.w.lpc ∧ t.w.tlstate = s.w.lstate ∧
       (∀ l < 32, if s.w.laneState l = 3 then t.w.laneState l = 3 ∧ t.w.lpc.get l = s.w.lpc.get l else t.w.laneState l = 0 ∧ t.w.lpc.get l = h) ∧
       fieldOf t.w.csr.trapinfo 7 0 = x.code.toNat ∧ fieldOf t.w.csr.trapinfo 12 8 = x.lane.toNat ∧ fieldOf t.w.csr.trapinfo 63 32 = x.offset.toNat ∧ fieldOf t.w.csr.trapaux 5 0 = x.cause.toNat ∧ t.w.csr.trapaddr = x.addr ∧
       fieldOf t.w.csr.traplanes 31 0 = x.xlanes.toNat ∧ fieldOf t.w.csr.traplanes 63 32 = x.flanes.toNat ∧
       t.w.csr.trapswap = w1.s.get 63 ∧ (∀ r, t.w.s.get r = if r = 63 then s.w.csr.trapswap else s.w.s.get r) ∧ t.w.v = s.w.v ∧ t.w.ops = s.w.ops ∧
       { t.w.csr with trapinfo := 0, trapaddr := 0, trapaux := 0, traplanes := 0, trapswap := 0, trapremote := 0 } =
         { s.w.csr with trapinfo := 0, trapaddr := 0, trapaux := 0, traplanes := 0, trapswap := 0, trapremote := 0 }) ∧
  (∀ (s : State) (x : FaultInfo), s.w.onStackCore = false → s.w.priv = false → (x.code ≠ 0x07 ∨ x.defer = true) → s.trapHeld s.w x.code = true →
     s.raise x = s.updW (fun w => { w with wait := .trap x })) ∧
  (∀ (s : State) (x : FaultInfo), s.w.onStackCore = false → (x.code ≠ 0x07 ∨ x.defer = true) →
     (s.w.priv = true ∨ (s.trapHeld s.w x.code = false ∧ (s.handlerOf s.w x.code = none ∨ s.fillRegs s.w [703] = none))) →
     let t := s.raise x
     (s.postsNow → (∀ w ∈ t.allWarps, w.onStackCore = false → ¬ (w.ctx = s.w.ctx ∧ w.taskId = s.w.taskId)) ∧
       (∀ c ∈ t.cohorts, ¬ (c.ctx = s.w.ctx ∧ c.task = s.w.taskId)) ∧ t.TaskOver s.w.ctx s.w.taskId) ∧
     ((∀ r ∈ s.h.records, r.posted.isSome = true) → s.h.fbOpen = false →
       ∃ y, s.FatalWaits t y ∧ (s.w.priv = true ∨ s.handlerOf s.w x.code = none → y = x)))

/-- What a privileged instruction, or an access to a control register that user mode may not reach, does in user mode (01 R33; 15 R329, R333): PRIVILEGE with no effect, before the
checks of role, slots and guards. That XLANES and FLANES of its record are every lane at the issue address is the model's choice (log entry 20). -/
def Obligations.PrivilegedInUserMode : Prop :=
  ∀ (i : Instr) (ent : OpEntry) (f : Fields) (s : State),
    opEntry i = some (ent, f) → (privileged i = true ∨ (i = .csrr f ∧ 0x100 ≤ f.mod.toNat) ∨ (i = .csrw f ∧ 5 ≤ f.mod.toNat)) →
    s.w.issuable = true → s.w.ops.all (fun o => o.pending s.w.cycle) = true → s.w.priv = false → s.w.onStackCore = false → i.wellFormed = true →
    (namedOf i f).any s.w.regMissing = false →
    exec i s = .next (s.raise (({ s.ctxOf i with g := s.w.lanesAt s.w.issuePc } : Ctx).info 0x02 0 (s.w.lanesAt s.w.issuePc) 0))

/-- The value that a write leaves in a control register (01 R34; 15 R333, R340): reserved bits zero, a reserved rounding mode or tile width kept, EXTBLK and WARPCFG and the
registers that only a trap writes unchanged, HORIZON never lower. -/
def csrAfter (n : Nat) (old x : W64) : W64 :=
  match n with
  | 0x000 => if x.toNat % 8 ≤ 4 then x &&& 0x1F else (x &&& 0x18) ||| (old &&& 7)
  | 0x001 => x &&& 0x1F
  | 0x002 => if x.toNat % 8 = 0 ∨ 5 < x.toNat % 8 then old else x &&& 7
  | 0x003 => x &&& 1
  | 0x004 => x &&& 0xFFFFFFFFFF
  | 0x010 => x &&& 0x80FF80FF80FF80FF
  | 0x013 => x
  | 0x014 => x &&& 0x7FFFFFFFFF0000
  | 0x020 => if old.toNat < x.toNat then x else old
  | 0x021 => x &&& 0x8000FF7F
  | 0x100 => x &&& 0x7FFFFFFFFFFF00
  | 0x105 => x
  | _ => old

/-- CSRR gives the register (15 R333, R340); CSRW, SET and CLR write A, the old value with A's bits, or the old value without them, as far as the register takes it; no
other control register and nothing else changes. -/
def Obligations.ControlRegisters : Prop :=
  (∀ (f : Fields) (s : State), let c := s.ctxOf (.csrr f)
    s.clear (.csrr f) = true → ∃ t, exec (.csrr f) s = .next t ∧ c.Went s t ∧ OnlyRegisters s t ∧ c.Holds s t f.d true false (fun _ => s.w.csrGet f.mod.toNat)) ∧
  (∀ (f : Fields) (s : State) (a : W64), let c := s.ctxOf (.csrw f)
    let n := f.mod.toNat
    let old := s.w.csrGet n
    let x := match f.sub.toNat with | 0 => a | 1 => old ||| a | _ => old &&& ~~~a
    s.clear (.csrw f) = true → c.uni64 s f.a = some a →
    ∃ t, exec (.csrw f) s = .next t ∧ c.Went s t ∧ RestKept s t ∧ WarpKept (s.updW (fun w => { w with csr := t.w.csr, tlstate := t.w.tlstate })) t ∧
      ∀ m, t.w.csrGet m = if m = n then csrAfter n old x else s.w.csrGet m)

/-- TRET in privileged mode (15 R334), with an s63 that is present (15 R346): the lanes get back the program counters and states that trap entry saved, except that lanes which have exited since stay exited; with SKIP
the lanes that had the fault and stand at its instruction pass over it; user mode; s63 and TRAPSWAP exchanged; no other register and nothing outside the warp
changes. -/
def Obligations.TrapReturn : Prop :=
  ∀ (f : Fields) (s : State), let c := s.ctxOf (.tret f)
    let off : W32 := BitVec.ofNat 32 (fieldOf s.w.csr.trapinfo 63 32)
    let after : W32 := off + BitVec.ofNat 32 (8 + 4 * fieldOf s.w.csr.trapaux 7 6)
    s.clear (.tret f) = true → s.w.absent.getLsbD 703 = false →
    ∃ t, exec (.tret f) s = .next t ∧ c.Spent s t ∧ RestKept s t ∧ t.w.priv = false ∧ t.w.csr = { s.w.csr with trapswap := s.w.s.get 63 } ∧
      (∀ r, t.w.s.get r = if r = 63 then s.w.csr.trapswap else s.w.s.get r) ∧ t.w.v = s.w.v ∧
      (∀ l < 32, t.w.lpc.get l =
        if f.sub = 1 ∧ s.w.csr.traplanes.getLsbD l = true ∧ s.w.tlpc.get l = off then after else s.w.tlpc.get l) ∧
      ∀ l < 32, t.w.laneState l = if s.w.laneState l = 3 then 3 else fieldOf s.w.tlstate (2 * l + 1) (2 * l)

/-- TLBINV, BANKCFG, KEYSET, KEYDESTROY, CTXSAVE and CTXLOAD where they may run (15 R339, R341-R348; 17 R353, R354). TLBINV drops the translations it names and no others, and the dirty bytes of accesses translated
before go out, each line in a message to its home. BANKCFG switches the banks it names, whose HEAD and TAIL are zero, and no byte of another bank changes. KEYSET gives a status of R342 and on success loads the slot under the next generation; R342 does not order the statuses, and their
precedence 3, 1, 2, 4, like the slot taken from bits 7:0 of B, is the model's choice (log entry 39). KEYDESTROY closes the
slot at once. CTXSAVE sends the frame's bytes to their homes; CTXLOAD of a frame that can be read and was saved for the same configuration takes the user's lanes, control registers and arrival states from it, its
registers absent until they are fetched, in user mode. -/
def Obligations.SystemEffects : Prop :=
  ((∀ (f : Fields) (s : State), let c := s.ctxOf (.tlbinv f)
     let va := (s.read64 f.a 0).toNat
     let hit (e : TlbEntry) : Bool := match f.sub.toNat with | 0 => coversVa s.w.ctx va e | 1 => e.ctx == s.w.ctx | _ => true
     s.clear (.tlbinv f) = true → s.m.linesOnce = true →
     ∃ t, exec (.tlbinv f) s = .next t ∧ c.Went s t ∧ WarpKept s t ∧ OnlyMemory s t ∧ HomesKept s t ∧ t.m.tlb = s.m.tlb.filter (fun e => !hit e) ∧
       (∀ x ∈ t.m.l1, (f.sub.toNat < 2 → x.ctx = s.w.ctx) → x.dirty = 0) ∧
       (∀ x ∈ s.m.l1, (f.sub.toNat < 2 → x.ctx = s.w.ctx) → x.dirty ≠ 0 →
         ∃ g ∈ t.m.msgs, g.cluster = x.cluster ∧ g.line = x.line ∧ ∃ pz cv ws mm, g.kind = .write x.data x.dirty pz cv ws mm) ∧
       (∃ o, t.w.ops.getLast? = some o ∧ o.parts = 0 ∧ o.ready = none ∧ o.opc = 0xF3 ∧ o.slot = slotOf f)) ∧
   (∀ (f : Fields) (s : State) (a b : W32) (k : Cohort), let c := s.ctxOf (.bankcfg f)
     let mode := b.toNat % 4
     let named (q : Nat) : Prop := ∃ j < 16, a.getLsbD j = true ∧ q = s.w.cl * 16 + k.banks.getD j 0
     s.clear (.bankcfg f) = true → c.uni32 s f.a = some a → c.uni32 s f.b = some b → s.cohortOf s.w.ref = some k → mode ≠ 3 →
     (∀ j < 16, a.getLsbD j = true → j < k.banks.length ∧ k.bankBusy j = false) →
     ∃ t, exec (.bankcfg f) s = .next t ∧ c.Went s t ∧ WarpKept s t ∧ OnlyMemory s t ∧
       (∀ q, (named q → (t.m.bankMode.get q).toNat = mode ∧ t.m.bankHead.get q = 0 ∧ t.m.bankTail.get q = 0) ∧ (¬ named q → t.m.bankMode.get q = s.m.bankMode.get q)) ∧
       (∀ q, ¬ named (q / 65536) → t.m.bankGet q = s.m.bankGet q) ∧ ∀ loc key, t.m.homeByte loc key = s.m.homeByte loc key) ∧
   (∀ (f : Fields) (s : State) (b : W32) (blob : List Byte), let c := s.ctxOf (.keyset f)
     let a := s.read64 f.a 0
     let k := b.toNat % 256
     let x : KeySlot := (s.m.keyOf k).getD ⟨k, false, none, 0, s.w.ctx, 0, []⟩
     let key? := s.h.session.bind (fun y => if numAt blob 12 4 = k then unwrapBlob y blob else none)
     let next := (x.gen + 1) % 2 ^ 15
     let status := if x.closing.isSome then 3 else if x.loaded then 1 else if key?.isNone then 2 else if x.stale.contains next then 4 else 0
     s.clear (.keyset f) = true → c.uni32 s f.b = some b → a.toNat % 64 = 0 → s.acquireBytes s.w a 96 = .ok (blob.map (fun b => (b, false))) → k ≠ 0 →
     ∃ t o, exec (.keyset f) s = .next t ∧ c.Went s t ∧ WarpKept s t ∧ OnlyMemory s t ∧ (∀ j, j ≠ k → t.m.keyOf j = s.m.keyOf j) ∧
       t.w.ops.getLast? = some o ∧ o.id = c.id ∧ o.dests = destOf f.d c.g ∧ o.parts = 0 ∧
       (∀ r l, f.d = .v r → c.g.getLsbD l = true → (r * 32 + l, BitVec.ofNat 32 status) ∈ o.vvals) ∧ (∀ r, f.d = .s r → (r, BitVec.ofNat 64 status) ∈ o.svals) ∧
       (status ≠ 0 → t.m = s.m) ∧
       (status = 0 → ∃ y, t.m.keyOf k = some y ∧ y.loaded = true ∧ y.closing = none ∧ y.gen = next ∧ y.ctx = s.w.ctx ∧ key? = some y.keys)) ∧
   (∀ (f : Fields) (s : State) (a : W32), let c := s.ctxOf (.keydestroy f)
     let k := a.toNat % 256
     s.clear (.keydestroy f) = true → c.uni32 s f.a = some a → k ≠ 0 →
     ∃ t, exec (.keydestroy f) s = .next t ∧ c.Went s t ∧ WarpKept s t ∧ OnlyMemory s t ∧ t.m = { s.m with keys := t.m.keys } ∧ t.m.keyLoaded k = false ∧
       (∀ j, j ≠ k → t.m.keyOf j = s.m.keyOf j) ∧ c.Outstanding t [] 0)) ∧
  ((∀ (f : Fields) (s : State) (ps : List (W64 × Put)), let c := s.ctxOf (.ctxsave f)
     let a := s.read64 f.a 0
     s.clear (.ctxsave f) = true → a.toNat % 4096 = 0 → s.w.ops = [] → s.w.absent = 0 → s.regionPuts a ((s.consumed (.ctxsave f)).w.frame0 s.f.grants true) = .ok ps →
     (∀ line ∈ putLines (ps.map Prod.snd), s.lineBusy line = false) →
     ∃ t, exec (.ctxsave f) s = .next t ∧ c.Went s t ∧ WarpKept s t ∧ HomesKept s t ∧ t = { s with fresh := t.fresh, w := t.w, m := t.m, t := { s.t with frames := t.t.frames } } ∧
       ∀ line ∈ putLines (ps.map Prod.snd), ∃ g ∈ t.m.msgs, g.op = c.id ∧ g.line = line ∧ ∃ pz cv ws mm,
         g.kind = .write (gatherBytes 128 1024 (putsIn line (ps.map Prod.snd))).1 (gatherBytes 128 1024 (putsIn line (ps.map Prod.snd))).2 pz cv ws mm) ∧
   (∀ (f : Fields) (s : State) (parts : List (List Byte)), let c := s.ctxOf (.ctxload f)
     let a := s.read64 f.a 0
     let b := parts.getD 0 []
     let w := s.w.fromFrame a parts [] []
     s.clear (.ctxload f) = true → a.toNat % 4096 = 0 → s.w.busy = false → s.frameRead s.w.id.core s.w.ctx a.toNat s.w.tiles = .ok parts →
     w.blocksHeld = s.w.blocksHeld → w.csr.warpcfg = s.w.csr.warpcfg →
     ∃ t, exec (.ctxload f) s = .next t ∧ RestKept s t ∧ t.w.priv = false ∧ (∀ l < 32, t.w.lpc.get l = BitVec.ofNat 32 (numAt b (4 * l) 4)) ∧
       t.w.lstate = BitVec.ofNat 64 (numAt b 0x100 8) ∧ (∀ l < 32, t.w.yaddr.get l = BitVec.ofNat 32 (numAt b (0x80 + 4 * l) 4)) ∧
       t.w.csr = { w.csr with horizon := BitVec.ofNat 64 (max w.csr.horizon.toNat s.w.csr.horizon.toNat) } ∧ t.w.absent = ofBits 704 s.w.heldCodes ∧ t.w.frame = a ∧
       t.w.blocksHeld = s.w.blocksHeld ∧ c.Spent s t))

/-! Events: what happens besides the issue of an instruction (log entry 2), on what each is defined for. -/

/-- Results and waits (01 R38, R41; 04 R123; 06 R189; 07 R204). RESULT_WRITE of a result whose replies have come and whose time has passed writes its values, and those
alone, counts its slot down and forgets it. SLEEP_WAKE ends a sleep whose time has come. FENCE_COMPLETE moves the lanes on once no write of the warp is on its way and, at D
and wider, TIME has reached HORIZON. WRITE_COMPLETION_RETURN raises HORIZON to the completion time. -/
def Obligations.MemoryReturns : Prop :=
  (∀ (s : State) (o : Op), s.w.live = true → s.w.findOp o.id = some o → o.parts = 0 → (∀ c, o.ready = some c → c ≤ s.w.cycle) → o.opc ≠ 0xF3 → o.opc ≠ 0xF6 →
    (o.vvals.map Prod.fst).Nodup → (o.svals.map Prod.fst).Nodup → (∀ p ∈ o.vvals, ∃ d ∈ o.dests, d.1 = p.1 / 32 ∧ d.2.getLsbD (p.1 % 32) = true) →
    (∀ p ∈ o.svals, ∃ d ∈ o.dests, d.1 = 640 + p.1) →
    ∃ t, exec (.resultWrite s.w.id o.id) s = .next t ∧ RestKept s t ∧ t.w.ops = s.w.ops.filter (fun x => x.id != o.id) ∧ t.w.lpc = s.w.lpc ∧ t.w.csr = s.w.csr ∧
      (∀ n, o.slot = some n → t.w.sb.get n = if s.w.sb.get n = 0 then 0 else s.w.sb.get n - 1) ∧
      (∀ p ∈ o.vvals, t.w.v.get p.1 = p.2) ∧ (∀ k, k ∉ o.vvals.map Prod.fst → t.w.v.get k = s.w.v.get k) ∧
      (∀ p ∈ o.svals, t.w.s.get p.1 = p.2) ∧ (∀ k, k ∉ o.svals.map Prod.fst → t.w.s.get k = s.w.s.get k)) ∧
  (∀ (s : State) (n : Nat), s.w.live = true → s.w.wait = .sleep n → n ≤ s.time →
    exec (.sleepWake s.w.id) s = .next (s.updW (fun w => { w with wait := .ready }))) ∧
  (∀ (s : State) (scope len : Nat) (g : Lanes), s.w.live = true → s.w.wait = .fence scope g len → s.writesPending s.w = false →
    (2 ≤ scope → s.w.csr.horizon.toNat ≤ s.time) → s.w.deferred = [] →
    ∃ t, exec (.fenceComplete s.w.id) s = .next t ∧ RestKept s t ∧ WarpKept (s.updW (fun w => { w with wait := .ready })) t ∧
      ∀ l < 32, t.w.lpc.get l = if g.getLsbD l then s.w.lpc.get l + BitVec.ofNat 32 len else s.w.lpc.get l) ∧
  (∀ (s : State) (a : Ack), s.w.live = true → s.m.acks.find? (fun x => x.id == a.id) = some a → a.warp = s.w.ref → a.warp.die ≠ 98 →
    ∃ t, exec (.writeCompletionReturn a.id) s = .next t ∧ t.m = { s.m with acks := s.m.acks.filter (fun x => x.id != a.id) } ∧
      t.w.csr.horizon = BitVec.ofNat 64 (max s.w.csr.horizon.toNat a.wct) ∧ t.w.v = s.w.v ∧ t.w.s = s.w.s ∧ t.w.lpc = s.w.lpc)

/-- Accesses at a home of device memory that nothing of its cluster precedes and no engine or sequence holds back (06 R194, R195; 07 R200-R207, R211; 17 R355-R357). LEASE_GRANT
gives a waiting load the bytes of its cluster's dirty line, of its cluster's writes to the line that are on their way, and else the home's; a line that may be kept is filled under a lease of the home's length, which doubles up to
4,096 ns. HOME_WRITE_APPLY puts the bytes of its mask at the home where L2 takes the line and sends the completion time to the writers, never before the leases have ended, and changes no other byte where L2 has room for the line. ATOMIC_APPLY puts the new
value there, and the old one is the result. HOST_ATOMIC_ATTEMPT does so in host memory, or tries again where the host wrote. An expired lease is no lease; a line that is evicted leaves its cache, its dirty bytes on their way, and from L2 its leases in the floor of its slice. -/
def Obligations.HomeEvents : Prop :=
  (∀ (s : State) (g : Msg) (ps : List Piece) (alloc : Bool), s.msgOf g.id = some g → (g.kind = .fill ps alloc ∨ (g.kind = .read ps ∧ alloc = false)) → s.behind g = false →
    g.line * 128 < hostBase → s.owned g.line = false → s.m.lacks g.line (if alloc || ps.isEmpty then BitVec.allOnes 128 else pieceMask ps) = false →
    ∃ t, exec (.leaseGrant g.id) s = .next t ∧ (∀ x ∈ t.m.msgs, x.id ≠ g.id) ∧ (∀ x ∈ s.m.msgs, x.id ≠ g.id → x ∈ t.m.msgs) ∧ t.m.dram = s.m.dram ∧ t.m.bank = s.m.bank ∧
      (∀ o, s.w.live = true → s.w.ref = g.warp → s.w.findOp g.op = some o → o.dests ≠ [] → (∀ d ∈ o.dests, d.1 < 640) → ps ≠ [] →
        ∃ (q : Op) (d : BitVec 1024), t.w.findOp g.op = some q ∧ (∀ j < 128, (pieceMask ps).getLsbD j = true → byteOf d j = s.m.seenByte g.cluster g.line g.key j) ∧
          q.vvals = o.vvals ++ ps.flatMap (fun p => (p.vals (numOf (bytesFrom d p.off p.size))).1)) ∧
      (alloc = true → s.m.hasL1 g.cluster = true → g.level < 2 → (∀ h ∈ s.m.msgs, h.id ≠ g.id → h.cluster ≠ g.cluster) →
        let x := s.m.l2Line g.line g.slice g.ctx g.key 0
        ∃ y z, t.m.l1Find g.cluster g.line = some y ∧ y.valid = BitVec.allOnes 128 ∧ y.leaseEnd = s.time + x.lambda ∧ t.m.l2Find g.line = some z ∧
          z.lambda = min 4096 (2 * x.lambda) ∧ s.time + x.lambda ≤ z.lastLease)) ∧
  (∀ (s : State) (cl line : Nat) (x : L1Line), s.m.l1Find cl line = some x → x.leaseEnd ≤ s.time →
    ∃ t, exec (.leaseExpiry cl line) s = .next t ∧ t = { s with m := { s.m with l1 := t.m.l1 } } ∧ t.m.l1Find cl line = some { x with leaseEnd := 0 } ∧
      ∀ c l, (c ≠ cl ∨ l ≠ line) → t.m.l1Find c l = s.m.l1Find c l) ∧
  (∀ (s : State) (g : Msg) (d : BitVec 1024) (mask pz : BitVec 128) (ws : List WRef), s.msgOf g.id = some g → g.kind = .write d mask pz none ws false → s.behind g = false →
    g.line * 128 < hostBase → s.owned g.line = false → s.e.seqs = [] → s.partner g = none → g.level < 2 →
    ∃ t, exec (.homeWriteApply g.id) s = .next t ∧ t.w = s.w ∧ t.m.msgs = s.m.msgs.filter (fun x => x.id != g.id) ∧
      (s.m.l2Takes s.time g.line g.slice = true → ∀ j < 128, mask.getLsbD j = true → ∀ key, t.m.homeByte (g.line * 128 + j) key = byteOf d j) ∧
      (s.m.l2Fits g.line g.slice = true → ∀ loc key, (lineOf loc ≠ g.line ∨ mask.getLsbD (loc % 128) = false) → t.m.homeByte loc key = s.m.homeByte loc key) ∧
      (∀ w ∈ ws, w ≠ WRef.none → ∃ a ∈ t.m.acks, a.warp = w ∧ s.time ≤ a.wct ∧ (s.m.l2Line g.line g.slice g.ctx g.key 0).lastLease ≤ a.wct)) ∧
  (∀ (s : State) (g : Msg) (o : AtomOp) (y : Nat), s.msgOf g.id = some g → g.kind = .atomic [o] → s.behind g = false → g.line * 128 < hostBase → s.owned g.line = false → g.level < 2 →
    s.e.seqs = [] → s.m.l1Find g.cluster g.line = none → o.off + o.size ≤ 128 → s.m.lacks g.line (ofBits 128 ((List.range o.size).map (o.off + ·))) = false →
    (∀ j < o.size, s.m.homePoison (g.line * 128 + o.off + j) = false) →
    let base := g.line * 128 + o.off
    let old := leNat (s.m.homeBytes base o.size g.key)
    ∃ t, exec (.atomicApply g.id) s = .next t ∧ t.m.msgs = s.m.msgs.filter (fun x => x.id != g.id) ∧
      (o.new old = some y → t.m.homeBytes base o.size g.key = leBytes o.size y) ∧
      (o.new old = none → t.m.homeBytes base o.size g.key = s.m.homeBytes base o.size g.key) ∧
      (∀ loc key, ¬ (base ≤ loc ∧ loc < base + o.size) → t.m.homeByte loc key = s.m.homeByte loc key) ∧
      (∀ q, s.w.live = true → s.w.ref = g.warp → s.w.findOp g.op = some q → ∃ q', t.w.findOp g.op = some q' ∧ q'.vvals = q.vvals ++ (o.piece.vals old).1)) ∧
  (∀ (s : State) (g : Msg) (o : AtomOp) (y : Nat), s.msgOf g.id = some g → g.kind = .atomic [o] → memKind (g.line * 128) = .host → g.key ≠ 1 → s.behind g = false →
    s.hostQueue g = false → o.direct = false → o.off + o.size ≤ 128 → s.m.blockPoison (g.line / 4) = false →
    o.new (leNat (s.m.homeBytes (g.line * 128 + o.off) o.size 0)) = some y →
    ∃ t u, exec (.hostAtomicAttempt g.id false) s = .next t ∧ exec (.hostAtomicAttempt g.id true) s = .next u ∧ (Config.rootPortCas = false → t = s ∧ u = s) ∧
      (Config.rootPortCas = true →
        t.msgOf g.id = none ∧ (∀ j < o.size, t.m.dram.get (g.line * 128 + o.off + j) = (leBytes o.size y).getD j 0) ∧
        u.m.dram = s.m.dram ∧ (g.tries < 63 → u.msgOf g.id = some { g with tries := g.tries + 1 }) ∧ (63 ≤ g.tries → u.msgOf g.id = none))) ∧
  (∀ (s : State) (cl line : Nat) (x : L1Line), s.m.linesOnce = true → s.m.l1Find cl line = some x → s.m.isVictim x = true →
    ∃ t, exec (.l1Eviction cl line) s = .next t ∧ t.w = s.w ∧ t.m.l1Find cl line = none ∧ (∀ c l, (c ≠ cl ∨ l ≠ line) → t.m.l1Find c l = s.m.l1Find c l) ∧
      (∀ loc key, t.m.homeByte loc key = s.m.homeByte loc key) ∧ (x.dirty = 0 → t.m.msgs = s.m.msgs) ∧
      (x.dirty ≠ 0 → ∃ g ∈ t.m.msgs, g.line = line ∧ g.cluster = cl ∧ ∃ pz cv ws mm, g.kind = .write x.data x.dirty pz cv ws mm)) ∧
  (∀ (s : State) (line : Nat) (x : L2Line), let f := s.m.floor x.slice
    s.m.l2Find line = some x → x.owner = none → s.m.reading line = false →
    (x.dirty = 0 ∨ (s.m.freeTag (unitOf (line * 128)) (locChannel (line * 128) % 32)).isSome = true) →
    ∃ t, exec (.l2Eviction line) s = .next t ∧ t.w = s.w ∧ t.m.l2Find line = none ∧ t.m.dram = s.m.dram ∧
      max f.till x.lastLease ≤ (t.m.floor x.slice).till ∧ x.widest s.time ≤ (t.m.floor x.slice).scope ∧ (s.time < f.till → f.scope ≤ (t.m.floor x.slice).scope) ∧
      (x.dirty ≠ 0 → ∃ p ∈ t.m.packets, p.isWrite = true ∧ p.data = lineData line x.data ∧ p.mask = lineMask line x.dirty))

/-- Requests at a base die whose turn it is, named by their unit and by 1,024 times their channel plus their tag (17 R362-R370; 03 R89). READ answers with the block's bytes; a write merges the bytes of its mask into the sector, which is then dirty, or, where
none is there and the access's hints allow none, puts the whole block into DRAM; SECTOR_WRITEBACK writes a dirty sector
that is not speculative to DRAM with its metadata; SEQUENCE_ROW and REFRESH_HOLD_RELEASE are acknowledged and change no byte. A read and a write leave DRAM as it is where the sector's set has room. STARVATION_BOUND serves a request that has waited 2
microseconds like any other. READ_REPLY fills the bytes its line lacks; WRITE_ACKNOWLEDGE ends the request. -/
def Obligations.PacketsServed : Prop :=
  (∀ (s : State) (n : Nat) (p : Packet), s.m.packet p.unit n = some p → s.m.turn s.time p = true → p.block * 512 + 512 ≤ hostBase →
    (p.type = 0 → ∃ t, exec (.readPacket p.unit n) s = .next t ∧ t.w = s.w ∧ (p.alloc = false ∨ s.m.sectorFits p.block → t.m.dram = s.m.dram) ∧
      t.m.packet p.unit n = some { p with type := 6, data := s.m.blockData p.block p.key, poison := s.m.blockPoison p.block } ∧
      (∀ i < 512, byteOf (s.m.blockData p.block p.key) i = s.m.storedByte (p.block * 512 + i) p.key)) ∧
    (∀ i, (p.type = 1 ∧ i = .fullWrite p.unit n) ∨ (p.type = 2 ∧ i = .maskedWrite p.unit n) →
      let merged (j : Nat) : Byte := if p.mask.getLsbD j then byteOf p.data j else s.m.storedByte (p.block * 512 + j) p.key
      ∃ t, exec i s = .next t ∧ t.w = s.w ∧ t.m.packet p.unit n = some { p with type := 7, data := 0, mask := 0 } ∧
        (p.alloc = true ∨ (s.m.sector p.block).isSome = true →
          (s.m.sectorFits p.block → t.m.dram = s.m.dram) ∧ ∃ y, t.m.sector p.block = some y ∧ y.dirty = true ∧ y.key = p.key ∧
            y.poison = (s.m.blockPoison p.block || p.poison) ∧ ∀ j < 512, byteOf y.data j = merged j) ∧
        (p.alloc = false → s.m.sector p.block = none →
          t.m.sector p.block = none ∧ t.m.blk p.block = ⟨p.block, p.key, s.m.keyGen p.key, s.m.blockPoison p.block || p.poison⟩ ∧
            (∀ j < 512, t.m.dram.get (p.block * 512 + j) = merged j) ∧ ∀ q, blockOf q ≠ p.block → t.m.dram.get q = s.m.dram.get q)) ∧
    (∀ x, p.type = 3 → s.m.sector p.block = some x → x.spec = none → x.dirty = true →
      ∃ t, exec (.sectorWriteback p.unit n) s = .next t ∧ t.w = s.w ∧ t.m.packet p.unit n = some { p with type := 7 } ∧
        t.m.sector p.block = some { x with dirty := false } ∧ t.m.blk p.block = ⟨p.block, x.key, x.gen, x.poison⟩ ∧
        (∀ j < 512, t.m.dram.get (p.block * 512 + j) = byteOf x.data j) ∧ (∀ q, blockOf q ≠ p.block → t.m.dram.get q = s.m.dram.get q)) ∧
    (∀ i, (p.type = 4 ∧ i = .sequenceRow p.unit n) ∨ (p.type = 5 ∧ i = .refreshHoldRelease p.unit n) →
      ∃ t, exec i s = .next t ∧ t.w = s.w ∧ t.m = { s.m with packets := t.m.packets, trace := t.m.trace } ∧ t.m.packet p.unit n = some { p with type := 7 }) ∧
    (p.flare = false → p.since + 2000 ≤ s.time →
      (p.type = 0 → exec (.starvationBound p.unit n) s = exec (.readPacket p.unit n) s) ∧
      (p.type = 1 → exec (.starvationBound p.unit n) s = exec (.fullWrite p.unit n) s) ∧
      (p.type = 2 → exec (.starvationBound p.unit n) s = exec (.maskedWrite p.unit n) s) ∧
      (p.type = 3 → exec (.starvationBound p.unit n) s = exec (.sectorWriteback p.unit n) s))) ∧
  (∀ (s : State) (n : Nat) (p : Packet) (x : L2Line), s.m.packet p.unit n = some p → p.type = 6 → s.m.l2Find p.line = some x →
    ∃ t y, exec (.readReply p.unit n) s = .next t ∧ t.w = s.w ∧ t.m.packet p.unit n = none ∧ t.m.l2Find p.line = some y ∧ y.valid = BitVec.allOnes 128 ∧
      y.dirty = x.dirty ∧ ∀ j < 128, byteOf y.data j = if x.valid.getLsbD j then byteOf x.data j else byteOf p.data (128 * (p.line % 4) + j)) ∧
  (∀ (s : State) (n : Nat) (p : Packet), s.m.packet p.unit n = some p → p.type = 7 →
    exec (.writeAcknowledge p.unit n) s =
      .next { s with m := { s.m with packets := s.m.packets.filter (fun q => !(q.unit == p.unit && q.channel == n / 1024 && q.tag == n % 1024)) } })

/-- Scrubbing, thermal holds, power and errors (17 R363, R365, R372, R373; 18 R390). SCRUB flags a block whose recorded generation is not its slot's. A stack that is too hot is held, and no longer once it
has cooled; a hold of 2 ms posts one event, and its end another. LUMEN_REPLENISH adds RATE to a pool, up to CAP; RATE_CHANGE leaves its level. An uncorrected error in a register marks it with POISON, in a bank it poisons
the word, in a cached line every valid byte; a TLB entry or a clean line with a bad tag is dropped; an uncorrectable block of DRAM is flagged and counted for its unit, and an uncorrectable chunk poisons its list (log entry
41 says that the model counts both as DOUBLE_ERROR). -/
def Obligations.Upkeep : Prop :=
  (∀ (s : State) (unit block : Nat), let x := s.m.blk block
    unitOf (block * 512) = unit → block * 512 < hostBase →
    ∃ t, exec (.scrub unit block) s = .next t ∧ t.w = s.w ∧ t.m.dram = s.m.dram ∧ t.m.blk block = (if x.gen = s.m.keyGen x.key then x else { x with poison := true }) ∧
      ∀ b, b ≠ block → t.m.blk b = s.m.blk b) ∧
  (∀ (s : State) (stack : Nat),
    ((∀ h ∈ s.m.holds, h.stack ≠ stack) → stack < 16 →
      exec (.criticalTemperatureAssert stack) s = .next { s with m := { s.m with holds := s.m.holds ++ [⟨stack, s.time, false⟩] } }) ∧
    (∀ h, s.m.holds.find? (fun h => h.stack == stack) = some h →
      (∃ t, exec (.criticalTemperatureClear stack) s = .next t ∧ t.w = s.w ∧ (s.m.later = [] → t.m.dram = s.m.dram) ∧ t.m.holds = s.m.holds.filter (fun x => x.stack != stack) ∧
        (h.posted = true ∨ h.since + 2000000 ≤ s.time → t.h.events.getLast? = some (eventWord s.time 2 (stack % 256))) ∧
        (h.posted = false → h.since + 2000000 ≤ s.time → t.h.events.dropLast.getLast? = some (eventWord s.time 1 (stack % 256))) ∧
        (h.posted = false → s.time < h.since + 2000000 → t.h.events = s.h.events ∧ (s.t.after = [] → t.h = s.h))) ∧
      (h.posted = false → h.since + 2000000 ≤ s.time →
        ∃ t, exec (.thermalHold stack) s = .next t ∧ t.w = s.w ∧ t.m = { s.m with holds := t.m.holds } ∧ (∀ x ∈ t.m.holds, x.stack = stack → x.posted = true) ∧
          t.h.events.getLast? = some (eventWord s.time 1 (stack % 256)) ∧ t.h.msix.getLsbD 65 = true))) ∧
  (∀ (s : State) (die : Nat) (p : Pool), s.e.pools.find? (fun p => p.die == die) = some p →
    (p.last + 1000 ≤ s.time → s.e.lumens = [] →
      ∃ t, exec (.lumenReplenish die) s = .next t ∧ t = { s with e := { s.e with pools := t.e.pools } } ∧
        t.pool die = { p with level := min p.cap (p.level + p.rate), last := p.last + 1000 }) ∧
    (∀ rate, ∃ t, exec (.rateChange die rate) s = .next t ∧ t = { s with e := { s.e with pools := t.e.pools } } ∧ t.pool die = { p with rate := rate })) ∧
  (∀ (s : State), s.w.live = true →
    let only (t : State) : Prop := t = { s with w := t.w, h := { s.h with ecc := t.h.ecc, events := t.h.events, evtOver := t.h.evtOver, msix := t.h.msix } }
    (∀ r, r < s.w.vcount → ∃ t, exec (.doubleError (.vector s.w.id r)) s = .next t ∧ only t ∧ t.w.v = s.w.v ∧
      ∃ k ∈ t.w.marks, k.reg = r ∧ k.lanes = BitVec.allOnes 32 ∧ k.info.code = 0x0A) ∧
    (∀ r, r < 64 → ∃ t, exec (.doubleError (.scalar s.w.id r)) s = .next t ∧ only t ∧ t.w.s = s.w.s ∧ ∃ k ∈ t.w.marks, k.reg = 640 + r ∧ k.info.code = 0x0A) ∧
    (∀ a row, a < s.w.tiles → row < 64 → ∃ t, exec (.doubleError (.accumulator s.w.id a row)) s = .next t ∧ only t ∧ t.w.acc = s.w.acc ∧
      (t.w.accPoison.get a).getLsbD row = true)) ∧
  (∀ (s : State) (cl bank word : Nat), bank < 16 → word < 8192 → s.m.bankMode.get (cl * 16 + bank) ≠ 0 →
    ∃ t, exec (.doubleError (.bankWord cl bank word)) s = .next t ∧ t = { s with m := { s.m with bankPoison := t.m.bankPoison }, h := t.h } ∧
      t.m.bankPoison.get ((cl * 16 + bank) * 8192 + word) = 1) ∧
  (∀ (s : State) (cl line : Nat) (x : L1Line), s.m.l1Find cl line = some x →
    (∃ t, exec (.doubleError (.l1Data cl line)) s = .next t ∧ t.w = s.w ∧ t.m.l1Find cl line = some { x with poison := x.valid, cover := none }) ∧
    (x.dirty = 0 → ∃ t, exec (.doubleError (.l1Tag cl line)) s = .next t ∧ t.w = s.w ∧ t.m.l1Find cl line = none)) ∧
  (∀ (s : State) (line : Nat) (x : L2Line), s.m.l2Find line = some x →
    (∃ t, exec (.doubleError (.l2Data line)) s = .next t ∧ t.w = s.w ∧ t.m.l2Find line = some { x with poison := x.valid }) ∧
    (x.dirty = 0 → ∃ t, exec (.doubleError (.l2Tag line)) s = .next t ∧ t.w = s.w ∧
      t.m.l2Find line = if x.owner = none then none else some { x with valid := 0, dirty := 0, poison := 0 })) ∧
  (∀ (s : State) (c : CoreId) (page : Nat), ∃ t, exec (.doubleError (.tlb c page)) s = .next t ∧ t.w = s.w ∧
    t.m.tlb = s.m.tlb.filter (fun e => !(e.core == c && e.base == page))) ∧
  (∀ (s : State) (b : Nat), b * 512 < hostBase → ∃ t, exec (.doubleError (.block b)) s = .next t ∧ t.w = s.w ∧ t.m.dram = s.m.dram ∧ (t.m.blk b).poison = true ∧
    t.h.ecc.get (unitOf (b * 512)) = s.h.ecc.get (unitOf (b * 512)) + 0x100000000) ∧
  (∀ (s : State) (ctx idx : Nat) (dir : Bool) (vertex : Nat) (e : GEntry), s.g.entry ctx idx = some e →
    ∃ t, exec (.doubleError (.chunk ctx idx dir vertex)) s = .next t ∧ t.w = s.w ∧ (t.g.list ctx idx dir vertex).bad = true)

/-! The scheduler (18 R375-R389). -/

/-- Hardware queues (18 R375-R377, R379, R381). QTAIL_WRITE takes a count within the ring, and disables the ring at one beyond it; QCFG_WRITE keeps LSIZE where a reserved one is written. Each packet
that is consumed moves the head on: a NOP does nothing more, a LAUNCH whose fields pass makes a task that is checking, a SIGNAL takes one from the counter of a waiting task, which is ready at 0 if
it is not held, a KILL ends a task that is not draining, a reserved type without a record address does nothing. The completion records (18 R379, R380), where nothing holds their write back: STATUS 3 of a task
that is killed while it has no cohort, STATUS 2 with the first reason of a LAUNCH whose packet fails by itself (log entry 42 says that such a packet is rejected when it is consumed), and with REASON 8 of a reserved type. -/
def Obligations.QueuePackets : Prop :=
  (∀ (s : State) (q : Nat) (v : W64), let x := s.queue q
    s.h.live = true → q < 64 →
    (∃ t, exec (.qtailWrite q v) s = .next t ∧ t = { s with t := { s.t with queues := t.t.queues } } ∧ (∀ p, p ≠ q → t.queue p = s.queue p) ∧
      (t.queue q).base = x.base ∧ (t.queue q).head = x.head ∧
      (if (v.setWidth 32 - x.head).toNat ≤ ringSize x.cfg then (t.queue q).tail = v.setWidth 32 ∧ (t.queue q).cfg = x.cfg
       else (t.queue q).tail = x.tail ∧ (t.queue q).cfg.getLsbD 16 = false)) ∧
    (∃ t, exec (.qcfgWrite q v) s = .next t ∧ t = { s with t := { s.t with queues := t.t.queues } } ∧ (∀ p, p ≠ q → t.queue p = s.queue p) ∧
      (if fieldOf v 3 0 ≤ 10 then (t.queue q).cfg = v &&& 0x1030F else fieldOf (t.queue q).cfg 3 0 = fieldOf x.cfg 3 0))) ∧
  (∀ (s : State) (q : Nat) (bs : List Byte), let type := numAt bs 0 1 % 16
    let ctx := pktCtx bs
    let id := pktTask bs
    let taken (t : State) : Prop :=
      t = { s with t := { s.t with queues := t.t.queues, lastQueue := s.t.lastQueue.set (fieldOf (s.queue q).cfg 9 8) q } } ∧ (t.queue q).head = (s.queue q).head + 1
    s.nextPacket q bs →
    (type = 0 → ∃ t, exec (.nopPacket q) s = .next t ∧ taken t) ∧
    (type = 1 → s.packetReasons bs = [] → ∃ t k, exec (.launchPacket q) s = .next t ∧ (t.queue q).head = (s.queue q).head + 1 ∧ t.m = s.m ∧
      t.t.tasks = s.t.tasks ++ [k] ∧ k.ctx = ctx ∧ k.id = id ∧ k.st = .checking ∧ k.record = pktRecord bs ∧ k.held = pktHeld bs ∧ k.queue = q ∧ k.cpl = pktCpl bs ∧ k.pending = []) ∧
    (type = 1 → s.packetReasons bs ≠ [] → s.recordHeld ctx (pktRecord bs) = false → ∃ t, exec (.launchPacket q) s = .next t ∧ (t.queue q).head = (s.queue q).head + 1 ∧ t.t.tasks = s.t.tasks ∧
      ∀ loc, s.RecordFits ctx (pktCpl bs) loc →
        t.RecordAt loc (completionBytes s.time id (firstReason (s.packetReasons bs ++ if ctx = 0 then [] else (s.readRecord ctx (pktRecord bs)).reasons)) 2 false) (pktIrq bs) q) ∧
    (∀ k, type = 2 → s.task ctx id = some k → k.st = .waiting → 0 < k.counter →
      ∃ t, exec (.signalPacket q) s = .next t ∧ (t.queue q).head = (s.queue q).head + 1 ∧ t.m = s.m ∧
        (if k.counter = 1 ∧ k.held = false then
          (∃ n, t.task ctx id = some { k with counter := 0, st := .ready, ready := n }) ∧ t.t.unplaced = s.t.unplaced ++ (List.range k.ncoh).map (fun c => ⟨c % 4, ctx, id, c⟩)
         else t.task ctx id = some { k with counter := k.counter - 1 } ∧ t.t.unplaced = s.t.unplaced)) ∧
    (∀ k, type = 3 → s.task ctx id = some k → k.st ≠ .checking → k.st ≠ .draining → k.st ≠ .ending →
      ∃ t, exec (.killPacket q) s = .next t ∧ (t.queue q).head = (s.queue q).head + 1 ∧ t.TaskOver ctx id ∧ (∀ c ∈ t.cohorts, ¬ (c.ctx = ctx ∧ c.task = id)) ∧
        (∀ u ∈ t.t.unplaced, ¬ (u.ctx = ctx ∧ u.task = id)) ∧
        ∀ loc, (∀ c ∈ s.cohorts, ¬ (c.ctx = ctx ∧ c.task = id)) → s.RecordFits ctx k.cpl loc → k.queue < 64 →
          t.task ctx id = none ∧ t.RecordAt loc (completionBytes s.time id 0 3 k.miss) k.irq k.queue) ∧
    (4 ≤ type → pktCpl bs = 0 → ∃ t, exec (.reservedPacketType q) s = .next t ∧ taken t) ∧
    (∀ loc, 4 ≤ type → s.RecordFits ctx (pktCpl bs) loc →
      ∃ t, exec (.reservedPacketType q) s = .next t ∧ (t.queue q).head = (s.queue q).head + 1 ∧ t.t.tasks = s.t.tasks ∧ t.w = s.w ∧
        t.RecordAt loc (completionBytes s.time id 8 2 false) (pktIrq bs) q))

/-- The life of a task (18 R378, R379, R381, R383, R384). TASK_CHECK_COMPLETE of a record without a fault makes the task wait with the record's fields, or ready at once where its counter is 0 and it is
not held; a record with a fault ends it, with a completion record of STATUS 2 and the first reason. COHORT_PLACEMENT puts the lowest unplaced cohort of the next task on the best cluster, its warps' lanes running at the entry, and the task runs. TASK_RETIRE asks for the
cleaning of the regions of every edge: in each cluster that the task ran on, every dirty line of a region goes out to its home, and its completion time, like those of the cluster's writes to the regions that are on their way, comes back to the
task. Once they have come and TIME has reached them, each edge takes one from the counter of its successor, which is ready at 0 if it is not held and takes the regions on; an edge whose successor is not live sets the record's EDGEMISS; the
completion record is written, and the task is gone. -/
def Obligations.TaskLife : Prop :=
  (∀ (s : State) (ctx task : Nat) (k : Task), let id : W32 := BitVec.ofNat 32 task
    let r := s.readRecord ctx k.record
    s.task ctx id = some k → k.st = .checking → k.pending = [] → s.recordHeld ctx k.record = false →
    (∀ raw g e, r.reasons = [] → r = ⟨some raw, some g, some e⟩ →
      ∃ t, exec (.taskCheckComplete ctx task) s = .next t ∧ t.m = s.m ∧
        (if recBits raw 0x18 63 32 = 0 ∧ k.held = false then
          (∃ n, t.task ctx id = some { k.fill raw g e with st := .ready, ready := n }) ∧
            t.t.unplaced = s.t.unplaced ++ (List.range (recBits raw 0x08 31 0)).map (fun c => ⟨c % 4, ctx, id, c⟩)
         else t.task ctx id = some { k.fill raw g e with st := .waiting })) ∧
    (r.reasons ≠ [] → ∃ t, exec (.taskCheckComplete ctx task) s = .next t ∧ t.task ctx id = none ∧
      ∀ loc, s.RecordFits ctx k.cpl loc → k.queue < 64 → t.RecordAt loc (completionBytes s.time id (firstReason r.reasons) 2 false) k.irq k.queue)) ∧
  (∀ (s : State) (die cl n : Nat) (k : Task), s.nextTask die = some (k, true) → s.bestCluster die k = some cl → lowest (s.ownedBy die k) = some n →
    (∀ x ∈ s.t.saved, x.die ≠ die) → s.regionsHeld die k.ctx k.inRegions = false →
    ∃ t c, exec (.cohortPlacement die) s = .next t ∧ t.cohorts = s.cohorts ++ [c] ∧ c.die = die ∧ c.cluster = cl ∧ c.ctx = k.ctx ∧ c.task = k.id ∧
      c.cohortId = BitVec.ofNat 32 n ∧ c.nwarps = k.nwarps ∧ c.banks.length = k.nbank ∧ c.away = false ∧ (t.task k.ctx k.id).map (·.st) = some .running ∧
      (∀ u ∈ t.t.unplaced, ¬ (u.die = die ∧ u.ctx = k.ctx ∧ u.task = k.id ∧ u.cohortId = n)) ∧
      ∀ i < k.warpBytes.length, ∃ w ∈ t.allWarps, w.ref = ⟨die, cl, c.cslot, i⟩ ∧ w.ctx = k.ctx ∧ w.csr.codebase = k.codebase ∧
        ∀ l < 32, w.laneState l = 0 ∧ w.lpc.get l = k.entry) ∧
  (∀ (s : State) (ctx task : Nat) (k : Task), let id : W32 := BitVec.ofNat 32 task
    let who := WRef.ofTask ctx id
    let named (cl line : Nat) : Bool := (s.regionRuns (cl / 48) ctx (k.edges.flatMap (·.regions))).any (fun r => r.has line)
    s.task ctx id = some k → k.st = .draining →
    (k.cleaned = false → (∀ cl ∈ k.ran, s.regionsHeld (cl / 48) ctx (k.edges.flatMap (·.regions)) = false) →
      ∃ t, exec (.taskRetire ctx task) s = .next t ∧ t.task ctx id = some { k with cleaned := true } ∧ t.w = s.w ∧ (∀ loc key, t.m.homeByte loc key = s.m.homeByte loc key) ∧
        (s.m.linesOnce = true → (∀ cl ∈ k.ran, cl < 192) → ∀ cl line x, s.m.l1Find cl line = some x →
          (cl ∈ k.ran → named cl line = true → x.dirty ≠ 0 →
            t.m.l1Find cl line = some { x with dirty := 0, dirtying := 0, cover := none } ∧
              ∃ g ∈ t.m.msgs, g.line = line ∧ g.cluster = cl ∧ ∃ pz cv ws, g.kind = .write x.data x.dirty pz cv ws false ∧ who ∈ ws) ∧
          (cl ∉ k.ran ∨ named cl line = false ∨ x.dirty = 0 → t.m.l1Find cl line = some x)) ∧
        ((∀ cl ∈ k.ran, cl < 192) → ∀ g ∈ s.m.msgs, ∀ d mask pz cv ws mm, g.kind = .write d mask pz cv ws mm → g.cluster ∈ k.ran → named g.cluster g.line = true →
          ∃ ws', ({ g with kind := .write d mask pz cv ws' mm } : Msg) ∈ t.m.msgs ∧ who ∈ ws')) ∧
    (∀ loc, k.cleaned = true → s.cleaning who = false → k.wct ≤ s.time → (∀ e ∈ k.edges, e.succ ≠ id) → ((k.edges.map (·.succ)).filter (· != 0xFFFFFFFF)).Nodup →
      s.RecordFits ctx k.cpl loc → k.queue < 64 →
      ∃ t, exec (.taskRetire ctx task) s = .next t ∧ t.task ctx id = none ∧ t.w = s.w ∧
        t.RecordAt loc (completionBytes s.time id 0 0 (k.miss || k.edges.any (fun e => e.succ != 0xFFFFFFFF && (s.task ctx e.succ).isNone))) k.irq k.queue ∧
        ∀ e ∈ k.edges, e.succ ≠ 0xFFFFFFFF → ∀ y, s.task ctx e.succ = some y → y.st = .waiting → 0 < y.counter →
          ∃ z, t.task ctx e.succ = some z ∧ z.counter = y.counter - 1 ∧ z.inRegions = y.inRegions ++ e.regions ∧
            z.st = if y.counter = 1 ∧ y.held = false then .ready else .waiting))

/-- The distributors and active sets (18 R385, R388, R389; 15 R344, R346). A distributor without work takes the upper half of the cohorts of the first victim that gives, or asks again 2 microseconds later. PREEMPTION for a class-3 task
that fits nowhere stops the lower cohorts of the victim cluster; a stopped cohort whose warps are quiet is saved, its area holding its regions and frames, where every register of its warps can be filled and every byte of the area written; else its task ends,
the fault's record being posted at once. COHORT_RESTORE of the cohort whose turn it is completes where its banks and frames can be read and no host answer waits to be delivered: the cohort is back on its cluster with its banks, each warp in the slot of the plan
with the lanes and mode of its frame, its registers absent until they are fetched, HORIZON no lower; where they cannot be read its task ends; with no cohort to restore, or while a read waits for a thermal hold, nothing changes. GRANULE_FILL makes
the absent registers of a granule present with the bytes of the frame. Active sets exchange two warps and change nothing that an instruction can see. -/
def Obligations.Distribution : Prop :=
  (∀ (s : State) (die : Nat), let v (i : Nat) : Nat := (die + i) % 4
    s.hungry die = true → (∀ p ∈ s.t.stealAt, p.1 ≠ die) →
    (∀ j k ids, 1 ≤ j → j ≤ 3 → (∀ i, 1 ≤ i → i < j → s.gift die (v i) = none) → s.gift die (v j) = some (k, ids) →
      ∃ t, exec (.stealRequest die) s = .next t ∧ t = { s with t := { s.t with unplaced := t.t.unplaced } } ∧
        t.t.unplaced = s.t.unplaced.map (fun u =>
          if u.die = v j ∧ u.ctx = k.ctx ∧ u.task = k.id ∧ ids.contains u.cohortId = true then { u with die := die } else u)) ∧
    (s.gift die (v 1) = none → s.gift die (v 2) = none → s.gift die (v 3) = none →
      exec (.stealRequest die) s = .next { s with t := { s.t with stealAt := s.t.stealAt ++ [(die, s.time + 2000)] } })) ∧
  (∀ (s : State) (die : Nat) (p : Nat × Nat), s.t.stealAt.find? (fun p => p.1 == die) = some p → p.2 ≤ s.time → s.hungry die = true →
    exec (.stealRetry die) s = exec (.stealRequest die) { s with t := { s.t with stealAt := s.t.stealAt.filter (fun p => p.1 != die) } }) ∧
  (∀ (s : State) (die cl : Nat) (k : Task), (∀ c ∈ s.cohorts, ¬ (c.die = die ∧ c.stopping = true ∧ c.away = false)) →
    earliest ((s.placeable die).filter (fun k => k.cls == 3 && (s.bestCluster die k).isNone && (s.victimCluster die k).isSome)) = some k → s.victimCluster die k = some cl →
    ∃ t, exec (.preemption die) s = .next t ∧ t = { s with cohorts := t.cohorts } ∧
      t.cohorts = s.cohorts.map (fun c => if c.die = die ∧ c.cluster = cl ∧ c.prio < 3 ∧ c.away = false then { c with stopping := true } else c)) ∧
  (∀ (s : State) (c : Cohort), let r : WRef := ⟨c.die, c.cluster, c.cslot, 0⟩
    s.cohorts.filter (fun x => x.die == c.die && x.stopping && !x.away) = [c] → s.cohortOf r = some c → (s.warpsOf c).all Warp.quiet = true →
    (∀ full u, (s.warpsOf c).mapM s.filled = some full → s.areaWritten c full = some u →
      ∃ t, exec (.preemption c.die) s = .next t ∧ t.cohortOf r = some { c with away := true, stopping := false } ∧ t.warpsOf c = [] ∧
        (∃ x ∈ t.t.saved, x.die = c.die ∧ x.cluster = c.cluster ∧ x.cslot = c.cslot ∧ x.cls = c.prio ∧ x.since = s.time ∧ x.warps = full) ∧
        ∀ loc key, t.m.homeByte loc key = u.m.homeByte loc key) ∧
    ((∀ full, (s.warpsOf c).mapM s.filled = some full → s.areaWritten c full = none) → (∀ w ∈ s.warpsOf c, w.ctx = c.ctx ∧ w.taskId = c.task) → s.postsNow →
      ∃ t, exec (.preemption c.die) s = .next t ∧ t.TaskOver c.ctx c.task ∧ ∀ y ∈ t.cohorts, ¬ (y.ctx = c.ctx ∧ y.task = c.task))) ∧
  (∀ (s : State) (die : Nat), s.nextRestore die = none → exec (.cohortRestore die) s = .next s) ∧
  (∀ (s : State) (die : Nat) (x : Saved) (c0 : Cohort) (plan : List (Nat × Nat)), let c := s.backOn c0
    let frame (w : Warp) : Except (TErr × Nat) (List (List Byte)) := s.frameRead (agentCore c.die) c.ctx (c.frameVa w.widx) w.tiles
    s.nextRestore die = some (x, c0, plan) →
    (s.areaHeld c0 x.warps = true → exec (.cohortRestore die) s = .next s) ∧
    (∀ u, s.areaHeld c0 x.warps = false → s.banksRead c = some u → (∀ p ∈ x.warps.zip plan, ∃ bs, frame p.1 = .ok bs) →
      (∀ w ∈ x.warps, w.live = true ∧ ∀ n, w.wait ≠ .page n 2) →
      ∃ t, exec (.cohortRestore die) s = .next t ∧ t.cohortOf ⟨c.die, c.cluster, c.cslot, 0⟩ = some c ∧ t.m = u.m ∧ t.h = s.h ∧ t.t.tasks = s.t.tasks ∧
        (∀ y ∈ t.t.saved, ¬ (y.die = c.die ∧ y.cluster = c.cluster ∧ y.cslot = c.cslot)) ∧
        (∀ w ∈ s.allWarps, w ∈ t.allWarps) ∧
        ∀ p ∈ x.warps.zip plan, ∀ bs, frame p.1 = .ok bs → ∃ w ∈ t.allWarps, w.ref = p.1.ref ∧ w.id = ⟨⟨c.die, c.cluster, p.2.1⟩, p.2.2⟩ ∧
          w.ctx = p.1.ctx ∧ w.taskId = p.1.taskId ∧ w.absent = ofBits 704 p.1.heldCodes ∧ p.1.csr.horizon.toNat ≤ w.csr.horizon.toNat ∧
          w.lstate = BitVec.ofNat 64 (numAt (bs.getD 0 []) 0x100 8) ∧ w.priv = (numAt (bs.getD 0 []) 0x10C 1 % 2 == 1) ∧
          ∀ l < 32, w.lpc.get l = BitVec.ofNat 32 (numAt (bs.getD 0 []) (4 * l) 4)) ∧
    (s.areaHeld c0 x.warps = false → (s.banksRead c = none ∨ ∃ p ∈ x.warps.zip plan, ∃ e, frame p.1 = .error e) →
      (∀ w ∈ x.warps, w.ctx = c0.ctx ∧ w.taskId = c0.task) → s.postsNow →
      ∃ t, exec (.cohortRestore die) s = .next t ∧ t.TaskOver c0.ctx c0.task ∧ ∀ y ∈ t.cohorts, ¬ (y.ctx = c0.ctx ∧ y.task = c0.task))) ∧
  (∀ (s : State) (r : Nat) (ps : List Phys), s.w.live = true → r < 640 → s.m.holding = false → s.w.absent = BitVec.ofNat 704 (2 ^ r) →
    s.m.places (agentCore s.w.id.core.die) s.w.ctx (s.w.frame.toNat + 0x2000 + 128 * r) 128 .read = .ok ps →
    ∃ t, exec (.granuleFill s.w.id (r / 8)) s = .next t ∧ RestKept s t ∧ t.w.absent = 0 ∧
      (∀ l < 32, t.w.v.get (r * 32 + l) = BitVec.ofNat 32 (numAt (s.m.placeBytes ps) (4 * l) 4)) ∧ (∀ k, k / 32 ≠ r → t.w.v.get k = s.w.v.get k) ∧ t.w.s = s.w.s) ∧
  (∀ (s : State) (i : Instr) (c : CoreId) (a b : Warp), let hide (w : Warp) : Warp := { w with active := false, activeSince := 0, outsideSince := 0, idleSince := 0 }
    ((i = .activeSetReplacement c ∧ s.pickWarp c (fun w => w.active && 64 ≤ w.idle && !s.readyNow w) Warp.idle = some a ∧
        s.pickWarp c (fun w => !w.active && s.readyNow w) (fun w => w.prio * 2 ^ 64 + w.outside) = some b) ∨
      (i = .activeSetRotation c ∧ s.pickWarp c (fun w => !w.active && 4096 ≤ w.outside && s.readyNow w) (fun w => w.prio * 2 ^ 64 + w.outside) = some b ∧
        s.pickWarp c (fun w => w.active && w.prio ≤ b.prio) (fun w => w.cycle - w.activeSince) = some a)) →
    ∃ t, exec i s = .next t ∧ t = { s with w := t.w, warps := t.warps } ∧ (t.w :: t.warps).map hide = (s.w :: s.warps).map hide ∧
      (t.findWarp b.id).map (·.active) = some true ∧ (a.id ≠ b.id → (t.findWarp a.id).map (·.active) = some false))

/-! The host (15 R331; 19 R394-R409). -/

/-- The host's answer to a posted PAGE record of the focus warp (15 R331). REPLAY lets the warp go on with its instruction; DELIVER, of a compute-core warp in user mode with a handler, enters the trap; KILL raises its fault as
fatal: every cohort of its task stops at once, and the task ends where the record can be posted at once (15 R328; 19 R397). The record is answered. -/
def Obligations.FaultAnswers : Prop :=
  ∀ (s : State) (rec a : Nat) (r : RecSt), s.h.pageRecord rec = some r → s.h.records.find? (fun x => x.num == r.num) = some r → r.who = some (.warp s.w.ref) →
    s.w.live = true → s.w.exited = false → s.w.wait = .page r.num a →
    (∃ t, exec (.faultAnswerReplay rec) s = .next t ∧ t.w = { s.w with wait := .ready } ∧ t.m = s.m ∧ t.h.records.find? (fun x => x.num == r.num) = some { r with answered := true }) ∧
    (∀ h, s.w.onStackCore = false → s.w.priv = false → s.handlerOf s.w r.info.code = some h → s.fillHeld s.w [703] = false → (s.fillRegs s.w [703]).isSome = true →
      ∃ t, exec (.faultAnswerDeliver rec) s = .next t ∧ t.w.wait = .ready ∧ t.w.priv = true ∧ t.w.tlpc = s.w.lpc ∧ t.w.v = s.w.v ∧ t.m = s.m ∧
        fieldOf t.w.csr.trapinfo 7 0 = r.info.code.toNat ∧ (∀ l < 32, s.w.laneState l ≠ 3 → t.w.laneState l = 0 ∧ t.w.lpc.get l = h) ∧
        t.h.records.find? (fun x => x.num == r.num) = some { r with answered := true }) ∧
    (∃ t, exec (.faultAnswerKill rec) s = .next t ∧ (s.postsNow → t.TaskOver s.w.ctx s.w.taskId) ∧
      ((∀ x ∈ s.h.records, x.posted.isSome = true) → s.h.fbOpen = false → s.FatalWaits t r.info))

/-- The registers of the host window of a device that is ready (19 R396-R398). FBTAIL, FBCFG and FBBASE take their values, and a record that waited is posted where the buffer now takes it, with vector 64 once it is written (that FBHEAD
rises when the record is sent is the model's choice: log entry 76); an invalidation drops the
translations it names and no others, and while one is in progress is only noted as lost; TLBSTAT and EVTPOP give what they hold and clear it; FBHEAD, the mailbox words, MBDOOR, CLHEAD, the error counts and a queue's head read what they
hold, and nothing but BOOTSTAT reads other than 0 before the device is ready; a register write keeps the bits of its register; CLTAIL is a count within the ring. -/
def Obligations.HostRegisters : Prop :=
  (∀ (s : State) (v : W64), s.h.live = true →
    ((∀ r ∈ s.h.records, r.posted.isSome = true) → exec (.fbtailWrite v) s = .next { s with h := { s.h with fbTail := v.setWidth 32 } } ∧
      exec (.fbcfgWrite v) s = .next { s with h := { s.h with fbCfg := v &&& 0x1000F } } ∧
      exec (.registerWrite 0x100 v) s = .next { s with h := { s.h with fbBase := v &&& 0xFFFFFFFFFF000 } }) ∧
    (∀ r i h', ((i = .fbtailWrite v ∧ h' = { s.h with fbTail := v.setWidth 32 }) ∨ (i = .fbcfgWrite v ∧ h' = { s.h with fbCfg := v &&& 0x1000F }) ∨
        (i = .registerWrite 0x100 v ∧ h' = { s.h with fbBase := v &&& 0xFFFFFFFFFF000 })) →
      s.h.records = [r] → r.posted = none → (∀ c k, r.who ≠ some (.fatal c k)) → h'.fbOpen = true →
      ∃ t, exec i s = .next t ∧ t.w = s.w ∧ t.h.records = [{ r with posted := some s.h.fbHead.toNat }] ∧ t.h.fbHead = s.h.fbHead + 1 ∧
        ∀ ps, barePlaces (fieldOf h'.fbBase 51 12 * 4096 + s.h.fbHead.toNat % h'.fbSize * 64) 64 = some ps →
          (∀ loc, s.WritesNow ps loc 64 → (∀ key, t.m.homeBytes loc 64 key = leBytes 64 r.bits.toNat) ∧ t.h.msix.getLsbD 64 = true) ∧
          (s.heldBack ps = true → t.h.msix = s.h.msix)) ∧
    (∀ i (drop : TlbEntry → Bool),
      ((i = .tlbcmdPage v ∧ drop = coversVa (fieldOf v 23 16) (fieldOf v 63 25 * 65536)) ∨ (i = .tlbcmdContext v ∧ drop = fun e => e.ctx == fieldOf v 23 16) ∨
        (i = .tlbcmdAll v ∧ drop = fun _ => true)) →
      (s.tlbBusy = false → ∃ t, exec i s = .next t ∧ t.w = s.w ∧ t.m.tlb = s.m.tlb.filter (fun e => !drop e) ∧ t.m.dram = s.m.dram ∧ t.h.tlbBusy.isSome = true) ∧
      (s.tlbBusy = true → exec i s = .next { s with h := { s.h with tlbLost := true } })) ∧
    exec .tlbstatRead s = .next { s with h := { s.h with readValue := (if s.tlbBusy then 1 else 0) + (if s.h.tlbLost then 2 else 0), tlbLost := false } } ∧
    (s.h.evtOver = true → exec .evtpopRead s = .next { s with h := { s.h with readValue := 0xFF, evtOver := false } }) ∧
    (s.h.evtOver = false → exec .evtpopRead s = .next { s with h := { s.h with readValue := s.h.events.headD 0, events := s.h.events.drop 1 } }) ∧
    (s.registerAt 0x110 = s.h.fbHead.setWidth 64 ∧ s.registerAt 0x480 = (if s.h.door then 1 else 0) ∧ s.registerAt 0x518 = s.h.clHead.setWidth 64 ∧
      (∀ i < 16, s.registerAt (0x400 + 8 * i) = s.h.mbox.get i) ∧ (∀ u < 18, s.registerAt (0x600 + 8 * u) = s.h.ecc.get u) ∧
      ∀ q < 64, s.registerAt (0x10000 + 64 * q + 24) = (s.queue q).head.setWidth 64) ∧
    exec (.registerWrite 0x500 v) s = .next { s with h := { s.h with clBase := v &&& 0x800FFFFFFFFFF000 } } ∧
    exec (.registerWrite 0x480 v) s = .next { s with h := { s.h with door := s.h.door || v.getLsbD 0 } } ∧
    (∀ i < 16, ∃ t, exec (.registerWrite (0x400 + 8 * i) v) s = .next t ∧ t = { s with h := { s.h with mbox := t.h.mbox } } ∧
      ∀ j, t.h.mbox.get j = if j = i then v else s.h.mbox.get j) ∧
    (∀ q < 64, ∃ t, exec (.registerWrite (0x10000 + 64 * q) v) s = .next t ∧ t = { s with t := { s.t with queues := t.t.queues } } ∧
      t.queue q = { s.queue q with base := v &&& 0x800FFFFFFFFFF000 } ∧ ∀ p, p ≠ q → t.queue p = s.queue p) ∧
    (∃ t, exec (.cltailWrite v) s = .next t ∧ t = { s with h := { s.h with clTail := t.h.clTail, clCfg := t.h.clCfg } } ∧
      (if (v.setWidth 32 - s.h.clHead).toNat ≤ ringSize s.h.clCfg then t.h.clTail = v.setWidth 32 ∧ t.h.clCfg = s.h.clCfg
       else t.h.clTail = s.h.clTail ∧ t.h.clCfg.getLsbD 16 = false))) ∧
  (∀ (s : State), fieldOf (s.registerAt 0) 15 8 = s.h.err.toNat ∧ (fieldOf (s.registerAt 0) 7 0 = 3 ↔ s.h.boot = .ready) ∧
    (s.h.live = false → ∀ off, off ≠ 0 → s.registerAt off = 0))

/-- The commands of the management mailbox (19 R399-R402; 10 R231; 15 R342, R343; 18 R390) with good arguments: each does its work and ends with result 0, vector 66 and MBDOOR clear; KEY_SESSION and KEY_LOAD
with the result that the keys give; an unknown command with result 4. No command changes a warp. A context that is created or destroyed has no graph, a graph that is destroyed no list. A report begins with the nonce and the hash of the image. The model's choices: a loaded slot answers KEY_LOAD with 1
before its blob is looked at (log entry 39), an address argument is a bare physical address (log entry 56), and a point off the curve gives KEY_SESSION result 1 (log entry 10). -/
def Obligations.MailboxCommands : Prop :=
  ∀ (s : State),
    (s.submitted = some 1 → 0 < s.arg 1 → s.arg 1 ≤ 255 → s.m.context (s.arg 1) = none →
      ∃ t x, exec .contextCreate s = .next t ∧ t.w = s.w ∧ t.mailboxAnswered 0 ∧ t.m = { s.m with contexts := s.m.contexts ++ [x] } ∧ x.num = s.arg 1 ∧ x.root = s.arg 2 ∧
        (∀ e ∈ t.g.entries, e.ctx ≠ s.arg 1) ∧ (∀ l ∈ t.g.lists, l.ctx ≠ s.arg 1) ∧ ∀ l ∈ t.g.shares, l.ctx ≠ s.arg 1) ∧
    (s.submitted = some 2 → s.arg 1 ≠ 0 → (s.m.context (s.arg 1)).isSome = true → (∀ k ∈ s.t.tasks, k.ctx ≠ s.arg 1) →
      (∀ k ∈ s.m.keys, k.ctx = s.arg 1 → k.loaded = false) →
      ∃ t, exec .contextDestroy s = .next t ∧ t.w = s.w ∧ t.mailboxAnswered 0 ∧ t.m.context (s.arg 1) = none ∧ t.m.tlb = s.m.tlb.filter (fun e => !(e.ctx == s.arg 1)) ∧
        (∀ e ∈ t.g.entries, e.ctx ≠ s.arg 1) ∧ (∀ l ∈ t.g.lists, l.ctx ≠ s.arg 1) ∧ ∀ l ∈ t.g.shares, l.ctx ≠ s.arg 1) ∧
    (∀ i gen, s.submitted = some 3 → (s.m.context (s.arg 1)).isSome = true → s.arg 2 ≠ 0 → s.arg 2 < 2 ^ 32 → s.arg 3 % 65536 = 0 → s.arg 4 % 65536 = 0 → s.arg 4 ≠ 0 →
      s.arg 3 + s.arg 4 ≤ 768 * 2 ^ 30 → s.g.freeEntry (s.arg 1) = some (i, gen) →
      ∃ t e, exec .graphCreate s = .next t ∧ t.w = s.w ∧ t.mailboxAnswered 0 ∧ t.m = s.m ∧ t.g.entry (s.arg 1) i = some e ∧ e.nv = s.arg 2 ∧ e.gen = gen + 1 ∧
        t.h.mbox.get 1 = BitVec.ofNat 64 ((gen + 1) * 2 ^ 32 + i)) ∧
    (∀ e, s.submitted = some 4 → s.graphOf (s.arg 1) (BitVec.ofNat 64 (s.arg 2)) = some e → (s.g.entries.map (fun e => (e.ctx, e.idx))).Nodup →
      (∀ l ∈ s.g.lists, l.ctx = s.arg 1 → l.idx = e.idx → l.opens = 0) → (∀ q ∈ s.g.msgs, ¬ (q.ctx = s.arg 1 ∧ q.idx = e.idx)) →
      (∀ q ∈ s.g.mirrors, ¬ (q.ctx = s.arg 1 ∧ q.idx = e.idx)) → (∀ q ∈ s.g.deaths, ¬ (q.ctx = s.arg 1 ∧ q.idx = e.idx)) →
      ∃ t, exec .graphDestroy s = .next t ∧ t.w = s.w ∧ t.mailboxAnswered 0 ∧ t.m = s.m ∧ t.g.entry (s.arg 1) e.idx = none ∧
        ∀ l ∈ t.g.lists, l ∈ s.g.lists ∧ ¬ (l.ctx = s.arg 1 ∧ l.idx = e.idx)) ∧
    (let point := (List.range 8).flatMap (fun i => leBytes 8 (s.arg (1 + i)))
     s.submitted = some 5 →
      ∃ t, exec .keySession s = .next t ∧ t.w = s.w ∧ t.m = s.m ∧ t.h.session = sessionKey point ∧ t.mailboxAnswered (if (sessionKey point).isSome then 0 else 1)) ∧
    (∀ blob x, s.submitted = some 6 → s.m.bareHeld (s.arg 2) 96 = false → s.m.bareRead (s.arg 2) 96 = some blob → 0 < s.arg 1 → s.arg 1 ≤ 255 → s.arg 2 % 64 = 0 →
      s.m.keyOf (s.arg 1) = some x → x.closing = none →
      let keys := s.h.session.bind (fun y => if numAt blob 12 4 = s.arg 1 then unwrapBlob y blob else none)
      ∃ t, exec .keyLoad s = .next t ∧ t.w = s.w ∧
        (x.loaded = true → t.mailboxAnswered 1 ∧ t.m = s.m) ∧
        (x.loaded = false → keys = none → t.mailboxAnswered 2 ∧ t.m = s.m) ∧
        (∀ k, x.loaded = false → keys = some k → x.stale.contains ((x.gen + 1) % 2 ^ 15) = false →
          t.mailboxAnswered 0 ∧ t.m.keyLoaded (s.arg 1) = true ∧ t.m.keyGen (s.arg 1) = (x.gen + 1) % 2 ^ 15 ∧ (t.m.keyOf (s.arg 1)).map (·.keys) = some k)) ∧
    (∀ x, s.submitted = some 7 → 0 < s.arg 1 → s.arg 1 ≤ 255 → s.m.keys = [x] → x.slot = s.arg 1 → x.loaded = true → x.closing = none → s.inFlight s.fresh = false →
      ∃ t, exec .keyDestroy s = .next t ∧ t.w = s.w ∧ t.mailboxAnswered 0 ∧ t.m.keyLoaded (s.arg 1) = false) ∧
    (∀ ps, s.submitted = some 8 → barePlaces (s.arg 5) 288 = some ps → (ps.map (·.loc)).Nodup → (∀ p ∈ ps, p.loc < hostBase ∧ (s.m.l2Find (lineOf p.loc)).isSome = true) →
      s.heldBack ps = false → s.e.seqs = [] →
      ∃ t, exec .attest s = .next t ∧ t.w = s.w ∧ t.mailboxAnswered 0 ∧
        ∀ j p, j < 64 → ps[j]? = some p → ∀ key, t.m.homeByte p.loc key =
          ((List.range 4).flatMap (fun i => leBytes 8 (s.arg (1 + i))) ++ sha256 s.h.image).getD j 0) ∧
    (∀ r, s.submitted = some 9 → s.m.bareHeld (s.arg 2) 256 = false → s.m.bareRead (s.arg 2) 256 = some r → s.arg 1 ≤ 255 →
      ∃ t, exec .domainCmd s = .next t ∧ t.w = s.w ∧ t.m = { s.m with devId := t.m.devId } ∧ t.mailboxAnswered 0 ∧ t.m.devId.toNat = s.arg 1 ∧ ∀ d < 256, t.h.route d = r.getD d 0) ∧
    (s.submitted = some 10 → s.arg 1 % 65536 = 0 → s.arg 2 % 65536 = 0 → s.arg 3 ≤ 255 → s.m.exports.length < 64 →
      ∃ t x, exec .exportRange s = .next t ∧ t.w = s.w ∧ t.m = { s.m with exports := s.m.exports ++ [x] } ∧ t.mailboxAnswered 0 ∧ x.base = s.arg 1 ∧ x.len = s.arg 2 ∧
        x.key = s.arg 3 ∧ ∀ d < 256, x.allow.getLsbD d = (s.h.mbox.get (4 + d / 64)).getLsbD (d % 64)) ∧
    (s.submitted = some 11 → 600 ≤ s.arg 1 → s.arg 1 ≤ 3600 →
      ∃ t, exec .setLimit s = .next t ∧ t.w = s.w ∧ t.m = s.m ∧ t.mailboxAnswered 0 ∧ t.h.limit = s.arg 1 ∧
        t.e.pools = s.e.pools.map (fun p => { p with rate := Config.lumenRate (s.arg 1) p.die })) ∧
    (∀ c, s.submitted = some c → (c = 0 ∨ 11 < c) → ∃ t, exec .mailboxUnknownCommand s = .next t ∧ t.w = s.w ∧ t.m = s.m ∧ t.mailboxAnswered 4)

/-- Accesses from outside and links (07 R200, R220; 17 R360; 19 R394, R398, R403-R405) on a device that is ready. A host write puts its bytes at their homes, and the scheduler notes its completion time; a host read gives the bytes, or
poison and none where a byte is poisoned, its block was last written under another key, or the address holds nothing. Another device is served where an export allows it, with the data, the completion time or the lease end in the
answer, and refused with no effect where none does; its call asks for a slot; its register write to a warp that is not there has status 3. TIME_SYNC within 40 ns changes nothing; beyond it, and after 100 microseconds without a route, the peer is
unreachable, with LINK_DOWN for the ports of its route that are down, and calls to it are lost. A link that comes up or is lost has its event, and a peer that no port reaches is noted. The model's choices: which ports have
LINK_DOWN when a peer becomes unreachable, and that a peer cut off for its TIME stays so through changes of ports (log entry 77); that the answer to another device is kept in State (log entry 56). -/
def Obligations.Outside : Prop :=
  (∀ (s : State) (pa loc : Nat) (data : List Byte) (ps : List Phys), s.h.live = true → barePlaces pa data.length = some ps → OneLine ps loc data.length → s.heldBack ps = false →
    s.e.seqs = [] →
    ∃ t, exec (.hostCxlMemWrite pa data) s = .next t ∧ t.w = s.w ∧ ((∀ p ∈ ps, s.m.l2Takes s.time (lineOf p.loc) p.slice = true) → ∀ key, t.m.homeBytes loc data.length key = data) ∧
      (data ≠ [] → s.time ≤ t.h.hostWct) ∧
      ((∀ p ∈ ps, s.m.l2Fits (lineOf p.loc) p.slice = true) → ∀ q key, ¬ (loc ≤ q ∧ q < loc + data.length) → t.m.homeByte q key = s.m.homeByte q key)) ∧
  (∀ (s : State) (pa len : Nat), s.h.live = true →
    (barePlaces pa len = none → exec (.hostCxlMemRead pa len) s = .next { s with h := { s.h with readPoison := true, readData := [] } }) ∧
    (∀ ps, let bad := ps.any (fun p => s.m.placePoison p || s.m.lastKey p.loc != 0)
      barePlaces pa len = some ps → s.heldRead ps = false →
      exec (.hostCxlMemRead pa len) s = .next { s with h := { s.h with readPoison := bad, readData := if bad then [] else ps.map (fun p => s.m.homeByte p.loc p.key) } })) ∧
  (∀ (s : State) (r : DomReq) (len : Nat) (data : List Byte) (ps : List Phys) (loc : Nat), s.h.live = true →
    let refused : State := { s with h := { s.h with readData := [], readPoison := false, readValue := 0, readRefused := true } }
    (r.kind = .load len → s.exported r len = none → exec (.domainRequest r) s = .next refused) ∧
    (r.kind = .load len → s.exported r len = some ps → s.heldRead ps = false →
      exec (.domainRequest r) s = .next { s with h := { s.h with
        readData := ps.map (fun p => s.m.homeByte p.loc p.key), readPoison := ps.any s.m.placePoison, readValue := 0, readRefused := false } }) ∧
    (r.kind = .store data → s.exported r data.length = some ps → OneLine ps loc data.length → s.heldBack ps = false → s.e.seqs = [] → data ≠ [] →
      ∃ t n, exec (.domainRequest r) s = .next t ∧ t.w = s.w ∧ t.h.readRefused = false ∧
        ((∀ p ∈ ps, s.m.l2Takes s.time (lineOf p.loc) p.slice = true) → ∀ key, t.m.homeBytes loc data.length key = data) ∧
        s.time ≤ n ∧ t.h.readValue = BitVec.ofNat 64 n) ∧
    (r.kind = .store data → s.exported r data.length = none → exec (.domainRequest r) s = .next refused) ∧
    (∀ p rest, r.kind = .lease → s.exported { r with pa := r.pa / 128 * 128 } 128 = some (p :: rest) → s.heldRead (p :: rest) = false →
      let x := s.m.l2Line (lineOf p.loc) p.slice 0 p.key 0
      ∃ t, exec (.domainRequest r) s = .next t ∧ t = { s with m := t.m, h := t.h } ∧ t.h.readRefused = false ∧ t.h.readValue = BitVec.ofNat 64 (s.time + x.lambda) ∧
        (s.m.l2Takes s.time (lineOf p.loc) p.slice = true →
          t.m.l2Find (lineOf p.loc) = some { x with lambda := min 4096 (2 * x.lambda), leaseM := max x.leaseM (s.time + x.lambda) })) ∧
    (∀ opc fn wide num c e, let n := if wide then 8 else 4
      let o : AtomOp := { lane := 0, off := 0, wide := wide, opc := opc, fn := fn, num := num, c := c, e := e, dest := none, va := 0 }
      r.kind = .atomic opc fn wide num c e → s.exported r n = some ps → OneLine ps loc n → s.heldBack ps = false → s.heldRead ps = false → s.e.seqs = [] → r.pa % n = 0 →
      (∀ p ∈ ps, s.m.placePoison p = false) →
      let old := ps.map (fun p => s.m.homeByte p.loc p.key)
      ∃ t, exec (.domainRequest r) s = .next t ∧ t.w = s.w ∧ t.h.readData = old ∧ t.h.readRefused = false ∧
        (∀ v, o.new (leNat old) = some v → (∀ p ∈ ps, s.m.l2Takes s.time (lineOf p.loc) p.slice = true) → ∀ key, t.m.homeBytes loc n key = leBytes n v) ∧
        (o.new (leNat old) = none → t.m = s.m)) ∧
    (∀ fields scalar reg lanes vals sval, r.kind = .rput fields scalar reg lanes vals sval → s.warpNow (capRef fields) = none →
      exec (.domainRequest r) s = .next { s with h := { s.h with readData := [], readPoison := false, readValue := 3, readRefused := false } }) ∧
    (∀ ctx unit target codebase entry horizon warpcfg task cohort widx echoes vecs scals,
      r.kind = .rcall ctx unit target codebase entry horizon warpcfg task cohort widx echoes vecs scals →
      (s.exported r 1 = none → exec (.domainRequest r) s = .next refused) ∧
      ((s.exported r 1).isSome = true →
        ∃ t c, exec (.domainRequest r) s = .next t ∧ t = { s with fresh := s.fresh + 1, f := { s.f with calls := s.f.calls ++ [c] } } ∧ c.st = .asking ∧ c.src = r.requester ∧
          c.unit = unit ∧ c.target = target ∧ c.entry = entry ∧ c.codebase = codebase ∧ c.vecs = vecs ∧ c.scals = scals ∧ c.echoCnt = echoes))) ∧
  (∀ (s : State) (peer offset : Nat),
    (offset ≤ 40 → exec (.timeSync peer offset) s = .next s) ∧
    (40 < offset → s.h.live = true → s.unreachable peer = false → peer ≠ s.m.devId.toNat →
      ∃ t, exec (.timeSync peer offset) s = .next t ∧ ∃ p ∈ t.h.peers, p.dev = peer ∧ p.unreachable = true ∧ p.skew = true)) ∧
  (∀ (s : State) (peer n : Nat), let p := s.h.peer peer
    s.h.live = true → peer < 256 → peer ≠ s.m.devId.toNat → p.unreachable = false → p.downSince = some n → n + 100000 ≤ s.time →
    ∃ t, exec (.peerUnreachable peer) s = .next t ∧ (∃ q ∈ t.h.peers, q.dev = peer ∧ q.unreachable = true) ∧
      (∀ port < 8, (s.h.route peer).getLsbD port = true → s.h.portsUp.getLsbD port = false → s.h.events.length ≤ 248 → eventWord s.time 3 port ∈ t.h.events) ∧
      ∀ c, s.f.calls = [c] → c.dev = peer → c.asks = false → c.lost = false → t.f.calls = [{ c with lost := true }]) ∧
  (∀ (s : State) (port : Nat), s.h.power = true → port < 8 →
    (s.h.portsUp.getLsbD port = false →
      ∃ t, exec (.linkUp port) s = .next t ∧ t = { s with h := t.h } ∧ t.h.events.getLast? = some (eventWord s.time 4 port) ∧
        ∀ j < 8, t.h.portsUp.getLsbD j = (s.h.portsUp.getLsbD j || j == port)) ∧
    (∃ t, exec (.portLinkLoss port) s = .next t ∧ t = { s with h := t.h } ∧ (∀ j < 8, t.h.portsUp.getLsbD j = (s.h.portsUp.getLsbD j && j != port)) ∧
      (s.h.portsUp.getLsbD port = true → t.h.events.getLast? = some (eventWord s.time 3 port)) ∧
      (∀ d < 256, d ≠ s.m.devId.toNat → t.h.routed d = false → ∃ p ∈ t.h.peers, p.dev = d ∧ p.downSince.isSome = true) ∧
      ∀ d p, d < 256 → d ≠ s.m.devId.toNat → s.h.peers.find? (fun x => x.dev == d) = some p → p.skew = true → p.unreachable = true →
        ∃ q ∈ t.h.peers, q.dev = d ∧ q.skew = true ∧ q.unreachable = true))

/-- The collective engine (07 R214, R215; 17 R360; 19 R406-R408). COLLECTIVE_START takes the next descriptor of its ring; one that breaks the map has status 3, a good one has its contributions' addresses, and the engine owns every line of the
destination, whose dirty bytes in L1s are written back first. A contribution of another device is kept as it comes, one of this device is what its memory holds; the last one makes the result, which is at its
destination on this device, poisoned in the blocks that draw on poison, the lines free again. The time limit ends a collective whose contributions have not all come, with status 2. COLLECTIVE_COMPLETION writes a result that had to wait; once the result's completion time
has passed it writes the record, raises vector 67 once the record is written, and frees the engine. The result is, element by element, the sum modulo 2^32, minimum or maximum of the integers, and for floats of two to four contributions the tree of roundings of 02 R71.
The model's choices: a descriptor that breaks the map has status 3 at once, a contribution of this device is read when it is taken, a result that was held is written at completion (log entry 40), the identity that pads the tree (log entry 66), and that a CPLADDR which is no
multiple of 16 gets no record (log entry 81). -/
def Obligations.CollectiveEngine : Prop :=
  let full (s t : State) (c1 : CollRun) (ps : List Phys) (loc : Nat) : Prop := ∃ d, t.w = s.w ∧ t.e.coll = some d ∧
    ((∀ b < c1.blocks, c1.bad b = false) → d.status = some 0 ∧
      ((∀ p ∈ ps, s.m.l2Takes s.time (lineOf p.loc) p.slice = true) → ∀ key, t.m.homeBytes loc c1.size key = c1.result)) ∧
    ((∀ b < c1.blocks, c1.bad b = true) → d.status = some 1 ∧ s.time ≤ d.wct ∧ ∀ p ∈ ps, t.m.placePoison p = true) ∧
    ∀ x ∈ t.m.l2, x.line = loc / 128 → x.owner ≠ some c1.id
  (∀ (s : State) (bs : List Byte) (c : CollRun), c = s.collOf bs → s.h.live = true → s.e.coll = none → s.h.clCfg.getLsbD 16 = true → s.h.clTail ≠ s.h.clHead →
    s.ringEntry s.h.clBase s.h.clCfg s.h.clHead = some bs → s.m.bareHeld (descBits bs 447 384) (16 * (descBits bs 15 8 + 1)) = false →
    c.npart = descBits bs 15 8 ∧ c.op = descBits bs 3 0 ∧ c.type = descBits bs 7 4 ∧ c.count = descBits bs 31 16 ∧ c.dst = descBits bs 127 64 ∧ c.cpl = descBits bs 255 192 ∧
      c.start = s.time ∧ c.contribs = [] ∧
    (descOk bs = false →
      c.status = some 3 ∧ exec .collectiveStart s = .next { s with fresh := s.fresh + 1, h := { s.h with clHead := s.h.clHead + 1 }, e := { s.e with coll := some c } }) ∧
    (∀ as ps, descOk bs = true → s.contribAddrs (descBits bs 447 384) (descBits bs 15 8 + 1) = some as → s.domainPlaces c.dst c.size = some ps →
      (∀ p ∈ ps, s.owned (lineOf p.loc) = false) → s.e.seqs = [] → s.m.linesOnce = true →
      c.status = none ∧ c.addrs = as ∧ ∃ t, exec .collectiveStart s = .next t ∧ t.h = { s.h with clHead := s.h.clHead + 1 } ∧ t.e = { s.e with coll := some c } ∧
        (∀ p ∈ ps, (p.loc < hostBase ∧ ∃ x, t.m.l2Find (lineOf p.loc) = some x ∧ x.owner = some c.id) ∨ (lineOf p.loc, c.id) ∈ t.m.farOwned) ∧
        ∀ p ∈ ps, ∀ x ∈ t.m.l1, x.line = lineOf p.loc → x.dirty = 0)) ∧
  (∀ (s : State) (c : CollRun) (j : Nat) (data : List Byte) (poison : List Bool), let dev := c.addrs.getD j 0 / 2 ^ 52
    s.e.coll = some c → c.status = none → j ≤ c.npart → (∀ x ∈ c.contribs, x.1 ≠ j) → s.time < c.start + c.timeout →
    ∀ got bad, ((dev ≠ s.m.devId.toNat ∧ s.unreachable dev = false ∧ got = padTo c.size data ∧ bad = poison) ∨
        (∃ qs, dev = s.m.devId.toNat ∧ s.domainPlaces (c.addrs.getD j 0) c.size = some qs ∧ (∀ p ∈ qs, s.m.byteHeld p.loc = false) ∧
          got = qs.map (fun p => s.m.homeByte p.loc p.key) ∧ bad = (List.range c.blocks).map (fun b => ((qs.drop (512 * b)).take 512).any s.m.placePoison))) →
      let c1 : CollRun := { c with contribs := c.contribs ++ [(j, got, bad)] }
      (c.contribs.length < c.npart → exec (.contributionArrival j data poison) s = .next { s with e := { s.e with coll := some c1 } }) ∧
      (∀ ps loc, c.contribs.length = c.npart → s.domainPlaces c.dst c.size = some ps → OneLine ps loc c.size → s.e.seqs = [] → 0 < c.size →
        ∃ t, exec (.contributionArrival j data poison) s = .next t ∧ full s t c1 ps loc)) ∧
  (∀ (s : State) (c : CollRun), s.e.coll = some c →
    (c.status = none → c.contribs.length ≤ c.npart → c.start + c.timeout ≤ s.time →
      ∃ t, exec .collectiveTimeout s = .next t ∧ t.w = s.w ∧ t.e = { s.e with coll := some { c with status := some 2, wct := 0 } } ∧
        ∀ loc key, t.m.homeByte loc key = s.m.homeByte loc key) ∧
    (c.npart < c.contribs.length → exec .collectiveTimeout s = .next s) ∧
    (∀ ps loc, c.status = none → c.npart < c.contribs.length → s.domainPlaces c.dst c.size = some ps → OneLine ps loc c.size → s.e.seqs = [] → 0 < c.size →
      ∃ t, exec .collectiveCompletion s = .next t ∧ full s t c ps loc) ∧
    (∀ st, c.status = some st → c.wct ≤ s.time → c.task = none →
      ∃ t, exec .collectiveCompletion s = .next t ∧ t.w = s.w ∧ t.e.coll = none ∧
        (c.cpl % 16 ≠ 0 → t.m = s.m ∧ (s.m.writing s.fresh = false → t.h.msix.getLsbD 67 = true)) ∧
        ∀ ps, c.cpl % 16 = 0 → barePlaces c.cpl 16 = some ps →
          (∀ loc, s.WritesNow ps loc 16 → t.RecordAt loc (leBytes 8 (st + 256 * c.npart) ++ leBytes 8 s.time) true 67) ∧
          (s.heldBack ps = true → t.h = s.h)) ∧
    (∀ st, c.status = some st → s.time < c.wct → exec .collectiveCompletion s = .next s)) ∧
  (∀ (c : CollRun) (i : Nat), i < c.count →
    let n := if c.type = 1 then 2 else 4
    let a (j : Nat) : Nat := leNat ((((c.contribs.find? (fun x => x.1 == j)).elim [] (fun x => x.2.1)).drop (n * i)).take n)
    let r : Nat := leNat ((c.result.drop (n * i)).take n)
    (2 ≤ c.type → c.op = 0 → r = ((List.range (c.npart + 1)).map a).sum % 2 ^ 32) ∧
    (2 ≤ c.type → 1 ≤ c.op → c.op ≤ 2 → let val (x : Nat) : Int := if c.type = 2 then (BitVec.ofNat 32 x).toInt else x
      (∃ j ≤ c.npart, r = a j) ∧ ∀ j ≤ c.npart, if c.op = 1 then val r ≤ val (a j) else val (a j) ≤ val r) ∧
    (c.type ≤ 1 → c.op ≤ 2 →
      let t := if c.type = 0 then f32 else bf16
      let f (x y : Nat) : Nat := if c.op = 0 then (addF t FpMode.plain (t.val x) (t.val y)).1 else (minMaxF t FpMode.plain (c.op == 2) false (t.val x) (t.val y)).1
      let neutral := if c.op = 0 then t.signBit else if c.op = 1 then t.infCode else t.signBit + t.infCode
      (c.npart = 1 → r = f (a 0) (a 1)) ∧ (c.npart = 2 → r = f (f (a 0) (a 1)) (f (a 2) neutral)) ∧ (c.npart = 3 → r = f (f (a 0) (a 1)) (f (a 2) (a 3)))))

/-- Boot, power and resets (00 R3; 19 R396, R400, R409). POWER_UP, POWER_OFF and each reset leave nothing but host memory, with boot waiting; the links train at power-up, are lost at power-off and stay as they are over a reset. BOOTGO starts the check of an
image of at most 64 MiB, and is error 1 beyond. BOOT_VERIFY_COMPLETE starts the image where the ROM finds no fault in its header, its key and its signature, or gives that error, from 2 to 4, and clears the staging window.
FIRMWARE_INIT_COMPLETE makes the device ready: slot 0 loaded, device memory zero, every pool full, no error counted. The model's choices: BOOTGO judges the full 64-bit
length (log entry 55); all eight ports are up after power-up (log entry 1), and over a reset, where R409 says that links may stay up, they do (log entries 69 and 1); the header and the message of an image (log entry 10). -/
def Obligations.BootAndPower : Prop :=
  (∀ (s : State) (i : Instr),
    ((i = .powerUp ∧ s.h.power = false) ∨ ((i = .cxlReset ∨ i = .functionLevelReset ∨ i = .hotReset ∨ i = .d3cold) ∧ s.h.power = true)) →
    ∃ t, exec i s = .next t ∧ t.Lost ∧ t.h.power = true ∧ t.h.portsUp = (if i = .powerUp then 0xFF else s.h.portsUp) ∧ ∀ q, hostBase ≤ q → t.m.dram.get q = s.m.dram.get q) ∧
  (∀ (s : State), ∃ t, exec .powerOff s = .next t ∧ t.Lost ∧ t.h.power = false ∧ t.h.portsUp = 0 ∧ ∀ q, hostBase ≤ q → t.m.dram.get q = s.m.dram.get q) ∧
  (∀ (s : State) (v : W64), s.h.power = true → s.h.boot = .waiting →
    exec (.bootgo v) s = .next { s with h :=
      (if 2 ^ 26 < v.toNat then { s.h with boot := .waiting, err := 1, staging := [] } else { s.h with boot := .verifying, err := 0, imageLen := v.toNat }) }) ∧
  (∀ (s : State), s.h.boot = .verifying → let image := s.h.staging.bytes 0 s.h.imageLen
    ∃ t, exec .bootVerifyComplete s = .next t ∧ t = { s with h := t.h } ∧
      (imageError image = 0 → t.h.boot = .initialising ∧ t.h.image = image) ∧
      (imageError image ≠ 0 → t.h.boot = .waiting ∧ t.h.err.toNat = imageError image ∧ 2 ≤ t.h.err.toNat ∧ t.h.err.toNat ≤ 4 ∧ t.h.staging = [])) ∧
  (∀ (image : List Byte), (Config.imageHeader image = none → imageError image = 2) ∧
    ∀ key sig len, Config.imageHeader image = some (key, sig, len) →
      ((∀ i < 4, sha256 key = Config.vendorHash i → Config.vendorRevoked i = true) → imageError image = 3) ∧
      ((∃ i < 4, sha256 key = Config.vendorHash i ∧ Config.vendorRevoked i = false) →
        imageError image = if ecdsaGood (pointOf key) (image.drop len) sig then 0 else 4)) ∧
  (∀ (s : State), s.h.boot = .initialising →
    ∃ t, exec .firmwareInitComplete s = .next t ∧ t.h = { s.h with boot := .ready, ecc := [] } ∧ t.m.keyLoaded 0 = true ∧ (∀ k, k ≠ 0 → t.m.keyLoaded k = false) ∧
      (∀ q, q < hostBase → t.m.homeByte q 0 = 0) ∧ (∀ q, hostBase ≤ q → t.m.dram.get q = s.m.dram.get q) ∧ ∀ d < 4, (t.pool d).level = (t.pool d).cap ∧ (t.pool d).cap = Config.lumenCap d)
end

