-- ==== Sys2Proof/Laws/State.lean ====
section
/-!
SUPPORT. One lemma per field and update of a warp or of the state, each true by unfolding, so that no proof about an instruction has to
unfold a record update.
-/
namespace Sys2Proof.Machine

variable (s : State) (w : Warp)

@[simp] theorem State.updW_tick (g : Warp → Warp) : (s.updW g).tick = s.tick := rfl
@[simp] theorem State.updW_fresh (g : Warp → Warp) : (s.updW g).fresh = s.fresh := rfl
@[simp] theorem State.updW_time (g : Warp → Warp) : (s.updW g).time = s.time := rfl
@[simp] theorem State.updW_agenda (g : Warp → Warp) : (s.updW g).agenda = s.agenda := rfl
@[simp] theorem State.updW_w (g : Warp → Warp) : (s.updW g).w = g s.w := rfl
@[simp] theorem State.updW_warps (g : Warp → Warp) : (s.updW g).warps = s.warps := rfl
@[simp] theorem State.updW_cohorts (g : Warp → Warp) : (s.updW g).cohorts = s.cohorts := rfl
@[simp] theorem State.updW_cores (g : Warp → Warp) : (s.updW g).cores = s.cores := rfl
@[simp] theorem State.updW_alone (g : Warp → Warp) : (s.updW g).alone = s.alone := rfl
@[simp] theorem State.updW_m (g : Warp → Warp) : (s.updW g).m = s.m := rfl
@[simp] theorem State.updW_e (g : Warp → Warp) : (s.updW g).e = s.e := rfl
@[simp] theorem State.updW_f (g : Warp → Warp) : (s.updW g).f = s.f := rfl
@[simp] theorem State.updW_g (g : Warp → Warp) : (s.updW g).g = s.g := rfl
@[simp] theorem State.updW_t (g : Warp → Warp) : (s.updW g).t = s.t := rfl
@[simp] theorem State.updW_h (g : Warp → Warp) : (s.updW g).h = s.h := rfl
@[simp] theorem State.updM_tick (g : MemSys → MemSys) : (s.updM g).tick = s.tick := rfl
@[simp] theorem State.updM_fresh (g : MemSys → MemSys) : (s.updM g).fresh = s.fresh := rfl
@[simp] theorem State.updM_time (g : MemSys → MemSys) : (s.updM g).time = s.time := rfl
@[simp] theorem State.updM_agenda (g : MemSys → MemSys) : (s.updM g).agenda = s.agenda := rfl
@[simp] theorem State.updM_w (g : MemSys → MemSys) : (s.updM g).w = s.w := rfl
@[simp] theorem State.updM_warps (g : MemSys → MemSys) : (s.updM g).warps = s.warps := rfl
@[simp] theorem State.updM_cohorts (g : MemSys → MemSys) : (s.updM g).cohorts = s.cohorts := rfl
@[simp] theorem State.updM_cores (g : MemSys → MemSys) : (s.updM g).cores = s.cores := rfl
@[simp] theorem State.updM_alone (g : MemSys → MemSys) : (s.updM g).alone = s.alone := rfl
@[simp] theorem State.updM_m (g : MemSys → MemSys) : (s.updM g).m = g s.m := rfl
@[simp] theorem State.updM_e (g : MemSys → MemSys) : (s.updM g).e = s.e := rfl
@[simp] theorem State.updM_f (g : MemSys → MemSys) : (s.updM g).f = s.f := rfl
@[simp] theorem State.updM_g (g : MemSys → MemSys) : (s.updM g).g = s.g := rfl
@[simp] theorem State.updM_t (g : MemSys → MemSys) : (s.updM g).t = s.t := rfl
@[simp] theorem State.updM_h (g : MemSys → MemSys) : (s.updM g).h = s.h := rfl
@[simp] theorem State.held_tick : s.held.tick = s.tick := rfl
@[simp] theorem State.held_fresh : s.held.fresh = s.fresh := rfl
@[simp] theorem State.held_time : s.held.time = s.time := rfl
@[simp] theorem State.held_agenda : s.held.agenda = s.agenda := rfl
@[simp] theorem State.held_warps : s.held.warps = s.warps := rfl
@[simp] theorem State.held_cohorts : s.held.cohorts = s.cohorts := rfl
@[simp] theorem State.held_cores : s.held.cores = s.cores := rfl
@[simp] theorem State.held_alone : s.held.alone = s.alone := rfl
@[simp] theorem State.held_m : s.held.m = s.m := rfl
@[simp] theorem State.held_e : s.held.e = s.e := rfl
@[simp] theorem State.held_f : s.held.f = s.f := rfl
@[simp] theorem State.held_g : s.held.g = s.g := rfl
@[simp] theorem State.held_t : s.held.t = s.t := rfl
@[simp] theorem State.held_h : s.held.h = s.h := rfl
@[simp] theorem State.setList_tick (x : GList) : (s.setList x).tick = s.tick := rfl
@[simp] theorem State.setList_fresh (x : GList) : (s.setList x).fresh = s.fresh := rfl
@[simp] theorem State.setList_time (x : GList) : (s.setList x).time = s.time := rfl
@[simp] theorem State.setList_agenda (x : GList) : (s.setList x).agenda = s.agenda := rfl
@[simp] theorem State.setList_w (x : GList) : (s.setList x).w = s.w := rfl
@[simp] theorem State.setList_warps (x : GList) : (s.setList x).warps = s.warps := rfl
@[simp] theorem State.setList_cohorts (x : GList) : (s.setList x).cohorts = s.cohorts := rfl
@[simp] theorem State.setList_cores (x : GList) : (s.setList x).cores = s.cores := rfl
@[simp] theorem State.setList_alone (x : GList) : (s.setList x).alone = s.alone := rfl
@[simp] theorem State.setList_m (x : GList) : (s.setList x).m = s.m := rfl
@[simp] theorem State.setList_e (x : GList) : (s.setList x).e = s.e := rfl
@[simp] theorem State.setList_f (x : GList) : (s.setList x).f = s.f := rfl
@[simp] theorem State.setList_t (x : GList) : (s.setList x).t = s.t := rfl
@[simp] theorem State.setList_h (x : GList) : (s.setList x).h = s.h := rfl
@[simp] theorem State.updTask_tick (c : Nat) (i : W32) (g : Task → Task) : (s.updTask c i g).tick = s.tick := rfl
@[simp] theorem State.updTask_fresh (c : Nat) (i : W32) (g : Task → Task) : (s.updTask c i g).fresh = s.fresh := rfl
@[simp] theorem State.updTask_time (c : Nat) (i : W32) (g : Task → Task) : (s.updTask c i g).time = s.time := rfl
@[simp] theorem State.updTask_agenda (c : Nat) (i : W32) (g : Task → Task) : (s.updTask c i g).agenda = s.agenda := rfl
@[simp] theorem State.updTask_w (c : Nat) (i : W32) (g : Task → Task) : (s.updTask c i g).w = s.w := rfl
@[simp] theorem State.updTask_warps (c : Nat) (i : W32) (g : Task → Task) : (s.updTask c i g).warps = s.warps := rfl
@[simp] theorem State.updTask_cohorts (c : Nat) (i : W32) (g : Task → Task) : (s.updTask c i g).cohorts = s.cohorts := rfl
@[simp] theorem State.updTask_cores (c : Nat) (i : W32) (g : Task → Task) : (s.updTask c i g).cores = s.cores := rfl
@[simp] theorem State.updTask_alone (c : Nat) (i : W32) (g : Task → Task) : (s.updTask c i g).alone = s.alone := rfl
@[simp] theorem State.updTask_m (c : Nat) (i : W32) (g : Task → Task) : (s.updTask c i g).m = s.m := rfl
@[simp] theorem State.updTask_e (c : Nat) (i : W32) (g : Task → Task) : (s.updTask c i g).e = s.e := rfl
@[simp] theorem State.updTask_f (c : Nat) (i : W32) (g : Task → Task) : (s.updTask c i g).f = s.f := rfl
@[simp] theorem State.updTask_g (c : Nat) (i : W32) (g : Task → Task) : (s.updTask c i g).g = s.g := rfl
@[simp] theorem State.updTask_h (c : Nat) (i : W32) (g : Task → Task) : (s.updTask c i g).h = s.h := rfl
@[simp] theorem State.setQueue_tick (x : HwQueue) : (s.setQueue x).tick = s.tick := rfl
@[simp] theorem State.setQueue_fresh (x : HwQueue) : (s.setQueue x).fresh = s.fresh := rfl
@[simp] theorem State.setQueue_time (x : HwQueue) : (s.setQueue x).time = s.time := rfl
@[simp] theorem State.setQueue_agenda (x : HwQueue) : (s.setQueue x).agenda = s.agenda := rfl
@[simp] theorem State.setQueue_w (x : HwQueue) : (s.setQueue x).w = s.w := rfl
@[simp] theorem State.setQueue_warps (x : HwQueue) : (s.setQueue x).warps = s.warps := rfl
@[simp] theorem State.setQueue_cohorts (x : HwQueue) : (s.setQueue x).cohorts = s.cohorts := rfl
@[simp] theorem State.setQueue_cores (x : HwQueue) : (s.setQueue x).cores = s.cores := rfl
@[simp] theorem State.setQueue_alone (x : HwQueue) : (s.setQueue x).alone = s.alone := rfl
@[simp] theorem State.setQueue_m (x : HwQueue) : (s.setQueue x).m = s.m := rfl
@[simp] theorem State.setQueue_e (x : HwQueue) : (s.setQueue x).e = s.e := rfl
@[simp] theorem State.setQueue_f (x : HwQueue) : (s.setQueue x).f = s.f := rfl
@[simp] theorem State.setQueue_g (x : HwQueue) : (s.setQueue x).g = s.g := rfl
@[simp] theorem State.setQueue_h (x : HwQueue) : (s.setQueue x).h = s.h := rfl
@[simp] theorem State.updCall_tick (k : Nat) (g : Call → Call) : (s.updCall k g).tick = s.tick := rfl
@[simp] theorem State.updCall_fresh (k : Nat) (g : Call → Call) : (s.updCall k g).fresh = s.fresh := rfl
@[simp] theorem State.updCall_time (k : Nat) (g : Call → Call) : (s.updCall k g).time = s.time := rfl
@[simp] theorem State.updCall_agenda (k : Nat) (g : Call → Call) : (s.updCall k g).agenda = s.agenda := rfl
@[simp] theorem State.updCall_w (k : Nat) (g : Call → Call) : (s.updCall k g).w = s.w := rfl
@[simp] theorem State.updCall_warps (k : Nat) (g : Call → Call) : (s.updCall k g).warps = s.warps := rfl
@[simp] theorem State.updCall_cohorts (k : Nat) (g : Call → Call) : (s.updCall k g).cohorts = s.cohorts := rfl
@[simp] theorem State.updCall_cores (k : Nat) (g : Call → Call) : (s.updCall k g).cores = s.cores := rfl
@[simp] theorem State.updCall_alone (k : Nat) (g : Call → Call) : (s.updCall k g).alone = s.alone := rfl
@[simp] theorem State.updCall_m (k : Nat) (g : Call → Call) : (s.updCall k g).m = s.m := rfl
@[simp] theorem State.updCall_e (k : Nat) (g : Call → Call) : (s.updCall k g).e = s.e := rfl
@[simp] theorem State.updCall_g (k : Nat) (g : Call → Call) : (s.updCall k g).g = s.g := rfl
@[simp] theorem State.updCall_t (k : Nat) (g : Call → Call) : (s.updCall k g).t = s.t := rfl
@[simp] theorem State.updCall_h (k : Nat) (g : Call → Call) : (s.updCall k g).h = s.h := rfl
@[simp] theorem State.msi_tick (v : Nat) : (s.msi v).tick = s.tick := rfl
@[simp] theorem State.msi_fresh (v : Nat) : (s.msi v).fresh = s.fresh := rfl
@[simp] theorem State.msi_time (v : Nat) : (s.msi v).time = s.time := rfl
@[simp] theorem State.msi_agenda (v : Nat) : (s.msi v).agenda = s.agenda := rfl
@[simp] theorem State.msi_w (v : Nat) : (s.msi v).w = s.w := rfl
@[simp] theorem State.msi_warps (v : Nat) : (s.msi v).warps = s.warps := rfl
@[simp] theorem State.msi_cohorts (v : Nat) : (s.msi v).cohorts = s.cohorts := rfl
@[simp] theorem State.msi_cores (v : Nat) : (s.msi v).cores = s.cores := rfl
@[simp] theorem State.msi_alone (v : Nat) : (s.msi v).alone = s.alone := rfl
@[simp] theorem State.msi_m (v : Nat) : (s.msi v).m = s.m := rfl
@[simp] theorem State.msi_e (v : Nat) : (s.msi v).e = s.e := rfl
@[simp] theorem State.msi_f (v : Nat) : (s.msi v).f = s.f := rfl
@[simp] theorem State.msi_g (v : Nat) : (s.msi v).g = s.g := rfl
@[simp] theorem State.msi_t (v : Nat) : (s.msi v).t = s.t := rfl
@[simp] theorem State.updCohort_tick (r : WRef) (g : Cohort → Cohort) : (s.updCohort r g).tick = s.tick := rfl
@[simp] theorem State.updCohort_fresh (r : WRef) (g : Cohort → Cohort) : (s.updCohort r g).fresh = s.fresh := rfl
@[simp] theorem State.updCohort_time (r : WRef) (g : Cohort → Cohort) : (s.updCohort r g).time = s.time := rfl
@[simp] theorem State.updCohort_agenda (r : WRef) (g : Cohort → Cohort) : (s.updCohort r g).agenda = s.agenda := rfl
@[simp] theorem State.updCohort_w (r : WRef) (g : Cohort → Cohort) : (s.updCohort r g).w = s.w := rfl
@[simp] theorem State.updCohort_warps (r : WRef) (g : Cohort → Cohort) : (s.updCohort r g).warps = s.warps := rfl
@[simp] theorem State.updCohort_cores (r : WRef) (g : Cohort → Cohort) : (s.updCohort r g).cores = s.cores := rfl
@[simp] theorem State.updCohort_alone (r : WRef) (g : Cohort → Cohort) : (s.updCohort r g).alone = s.alone := rfl
@[simp] theorem State.updCohort_m (r : WRef) (g : Cohort → Cohort) : (s.updCohort r g).m = s.m := rfl
@[simp] theorem State.updCohort_e (r : WRef) (g : Cohort → Cohort) : (s.updCohort r g).e = s.e := rfl
@[simp] theorem State.updCohort_f (r : WRef) (g : Cohort → Cohort) : (s.updCohort r g).f = s.f := rfl
@[simp] theorem State.updCohort_g (r : WRef) (g : Cohort → Cohort) : (s.updCohort r g).g = s.g := rfl
@[simp] theorem State.updCohort_t (r : WRef) (g : Cohort → Cohort) : (s.updCohort r g).t = s.t := rfl
@[simp] theorem State.updCohort_h (r : WRef) (g : Cohort → Cohort) : (s.updCohort r g).h = s.h := rfl
@[simp] theorem Warp.advance_live (ls : Lanes) (n : Nat) : (w.advance ls n).live = w.live := rfl
@[simp] theorem Warp.advance_exited (ls : Lanes) (n : Nat) : (w.advance ls n).exited = w.exited := rfl
@[simp] theorem Warp.advance_id (ls : Lanes) (n : Nat) : (w.advance ls n).id = w.id := rfl
@[simp] theorem Warp.advance_ref (ls : Lanes) (n : Nat) : (w.advance ls n).ref = w.ref := rfl
@[simp] theorem Warp.advance_widx (ls : Lanes) (n : Nat) : (w.advance ls n).widx = w.widx := rfl
@[simp] theorem Warp.advance_ctx (ls : Lanes) (n : Nat) : (w.advance ls n).ctx = w.ctx := rfl
@[simp] theorem Warp.advance_taskId (ls : Lanes) (n : Nat) : (w.advance ls n).taskId = w.taskId := rfl
@[simp] theorem Warp.advance_cohortId (ls : Lanes) (n : Nat) : (w.advance ls n).cohortId = w.cohortId := rfl
@[simp] theorem Warp.advance_v (ls : Lanes) (n : Nat) : (w.advance ls n).v = w.v := rfl
@[simp] theorem Warp.advance_s (ls : Lanes) (n : Nat) : (w.advance ls n).s = w.s := rfl
@[simp] theorem Warp.advance_yaddr (ls : Lanes) (n : Nat) : (w.advance ls n).yaddr = w.yaddr := rfl
@[simp] theorem Warp.advance_seen (ls : Lanes) (n : Nat) : (w.advance ls n).seen = w.seen := rfl
@[simp] theorem Warp.advance_lstate (ls : Lanes) (n : Nat) : (w.advance ls n).lstate = w.lstate := rfl
@[simp] theorem Warp.advance_kdecl (ls : Lanes) (n : Nat) : (w.advance ls n).kdecl = w.kdecl := rfl
@[simp] theorem Warp.advance_ksigned (ls : Lanes) (n : Nat) : (w.advance ls n).ksigned = w.ksigned := rfl
@[simp] theorem Warp.advance_kaddr (ls : Lanes) (n : Nat) : (w.advance ls n).kaddr = w.kaddr := rfl
@[simp] theorem Warp.advance_kguard (ls : Lanes) (n : Nat) : (w.advance ls n).kguard = w.kguard := rfl
@[simp] theorem Warp.advance_cur (ls : Lanes) (n : Nat) : (w.advance ls n).cur = w.cur := rfl
@[simp] theorem Warp.advance_acc (ls : Lanes) (n : Nat) : (w.advance ls n).acc = w.acc := rfl
@[simp] theorem Warp.advance_accPoison (ls : Lanes) (n : Nat) : (w.advance ls n).accPoison = w.accPoison := rfl
@[simp] theorem Warp.advance_csr (ls : Lanes) (n : Nat) : (w.advance ls n).csr = w.csr := rfl
@[simp] theorem Warp.advance_priv (ls : Lanes) (n : Nat) : (w.advance ls n).priv = w.priv := rfl
@[simp] theorem Warp.advance_tlpc (ls : Lanes) (n : Nat) : (w.advance ls n).tlpc = w.tlpc := rfl
@[simp] theorem Warp.advance_tlstate (ls : Lanes) (n : Nat) : (w.advance ls n).tlstate = w.tlstate := rfl
@[simp] theorem Warp.advance_sb (ls : Lanes) (n : Nat) : (w.advance ls n).sb = w.sb := rfl
@[simp] theorem Warp.advance_arr (ls : Lanes) (n : Nat) : (w.advance ls n).arr = w.arr := rfl
@[simp] theorem Warp.advance_marks (ls : Lanes) (n : Nat) : (w.advance ls n).marks = w.marks := rfl
@[simp] theorem Warp.advance_deferred (ls : Lanes) (n : Nat) : (w.advance ls n).deferred = w.deferred := rfl
@[simp] theorem Warp.advance_ops (ls : Lanes) (n : Nat) : (w.advance ls n).ops = w.ops := rfl
@[simp] theorem Warp.advance_ticket (ls : Lanes) (n : Nat) : (w.advance ls n).ticket = w.ticket := rfl
@[simp] theorem Warp.advance_streams (ls : Lanes) (n : Nat) : (w.advance ls n).streams = w.streams := rfl
@[simp] theorem Warp.advance_used (ls : Lanes) (n : Nat) : (w.advance ls n).used = w.used := rfl
@[simp] theorem Warp.advance_absent (ls : Lanes) (n : Nat) : (w.advance ls n).absent = w.absent := rfl
@[simp] theorem Warp.advance_frame (ls : Lanes) (n : Nat) : (w.advance ls n).frame = w.frame := rfl
@[simp] theorem Warp.advance_cycle (ls : Lanes) (n : Nat) : (w.advance ls n).cycle = w.cycle := rfl
@[simp] theorem Warp.advance_ahead (ls : Lanes) (n : Nat) : (w.advance ls n).ahead = w.ahead := rfl
@[simp] theorem Warp.advance_wait (ls : Lanes) (n : Nat) : (w.advance ls n).wait = w.wait := rfl
@[simp] theorem Warp.advance_call (ls : Lanes) (n : Nat) : (w.advance ls n).call = w.call := rfl
@[simp] theorem Warp.advance_regs (ls : Lanes) (n : Nat) : (w.advance ls n).regs = w.regs := rfl
@[simp] theorem Warp.advance_active (ls : Lanes) (n : Nat) : (w.advance ls n).active = w.active := rfl
@[simp] theorem Warp.advance_activeSince (ls : Lanes) (n : Nat) : (w.advance ls n).activeSince = w.activeSince := rfl
@[simp] theorem Warp.advance_outsideSince (ls : Lanes) (n : Nat) : (w.advance ls n).outsideSince = w.outsideSince := rfl
@[simp] theorem Warp.advance_idleSince (ls : Lanes) (n : Nat) : (w.advance ls n).idleSince = w.idleSince := rfl
@[simp] theorem Warp.advance_heldAt (ls : Lanes) (n : Nat) : (w.advance ls n).heldAt = w.heldAt := rfl
@[simp] theorem Warp.jump_live (ls : Lanes) (p : W32) : (w.jump ls p).live = w.live := rfl
@[simp] theorem Warp.jump_exited (ls : Lanes) (p : W32) : (w.jump ls p).exited = w.exited := rfl
@[simp] theorem Warp.jump_id (ls : Lanes) (p : W32) : (w.jump ls p).id = w.id := rfl
@[simp] theorem Warp.jump_ref (ls : Lanes) (p : W32) : (w.jump ls p).ref = w.ref := rfl
@[simp] theorem Warp.jump_widx (ls : Lanes) (p : W32) : (w.jump ls p).widx = w.widx := rfl
@[simp] theorem Warp.jump_ctx (ls : Lanes) (p : W32) : (w.jump ls p).ctx = w.ctx := rfl
@[simp] theorem Warp.jump_taskId (ls : Lanes) (p : W32) : (w.jump ls p).taskId = w.taskId := rfl
@[simp] theorem Warp.jump_cohortId (ls : Lanes) (p : W32) : (w.jump ls p).cohortId = w.cohortId := rfl
@[simp] theorem Warp.jump_v (ls : Lanes) (p : W32) : (w.jump ls p).v = w.v := rfl
@[simp] theorem Warp.jump_s (ls : Lanes) (p : W32) : (w.jump ls p).s = w.s := rfl
@[simp] theorem Warp.jump_yaddr (ls : Lanes) (p : W32) : (w.jump ls p).yaddr = w.yaddr := rfl
@[simp] theorem Warp.jump_seen (ls : Lanes) (p : W32) : (w.jump ls p).seen = w.seen := rfl
@[simp] theorem Warp.jump_lstate (ls : Lanes) (p : W32) : (w.jump ls p).lstate = w.lstate := rfl
@[simp] theorem Warp.jump_kdecl (ls : Lanes) (p : W32) : (w.jump ls p).kdecl = w.kdecl := rfl
@[simp] theorem Warp.jump_ksigned (ls : Lanes) (p : W32) : (w.jump ls p).ksigned = w.ksigned := rfl
@[simp] theorem Warp.jump_kaddr (ls : Lanes) (p : W32) : (w.jump ls p).kaddr = w.kaddr := rfl
@[simp] theorem Warp.jump_kguard (ls : Lanes) (p : W32) : (w.jump ls p).kguard = w.kguard := rfl
@[simp] theorem Warp.jump_cur (ls : Lanes) (p : W32) : (w.jump ls p).cur = w.cur := rfl
@[simp] theorem Warp.jump_acc (ls : Lanes) (p : W32) : (w.jump ls p).acc = w.acc := rfl
@[simp] theorem Warp.jump_accPoison (ls : Lanes) (p : W32) : (w.jump ls p).accPoison = w.accPoison := rfl
@[simp] theorem Warp.jump_csr (ls : Lanes) (p : W32) : (w.jump ls p).csr = w.csr := rfl
@[simp] theorem Warp.jump_priv (ls : Lanes) (p : W32) : (w.jump ls p).priv = w.priv := rfl
@[simp] theorem Warp.jump_tlpc (ls : Lanes) (p : W32) : (w.jump ls p).tlpc = w.tlpc := rfl
@[simp] theorem Warp.jump_tlstate (ls : Lanes) (p : W32) : (w.jump ls p).tlstate = w.tlstate := rfl
@[simp] theorem Warp.jump_sb (ls : Lanes) (p : W32) : (w.jump ls p).sb = w.sb := rfl
@[simp] theorem Warp.jump_arr (ls : Lanes) (p : W32) : (w.jump ls p).arr = w.arr := rfl
@[simp] theorem Warp.jump_marks (ls : Lanes) (p : W32) : (w.jump ls p).marks = w.marks := rfl
@[simp] theorem Warp.jump_deferred (ls : Lanes) (p : W32) : (w.jump ls p).deferred = w.deferred := rfl
@[simp] theorem Warp.jump_ops (ls : Lanes) (p : W32) : (w.jump ls p).ops = w.ops := rfl
@[simp] theorem Warp.jump_ticket (ls : Lanes) (p : W32) : (w.jump ls p).ticket = w.ticket := rfl
@[simp] theorem Warp.jump_streams (ls : Lanes) (p : W32) : (w.jump ls p).streams = w.streams := rfl
@[simp] theorem Warp.jump_used (ls : Lanes) (p : W32) : (w.jump ls p).used = w.used := rfl
@[simp] theorem Warp.jump_absent (ls : Lanes) (p : W32) : (w.jump ls p).absent = w.absent := rfl
@[simp] theorem Warp.jump_frame (ls : Lanes) (p : W32) : (w.jump ls p).frame = w.frame := rfl
@[simp] theorem Warp.jump_cycle (ls : Lanes) (p : W32) : (w.jump ls p).cycle = w.cycle := rfl
@[simp] theorem Warp.jump_ahead (ls : Lanes) (p : W32) : (w.jump ls p).ahead = w.ahead := rfl
@[simp] theorem Warp.jump_wait (ls : Lanes) (p : W32) : (w.jump ls p).wait = w.wait := rfl
@[simp] theorem Warp.jump_call (ls : Lanes) (p : W32) : (w.jump ls p).call = w.call := rfl
@[simp] theorem Warp.jump_regs (ls : Lanes) (p : W32) : (w.jump ls p).regs = w.regs := rfl
@[simp] theorem Warp.jump_active (ls : Lanes) (p : W32) : (w.jump ls p).active = w.active := rfl
@[simp] theorem Warp.jump_activeSince (ls : Lanes) (p : W32) : (w.jump ls p).activeSince = w.activeSince := rfl
@[simp] theorem Warp.jump_outsideSince (ls : Lanes) (p : W32) : (w.jump ls p).outsideSince = w.outsideSince := rfl
@[simp] theorem Warp.jump_idleSince (ls : Lanes) (p : W32) : (w.jump ls p).idleSince = w.idleSince := rfl
@[simp] theorem Warp.jump_heldAt (ls : Lanes) (p : W32) : (w.jump ls p).heldAt = w.heldAt := rfl
@[simp] theorem Warp.setLaneState_live (l k : Nat) : (w.setLaneState l k).live = w.live := rfl
@[simp] theorem Warp.setLaneState_exited (l k : Nat) : (w.setLaneState l k).exited = w.exited := rfl
@[simp] theorem Warp.setLaneState_id (l k : Nat) : (w.setLaneState l k).id = w.id := rfl
@[simp] theorem Warp.setLaneState_ref (l k : Nat) : (w.setLaneState l k).ref = w.ref := rfl
@[simp] theorem Warp.setLaneState_widx (l k : Nat) : (w.setLaneState l k).widx = w.widx := rfl
@[simp] theorem Warp.setLaneState_ctx (l k : Nat) : (w.setLaneState l k).ctx = w.ctx := rfl
@[simp] theorem Warp.setLaneState_taskId (l k : Nat) : (w.setLaneState l k).taskId = w.taskId := rfl
@[simp] theorem Warp.setLaneState_cohortId (l k : Nat) : (w.setLaneState l k).cohortId = w.cohortId := rfl
@[simp] theorem Warp.setLaneState_v (l k : Nat) : (w.setLaneState l k).v = w.v := rfl
@[simp] theorem Warp.setLaneState_s (l k : Nat) : (w.setLaneState l k).s = w.s := rfl
@[simp] theorem Warp.setLaneState_lpc (l k : Nat) : (w.setLaneState l k).lpc = w.lpc := rfl
@[simp] theorem Warp.setLaneState_yaddr (l k : Nat) : (w.setLaneState l k).yaddr = w.yaddr := rfl
@[simp] theorem Warp.setLaneState_seen (l k : Nat) : (w.setLaneState l k).seen = w.seen := rfl
@[simp] theorem Warp.setLaneState_kdecl (l k : Nat) : (w.setLaneState l k).kdecl = w.kdecl := rfl
@[simp] theorem Warp.setLaneState_ksigned (l k : Nat) : (w.setLaneState l k).ksigned = w.ksigned := rfl
@[simp] theorem Warp.setLaneState_kaddr (l k : Nat) : (w.setLaneState l k).kaddr = w.kaddr := rfl
@[simp] theorem Warp.setLaneState_kguard (l k : Nat) : (w.setLaneState l k).kguard = w.kguard := rfl
@[simp] theorem Warp.setLaneState_cur (l k : Nat) : (w.setLaneState l k).cur = w.cur := rfl
@[simp] theorem Warp.setLaneState_acc (l k : Nat) : (w.setLaneState l k).acc = w.acc := rfl
@[simp] theorem Warp.setLaneState_accPoison (l k : Nat) : (w.setLaneState l k).accPoison = w.accPoison := rfl
@[simp] theorem Warp.setLaneState_csr (l k : Nat) : (w.setLaneState l k).csr = w.csr := rfl
@[simp] theorem Warp.setLaneState_priv (l k : Nat) : (w.setLaneState l k).priv = w.priv := rfl
@[simp] theorem Warp.setLaneState_tlpc (l k : Nat) : (w.setLaneState l k).tlpc = w.tlpc := rfl
@[simp] theorem Warp.setLaneState_tlstate (l k : Nat) : (w.setLaneState l k).tlstate = w.tlstate := rfl
@[simp] theorem Warp.setLaneState_sb (l k : Nat) : (w.setLaneState l k).sb = w.sb := rfl
@[simp] theorem Warp.setLaneState_arr (l k : Nat) : (w.setLaneState l k).arr = w.arr := rfl
@[simp] theorem Warp.setLaneState_marks (l k : Nat) : (w.setLaneState l k).marks = w.marks := rfl
@[simp] theorem Warp.setLaneState_deferred (l k : Nat) : (w.setLaneState l k).deferred = w.deferred := rfl
@[simp] theorem Warp.setLaneState_ops (l k : Nat) : (w.setLaneState l k).ops = w.ops := rfl
@[simp] theorem Warp.setLaneState_ticket (l k : Nat) : (w.setLaneState l k).ticket = w.ticket := rfl
@[simp] theorem Warp.setLaneState_streams (l k : Nat) : (w.setLaneState l k).streams = w.streams := rfl
@[simp] theorem Warp.setLaneState_used (l k : Nat) : (w.setLaneState l k).used = w.used := rfl
@[simp] theorem Warp.setLaneState_absent (l k : Nat) : (w.setLaneState l k).absent = w.absent := rfl
@[simp] theorem Warp.setLaneState_frame (l k : Nat) : (w.setLaneState l k).frame = w.frame := rfl
@[simp] theorem Warp.setLaneState_cycle (l k : Nat) : (w.setLaneState l k).cycle = w.cycle := rfl
@[simp] theorem Warp.setLaneState_ahead (l k : Nat) : (w.setLaneState l k).ahead = w.ahead := rfl
@[simp] theorem Warp.setLaneState_wait (l k : Nat) : (w.setLaneState l k).wait = w.wait := rfl
@[simp] theorem Warp.setLaneState_call (l k : Nat) : (w.setLaneState l k).call = w.call := rfl
@[simp] theorem Warp.setLaneState_regs (l k : Nat) : (w.setLaneState l k).regs = w.regs := rfl
@[simp] theorem Warp.setLaneState_active (l k : Nat) : (w.setLaneState l k).active = w.active := rfl
@[simp] theorem Warp.setLaneState_activeSince (l k : Nat) : (w.setLaneState l k).activeSince = w.activeSince := rfl
@[simp] theorem Warp.setLaneState_outsideSince (l k : Nat) : (w.setLaneState l k).outsideSince = w.outsideSince := rfl
@[simp] theorem Warp.setLaneState_idleSince (l k : Nat) : (w.setLaneState l k).idleSince = w.idleSince := rfl
@[simp] theorem Warp.setLaneState_heldAt (l k : Nat) : (w.setLaneState l k).heldAt = w.heldAt := rfl
@[simp] theorem Warp.spend_live (f : Fields) : (w.spend f).live = w.live := rfl
@[simp] theorem Warp.spend_exited (f : Fields) : (w.spend f).exited = w.exited := rfl
@[simp] theorem Warp.spend_id (f : Fields) : (w.spend f).id = w.id := rfl
@[simp] theorem Warp.spend_ref (f : Fields) : (w.spend f).ref = w.ref := rfl
@[simp] theorem Warp.spend_widx (f : Fields) : (w.spend f).widx = w.widx := rfl
@[simp] theorem Warp.spend_ctx (f : Fields) : (w.spend f).ctx = w.ctx := rfl
@[simp] theorem Warp.spend_taskId (f : Fields) : (w.spend f).taskId = w.taskId := rfl
@[simp] theorem Warp.spend_cohortId (f : Fields) : (w.spend f).cohortId = w.cohortId := rfl
@[simp] theorem Warp.spend_v (f : Fields) : (w.spend f).v = w.v := rfl
@[simp] theorem Warp.spend_s (f : Fields) : (w.spend f).s = w.s := rfl
@[simp] theorem Warp.spend_lpc (f : Fields) : (w.spend f).lpc = w.lpc := rfl
@[simp] theorem Warp.spend_yaddr (f : Fields) : (w.spend f).yaddr = w.yaddr := rfl
@[simp] theorem Warp.spend_seen (f : Fields) : (w.spend f).seen = w.seen := rfl
@[simp] theorem Warp.spend_lstate (f : Fields) : (w.spend f).lstate = w.lstate := rfl
@[simp] theorem Warp.spend_kdecl (f : Fields) : (w.spend f).kdecl = w.kdecl := rfl
@[simp] theorem Warp.spend_ksigned (f : Fields) : (w.spend f).ksigned = w.ksigned := rfl
@[simp] theorem Warp.spend_kaddr (f : Fields) : (w.spend f).kaddr = w.kaddr := rfl
@[simp] theorem Warp.spend_kguard (f : Fields) : (w.spend f).kguard = w.kguard := rfl
@[simp] theorem Warp.spend_cur (f : Fields) : (w.spend f).cur = w.cur := rfl
@[simp] theorem Warp.spend_acc (f : Fields) : (w.spend f).acc = w.acc := rfl
@[simp] theorem Warp.spend_accPoison (f : Fields) : (w.spend f).accPoison = w.accPoison := rfl
@[simp] theorem Warp.spend_csr (f : Fields) : (w.spend f).csr = w.csr := rfl
@[simp] theorem Warp.spend_priv (f : Fields) : (w.spend f).priv = w.priv := rfl
@[simp] theorem Warp.spend_tlpc (f : Fields) : (w.spend f).tlpc = w.tlpc := rfl
@[simp] theorem Warp.spend_tlstate (f : Fields) : (w.spend f).tlstate = w.tlstate := rfl
@[simp] theorem Warp.spend_sb (f : Fields) : (w.spend f).sb = w.sb := rfl
@[simp] theorem Warp.spend_arr (f : Fields) : (w.spend f).arr = w.arr := rfl
@[simp] theorem Warp.spend_marks (f : Fields) : (w.spend f).marks = w.marks := rfl
@[simp] theorem Warp.spend_deferred (f : Fields) : (w.spend f).deferred = w.deferred := rfl
@[simp] theorem Warp.spend_ops (f : Fields) : (w.spend f).ops = w.ops := rfl
@[simp] theorem Warp.spend_ticket (f : Fields) : (w.spend f).ticket = w.ticket := rfl
@[simp] theorem Warp.spend_streams (f : Fields) : (w.spend f).streams = w.streams := rfl
@[simp] theorem Warp.spend_used (f : Fields) : (w.spend f).used = w.used := rfl
@[simp] theorem Warp.spend_absent (f : Fields) : (w.spend f).absent = w.absent := rfl
@[simp] theorem Warp.spend_frame (f : Fields) : (w.spend f).frame = w.frame := rfl
@[simp] theorem Warp.spend_wait (f : Fields) : (w.spend f).wait = w.wait := rfl
@[simp] theorem Warp.spend_call (f : Fields) : (w.spend f).call = w.call := rfl
@[simp] theorem Warp.spend_regs (f : Fields) : (w.spend f).regs = w.regs := rfl
@[simp] theorem Warp.spend_active (f : Fields) : (w.spend f).active = w.active := rfl
@[simp] theorem Warp.spend_activeSince (f : Fields) : (w.spend f).activeSince = w.activeSince := rfl
@[simp] theorem Warp.spend_outsideSince (f : Fields) : (w.spend f).outsideSince = w.outsideSince := rfl
@[simp] theorem Warp.consume_live (rs : List Nat) : (w.consume rs).live = w.live := rfl
@[simp] theorem Warp.consume_exited (rs : List Nat) : (w.consume rs).exited = w.exited := rfl
@[simp] theorem Warp.consume_id (rs : List Nat) : (w.consume rs).id = w.id := rfl
@[simp] theorem Warp.consume_ref (rs : List Nat) : (w.consume rs).ref = w.ref := rfl
@[simp] theorem Warp.consume_widx (rs : List Nat) : (w.consume rs).widx = w.widx := rfl
@[simp] theorem Warp.consume_ctx (rs : List Nat) : (w.consume rs).ctx = w.ctx := rfl
@[simp] theorem Warp.consume_taskId (rs : List Nat) : (w.consume rs).taskId = w.taskId := rfl
@[simp] theorem Warp.consume_cohortId (rs : List Nat) : (w.consume rs).cohortId = w.cohortId := rfl
@[simp] theorem Warp.consume_v (rs : List Nat) : (w.consume rs).v = w.v := rfl
@[simp] theorem Warp.consume_s (rs : List Nat) : (w.consume rs).s = w.s := rfl
@[simp] theorem Warp.consume_lpc (rs : List Nat) : (w.consume rs).lpc = w.lpc := rfl
@[simp] theorem Warp.consume_yaddr (rs : List Nat) : (w.consume rs).yaddr = w.yaddr := rfl
@[simp] theorem Warp.consume_seen (rs : List Nat) : (w.consume rs).seen = w.seen := rfl
@[simp] theorem Warp.consume_lstate (rs : List Nat) : (w.consume rs).lstate = w.lstate := rfl
@[simp] theorem Warp.consume_kdecl (rs : List Nat) : (w.consume rs).kdecl = w.kdecl := rfl
@[simp] theorem Warp.consume_ksigned (rs : List Nat) : (w.consume rs).ksigned = w.ksigned := rfl
@[simp] theorem Warp.consume_kaddr (rs : List Nat) : (w.consume rs).kaddr = w.kaddr := rfl
@[simp] theorem Warp.consume_kguard (rs : List Nat) : (w.consume rs).kguard = w.kguard := rfl
@[simp] theorem Warp.consume_cur (rs : List Nat) : (w.consume rs).cur = w.cur := rfl
@[simp] theorem Warp.consume_acc (rs : List Nat) : (w.consume rs).acc = w.acc := rfl
@[simp] theorem Warp.consume_accPoison (rs : List Nat) : (w.consume rs).accPoison = w.accPoison := rfl
@[simp] theorem Warp.consume_csr (rs : List Nat) : (w.consume rs).csr = w.csr := rfl
@[simp] theorem Warp.consume_priv (rs : List Nat) : (w.consume rs).priv = w.priv := rfl
@[simp] theorem Warp.consume_tlpc (rs : List Nat) : (w.consume rs).tlpc = w.tlpc := rfl
@[simp] theorem Warp.consume_tlstate (rs : List Nat) : (w.consume rs).tlstate = w.tlstate := rfl
@[simp] theorem Warp.consume_sb (rs : List Nat) : (w.consume rs).sb = w.sb := rfl
@[simp] theorem Warp.consume_marks (rs : List Nat) : (w.consume rs).marks = w.marks := rfl
@[simp] theorem Warp.consume_deferred (rs : List Nat) : (w.consume rs).deferred = w.deferred := rfl
@[simp] theorem Warp.consume_ops (rs : List Nat) : (w.consume rs).ops = w.ops := rfl
@[simp] theorem Warp.consume_ticket (rs : List Nat) : (w.consume rs).ticket = w.ticket := rfl
@[simp] theorem Warp.consume_streams (rs : List Nat) : (w.consume rs).streams = w.streams := rfl
@[simp] theorem Warp.consume_used (rs : List Nat) : (w.consume rs).used = w.used := rfl
@[simp] theorem Warp.consume_absent (rs : List Nat) : (w.consume rs).absent = w.absent := rfl
@[simp] theorem Warp.consume_frame (rs : List Nat) : (w.consume rs).frame = w.frame := rfl
@[simp] theorem Warp.consume_cycle (rs : List Nat) : (w.consume rs).cycle = w.cycle := rfl
@[simp] theorem Warp.consume_ahead (rs : List Nat) : (w.consume rs).ahead = w.ahead := rfl
@[simp] theorem Warp.consume_wait (rs : List Nat) : (w.consume rs).wait = w.wait := rfl
@[simp] theorem Warp.consume_call (rs : List Nat) : (w.consume rs).call = w.call := rfl
@[simp] theorem Warp.consume_regs (rs : List Nat) : (w.consume rs).regs = w.regs := rfl
@[simp] theorem Warp.consume_active (rs : List Nat) : (w.consume rs).active = w.active := rfl
@[simp] theorem Warp.consume_activeSince (rs : List Nat) : (w.consume rs).activeSince = w.activeSince := rfl
@[simp] theorem Warp.consume_outsideSince (rs : List Nat) : (w.consume rs).outsideSince = w.outsideSince := rfl
@[simp] theorem Warp.consume_idleSince (rs : List Nat) : (w.consume rs).idleSince = w.idleSince := rfl
@[simp] theorem Warp.consume_heldAt (rs : List Nat) : (w.consume rs).heldAt = w.heldAt := rfl
@[simp] theorem Warp.noteWrite_live (c : Nat) (ls : Lanes) : (w.noteWrite c ls).live = w.live := rfl
@[simp] theorem Warp.noteWrite_exited (c : Nat) (ls : Lanes) : (w.noteWrite c ls).exited = w.exited := rfl
@[simp] theorem Warp.noteWrite_id (c : Nat) (ls : Lanes) : (w.noteWrite c ls).id = w.id := rfl
@[simp] theorem Warp.noteWrite_ref (c : Nat) (ls : Lanes) : (w.noteWrite c ls).ref = w.ref := rfl
@[simp] theorem Warp.noteWrite_widx (c : Nat) (ls : Lanes) : (w.noteWrite c ls).widx = w.widx := rfl
@[simp] theorem Warp.noteWrite_ctx (c : Nat) (ls : Lanes) : (w.noteWrite c ls).ctx = w.ctx := rfl
@[simp] theorem Warp.noteWrite_taskId (c : Nat) (ls : Lanes) : (w.noteWrite c ls).taskId = w.taskId := rfl
@[simp] theorem Warp.noteWrite_cohortId (c : Nat) (ls : Lanes) : (w.noteWrite c ls).cohortId = w.cohortId := rfl
@[simp] theorem Warp.noteWrite_v (c : Nat) (ls : Lanes) : (w.noteWrite c ls).v = w.v := rfl
@[simp] theorem Warp.noteWrite_s (c : Nat) (ls : Lanes) : (w.noteWrite c ls).s = w.s := rfl
@[simp] theorem Warp.noteWrite_lpc (c : Nat) (ls : Lanes) : (w.noteWrite c ls).lpc = w.lpc := rfl
@[simp] theorem Warp.noteWrite_yaddr (c : Nat) (ls : Lanes) : (w.noteWrite c ls).yaddr = w.yaddr := rfl
@[simp] theorem Warp.noteWrite_seen (c : Nat) (ls : Lanes) : (w.noteWrite c ls).seen = w.seen := rfl
@[simp] theorem Warp.noteWrite_lstate (c : Nat) (ls : Lanes) : (w.noteWrite c ls).lstate = w.lstate := rfl
@[simp] theorem Warp.noteWrite_kdecl (c : Nat) (ls : Lanes) : (w.noteWrite c ls).kdecl = w.kdecl := rfl
@[simp] theorem Warp.noteWrite_ksigned (c : Nat) (ls : Lanes) : (w.noteWrite c ls).ksigned = w.ksigned := rfl
@[simp] theorem Warp.noteWrite_kaddr (c : Nat) (ls : Lanes) : (w.noteWrite c ls).kaddr = w.kaddr := rfl
@[simp] theorem Warp.noteWrite_kguard (c : Nat) (ls : Lanes) : (w.noteWrite c ls).kguard = w.kguard := rfl
@[simp] theorem Warp.noteWrite_cur (c : Nat) (ls : Lanes) : (w.noteWrite c ls).cur = w.cur := rfl
@[simp] theorem Warp.noteWrite_acc (c : Nat) (ls : Lanes) : (w.noteWrite c ls).acc = w.acc := rfl
@[simp] theorem Warp.noteWrite_accPoison (c : Nat) (ls : Lanes) : (w.noteWrite c ls).accPoison = w.accPoison := rfl
@[simp] theorem Warp.noteWrite_csr (c : Nat) (ls : Lanes) : (w.noteWrite c ls).csr = w.csr := rfl
@[simp] theorem Warp.noteWrite_priv (c : Nat) (ls : Lanes) : (w.noteWrite c ls).priv = w.priv := rfl
@[simp] theorem Warp.noteWrite_tlpc (c : Nat) (ls : Lanes) : (w.noteWrite c ls).tlpc = w.tlpc := rfl
@[simp] theorem Warp.noteWrite_tlstate (c : Nat) (ls : Lanes) : (w.noteWrite c ls).tlstate = w.tlstate := rfl
@[simp] theorem Warp.noteWrite_sb (c : Nat) (ls : Lanes) : (w.noteWrite c ls).sb = w.sb := rfl
@[simp] theorem Warp.noteWrite_deferred (c : Nat) (ls : Lanes) : (w.noteWrite c ls).deferred = w.deferred := rfl
@[simp] theorem Warp.noteWrite_ticket (c : Nat) (ls : Lanes) : (w.noteWrite c ls).ticket = w.ticket := rfl
@[simp] theorem Warp.noteWrite_streams (c : Nat) (ls : Lanes) : (w.noteWrite c ls).streams = w.streams := rfl
@[simp] theorem Warp.noteWrite_used (c : Nat) (ls : Lanes) : (w.noteWrite c ls).used = w.used := rfl
@[simp] theorem Warp.noteWrite_frame (c : Nat) (ls : Lanes) : (w.noteWrite c ls).frame = w.frame := rfl
@[simp] theorem Warp.noteWrite_cycle (c : Nat) (ls : Lanes) : (w.noteWrite c ls).cycle = w.cycle := rfl
@[simp] theorem Warp.noteWrite_ahead (c : Nat) (ls : Lanes) : (w.noteWrite c ls).ahead = w.ahead := rfl
@[simp] theorem Warp.noteWrite_wait (c : Nat) (ls : Lanes) : (w.noteWrite c ls).wait = w.wait := rfl
@[simp] theorem Warp.noteWrite_call (c : Nat) (ls : Lanes) : (w.noteWrite c ls).call = w.call := rfl
@[simp] theorem Warp.noteWrite_regs (c : Nat) (ls : Lanes) : (w.noteWrite c ls).regs = w.regs := rfl
@[simp] theorem Warp.noteWrite_active (c : Nat) (ls : Lanes) : (w.noteWrite c ls).active = w.active := rfl
@[simp] theorem Warp.noteWrite_activeSince (c : Nat) (ls : Lanes) : (w.noteWrite c ls).activeSince = w.activeSince := rfl
@[simp] theorem Warp.noteWrite_outsideSince (c : Nat) (ls : Lanes) : (w.noteWrite c ls).outsideSince = w.outsideSince := rfl
@[simp] theorem Warp.noteWrite_idleSince (c : Nat) (ls : Lanes) : (w.noteWrite c ls).idleSince = w.idleSince := rfl
@[simp] theorem Warp.noteWrite_heldAt (c : Nat) (ls : Lanes) : (w.noteWrite c ls).heldAt = w.heldAt := rfl
@[simp] theorem Warp.updOp_live (k : Nat) (g : Op → Op) : (w.updOp k g).live = w.live := rfl
@[simp] theorem Warp.updOp_exited (k : Nat) (g : Op → Op) : (w.updOp k g).exited = w.exited := rfl
@[simp] theorem Warp.updOp_id (k : Nat) (g : Op → Op) : (w.updOp k g).id = w.id := rfl
@[simp] theorem Warp.updOp_ref (k : Nat) (g : Op → Op) : (w.updOp k g).ref = w.ref := rfl
@[simp] theorem Warp.updOp_widx (k : Nat) (g : Op → Op) : (w.updOp k g).widx = w.widx := rfl
@[simp] theorem Warp.updOp_ctx (k : Nat) (g : Op → Op) : (w.updOp k g).ctx = w.ctx := rfl
@[simp] theorem Warp.updOp_taskId (k : Nat) (g : Op → Op) : (w.updOp k g).taskId = w.taskId := rfl
@[simp] theorem Warp.updOp_cohortId (k : Nat) (g : Op → Op) : (w.updOp k g).cohortId = w.cohortId := rfl
@[simp] theorem Warp.updOp_v (k : Nat) (g : Op → Op) : (w.updOp k g).v = w.v := rfl
@[simp] theorem Warp.updOp_s (k : Nat) (g : Op → Op) : (w.updOp k g).s = w.s := rfl
@[simp] theorem Warp.updOp_lpc (k : Nat) (g : Op → Op) : (w.updOp k g).lpc = w.lpc := rfl
@[simp] theorem Warp.updOp_yaddr (k : Nat) (g : Op → Op) : (w.updOp k g).yaddr = w.yaddr := rfl
@[simp] theorem Warp.updOp_seen (k : Nat) (g : Op → Op) : (w.updOp k g).seen = w.seen := rfl
@[simp] theorem Warp.updOp_lstate (k : Nat) (g : Op → Op) : (w.updOp k g).lstate = w.lstate := rfl
@[simp] theorem Warp.updOp_kdecl (k : Nat) (g : Op → Op) : (w.updOp k g).kdecl = w.kdecl := rfl
@[simp] theorem Warp.updOp_ksigned (k : Nat) (g : Op → Op) : (w.updOp k g).ksigned = w.ksigned := rfl
@[simp] theorem Warp.updOp_kaddr (k : Nat) (g : Op → Op) : (w.updOp k g).kaddr = w.kaddr := rfl
@[simp] theorem Warp.updOp_kguard (k : Nat) (g : Op → Op) : (w.updOp k g).kguard = w.kguard := rfl
@[simp] theorem Warp.updOp_cur (k : Nat) (g : Op → Op) : (w.updOp k g).cur = w.cur := rfl
@[simp] theorem Warp.updOp_acc (k : Nat) (g : Op → Op) : (w.updOp k g).acc = w.acc := rfl
@[simp] theorem Warp.updOp_accPoison (k : Nat) (g : Op → Op) : (w.updOp k g).accPoison = w.accPoison := rfl
@[simp] theorem Warp.updOp_csr (k : Nat) (g : Op → Op) : (w.updOp k g).csr = w.csr := rfl
@[simp] theorem Warp.updOp_priv (k : Nat) (g : Op → Op) : (w.updOp k g).priv = w.priv := rfl
@[simp] theorem Warp.updOp_tlpc (k : Nat) (g : Op → Op) : (w.updOp k g).tlpc = w.tlpc := rfl
@[simp] theorem Warp.updOp_tlstate (k : Nat) (g : Op → Op) : (w.updOp k g).tlstate = w.tlstate := rfl
@[simp] theorem Warp.updOp_sb (k : Nat) (g : Op → Op) : (w.updOp k g).sb = w.sb := rfl
@[simp] theorem Warp.updOp_arr (k : Nat) (g : Op → Op) : (w.updOp k g).arr = w.arr := rfl
@[simp] theorem Warp.updOp_marks (k : Nat) (g : Op → Op) : (w.updOp k g).marks = w.marks := rfl
@[simp] theorem Warp.updOp_deferred (k : Nat) (g : Op → Op) : (w.updOp k g).deferred = w.deferred := rfl
@[simp] theorem Warp.updOp_ticket (k : Nat) (g : Op → Op) : (w.updOp k g).ticket = w.ticket := rfl
@[simp] theorem Warp.updOp_streams (k : Nat) (g : Op → Op) : (w.updOp k g).streams = w.streams := rfl
@[simp] theorem Warp.updOp_used (k : Nat) (g : Op → Op) : (w.updOp k g).used = w.used := rfl
@[simp] theorem Warp.updOp_absent (k : Nat) (g : Op → Op) : (w.updOp k g).absent = w.absent := rfl
@[simp] theorem Warp.updOp_frame (k : Nat) (g : Op → Op) : (w.updOp k g).frame = w.frame := rfl
@[simp] theorem Warp.updOp_cycle (k : Nat) (g : Op → Op) : (w.updOp k g).cycle = w.cycle := rfl
@[simp] theorem Warp.updOp_ahead (k : Nat) (g : Op → Op) : (w.updOp k g).ahead = w.ahead := rfl
@[simp] theorem Warp.updOp_wait (k : Nat) (g : Op → Op) : (w.updOp k g).wait = w.wait := rfl
@[simp] theorem Warp.updOp_call (k : Nat) (g : Op → Op) : (w.updOp k g).call = w.call := rfl
@[simp] theorem Warp.updOp_regs (k : Nat) (g : Op → Op) : (w.updOp k g).regs = w.regs := rfl
@[simp] theorem Warp.updOp_active (k : Nat) (g : Op → Op) : (w.updOp k g).active = w.active := rfl
@[simp] theorem Warp.updOp_activeSince (k : Nat) (g : Op → Op) : (w.updOp k g).activeSince = w.activeSince := rfl
@[simp] theorem Warp.updOp_outsideSince (k : Nat) (g : Op → Op) : (w.updOp k g).outsideSince = w.outsideSince := rfl
@[simp] theorem Warp.updOp_idleSince (k : Nat) (g : Op → Op) : (w.updOp k g).idleSince = w.idleSince := rfl
@[simp] theorem Warp.updOp_heldAt (k : Nat) (g : Op → Op) : (w.updOp k g).heldAt = w.heldAt := rfl
@[simp] theorem Warp.orFlags_live (x : BitVec 5) : (w.orFlags x).live = w.live := rfl
@[simp] theorem Warp.orFlags_exited (x : BitVec 5) : (w.orFlags x).exited = w.exited := rfl
@[simp] theorem Warp.orFlags_id (x : BitVec 5) : (w.orFlags x).id = w.id := rfl
@[simp] theorem Warp.orFlags_ref (x : BitVec 5) : (w.orFlags x).ref = w.ref := rfl
@[simp] theorem Warp.orFlags_widx (x : BitVec 5) : (w.orFlags x).widx = w.widx := rfl
@[simp] theorem Warp.orFlags_ctx (x : BitVec 5) : (w.orFlags x).ctx = w.ctx := rfl
@[simp] theorem Warp.orFlags_taskId (x : BitVec 5) : (w.orFlags x).taskId = w.taskId := rfl
@[simp] theorem Warp.orFlags_cohortId (x : BitVec 5) : (w.orFlags x).cohortId = w.cohortId := rfl
@[simp] theorem Warp.orFlags_v (x : BitVec 5) : (w.orFlags x).v = w.v := rfl
@[simp] theorem Warp.orFlags_s (x : BitVec 5) : (w.orFlags x).s = w.s := rfl
@[simp] theorem Warp.orFlags_lpc (x : BitVec 5) : (w.orFlags x).lpc = w.lpc := rfl
@[simp] theorem Warp.orFlags_yaddr (x : BitVec 5) : (w.orFlags x).yaddr = w.yaddr := rfl
@[simp] theorem Warp.orFlags_seen (x : BitVec 5) : (w.orFlags x).seen = w.seen := rfl
@[simp] theorem Warp.orFlags_lstate (x : BitVec 5) : (w.orFlags x).lstate = w.lstate := rfl
@[simp] theorem Warp.orFlags_kdecl (x : BitVec 5) : (w.orFlags x).kdecl = w.kdecl := rfl
@[simp] theorem Warp.orFlags_ksigned (x : BitVec 5) : (w.orFlags x).ksigned = w.ksigned := rfl
@[simp] theorem Warp.orFlags_kaddr (x : BitVec 5) : (w.orFlags x).kaddr = w.kaddr := rfl
@[simp] theorem Warp.orFlags_kguard (x : BitVec 5) : (w.orFlags x).kguard = w.kguard := rfl
@[simp] theorem Warp.orFlags_cur (x : BitVec 5) : (w.orFlags x).cur = w.cur := rfl
@[simp] theorem Warp.orFlags_acc (x : BitVec 5) : (w.orFlags x).acc = w.acc := rfl
@[simp] theorem Warp.orFlags_accPoison (x : BitVec 5) : (w.orFlags x).accPoison = w.accPoison := rfl
@[simp] theorem Warp.orFlags_priv (x : BitVec 5) : (w.orFlags x).priv = w.priv := rfl
@[simp] theorem Warp.orFlags_tlpc (x : BitVec 5) : (w.orFlags x).tlpc = w.tlpc := rfl
@[simp] theorem Warp.orFlags_tlstate (x : BitVec 5) : (w.orFlags x).tlstate = w.tlstate := rfl
@[simp] theorem Warp.orFlags_sb (x : BitVec 5) : (w.orFlags x).sb = w.sb := rfl
@[simp] theorem Warp.orFlags_arr (x : BitVec 5) : (w.orFlags x).arr = w.arr := rfl
@[simp] theorem Warp.orFlags_marks (x : BitVec 5) : (w.orFlags x).marks = w.marks := rfl
@[simp] theorem Warp.orFlags_deferred (x : BitVec 5) : (w.orFlags x).deferred = w.deferred := rfl
@[simp] theorem Warp.orFlags_ops (x : BitVec 5) : (w.orFlags x).ops = w.ops := rfl
@[simp] theorem Warp.orFlags_ticket (x : BitVec 5) : (w.orFlags x).ticket = w.ticket := rfl
@[simp] theorem Warp.orFlags_streams (x : BitVec 5) : (w.orFlags x).streams = w.streams := rfl
@[simp] theorem Warp.orFlags_used (x : BitVec 5) : (w.orFlags x).used = w.used := rfl
@[simp] theorem Warp.orFlags_absent (x : BitVec 5) : (w.orFlags x).absent = w.absent := rfl
@[simp] theorem Warp.orFlags_frame (x : BitVec 5) : (w.orFlags x).frame = w.frame := rfl
@[simp] theorem Warp.orFlags_cycle (x : BitVec 5) : (w.orFlags x).cycle = w.cycle := rfl
@[simp] theorem Warp.orFlags_ahead (x : BitVec 5) : (w.orFlags x).ahead = w.ahead := rfl
@[simp] theorem Warp.orFlags_wait (x : BitVec 5) : (w.orFlags x).wait = w.wait := rfl
@[simp] theorem Warp.orFlags_call (x : BitVec 5) : (w.orFlags x).call = w.call := rfl
@[simp] theorem Warp.orFlags_regs (x : BitVec 5) : (w.orFlags x).regs = w.regs := rfl
@[simp] theorem Warp.orFlags_active (x : BitVec 5) : (w.orFlags x).active = w.active := rfl
@[simp] theorem Warp.orFlags_activeSince (x : BitVec 5) : (w.orFlags x).activeSince = w.activeSince := rfl
@[simp] theorem Warp.orFlags_outsideSince (x : BitVec 5) : (w.orFlags x).outsideSince = w.outsideSince := rfl
@[simp] theorem Warp.orFlags_idleSince (x : BitVec 5) : (w.orFlags x).idleSince = w.idleSince := rfl
@[simp] theorem Warp.orFlags_heldAt (x : BitVec 5) : (w.orFlags x).heldAt = w.heldAt := rfl
@[simp] theorem Warp.raiseHorizon_live (t : Nat) : (w.raiseHorizon t).live = w.live := rfl
@[simp] theorem Warp.raiseHorizon_exited (t : Nat) : (w.raiseHorizon t).exited = w.exited := rfl
@[simp] theorem Warp.raiseHorizon_id (t : Nat) : (w.raiseHorizon t).id = w.id := rfl
@[simp] theorem Warp.raiseHorizon_ref (t : Nat) : (w.raiseHorizon t).ref = w.ref := rfl
@[simp] theorem Warp.raiseHorizon_widx (t : Nat) : (w.raiseHorizon t).widx = w.widx := rfl
@[simp] theorem Warp.raiseHorizon_ctx (t : Nat) : (w.raiseHorizon t).ctx = w.ctx := rfl
@[simp] theorem Warp.raiseHorizon_taskId (t : Nat) : (w.raiseHorizon t).taskId = w.taskId := rfl
@[simp] theorem Warp.raiseHorizon_cohortId (t : Nat) : (w.raiseHorizon t).cohortId = w.cohortId := rfl
@[simp] theorem Warp.raiseHorizon_v (t : Nat) : (w.raiseHorizon t).v = w.v := rfl
@[simp] theorem Warp.raiseHorizon_s (t : Nat) : (w.raiseHorizon t).s = w.s := rfl
@[simp] theorem Warp.raiseHorizon_lpc (t : Nat) : (w.raiseHorizon t).lpc = w.lpc := rfl
@[simp] theorem Warp.raiseHorizon_yaddr (t : Nat) : (w.raiseHorizon t).yaddr = w.yaddr := rfl
@[simp] theorem Warp.raiseHorizon_seen (t : Nat) : (w.raiseHorizon t).seen = w.seen := rfl
@[simp] theorem Warp.raiseHorizon_lstate (t : Nat) : (w.raiseHorizon t).lstate = w.lstate := rfl
@[simp] theorem Warp.raiseHorizon_kdecl (t : Nat) : (w.raiseHorizon t).kdecl = w.kdecl := rfl
@[simp] theorem Warp.raiseHorizon_ksigned (t : Nat) : (w.raiseHorizon t).ksigned = w.ksigned := rfl
@[simp] theorem Warp.raiseHorizon_kaddr (t : Nat) : (w.raiseHorizon t).kaddr = w.kaddr := rfl
@[simp] theorem Warp.raiseHorizon_kguard (t : Nat) : (w.raiseHorizon t).kguard = w.kguard := rfl
@[simp] theorem Warp.raiseHorizon_cur (t : Nat) : (w.raiseHorizon t).cur = w.cur := rfl
@[simp] theorem Warp.raiseHorizon_acc (t : Nat) : (w.raiseHorizon t).acc = w.acc := rfl
@[simp] theorem Warp.raiseHorizon_accPoison (t : Nat) : (w.raiseHorizon t).accPoison = w.accPoison := rfl
@[simp] theorem Warp.raiseHorizon_priv (t : Nat) : (w.raiseHorizon t).priv = w.priv := rfl
@[simp] theorem Warp.raiseHorizon_tlpc (t : Nat) : (w.raiseHorizon t).tlpc = w.tlpc := rfl
@[simp] theorem Warp.raiseHorizon_tlstate (t : Nat) : (w.raiseHorizon t).tlstate = w.tlstate := rfl
@[simp] theorem Warp.raiseHorizon_sb (t : Nat) : (w.raiseHorizon t).sb = w.sb := rfl
@[simp] theorem Warp.raiseHorizon_arr (t : Nat) : (w.raiseHorizon t).arr = w.arr := rfl
@[simp] theorem Warp.raiseHorizon_marks (t : Nat) : (w.raiseHorizon t).marks = w.marks := rfl
@[simp] theorem Warp.raiseHorizon_deferred (t : Nat) : (w.raiseHorizon t).deferred = w.deferred := rfl
@[simp] theorem Warp.raiseHorizon_ops (t : Nat) : (w.raiseHorizon t).ops = w.ops := rfl
@[simp] theorem Warp.raiseHorizon_ticket (t : Nat) : (w.raiseHorizon t).ticket = w.ticket := rfl
@[simp] theorem Warp.raiseHorizon_streams (t : Nat) : (w.raiseHorizon t).streams = w.streams := rfl
@[simp] theorem Warp.raiseHorizon_used (t : Nat) : (w.raiseHorizon t).used = w.used := rfl
@[simp] theorem Warp.raiseHorizon_absent (t : Nat) : (w.raiseHorizon t).absent = w.absent := rfl
@[simp] theorem Warp.raiseHorizon_frame (t : Nat) : (w.raiseHorizon t).frame = w.frame := rfl
@[simp] theorem Warp.raiseHorizon_cycle (t : Nat) : (w.raiseHorizon t).cycle = w.cycle := rfl
@[simp] theorem Warp.raiseHorizon_ahead (t : Nat) : (w.raiseHorizon t).ahead = w.ahead := rfl
@[simp] theorem Warp.raiseHorizon_wait (t : Nat) : (w.raiseHorizon t).wait = w.wait := rfl
@[simp] theorem Warp.raiseHorizon_call (t : Nat) : (w.raiseHorizon t).call = w.call := rfl
@[simp] theorem Warp.raiseHorizon_regs (t : Nat) : (w.raiseHorizon t).regs = w.regs := rfl
@[simp] theorem Warp.raiseHorizon_active (t : Nat) : (w.raiseHorizon t).active = w.active := rfl
@[simp] theorem Warp.raiseHorizon_activeSince (t : Nat) : (w.raiseHorizon t).activeSince = w.activeSince := rfl
@[simp] theorem Warp.raiseHorizon_outsideSince (t : Nat) : (w.raiseHorizon t).outsideSince = w.outsideSince := rfl
@[simp] theorem Warp.raiseHorizon_idleSince (t : Nat) : (w.raiseHorizon t).idleSince = w.idleSince := rfl
@[simp] theorem Warp.raiseHorizon_heldAt (t : Nat) : (w.raiseHorizon t).heldAt = w.heldAt := rfl
@[simp] theorem Warp.setCursor_live (c l : Nat) (x : BitVec 128) : (w.setCursor c l x).live = w.live := rfl
@[simp] theorem Warp.setCursor_exited (c l : Nat) (x : BitVec 128) : (w.setCursor c l x).exited = w.exited := rfl
@[simp] theorem Warp.setCursor_id (c l : Nat) (x : BitVec 128) : (w.setCursor c l x).id = w.id := rfl
@[simp] theorem Warp.setCursor_ref (c l : Nat) (x : BitVec 128) : (w.setCursor c l x).ref = w.ref := rfl
@[simp] theorem Warp.setCursor_widx (c l : Nat) (x : BitVec 128) : (w.setCursor c l x).widx = w.widx := rfl
@[simp] theorem Warp.setCursor_ctx (c l : Nat) (x : BitVec 128) : (w.setCursor c l x).ctx = w.ctx := rfl
@[simp] theorem Warp.setCursor_taskId (c l : Nat) (x : BitVec 128) : (w.setCursor c l x).taskId = w.taskId := rfl
@[simp] theorem Warp.setCursor_cohortId (c l : Nat) (x : BitVec 128) : (w.setCursor c l x).cohortId = w.cohortId := rfl
@[simp] theorem Warp.setCursor_v (c l : Nat) (x : BitVec 128) : (w.setCursor c l x).v = w.v := rfl
@[simp] theorem Warp.setCursor_s (c l : Nat) (x : BitVec 128) : (w.setCursor c l x).s = w.s := rfl
@[simp] theorem Warp.setCursor_lpc (c l : Nat) (x : BitVec 128) : (w.setCursor c l x).lpc = w.lpc := rfl
@[simp] theorem Warp.setCursor_yaddr (c l : Nat) (x : BitVec 128) : (w.setCursor c l x).yaddr = w.yaddr := rfl
@[simp] theorem Warp.setCursor_seen (c l : Nat) (x : BitVec 128) : (w.setCursor c l x).seen = w.seen := rfl
@[simp] theorem Warp.setCursor_lstate (c l : Nat) (x : BitVec 128) : (w.setCursor c l x).lstate = w.lstate := rfl
@[simp] theorem Warp.setCursor_kdecl (c l : Nat) (x : BitVec 128) : (w.setCursor c l x).kdecl = w.kdecl := rfl
@[simp] theorem Warp.setCursor_ksigned (c l : Nat) (x : BitVec 128) : (w.setCursor c l x).ksigned = w.ksigned := rfl
@[simp] theorem Warp.setCursor_kaddr (c l : Nat) (x : BitVec 128) : (w.setCursor c l x).kaddr = w.kaddr := rfl
@[simp] theorem Warp.setCursor_kguard (c l : Nat) (x : BitVec 128) : (w.setCursor c l x).kguard = w.kguard := rfl
@[simp] theorem Warp.setCursor_acc (c l : Nat) (x : BitVec 128) : (w.setCursor c l x).acc = w.acc := rfl
@[simp] theorem Warp.setCursor_accPoison (c l : Nat) (x : BitVec 128) : (w.setCursor c l x).accPoison = w.accPoison := rfl
@[simp] theorem Warp.setCursor_csr (c l : Nat) (x : BitVec 128) : (w.setCursor c l x).csr = w.csr := rfl
@[simp] theorem Warp.setCursor_priv (c l : Nat) (x : BitVec 128) : (w.setCursor c l x).priv = w.priv := rfl
@[simp] theorem Warp.setCursor_tlpc (c l : Nat) (x : BitVec 128) : (w.setCursor c l x).tlpc = w.tlpc := rfl
@[simp] theorem Warp.setCursor_tlstate (c l : Nat) (x : BitVec 128) : (w.setCursor c l x).tlstate = w.tlstate := rfl
@[simp] theorem Warp.setCursor_sb (c l : Nat) (x : BitVec 128) : (w.setCursor c l x).sb = w.sb := rfl
@[simp] theorem Warp.setCursor_arr (c l : Nat) (x : BitVec 128) : (w.setCursor c l x).arr = w.arr := rfl
@[simp] theorem Warp.setCursor_marks (c l : Nat) (x : BitVec 128) : (w.setCursor c l x).marks = w.marks := rfl
@[simp] theorem Warp.setCursor_deferred (c l : Nat) (x : BitVec 128) : (w.setCursor c l x).deferred = w.deferred := rfl
@[simp] theorem Warp.setCursor_ops (c l : Nat) (x : BitVec 128) : (w.setCursor c l x).ops = w.ops := rfl
@[simp] theorem Warp.setCursor_ticket (c l : Nat) (x : BitVec 128) : (w.setCursor c l x).ticket = w.ticket := rfl
@[simp] theorem Warp.setCursor_streams (c l : Nat) (x : BitVec 128) : (w.setCursor c l x).streams = w.streams := rfl
@[simp] theorem Warp.setCursor_used (c l : Nat) (x : BitVec 128) : (w.setCursor c l x).used = w.used := rfl
@[simp] theorem Warp.setCursor_absent (c l : Nat) (x : BitVec 128) : (w.setCursor c l x).absent = w.absent := rfl
@[simp] theorem Warp.setCursor_frame (c l : Nat) (x : BitVec 128) : (w.setCursor c l x).frame = w.frame := rfl
@[simp] theorem Warp.setCursor_cycle (c l : Nat) (x : BitVec 128) : (w.setCursor c l x).cycle = w.cycle := rfl
@[simp] theorem Warp.setCursor_ahead (c l : Nat) (x : BitVec 128) : (w.setCursor c l x).ahead = w.ahead := rfl
@[simp] theorem Warp.setCursor_wait (c l : Nat) (x : BitVec 128) : (w.setCursor c l x).wait = w.wait := rfl
@[simp] theorem Warp.setCursor_call (c l : Nat) (x : BitVec 128) : (w.setCursor c l x).call = w.call := rfl
@[simp] theorem Warp.setCursor_regs (c l : Nat) (x : BitVec 128) : (w.setCursor c l x).regs = w.regs := rfl
@[simp] theorem Warp.setCursor_active (c l : Nat) (x : BitVec 128) : (w.setCursor c l x).active = w.active := rfl
@[simp] theorem Warp.setCursor_activeSince (c l : Nat) (x : BitVec 128) : (w.setCursor c l x).activeSince = w.activeSince := rfl
@[simp] theorem Warp.setCursor_outsideSince (c l : Nat) (x : BitVec 128) : (w.setCursor c l x).outsideSince = w.outsideSince := rfl
@[simp] theorem Warp.setCursor_idleSince (c l : Nat) (x : BitVec 128) : (w.setCursor c l x).idleSince = w.idleSince := rfl
@[simp] theorem Warp.setCursor_heldAt (c l : Nat) (x : BitVec 128) : (w.setCursor c l x).heldAt = w.heldAt := rfl
@[simp] theorem Warp.slotUp_live (o : Option Nat) : (w.slotUp o).live = w.live := by cases o <;> rfl
@[simp] theorem Warp.slotUp_exited (o : Option Nat) : (w.slotUp o).exited = w.exited := by cases o <;> rfl
@[simp] theorem Warp.slotUp_id (o : Option Nat) : (w.slotUp o).id = w.id := by cases o <;> rfl
@[simp] theorem Warp.slotUp_ref (o : Option Nat) : (w.slotUp o).ref = w.ref := by cases o <;> rfl
@[simp] theorem Warp.slotUp_widx (o : Option Nat) : (w.slotUp o).widx = w.widx := by cases o <;> rfl
@[simp] theorem Warp.slotUp_ctx (o : Option Nat) : (w.slotUp o).ctx = w.ctx := by cases o <;> rfl
@[simp] theorem Warp.slotUp_taskId (o : Option Nat) : (w.slotUp o).taskId = w.taskId := by cases o <;> rfl
@[simp] theorem Warp.slotUp_cohortId (o : Option Nat) : (w.slotUp o).cohortId = w.cohortId := by cases o <;> rfl
@[simp] theorem Warp.slotUp_v (o : Option Nat) : (w.slotUp o).v = w.v := by cases o <;> rfl
@[simp] theorem Warp.slotUp_s (o : Option Nat) : (w.slotUp o).s = w.s := by cases o <;> rfl
@[simp] theorem Warp.slotUp_lpc (o : Option Nat) : (w.slotUp o).lpc = w.lpc := by cases o <;> rfl
@[simp] theorem Warp.slotUp_yaddr (o : Option Nat) : (w.slotUp o).yaddr = w.yaddr := by cases o <;> rfl
@[simp] theorem Warp.slotUp_seen (o : Option Nat) : (w.slotUp o).seen = w.seen := by cases o <;> rfl
@[simp] theorem Warp.slotUp_lstate (o : Option Nat) : (w.slotUp o).lstate = w.lstate := by cases o <;> rfl
@[simp] theorem Warp.slotUp_kdecl (o : Option Nat) : (w.slotUp o).kdecl = w.kdecl := by cases o <;> rfl
@[simp] theorem Warp.slotUp_ksigned (o : Option Nat) : (w.slotUp o).ksigned = w.ksigned := by cases o <;> rfl
@[simp] theorem Warp.slotUp_kaddr (o : Option Nat) : (w.slotUp o).kaddr = w.kaddr := by cases o <;> rfl
@[simp] theorem Warp.slotUp_kguard (o : Option Nat) : (w.slotUp o).kguard = w.kguard := by cases o <;> rfl
@[simp] theorem Warp.slotUp_cur (o : Option Nat) : (w.slotUp o).cur = w.cur := by cases o <;> rfl
@[simp] theorem Warp.slotUp_acc (o : Option Nat) : (w.slotUp o).acc = w.acc := by cases o <;> rfl
@[simp] theorem Warp.slotUp_accPoison (o : Option Nat) : (w.slotUp o).accPoison = w.accPoison := by cases o <;> rfl
@[simp] theorem Warp.slotUp_csr (o : Option Nat) : (w.slotUp o).csr = w.csr := by cases o <;> rfl
@[simp] theorem Warp.slotUp_priv (o : Option Nat) : (w.slotUp o).priv = w.priv := by cases o <;> rfl
@[simp] theorem Warp.slotUp_tlpc (o : Option Nat) : (w.slotUp o).tlpc = w.tlpc := by cases o <;> rfl
@[simp] theorem Warp.slotUp_tlstate (o : Option Nat) : (w.slotUp o).tlstate = w.tlstate := by cases o <;> rfl
@[simp] theorem Warp.slotUp_arr (o : Option Nat) : (w.slotUp o).arr = w.arr := by cases o <;> rfl
@[simp] theorem Warp.slotUp_marks (o : Option Nat) : (w.slotUp o).marks = w.marks := by cases o <;> rfl
@[simp] theorem Warp.slotUp_deferred (o : Option Nat) : (w.slotUp o).deferred = w.deferred := by cases o <;> rfl
@[simp] theorem Warp.slotUp_ops (o : Option Nat) : (w.slotUp o).ops = w.ops := by cases o <;> rfl
@[simp] theorem Warp.slotUp_ticket (o : Option Nat) : (w.slotUp o).ticket = w.ticket := by cases o <;> rfl
@[simp] theorem Warp.slotUp_streams (o : Option Nat) : (w.slotUp o).streams = w.streams := by cases o <;> rfl
@[simp] theorem Warp.slotUp_used (o : Option Nat) : (w.slotUp o).used = w.used := by cases o <;> rfl
@[simp] theorem Warp.slotUp_absent (o : Option Nat) : (w.slotUp o).absent = w.absent := by cases o <;> rfl
@[simp] theorem Warp.slotUp_frame (o : Option Nat) : (w.slotUp o).frame = w.frame := by cases o <;> rfl
@[simp] theorem Warp.slotUp_cycle (o : Option Nat) : (w.slotUp o).cycle = w.cycle := by cases o <;> rfl
@[simp] theorem Warp.slotUp_ahead (o : Option Nat) : (w.slotUp o).ahead = w.ahead := by cases o <;> rfl
@[simp] theorem Warp.slotUp_wait (o : Option Nat) : (w.slotUp o).wait = w.wait := by cases o <;> rfl
@[simp] theorem Warp.slotUp_call (o : Option Nat) : (w.slotUp o).call = w.call := by cases o <;> rfl
@[simp] theorem Warp.slotUp_regs (o : Option Nat) : (w.slotUp o).regs = w.regs := by cases o <;> rfl
@[simp] theorem Warp.slotUp_active (o : Option Nat) : (w.slotUp o).active = w.active := by cases o <;> rfl
@[simp] theorem Warp.slotUp_activeSince (o : Option Nat) : (w.slotUp o).activeSince = w.activeSince := by cases o <;> rfl
@[simp] theorem Warp.slotUp_outsideSince (o : Option Nat) : (w.slotUp o).outsideSince = w.outsideSince := by cases o <;> rfl
@[simp] theorem Warp.slotUp_idleSince (o : Option Nat) : (w.slotUp o).idleSince = w.idleSince := by cases o <;> rfl
@[simp] theorem Warp.slotUp_heldAt (o : Option Nat) : (w.slotUp o).heldAt = w.heldAt := by cases o <;> rfl
@[simp] theorem Warp.slotDown_live (o : Option Nat) : (w.slotDown o).live = w.live := by cases o <;> rfl
@[simp] theorem Warp.slotDown_exited (o : Option Nat) : (w.slotDown o).exited = w.exited := by cases o <;> rfl
@[simp] theorem Warp.slotDown_id (o : Option Nat) : (w.slotDown o).id = w.id := by cases o <;> rfl
@[simp] theorem Warp.slotDown_ref (o : Option Nat) : (w.slotDown o).ref = w.ref := by cases o <;> rfl
@[simp] theorem Warp.slotDown_widx (o : Option Nat) : (w.slotDown o).widx = w.widx := by cases o <;> rfl
@[simp] theorem Warp.slotDown_ctx (o : Option Nat) : (w.slotDown o).ctx = w.ctx := by cases o <;> rfl
@[simp] theorem Warp.slotDown_taskId (o : Option Nat) : (w.slotDown o).taskId = w.taskId := by cases o <;> rfl
@[simp] theorem Warp.slotDown_cohortId (o : Option Nat) : (w.slotDown o).cohortId = w.cohortId := by cases o <;> rfl
@[simp] theorem Warp.slotDown_v (o : Option Nat) : (w.slotDown o).v = w.v := by cases o <;> rfl
@[simp] theorem Warp.slotDown_s (o : Option Nat) : (w.slotDown o).s = w.s := by cases o <;> rfl
@[simp] theorem Warp.slotDown_lpc (o : Option Nat) : (w.slotDown o).lpc = w.lpc := by cases o <;> rfl
@[simp] theorem Warp.slotDown_yaddr (o : Option Nat) : (w.slotDown o).yaddr = w.yaddr := by cases o <;> rfl
@[simp] theorem Warp.slotDown_seen (o : Option Nat) : (w.slotDown o).seen = w.seen := by cases o <;> rfl
@[simp] theorem Warp.slotDown_lstate (o : Option Nat) : (w.slotDown o).lstate = w.lstate := by cases o <;> rfl
@[simp] theorem Warp.slotDown_kdecl (o : Option Nat) : (w.slotDown o).kdecl = w.kdecl := by cases o <;> rfl
@[simp] theorem Warp.slotDown_ksigned (o : Option Nat) : (w.slotDown o).ksigned = w.ksigned := by cases o <;> rfl
@[simp] theorem Warp.slotDown_kaddr (o : Option Nat) : (w.slotDown o).kaddr = w.kaddr := by cases o <;> rfl
@[simp] theorem Warp.slotDown_kguard (o : Option Nat) : (w.slotDown o).kguard = w.kguard := by cases o <;> rfl
@[simp] theorem Warp.slotDown_cur (o : Option Nat) : (w.slotDown o).cur = w.cur := by cases o <;> rfl
@[simp] theorem Warp.slotDown_acc (o : Option Nat) : (w.slotDown o).acc = w.acc := by cases o <;> rfl
@[simp] theorem Warp.slotDown_accPoison (o : Option Nat) : (w.slotDown o).accPoison = w.accPoison := by cases o <;> rfl
@[simp] theorem Warp.slotDown_csr (o : Option Nat) : (w.slotDown o).csr = w.csr := by cases o <;> rfl
@[simp] theorem Warp.slotDown_priv (o : Option Nat) : (w.slotDown o).priv = w.priv := by cases o <;> rfl
@[simp] theorem Warp.slotDown_tlpc (o : Option Nat) : (w.slotDown o).tlpc = w.tlpc := by cases o <;> rfl
@[simp] theorem Warp.slotDown_tlstate (o : Option Nat) : (w.slotDown o).tlstate = w.tlstate := by cases o <;> rfl
@[simp] theorem Warp.slotDown_arr (o : Option Nat) : (w.slotDown o).arr = w.arr := by cases o <;> rfl
@[simp] theorem Warp.slotDown_marks (o : Option Nat) : (w.slotDown o).marks = w.marks := by cases o <;> rfl
@[simp] theorem Warp.slotDown_deferred (o : Option Nat) : (w.slotDown o).deferred = w.deferred := by cases o <;> rfl
@[simp] theorem Warp.slotDown_ops (o : Option Nat) : (w.slotDown o).ops = w.ops := by cases o <;> rfl
@[simp] theorem Warp.slotDown_ticket (o : Option Nat) : (w.slotDown o).ticket = w.ticket := by cases o <;> rfl
@[simp] theorem Warp.slotDown_streams (o : Option Nat) : (w.slotDown o).streams = w.streams := by cases o <;> rfl
@[simp] theorem Warp.slotDown_used (o : Option Nat) : (w.slotDown o).used = w.used := by cases o <;> rfl
@[simp] theorem Warp.slotDown_absent (o : Option Nat) : (w.slotDown o).absent = w.absent := by cases o <;> rfl
@[simp] theorem Warp.slotDown_frame (o : Option Nat) : (w.slotDown o).frame = w.frame := by cases o <;> rfl
@[simp] theorem Warp.slotDown_cycle (o : Option Nat) : (w.slotDown o).cycle = w.cycle := by cases o <;> rfl
@[simp] theorem Warp.slotDown_ahead (o : Option Nat) : (w.slotDown o).ahead = w.ahead := by cases o <;> rfl
@[simp] theorem Warp.slotDown_wait (o : Option Nat) : (w.slotDown o).wait = w.wait := by cases o <;> rfl
@[simp] theorem Warp.slotDown_call (o : Option Nat) : (w.slotDown o).call = w.call := by cases o <;> rfl
@[simp] theorem Warp.slotDown_regs (o : Option Nat) : (w.slotDown o).regs = w.regs := by cases o <;> rfl
@[simp] theorem Warp.slotDown_active (o : Option Nat) : (w.slotDown o).active = w.active := by cases o <;> rfl
@[simp] theorem Warp.slotDown_activeSince (o : Option Nat) : (w.slotDown o).activeSince = w.activeSince := by cases o <;> rfl
@[simp] theorem Warp.slotDown_outsideSince (o : Option Nat) : (w.slotDown o).outsideSince = w.outsideSince := by cases o <;> rfl
@[simp] theorem Warp.slotDown_idleSince (o : Option Nat) : (w.slotDown o).idleSince = w.idleSince := by cases o <;> rfl
@[simp] theorem Warp.slotDown_heldAt (o : Option Nat) : (w.slotDown o).heldAt = w.heldAt := by cases o <;> rfl

/-! Lists of updates. -/

@[simp] theorem Warp.putLanes_live (ls : Lanes) (k : Nat) : (w.putLanes ls k).live = w.live := by
  unfold Warp.putLanes
  induction bitList ls generalizing w with
  | nil => rfl
  | cons _ _ ih => rw [List.foldl_cons, ih]; rfl
@[simp] theorem Warp.putLanes_exited (ls : Lanes) (k : Nat) : (w.putLanes ls k).exited = w.exited := by
  unfold Warp.putLanes
  induction bitList ls generalizing w with
  | nil => rfl
  | cons _ _ ih => rw [List.foldl_cons, ih]; rfl
@[simp] theorem Warp.putLanes_id (ls : Lanes) (k : Nat) : (w.putLanes ls k).id = w.id := by
  unfold Warp.putLanes
  induction bitList ls generalizing w with
  | nil => rfl
  | cons _ _ ih => rw [List.foldl_cons, ih]; rfl
@[simp] theorem Warp.putLanes_ref (ls : Lanes) (k : Nat) : (w.putLanes ls k).ref = w.ref := by
  unfold Warp.putLanes
  induction bitList ls generalizing w with
  | nil => rfl
  | cons _ _ ih => rw [List.foldl_cons, ih]; rfl
@[simp] theorem Warp.putLanes_widx (ls : Lanes) (k : Nat) : (w.putLanes ls k).widx = w.widx := by
  unfold Warp.putLanes
  induction bitList ls generalizing w with
  | nil => rfl
  | cons _ _ ih => rw [List.foldl_cons, ih]; rfl
@[simp] theorem Warp.putLanes_ctx (ls : Lanes) (k : Nat) : (w.putLanes ls k).ctx = w.ctx := by
  unfold Warp.putLanes
  induction bitList ls generalizing w with
  | nil => rfl
  | cons _ _ ih => rw [List.foldl_cons, ih]; rfl
@[simp] theorem Warp.putLanes_taskId (ls : Lanes) (k : Nat) : (w.putLanes ls k).taskId = w.taskId := by
  unfold Warp.putLanes
  induction bitList ls generalizing w with
  | nil => rfl
  | cons _ _ ih => rw [List.foldl_cons, ih]; rfl
@[simp] theorem Warp.putLanes_cohortId (ls : Lanes) (k : Nat) : (w.putLanes ls k).cohortId = w.cohortId := by
  unfold Warp.putLanes
  induction bitList ls generalizing w with
  | nil => rfl
  | cons _ _ ih => rw [List.foldl_cons, ih]; rfl
@[simp] theorem Warp.putLanes_v (ls : Lanes) (k : Nat) : (w.putLanes ls k).v = w.v := by
  unfold Warp.putLanes
  induction bitList ls generalizing w with
  | nil => rfl
  | cons _ _ ih => rw [List.foldl_cons, ih]; rfl
@[simp] theorem Warp.putLanes_s (ls : Lanes) (k : Nat) : (w.putLanes ls k).s = w.s := by
  unfold Warp.putLanes
  induction bitList ls generalizing w with
  | nil => rfl
  | cons _ _ ih => rw [List.foldl_cons, ih]; rfl
@[simp] theorem Warp.putLanes_lpc (ls : Lanes) (k : Nat) : (w.putLanes ls k).lpc = w.lpc := by
  unfold Warp.putLanes
  induction bitList ls generalizing w with
  | nil => rfl
  | cons _ _ ih => rw [List.foldl_cons, ih]; rfl
@[simp] theorem Warp.putLanes_yaddr (ls : Lanes) (k : Nat) : (w.putLanes ls k).yaddr = w.yaddr := by
  unfold Warp.putLanes
  induction bitList ls generalizing w with
  | nil => rfl
  | cons _ _ ih => rw [List.foldl_cons, ih]; rfl
@[simp] theorem Warp.putLanes_seen (ls : Lanes) (k : Nat) : (w.putLanes ls k).seen = w.seen := by
  unfold Warp.putLanes
  induction bitList ls generalizing w with
  | nil => rfl
  | cons _ _ ih => rw [List.foldl_cons, ih]; rfl
@[simp] theorem Warp.putLanes_kdecl (ls : Lanes) (k : Nat) : (w.putLanes ls k).kdecl = w.kdecl := by
  unfold Warp.putLanes
  induction bitList ls generalizing w with
  | nil => rfl
  | cons _ _ ih => rw [List.foldl_cons, ih]; rfl
@[simp] theorem Warp.putLanes_ksigned (ls : Lanes) (k : Nat) : (w.putLanes ls k).ksigned = w.ksigned := by
  unfold Warp.putLanes
  induction bitList ls generalizing w with
  | nil => rfl
  | cons _ _ ih => rw [List.foldl_cons, ih]; rfl
@[simp] theorem Warp.putLanes_kaddr (ls : Lanes) (k : Nat) : (w.putLanes ls k).kaddr = w.kaddr := by
  unfold Warp.putLanes
  induction bitList ls generalizing w with
  | nil => rfl
  | cons _ _ ih => rw [List.foldl_cons, ih]; rfl
@[simp] theorem Warp.putLanes_kguard (ls : Lanes) (k : Nat) : (w.putLanes ls k).kguard = w.kguard := by
  unfold Warp.putLanes
  induction bitList ls generalizing w with
  | nil => rfl
  | cons _ _ ih => rw [List.foldl_cons, ih]; rfl
@[simp] theorem Warp.putLanes_cur (ls : Lanes) (k : Nat) : (w.putLanes ls k).cur = w.cur := by
  unfold Warp.putLanes
  induction bitList ls generalizing w with
  | nil => rfl
  | cons _ _ ih => rw [List.foldl_cons, ih]; rfl
@[simp] theorem Warp.putLanes_acc (ls : Lanes) (k : Nat) : (w.putLanes ls k).acc = w.acc := by
  unfold Warp.putLanes
  induction bitList ls generalizing w with
  | nil => rfl
  | cons _ _ ih => rw [List.foldl_cons, ih]; rfl
@[simp] theorem Warp.putLanes_accPoison (ls : Lanes) (k : Nat) : (w.putLanes ls k).accPoison = w.accPoison := by
  unfold Warp.putLanes
  induction bitList ls generalizing w with
  | nil => rfl
  | cons _ _ ih => rw [List.foldl_cons, ih]; rfl
@[simp] theorem Warp.putLanes_csr (ls : Lanes) (k : Nat) : (w.putLanes ls k).csr = w.csr := by
  unfold Warp.putLanes
  induction bitList ls generalizing w with
  | nil => rfl
  | cons _ _ ih => rw [List.foldl_cons, ih]; rfl
@[simp] theorem Warp.putLanes_priv (ls : Lanes) (k : Nat) : (w.putLanes ls k).priv = w.priv := by
  unfold Warp.putLanes
  induction bitList ls generalizing w with
  | nil => rfl
  | cons _ _ ih => rw [List.foldl_cons, ih]; rfl
@[simp] theorem Warp.putLanes_tlpc (ls : Lanes) (k : Nat) : (w.putLanes ls k).tlpc = w.tlpc := by
  unfold Warp.putLanes
  induction bitList ls generalizing w with
  | nil => rfl
  | cons _ _ ih => rw [List.foldl_cons, ih]; rfl
@[simp] theorem Warp.putLanes_tlstate (ls : Lanes) (k : Nat) : (w.putLanes ls k).tlstate = w.tlstate := by
  unfold Warp.putLanes
  induction bitList ls generalizing w with
  | nil => rfl
  | cons _ _ ih => rw [List.foldl_cons, ih]; rfl
@[simp] theorem Warp.putLanes_sb (ls : Lanes) (k : Nat) : (w.putLanes ls k).sb = w.sb := by
  unfold Warp.putLanes
  induction bitList ls generalizing w with
  | nil => rfl
  | cons _ _ ih => rw [List.foldl_cons, ih]; rfl
@[simp] theorem Warp.putLanes_arr (ls : Lanes) (k : Nat) : (w.putLanes ls k).arr = w.arr := by
  unfold Warp.putLanes
  induction bitList ls generalizing w with
  | nil => rfl
  | cons _ _ ih => rw [List.foldl_cons, ih]; rfl
@[simp] theorem Warp.putLanes_marks (ls : Lanes) (k : Nat) : (w.putLanes ls k).marks = w.marks := by
  unfold Warp.putLanes
  induction bitList ls generalizing w with
  | nil => rfl
  | cons _ _ ih => rw [List.foldl_cons, ih]; rfl
@[simp] theorem Warp.putLanes_deferred (ls : Lanes) (k : Nat) : (w.putLanes ls k).deferred = w.deferred := by
  unfold Warp.putLanes
  induction bitList ls generalizing w with
  | nil => rfl
  | cons _ _ ih => rw [List.foldl_cons, ih]; rfl
@[simp] theorem Warp.putLanes_ops (ls : Lanes) (k : Nat) : (w.putLanes ls k).ops = w.ops := by
  unfold Warp.putLanes
  induction bitList ls generalizing w with
  | nil => rfl
  | cons _ _ ih => rw [List.foldl_cons, ih]; rfl
@[simp] theorem Warp.putLanes_ticket (ls : Lanes) (k : Nat) : (w.putLanes ls k).ticket = w.ticket := by
  unfold Warp.putLanes
  induction bitList ls generalizing w with
  | nil => rfl
  | cons _ _ ih => rw [List.foldl_cons, ih]; rfl
@[simp] theorem Warp.putLanes_streams (ls : Lanes) (k : Nat) : (w.putLanes ls k).streams = w.streams := by
  unfold Warp.putLanes
  induction bitList ls generalizing w with
  | nil => rfl
  | cons _ _ ih => rw [List.foldl_cons, ih]; rfl
@[simp] theorem Warp.putLanes_used (ls : Lanes) (k : Nat) : (w.putLanes ls k).used = w.used := by
  unfold Warp.putLanes
  induction bitList ls generalizing w with
  | nil => rfl
  | cons _ _ ih => rw [List.foldl_cons, ih]; rfl
@[simp] theorem Warp.putLanes_absent (ls : Lanes) (k : Nat) : (w.putLanes ls k).absent = w.absent := by
  unfold Warp.putLanes
  induction bitList ls generalizing w with
  | nil => rfl
  | cons _ _ ih => rw [List.foldl_cons, ih]; rfl
@[simp] theorem Warp.putLanes_frame (ls : Lanes) (k : Nat) : (w.putLanes ls k).frame = w.frame := by
  unfold Warp.putLanes
  induction bitList ls generalizing w with
  | nil => rfl
  | cons _ _ ih => rw [List.foldl_cons, ih]; rfl
@[simp] theorem Warp.putLanes_cycle (ls : Lanes) (k : Nat) : (w.putLanes ls k).cycle = w.cycle := by
  unfold Warp.putLanes
  induction bitList ls generalizing w with
  | nil => rfl
  | cons _ _ ih => rw [List.foldl_cons, ih]; rfl
@[simp] theorem Warp.putLanes_ahead (ls : Lanes) (k : Nat) : (w.putLanes ls k).ahead = w.ahead := by
  unfold Warp.putLanes
  induction bitList ls generalizing w with
  | nil => rfl
  | cons _ _ ih => rw [List.foldl_cons, ih]; rfl
@[simp] theorem Warp.putLanes_wait (ls : Lanes) (k : Nat) : (w.putLanes ls k).wait = w.wait := by
  unfold Warp.putLanes
  induction bitList ls generalizing w with
  | nil => rfl
  | cons _ _ ih => rw [List.foldl_cons, ih]; rfl
@[simp] theorem Warp.putLanes_call (ls : Lanes) (k : Nat) : (w.putLanes ls k).call = w.call := by
  unfold Warp.putLanes
  induction bitList ls generalizing w with
  | nil => rfl
  | cons _ _ ih => rw [List.foldl_cons, ih]; rfl
@[simp] theorem Warp.putLanes_regs (ls : Lanes) (k : Nat) : (w.putLanes ls k).regs = w.regs := by
  unfold Warp.putLanes
  induction bitList ls generalizing w with
  | nil => rfl
  | cons _ _ ih => rw [List.foldl_cons, ih]; rfl
@[simp] theorem Warp.putLanes_active (ls : Lanes) (k : Nat) : (w.putLanes ls k).active = w.active := by
  unfold Warp.putLanes
  induction bitList ls generalizing w with
  | nil => rfl
  | cons _ _ ih => rw [List.foldl_cons, ih]; rfl
@[simp] theorem Warp.putLanes_activeSince (ls : Lanes) (k : Nat) : (w.putLanes ls k).activeSince = w.activeSince := by
  unfold Warp.putLanes
  induction bitList ls generalizing w with
  | nil => rfl
  | cons _ _ ih => rw [List.foldl_cons, ih]; rfl
@[simp] theorem Warp.putLanes_outsideSince (ls : Lanes) (k : Nat) : (w.putLanes ls k).outsideSince = w.outsideSince := by
  unfold Warp.putLanes
  induction bitList ls generalizing w with
  | nil => rfl
  | cons _ _ ih => rw [List.foldl_cons, ih]; rfl
@[simp] theorem Warp.putLanes_idleSince (ls : Lanes) (k : Nat) : (w.putLanes ls k).idleSince = w.idleSince := by
  unfold Warp.putLanes
  induction bitList ls generalizing w with
  | nil => rfl
  | cons _ _ ih => rw [List.foldl_cons, ih]; rfl
@[simp] theorem Warp.putLanes_heldAt (ls : Lanes) (k : Nat) : (w.putLanes ls k).heldAt = w.heldAt := by
  unfold Warp.putLanes
  induction bitList ls generalizing w with
  | nil => rfl
  | cons _ _ ih => rw [List.foldl_cons, ih]; rfl
@[simp] theorem Warp.noteWrites_live (ds : List (Nat × Lanes)) : (ds.foldl (fun acc d => acc.noteWrite d.1 d.2) w).live = w.live := by
  induction ds generalizing w with
  | nil => rfl
  | cons _ _ ih => rw [List.foldl_cons, ih]; rfl
@[simp] theorem Warp.noteWrites_exited (ds : List (Nat × Lanes)) : (ds.foldl (fun acc d => acc.noteWrite d.1 d.2) w).exited = w.exited := by
  induction ds generalizing w with
  | nil => rfl
  | cons _ _ ih => rw [List.foldl_cons, ih]; rfl
@[simp] theorem Warp.noteWrites_id (ds : List (Nat × Lanes)) : (ds.foldl (fun acc d => acc.noteWrite d.1 d.2) w).id = w.id := by
  induction ds generalizing w with
  | nil => rfl
  | cons _ _ ih => rw [List.foldl_cons, ih]; rfl
@[simp] theorem Warp.noteWrites_ref (ds : List (Nat × Lanes)) : (ds.foldl (fun acc d => acc.noteWrite d.1 d.2) w).ref = w.ref := by
  induction ds generalizing w with
  | nil => rfl
  | cons _ _ ih => rw [List.foldl_cons, ih]; rfl
@[simp] theorem Warp.noteWrites_widx (ds : List (Nat × Lanes)) : (ds.foldl (fun acc d => acc.noteWrite d.1 d.2) w).widx = w.widx := by
  induction ds generalizing w with
  | nil => rfl
  | cons _ _ ih => rw [List.foldl_cons, ih]; rfl
@[simp] theorem Warp.noteWrites_ctx (ds : List (Nat × Lanes)) : (ds.foldl (fun acc d => acc.noteWrite d.1 d.2) w).ctx = w.ctx := by
  induction ds generalizing w with
  | nil => rfl
  | cons _ _ ih => rw [List.foldl_cons, ih]; rfl
@[simp] theorem Warp.noteWrites_taskId (ds : List (Nat × Lanes)) : (ds.foldl (fun acc d => acc.noteWrite d.1 d.2) w).taskId = w.taskId := by
  induction ds generalizing w with
  | nil => rfl
  | cons _ _ ih => rw [List.foldl_cons, ih]; rfl
@[simp] theorem Warp.noteWrites_cohortId (ds : List (Nat × Lanes)) : (ds.foldl (fun acc d => acc.noteWrite d.1 d.2) w).cohortId = w.cohortId := by
  induction ds generalizing w with
  | nil => rfl
  | cons _ _ ih => rw [List.foldl_cons, ih]; rfl
@[simp] theorem Warp.noteWrites_v (ds : List (Nat × Lanes)) : (ds.foldl (fun acc d => acc.noteWrite d.1 d.2) w).v = w.v := by
  induction ds generalizing w with
  | nil => rfl
  | cons _ _ ih => rw [List.foldl_cons, ih]; rfl
@[simp] theorem Warp.noteWrites_s (ds : List (Nat × Lanes)) : (ds.foldl (fun acc d => acc.noteWrite d.1 d.2) w).s = w.s := by
  induction ds generalizing w with
  | nil => rfl
  | cons _ _ ih => rw [List.foldl_cons, ih]; rfl
@[simp] theorem Warp.noteWrites_lpc (ds : List (Nat × Lanes)) : (ds.foldl (fun acc d => acc.noteWrite d.1 d.2) w).lpc = w.lpc := by
  induction ds generalizing w with
  | nil => rfl
  | cons _ _ ih => rw [List.foldl_cons, ih]; rfl
@[simp] theorem Warp.noteWrites_yaddr (ds : List (Nat × Lanes)) : (ds.foldl (fun acc d => acc.noteWrite d.1 d.2) w).yaddr = w.yaddr := by
  induction ds generalizing w with
  | nil => rfl
  | cons _ _ ih => rw [List.foldl_cons, ih]; rfl
@[simp] theorem Warp.noteWrites_seen (ds : List (Nat × Lanes)) : (ds.foldl (fun acc d => acc.noteWrite d.1 d.2) w).seen = w.seen := by
  induction ds generalizing w with
  | nil => rfl
  | cons _ _ ih => rw [List.foldl_cons, ih]; rfl
@[simp] theorem Warp.noteWrites_lstate (ds : List (Nat × Lanes)) : (ds.foldl (fun acc d => acc.noteWrite d.1 d.2) w).lstate = w.lstate := by
  induction ds generalizing w with
  | nil => rfl
  | cons _ _ ih => rw [List.foldl_cons, ih]; rfl
@[simp] theorem Warp.noteWrites_kdecl (ds : List (Nat × Lanes)) : (ds.foldl (fun acc d => acc.noteWrite d.1 d.2) w).kdecl = w.kdecl := by
  induction ds generalizing w with
  | nil => rfl
  | cons _ _ ih => rw [List.foldl_cons, ih]; rfl
@[simp] theorem Warp.noteWrites_ksigned (ds : List (Nat × Lanes)) : (ds.foldl (fun acc d => acc.noteWrite d.1 d.2) w).ksigned = w.ksigned := by
  induction ds generalizing w with
  | nil => rfl
  | cons _ _ ih => rw [List.foldl_cons, ih]; rfl
@[simp] theorem Warp.noteWrites_kaddr (ds : List (Nat × Lanes)) : (ds.foldl (fun acc d => acc.noteWrite d.1 d.2) w).kaddr = w.kaddr := by
  induction ds generalizing w with
  | nil => rfl
  | cons _ _ ih => rw [List.foldl_cons, ih]; rfl
@[simp] theorem Warp.noteWrites_kguard (ds : List (Nat × Lanes)) : (ds.foldl (fun acc d => acc.noteWrite d.1 d.2) w).kguard = w.kguard := by
  induction ds generalizing w with
  | nil => rfl
  | cons _ _ ih => rw [List.foldl_cons, ih]; rfl
@[simp] theorem Warp.noteWrites_cur (ds : List (Nat × Lanes)) : (ds.foldl (fun acc d => acc.noteWrite d.1 d.2) w).cur = w.cur := by
  induction ds generalizing w with
  | nil => rfl
  | cons _ _ ih => rw [List.foldl_cons, ih]; rfl
@[simp] theorem Warp.noteWrites_acc (ds : List (Nat × Lanes)) : (ds.foldl (fun acc d => acc.noteWrite d.1 d.2) w).acc = w.acc := by
  induction ds generalizing w with
  | nil => rfl
  | cons _ _ ih => rw [List.foldl_cons, ih]; rfl
@[simp] theorem Warp.noteWrites_accPoison (ds : List (Nat × Lanes)) : (ds.foldl (fun acc d => acc.noteWrite d.1 d.2) w).accPoison = w.accPoison := by
  induction ds generalizing w with
  | nil => rfl
  | cons _ _ ih => rw [List.foldl_cons, ih]; rfl
@[simp] theorem Warp.noteWrites_csr (ds : List (Nat × Lanes)) : (ds.foldl (fun acc d => acc.noteWrite d.1 d.2) w).csr = w.csr := by
  induction ds generalizing w with
  | nil => rfl
  | cons _ _ ih => rw [List.foldl_cons, ih]; rfl
@[simp] theorem Warp.noteWrites_priv (ds : List (Nat × Lanes)) : (ds.foldl (fun acc d => acc.noteWrite d.1 d.2) w).priv = w.priv := by
  induction ds generalizing w with
  | nil => rfl
  | cons _ _ ih => rw [List.foldl_cons, ih]; rfl
@[simp] theorem Warp.noteWrites_tlpc (ds : List (Nat × Lanes)) : (ds.foldl (fun acc d => acc.noteWrite d.1 d.2) w).tlpc = w.tlpc := by
  induction ds generalizing w with
  | nil => rfl
  | cons _ _ ih => rw [List.foldl_cons, ih]; rfl
@[simp] theorem Warp.noteWrites_tlstate (ds : List (Nat × Lanes)) : (ds.foldl (fun acc d => acc.noteWrite d.1 d.2) w).tlstate = w.tlstate := by
  induction ds generalizing w with
  | nil => rfl
  | cons _ _ ih => rw [List.foldl_cons, ih]; rfl
@[simp] theorem Warp.noteWrites_sb (ds : List (Nat × Lanes)) : (ds.foldl (fun acc d => acc.noteWrite d.1 d.2) w).sb = w.sb := by
  induction ds generalizing w with
  | nil => rfl
  | cons _ _ ih => rw [List.foldl_cons, ih]; rfl
@[simp] theorem Warp.noteWrites_deferred (ds : List (Nat × Lanes)) : (ds.foldl (fun acc d => acc.noteWrite d.1 d.2) w).deferred = w.deferred := by
  induction ds generalizing w with
  | nil => rfl
  | cons _ _ ih => rw [List.foldl_cons, ih]; rfl
@[simp] theorem Warp.noteWrites_ticket (ds : List (Nat × Lanes)) : (ds.foldl (fun acc d => acc.noteWrite d.1 d.2) w).ticket = w.ticket := by
  induction ds generalizing w with
  | nil => rfl
  | cons _ _ ih => rw [List.foldl_cons, ih]; rfl
@[simp] theorem Warp.noteWrites_streams (ds : List (Nat × Lanes)) : (ds.foldl (fun acc d => acc.noteWrite d.1 d.2) w).streams = w.streams := by
  induction ds generalizing w with
  | nil => rfl
  | cons _ _ ih => rw [List.foldl_cons, ih]; rfl
@[simp] theorem Warp.noteWrites_used (ds : List (Nat × Lanes)) : (ds.foldl (fun acc d => acc.noteWrite d.1 d.2) w).used = w.used := by
  induction ds generalizing w with
  | nil => rfl
  | cons _ _ ih => rw [List.foldl_cons, ih]; rfl
@[simp] theorem Warp.noteWrites_frame (ds : List (Nat × Lanes)) : (ds.foldl (fun acc d => acc.noteWrite d.1 d.2) w).frame = w.frame := by
  induction ds generalizing w with
  | nil => rfl
  | cons _ _ ih => rw [List.foldl_cons, ih]; rfl
@[simp] theorem Warp.noteWrites_cycle (ds : List (Nat × Lanes)) : (ds.foldl (fun acc d => acc.noteWrite d.1 d.2) w).cycle = w.cycle := by
  induction ds generalizing w with
  | nil => rfl
  | cons _ _ ih => rw [List.foldl_cons, ih]; rfl
@[simp] theorem Warp.noteWrites_ahead (ds : List (Nat × Lanes)) : (ds.foldl (fun acc d => acc.noteWrite d.1 d.2) w).ahead = w.ahead := by
  induction ds generalizing w with
  | nil => rfl
  | cons _ _ ih => rw [List.foldl_cons, ih]; rfl
@[simp] theorem Warp.noteWrites_wait (ds : List (Nat × Lanes)) : (ds.foldl (fun acc d => acc.noteWrite d.1 d.2) w).wait = w.wait := by
  induction ds generalizing w with
  | nil => rfl
  | cons _ _ ih => rw [List.foldl_cons, ih]; rfl
@[simp] theorem Warp.noteWrites_call (ds : List (Nat × Lanes)) : (ds.foldl (fun acc d => acc.noteWrite d.1 d.2) w).call = w.call := by
  induction ds generalizing w with
  | nil => rfl
  | cons _ _ ih => rw [List.foldl_cons, ih]; rfl
@[simp] theorem Warp.noteWrites_regs (ds : List (Nat × Lanes)) : (ds.foldl (fun acc d => acc.noteWrite d.1 d.2) w).regs = w.regs := by
  induction ds generalizing w with
  | nil => rfl
  | cons _ _ ih => rw [List.foldl_cons, ih]; rfl
@[simp] theorem Warp.noteWrites_active (ds : List (Nat × Lanes)) : (ds.foldl (fun acc d => acc.noteWrite d.1 d.2) w).active = w.active := by
  induction ds generalizing w with
  | nil => rfl
  | cons _ _ ih => rw [List.foldl_cons, ih]; rfl
@[simp] theorem Warp.noteWrites_activeSince (ds : List (Nat × Lanes)) : (ds.foldl (fun acc d => acc.noteWrite d.1 d.2) w).activeSince = w.activeSince := by
  induction ds generalizing w with
  | nil => rfl
  | cons _ _ ih => rw [List.foldl_cons, ih]; rfl
@[simp] theorem Warp.noteWrites_outsideSince (ds : List (Nat × Lanes)) : (ds.foldl (fun acc d => acc.noteWrite d.1 d.2) w).outsideSince = w.outsideSince := by
  induction ds generalizing w with
  | nil => rfl
  | cons _ _ ih => rw [List.foldl_cons, ih]; rfl
@[simp] theorem Warp.noteWrites_idleSince (ds : List (Nat × Lanes)) : (ds.foldl (fun acc d => acc.noteWrite d.1 d.2) w).idleSince = w.idleSince := by
  induction ds generalizing w with
  | nil => rfl
  | cons _ _ ih => rw [List.foldl_cons, ih]; rfl
@[simp] theorem Warp.noteWrites_heldAt (ds : List (Nat × Lanes)) : (ds.foldl (fun acc d => acc.noteWrite d.1 d.2) w).heldAt = w.heldAt := by
  induction ds generalizing w with
  | nil => rfl
  | cons _ _ ih => rw [List.foldl_cons, ih]; rfl
@[simp] theorem Warp.writeRegs_live (vv : List (Nat × W32)) (sv : List (Nat × W64)) : (w.writeRegs vv sv).live = w.live := by simp [Warp.writeRegs]
@[simp] theorem Warp.writeRegs_exited (vv : List (Nat × W32)) (sv : List (Nat × W64)) : (w.writeRegs vv sv).exited = w.exited := by simp [Warp.writeRegs]
@[simp] theorem Warp.writeRegs_id (vv : List (Nat × W32)) (sv : List (Nat × W64)) : (w.writeRegs vv sv).id = w.id := by simp [Warp.writeRegs]
@[simp] theorem Warp.writeRegs_ref (vv : List (Nat × W32)) (sv : List (Nat × W64)) : (w.writeRegs vv sv).ref = w.ref := by simp [Warp.writeRegs]
@[simp] theorem Warp.writeRegs_widx (vv : List (Nat × W32)) (sv : List (Nat × W64)) : (w.writeRegs vv sv).widx = w.widx := by simp [Warp.writeRegs]
@[simp] theorem Warp.writeRegs_ctx (vv : List (Nat × W32)) (sv : List (Nat × W64)) : (w.writeRegs vv sv).ctx = w.ctx := by simp [Warp.writeRegs]
@[simp] theorem Warp.writeRegs_taskId (vv : List (Nat × W32)) (sv : List (Nat × W64)) : (w.writeRegs vv sv).taskId = w.taskId := by simp [Warp.writeRegs]
@[simp] theorem Warp.writeRegs_cohortId (vv : List (Nat × W32)) (sv : List (Nat × W64)) : (w.writeRegs vv sv).cohortId = w.cohortId := by simp [Warp.writeRegs]
@[simp] theorem Warp.writeRegs_lpc (vv : List (Nat × W32)) (sv : List (Nat × W64)) : (w.writeRegs vv sv).lpc = w.lpc := by simp [Warp.writeRegs]
@[simp] theorem Warp.writeRegs_yaddr (vv : List (Nat × W32)) (sv : List (Nat × W64)) : (w.writeRegs vv sv).yaddr = w.yaddr := by simp [Warp.writeRegs]
@[simp] theorem Warp.writeRegs_seen (vv : List (Nat × W32)) (sv : List (Nat × W64)) : (w.writeRegs vv sv).seen = w.seen := by simp [Warp.writeRegs]
@[simp] theorem Warp.writeRegs_lstate (vv : List (Nat × W32)) (sv : List (Nat × W64)) : (w.writeRegs vv sv).lstate = w.lstate := by simp [Warp.writeRegs]
@[simp] theorem Warp.writeRegs_kdecl (vv : List (Nat × W32)) (sv : List (Nat × W64)) : (w.writeRegs vv sv).kdecl = w.kdecl := by simp [Warp.writeRegs]
@[simp] theorem Warp.writeRegs_ksigned (vv : List (Nat × W32)) (sv : List (Nat × W64)) : (w.writeRegs vv sv).ksigned = w.ksigned := by simp [Warp.writeRegs]
@[simp] theorem Warp.writeRegs_kaddr (vv : List (Nat × W32)) (sv : List (Nat × W64)) : (w.writeRegs vv sv).kaddr = w.kaddr := by simp [Warp.writeRegs]
@[simp] theorem Warp.writeRegs_kguard (vv : List (Nat × W32)) (sv : List (Nat × W64)) : (w.writeRegs vv sv).kguard = w.kguard := by simp [Warp.writeRegs]
@[simp] theorem Warp.writeRegs_cur (vv : List (Nat × W32)) (sv : List (Nat × W64)) : (w.writeRegs vv sv).cur = w.cur := by simp [Warp.writeRegs]
@[simp] theorem Warp.writeRegs_acc (vv : List (Nat × W32)) (sv : List (Nat × W64)) : (w.writeRegs vv sv).acc = w.acc := by simp [Warp.writeRegs]
@[simp] theorem Warp.writeRegs_accPoison (vv : List (Nat × W32)) (sv : List (Nat × W64)) : (w.writeRegs vv sv).accPoison = w.accPoison := by simp [Warp.writeRegs]
@[simp] theorem Warp.writeRegs_csr (vv : List (Nat × W32)) (sv : List (Nat × W64)) : (w.writeRegs vv sv).csr = w.csr := by simp [Warp.writeRegs]
@[simp] theorem Warp.writeRegs_priv (vv : List (Nat × W32)) (sv : List (Nat × W64)) : (w.writeRegs vv sv).priv = w.priv := by simp [Warp.writeRegs]
@[simp] theorem Warp.writeRegs_tlpc (vv : List (Nat × W32)) (sv : List (Nat × W64)) : (w.writeRegs vv sv).tlpc = w.tlpc := by simp [Warp.writeRegs]
@[simp] theorem Warp.writeRegs_tlstate (vv : List (Nat × W32)) (sv : List (Nat × W64)) : (w.writeRegs vv sv).tlstate = w.tlstate := by simp [Warp.writeRegs]
@[simp] theorem Warp.writeRegs_sb (vv : List (Nat × W32)) (sv : List (Nat × W64)) : (w.writeRegs vv sv).sb = w.sb := by simp [Warp.writeRegs]
@[simp] theorem Warp.writeRegs_deferred (vv : List (Nat × W32)) (sv : List (Nat × W64)) : (w.writeRegs vv sv).deferred = w.deferred := by simp [Warp.writeRegs]
@[simp] theorem Warp.writeRegs_ticket (vv : List (Nat × W32)) (sv : List (Nat × W64)) : (w.writeRegs vv sv).ticket = w.ticket := by simp [Warp.writeRegs]
@[simp] theorem Warp.writeRegs_streams (vv : List (Nat × W32)) (sv : List (Nat × W64)) : (w.writeRegs vv sv).streams = w.streams := by simp [Warp.writeRegs]
@[simp] theorem Warp.writeRegs_used (vv : List (Nat × W32)) (sv : List (Nat × W64)) : (w.writeRegs vv sv).used = w.used := by simp [Warp.writeRegs]
@[simp] theorem Warp.writeRegs_frame (vv : List (Nat × W32)) (sv : List (Nat × W64)) : (w.writeRegs vv sv).frame = w.frame := by simp [Warp.writeRegs]
@[simp] theorem Warp.writeRegs_cycle (vv : List (Nat × W32)) (sv : List (Nat × W64)) : (w.writeRegs vv sv).cycle = w.cycle := by simp [Warp.writeRegs]
@[simp] theorem Warp.writeRegs_ahead (vv : List (Nat × W32)) (sv : List (Nat × W64)) : (w.writeRegs vv sv).ahead = w.ahead := by simp [Warp.writeRegs]
@[simp] theorem Warp.writeRegs_wait (vv : List (Nat × W32)) (sv : List (Nat × W64)) : (w.writeRegs vv sv).wait = w.wait := by simp [Warp.writeRegs]
@[simp] theorem Warp.writeRegs_call (vv : List (Nat × W32)) (sv : List (Nat × W64)) : (w.writeRegs vv sv).call = w.call := by simp [Warp.writeRegs]
@[simp] theorem Warp.writeRegs_regs (vv : List (Nat × W32)) (sv : List (Nat × W64)) : (w.writeRegs vv sv).regs = w.regs := by simp [Warp.writeRegs]
@[simp] theorem Warp.writeRegs_active (vv : List (Nat × W32)) (sv : List (Nat × W64)) : (w.writeRegs vv sv).active = w.active := by simp [Warp.writeRegs]
@[simp] theorem Warp.writeRegs_activeSince (vv : List (Nat × W32)) (sv : List (Nat × W64)) : (w.writeRegs vv sv).activeSince = w.activeSince := by simp [Warp.writeRegs]
@[simp] theorem Warp.writeRegs_outsideSince (vv : List (Nat × W32)) (sv : List (Nat × W64)) : (w.writeRegs vv sv).outsideSince = w.outsideSince := by simp [Warp.writeRegs]
@[simp] theorem Warp.writeRegs_idleSince (vv : List (Nat × W32)) (sv : List (Nat × W64)) : (w.writeRegs vv sv).idleSince = w.idleSince := by simp [Warp.writeRegs]
@[simp] theorem Warp.writeRegs_heldAt (vv : List (Nat × W32)) (sv : List (Nat × W64)) : (w.writeRegs vv sv).heldAt = w.heldAt := by simp [Warp.writeRegs]
@[simp] theorem Warp.writeRegs_v (vv : List (Nat × W32)) (sv : List (Nat × W64)) : (w.writeRegs vv sv).v = w.v.setMany vv := by simp [Warp.writeRegs]
@[simp] theorem Warp.writeRegs_s (vv : List (Nat × W32)) (sv : List (Nat × W64)) : (w.writeRegs vv sv).s = w.s.setMany sv := by simp [Warp.writeRegs]

end Sys2Proof.Machine
end

