-- ==== Sys2Proof/Laws/Store.lean ====
section
/-!
SUPPORT. The laws of the sparse stores: a read after a write, and that every operation keeps the canonical form.
-/
namespace Sys2Proof

variable {n : Nat}

theorem Store.get_del_same (m : Store n) (q : Nat) : (m.del q).get q = 0 := by
  induction m with
  | nil => rfl
  | cons p r ih => obtain ⟨k, x⟩ := p; simp only [Store.del]; split <;> simp_all [Store.get]

theorem Store.get_del_other (m : Store n) {q k : Nat} (h : k ≠ q) : (m.del q).get k = m.get k := by
  induction m with
  | nil => rfl
  | cons p r ih =>
    obtain ⟨j, x⟩ := p
    simp only [Store.del, Store.get]
    split
    · rw [ih]; split
      · omega
      · rfl
    · simp only [Store.get, ih]

theorem Store.get_ins_same (m : Store n) (q : Nat) (y : BitVec n) (h : ∀ p ∈ m, p.1 ≠ q) : (m.ins q y).get q = y := by
  induction m with
  | nil => simp [Store.ins, Store.get]
  | cons p r ih =>
    obtain ⟨k, x⟩ := p
    have hk : k ≠ q := h (k, x) (by simp)
    have hr := ih (fun p hp => h p (by simp [hp]))
    simp only [Store.ins]
    split
    · simp [Store.get]
    · simp only [Store.get, hr]
      split
      · omega
      · rfl

theorem Store.get_ins_other (m : Store n) {q k : Nat} (y : BitVec n) (h : k ≠ q) : (m.ins q y).get k = m.get k := by
  induction m with
  | nil => simp [Store.ins, Store.get, h]
  | cons p r ih =>
    obtain ⟨j, x⟩ := p
    simp only [Store.ins]
    split
    · simp [Store.get, h]
    · simp only [Store.get, ih]

theorem Store.not_mem_del (m : Store n) (q : Nat) : ∀ p ∈ m.del q, p.1 ≠ q := by
  induction m with
  | nil => simp [Store.del]
  | cons p r ih =>
    obtain ⟨k, x⟩ := p
    simp only [Store.del]
    split
    · exact ih
    · intro p hp
      rcases List.mem_cons.1 hp with rfl | hp
      · exact fun e => absurd e.symm ‹_›
      · exact ih p hp

/-- Reading the key just written. -/
@[simp] theorem Store.get_set_same (m : Store n) (q : Nat) (y : BitVec n) : (m.set q y).get q = y := by
  simp only [Store.set]
  split
  · rename_i h; rw [Store.get_del_same, h]
  · exact Store.get_ins_same _ _ _ (Store.not_mem_del m q)

/-- Reading another key. -/
theorem Store.get_set_other (m : Store n) {q k : Nat} (y : BitVec n) (h : k ≠ q) : (m.set q y).get k = m.get k := by
  simp only [Store.set]
  split
  · exact Store.get_del_other m h
  · rw [Store.get_ins_other _ _ h, Store.get_del_other m h]

theorem Store.get_set (m : Store n) (q k : Nat) (y : BitVec n) : (m.set q y).get k = if k = q then y else m.get k := by
  split
  · next h => subst h; simp
  · next h => exact Store.get_set_other m y h

/-- A key that no write of a list names. -/
theorem Store.get_setMany_other (ws : List (Nat × BitVec n)) (m : Store n) {k : Nat} (h : ∀ p ∈ ws, p.1 ≠ k) : (m.setMany ws).get k = m.get k := by
  induction ws generalizing m with
  | nil => rfl
  | cons p r ih =>
    show ((m.set p.1 p.2).setMany r).get k = _
    rw [ih _ (fun q hq => h q (by simp [hq])), Store.get_set_other _ _ (fun e => h p (by simp) e.symm)]

/-- A key that writes of a list name with one value. -/
theorem Store.get_setMany_mem (ws : List (Nat × BitVec n)) (m : Store n) {k : Nat} {x : BitVec n} (hm : k ∈ ws.map Prod.fst)
    (h : ∀ p ∈ ws, p.1 = k → p.2 = x) : (m.setMany ws).get k = x := by
  induction ws generalizing m with
  | nil => simp at hm
  | cons p r ih =>
    show ((m.set p.1 p.2).setMany r).get k = _
    by_cases hk : k ∈ r.map Prod.fst
    · exact ih _ hk (fun q hq => h q (by simp [hq]))
    · rw [Store.get_setMany_other r _ (fun q hq e => hk (by rw [← e]; exact List.mem_map_of_mem hq))]
      have hp : p.1 = k := by
        rcases List.mem_map.1 hm with ⟨q, hq, e⟩
        rcases List.mem_cons.1 hq with rfl | hq
        · exact e
        · exact absurd (e ▸ List.mem_map_of_mem hq) hk
      rw [← hp, Store.get_set_same]
      exact h p (by simp) hp

/-! The canonical form. -/

theorem keyOver_mono {lo : Option Nat} {k q : Nat} (h : keyOver lo k = true) (hq : k ≤ q) : keyOver lo q = true := by
  cases lo with
  | none => rfl
  | some a => simp only [keyOver, decide_eq_true_eq] at *; omega

theorem Store.above_mono {lo : Option Nat} {k : Nat} (m : Store n) (h : Store.above (some k) m = true) (hl : keyOver lo k = true) :
    Store.above lo m = true := by
  cases m with
  | nil => rfl
  | cons p r =>
    obtain ⟨j, x⟩ := p
    simp only [Store.above, Bool.and_eq_true] at h ⊢
    refine ⟨⟨keyOver_mono hl ?_, h.1.2⟩, h.2⟩
    have := h.1.1
    simp only [keyOver, decide_eq_true_eq] at this
    omega

theorem Store.above_del (m : Store n) (q : Nat) (lo : Option Nat) (h : Store.above lo m = true) : Store.above lo (m.del q) = true := by
  induction m generalizing lo with
  | nil => rfl
  | cons p r ih =>
    obtain ⟨k, x⟩ := p
    simp only [Store.above, Bool.and_eq_true] at h
    simp only [Store.del]
    split
    · exact ih lo (Store.above_mono r h.2 h.1.1)
    · simp only [Store.above, Bool.and_eq_true]
      exact ⟨h.1, ih _ h.2⟩

theorem Store.above_ins (m : Store n) (q : Nat) (y : BitVec n) (hy : (y != 0) = true) (lo : Option Nat) (hq : keyOver lo q = true)
    (hn : ∀ p ∈ m, p.1 ≠ q) (h : Store.above lo m = true) : Store.above lo (m.ins q y) = true := by
  induction m generalizing lo with
  | nil => simp only [Store.ins, Store.above, Bool.and_eq_true]; exact ⟨⟨hq, hy⟩, trivial⟩
  | cons p r ih =>
    obtain ⟨k, x⟩ := p
    have hk : k ≠ q := hn (k, x) (by simp)
    simp only [Store.above, Bool.and_eq_true] at h
    simp only [Store.ins]
    split
    · simp only [Store.above, Bool.and_eq_true]
      exact ⟨⟨hq, hy⟩, ⟨by simpa [keyOver], h.1.2⟩, h.2⟩
    · simp only [Store.above, Bool.and_eq_true]
      refine ⟨h.1, ih (some k) ?_ (fun p hp => hn p (by simp [hp])) h.2⟩
      simp only [keyOver, decide_eq_true_eq]; omega

/-- A write keeps the canonical form. -/
theorem Store.wf_set (m : Store n) (q : Nat) (y : BitVec n) (h : m.wf = true) : (m.set q y).wf = true := by
  simp only [Store.wf, Store.set] at *
  split
  · exact Store.above_del m q none h
  · exact Store.above_ins _ q y (by simpa using ‹¬y = 0›) none rfl (Store.not_mem_del m q) (Store.above_del m q none h)

/-- Writing several keys keeps it. -/
theorem Store.wf_setMany (ws : List (Nat × BitVec n)) (m : Store n) (h : m.wf = true) : (m.setMany ws).wf = true := by
  induction ws generalizing m with
  | nil => exact h
  | cons p r ih => exact ih _ (Store.wf_set m _ _ h)

theorem Store.above_filter (m : Store n) (f : Nat × BitVec n → Bool) (lo : Option Nat) (h : Store.above lo m = true) : Store.above lo (m.filter f) = true := by
  induction m generalizing lo with
  | nil => rfl
  | cons p r ih =>
    obtain ⟨k, x⟩ := p
    simp only [Store.above, Bool.and_eq_true] at h
    rw [List.filter_cons]
    split
    · simp only [Store.above, Bool.and_eq_true]
      exact ⟨h.1, ih _ h.2⟩
    · exact ih lo (Store.above_mono r h.2 h.1.1)

/-- Keeping some of the pairs keeps it. -/
theorem Store.wf_filter (m : Store n) (f : Nat × BitVec n → Bool) (h : m.wf = true) : Store.wf (m.filter f) = true := Store.above_filter m f none h

/-- Dropping a range of keys keeps it. -/
theorem Store.wf_dropRange (m : Store n) (lo hi : Nat) (h : m.wf = true) : (m.dropRange lo hi).wf = true := Store.above_filter m _ none h

theorem Store.wf_nil : Store.wf ([] : Store n) = true := rfl

end Sys2Proof
end

