-- ==== Sys2Proof/Laws/Issue.lean ====
section
/-!
SUPPORT. What the issue of an instruction does, said once: where nothing stands in its way it is its effect and the end of it, and the end
writes the registers, moves the lanes on and touches nothing else.
-/
namespace Sys2Proof.Machine

theorem bitList_lt {n : Nat} {x : BitVec n} {i : Nat} (h : i ∈ bitList x) : i < n := by
  simp only [bitList, List.mem_filter, List.mem_range] at h; exact h.1

@[simp] theorem mem_bitList {n : Nat} {x : BitVec n} {i : Nat} : i ∈ bitList x ↔ x.getLsbD i = true := by
  simp only [bitList, List.mem_filter, List.mem_range, and_iff_right_iff_imp]
  exact fun h => BitVec.lt_of_getLsbD h

theorem bitList_nodup {n : Nat} (x : BitVec n) : (bitList x).Nodup := List.Nodup.filter _ List.nodup_range

theorem getLsbD_foldl_or {n : Nat} (l : List Nat) (z : BitVec n) (i : Nat) (hi : i < n) :
    (l.foldl (fun acc k => acc ||| BitVec.ofNat n (2 ^ k)) z).getLsbD i = (z.getLsbD i || l.contains i) := by
  induction l generalizing z with
  | nil => simp
  | cons k r ih =>
    rw [List.foldl_cons, ih]
    have : (BitVec.ofNat n (2 ^ k)).getLsbD i = decide (i = k) := by
      rw [BitVec.getLsbD_ofNat, Nat.testBit_two_pow]; simp [hi, eq_comm]
    rw [BitVec.getLsbD_or, this, List.contains_cons, Bool.or_assoc]
    congr 2

/-- A bit of a set made of a list is set where the list has it. -/
@[simp] theorem getLsbD_ofBits {n : Nat} (l : List Nat) (i : Nat) : (ofBits n l).getLsbD i = (decide (i < n) && l.contains i) := by
  by_cases hi : i < n
  · rw [ofBits, getLsbD_foldl_or l 0 i hi]; simp [hi]
  · simp [hi, BitVec.getLsbD_of_ge _ _ (Nat.le_of_not_lt hi)]

/-- No result is due: delivering those that are changes nothing. -/
theorem Warp.deliverDue_of_pending {w : Warp} (h : w.ops.all (fun o => o.pending w.cycle) = true) : w.deliverDue = w := by
  have : w.ops.filter (fun o => !o.pending w.cycle) = [] := by
    rw [List.filter_eq_nil_iff]; intro o ho; simp [List.all_eq_true.mp h o ho]
  simp [Warp.deliverDue, this]

/-- A settled register is not read early. -/
theorem Warp.early_of_settled {w : Warp} {r : Nat} (l : Nat) (h : w.settled r = true) : w.early r l = false := by
  simp only [Warp.settled, Bool.and_eq_true, Bool.not_eq_true', List.any_eq_false] at h
  simp only [Warp.early, List.any_eq_false]
  intro o ho
  have := h.2 o ho
  simp only [Bool.not_eq_true, Bool.and_eq_false_imp, List.any_eq_true]
  rintro ⟨d, hd, h1⟩
  simp only [Bool.and_eq_true] at h1
  exact absurd (List.any_eq_true.mpr ⟨d, hd, h1.1⟩) this

theorem earlyLanes_of_settled {w : Warp} {rs : List Nat} (ls : Nat → Lanes) (h : rs.all w.settled = true) : earlyLanes w rs ls = 0 := by
  unfold earlyLanes
  have key : ∀ r ∈ rs, ofBits 32 ((bitList (reached r (ls r))).filter (fun l => w.early r l)) = 0 := by
    intro r hr
    have hs := List.all_eq_true.mp h r hr
    have : (bitList (reached r (ls r))).filter (fun l => w.early r l) = [] := by
      rw [List.filter_eq_nil_iff]; intro l _; simp [Warp.early_of_settled l hs]
    rw [this]; rfl
  clear h
  induction rs with
  | nil => rfl
  | cons r t ih =>
    rw [List.foldl_cons, key r (List.mem_cons_self ..)]
    exact ih (fun q hq => key q (List.mem_cons_of_mem _ hq))

theorem firstMark_of_settled {w : Warp} {rs : List Nat} (ls : Nat → Lanes) (h : rs.all w.settled = true) : firstMark w rs ls = none := by
  unfold firstMark
  have : w.marks.filter (fun k => rs.contains k.reg && k.lanes &&& reached k.reg (ls k.reg) != 0) = [] := by
    rw [List.filter_eq_nil_iff]
    intro k hk hc
    simp only [Bool.and_eq_true, List.contains_iff_mem] at hc
    have hs := List.all_eq_true.mp h k.reg hc.1
    simp only [Warp.settled, Bool.and_eq_true, Bool.not_eq_true', List.any_eq_false] at hs
    exact hs.1 k hk (by simp)
  dsimp only
  rw [this]; rfl

theorem anyArmed_of_reachable {w : Warp} {rs : List Nat} (h : rs.all w.reachable = true) : anyArmed w rs = false := by
  simp only [anyArmed, List.any_eq_false]
  intro r hr
  have := List.all_eq_true.mp h r hr
  simp_all [Warp.reachable]

theorem anyAbsent_of_reachable {w : Warp} {rs : List Nat} (h : rs.all w.reachable = true) : anyAbsent w rs = false := by
  simp only [anyAbsent, List.any_eq_false]
  intro r hr
  have := List.all_eq_true.mp h r hr
  simp_all [Warp.reachable]

/-- What `clear` says of an instruction whose entry in the opcode map is known. -/
structure ClearFacts (s : State) (i : Instr) (ent : OpEntry) (f : Fields) : Prop where
  issuable : s.w.issuable = true
  pending : s.w.ops.all (fun o => o.pending s.w.cycle) = true
  pre : preFault s.w i f ent = none
  slots : slotHeld s.w f = false
  deferred : s.w.deferred = []
  reach : (guardRegs f ++ readsOf i f ++ writesOf i f).all s.w.reachable = true
  settle : (guardRegs f ++ readsOf i f).all s.w.settled = true
  spill : anySpilling s.w (changesOf i f) = false
  lanes : (s.issueAt ent.opc f).g ≠ 0

theorem State.clear_facts {s : State} {i : Instr} {ent : OpEntry} {f : Fields} (he : opEntry i = some (ent, f)) (h : s.clear i = true) :
    ClearFacts s i ent f := by
  simp only [State.clear, he, Bool.and_eq_true, bne_iff_ne, Bool.not_eq_true', Option.isNone_iff_eq_none, List.isEmpty_iff] at h
  exact ⟨h.1.1.1.1.1.1.1.1, h.1.1.1.1.1.1.1.2, h.1.1.1.1.1.1.2, h.1.1.1.1.1.2, h.1.1.1.1.2, h.1.1.1.2, h.1.1.2, h.1.2, h.2⟩

/-- An instruction that issues with nothing in its way does its effect. -/
theorem issueWith_clear {s : State} {i : Instr} {ent : OpEntry} {f : Fields} (k : Ctx → State → State) (h : ClearFacts s i ent f) :
    issueWith i f ent s k = k (s.issueAt ent.opc f) s := by
  obtain ⟨h1, h2, h3, h4, h5, h6, -, -, -⟩ := h
  have hg : (guardRegs f).all s.w.reachable = true := by
    simp only [List.all_append, Bool.and_eq_true] at h6; exact h6.1.1
  have hd : s.updW Warp.deliverDue = s := by simp [State.updW, Warp.deliverDue_of_pending h2]
  simp [issueWith, h1, hd, h3, h4, anyArmed_of_reachable hg, anyAbsent_of_reachable hg, slotFault, h5, State.issueAt]

/-- Settled registers raise nothing when they are read. -/
theorem Ctx.readFault_of_settled (c : Ctx) {w : Warp} {rs : List Nat} (ls : Nat → Lanes) (h : (guardRegs c.f ++ rs).all w.settled = true) :
    c.readFault w rs ls = none := by
  simp [Ctx.readFault, firstMark_of_settled _ h, earlyLanes_of_settled _ h]

theorem mem_of_partialWrites {i : Instr} {rs : List Nat} {g : Lanes} {x : Nat} (h : x ∈ partialWrites i rs g) : x ∈ rs := by
  unfold partialWrites at h
  dsimp only at h
  repeat' split at h
  all_goals first | exact (List.mem_filter.mp h).1 | simp at h

/-- The effect that an instruction with nothing in its way has, and its end. -/
theorem runWarp_clear {s : State} {i : Instr} {ent : OpEntry} {f : Fields} (pl : Plan) (eff : Ctx → State → Eff)
    (he : opEntry i = some (ent, f)) (h : s.clear i = true) :
    runWarp i pl eff s =
      match eff (s.issueAt ent.opc f) (s.consumed i) with
      | .ok r => (s.issueAt ent.opc f).finish pl.lat r
      | .hold g => (g s).held
      | .fault x g => if x.code = 0 then s.held else (g s).raise x := by
  have hf := State.clear_facts he h
  have h6 := hf.reach
  simp only [List.all_append, Bool.and_eq_true] at h6
  have hrw : (readsOf i f ++ writesOf i f).all s.w.reachable = true := by simp [h6]
  have hrp (g : Lanes) : (readsOf i f ++ partialWrites i (writesOf i f) g).all s.w.reachable = true := by
    simp only [List.all_append, Bool.and_eq_true, h6, true_and]
    exact List.all_eq_true.mpr (fun x hx => List.all_eq_true.mp h6.2 x (mem_of_partialWrites hx))
  have hfields : (s.issueAt ent.opc f).f = f := rfl
  simp only [runWarp, he, issueWith_clear _ hf]
  rw [if_neg hf.lanes]
  simp only [runEffect, hfields, anyArmed_of_reachable hrw, anyAbsent_of_reachable (hrp _), hf.spill, Bool.or_self, Bool.false_eq_true, if_false,
    hf.deferred, List.head?_nil, ite_self, Ctx.readFault_of_settled (s.issueAt ent.opc f) _ hf.settle, State.consumed, he] <;> rfl

/-- Writing one value a lane at keys by lane. -/
theorem Store.get_setMany_lanes {n : Nat} (m : Store n) (ls : Lanes) (h : Nat → BitVec n) (l : Nat) :
    (m.setMany ((bitList ls).map (fun k => (k, h k)))).get l = if ls.getLsbD l then h l else m.get l := by
  split
  · next hl =>
    refine Store.get_setMany_mem _ _ (List.mem_map.mpr ⟨(l, h l), List.mem_map.mpr ⟨l, by simpa using hl, rfl⟩, rfl⟩) ?_
    intro p hp e
    obtain ⟨k, -, rfl⟩ := List.mem_map.mp hp
    simp only at e; rw [e]
  · next hl =>
    refine Store.get_setMany_other _ _ ?_
    intro p hp e
    obtain ⟨k, hk, rfl⟩ := List.mem_map.mp hp
    simp only at e; subst e; exact hl (by simpa using hk)

/-- Writing one value a lane to a vector register. -/
theorem Store.get_setMany_vreg {n : Nat} (m : Store n) (ls : Lanes) (d : Nat) (h : Nat → BitVec n) (hls : ∀ k, ls.getLsbD k → k < 32) {r l : Nat} (hl : l < 32) :
    (m.setMany ((bitList ls).map (fun k => (d * 32 + k, h k)))).get (r * 32 + l) = if ls.getLsbD l ∧ r = d then h l else m.get (r * 32 + l) := by
  split
  · next hc =>
    obtain ⟨h1, rfl⟩ := hc
    refine Store.get_setMany_mem _ _ (List.mem_map.mpr ⟨(r * 32 + l, h l), List.mem_map.mpr ⟨l, by simpa using h1, rfl⟩, rfl⟩) ?_
    intro p hp e
    obtain ⟨k, -, rfl⟩ := List.mem_map.mp hp
    have : k = l := by simp only at e; omega
    rw [this]
  · next hc =>
    refine Store.get_setMany_other _ _ ?_
    intro p hp e
    obtain ⟨k, hk, rfl⟩ := List.mem_map.mp hp
    have hk' := mem_bitList.mp hk
    have := hls k hk'
    simp only at e
    have h1 : r = d := by omega
    have h2 : k = l := by omega
    exact hc ⟨h2 ▸ hk', h1⟩

theorem Lanes.lt {ls : Lanes} {k : Nat} (h : ls.getLsbD k = true) : k < 32 := BitVec.lt_of_getLsbD h

/-- The lanes at an address have it as their program counter, and run. -/
theorem Warp.lpc_of_lanesAt {w : Warp} {p : W32} {l : Nat} (h : (w.lanesAt p).getLsbD l = true) : w.lpc.get l = p := by
  simp only [Warp.lanesAt, getLsbD_ofBits, Bool.and_eq_true, List.contains_iff_mem, List.mem_filter, beq_iff_eq] at h
  exact h.2.2

/-- The executing lanes of an issue are among those at its address. -/
theorem State.issueAt_sub {s : State} {opc : Nat} {f : Fields} {l : Nat} (h : (s.issueAt opc f).g.getLsbD l = true) : (s.issueAt opc f).x.getLsbD l = true := by
  simp only [State.issueAt, State.guardLanes, getLsbD_ofBits, Bool.and_eq_true, List.contains_iff_mem, List.mem_filter, mem_bitList] at h
  exact h.2.1

theorem State.issueAt_lpc {s : State} {opc : Nat} {f : Fields} {l : Nat} (h : (s.issueAt opc f).x.getLsbD l = true) : s.w.lpc.get l = (s.issueAt opc f).p :=
  Warp.lpc_of_lanesAt h

/-- Two moves, of the executing lanes and of the others at the address, move every lane at it on. -/
theorem Warp.advance_both (w : Warp) (x g : Lanes) (n : Nat) (p : W32) (hg : ∀ l, g.getLsbD l = true → x.getLsbD l = true)
    (hx : ∀ l, x.getLsbD l = true → w.lpc.get l = p) (l : Nat) :
    ((w.advance g n).advance (x &&& ~~~g) n).lpc.get l = if x.getLsbD l then p + BitVec.ofNat 32 n else w.lpc.get l := by
  simp only [Warp.advance]
  rw [Store.get_setMany_lanes (h := fun k => (w.lpc.setMany _).get k + BitVec.ofNat 32 n)]
  simp only [Store.get_setMany_lanes _ _ (fun k => w.lpc.get k + BitVec.ofNat 32 n)]
  by_cases h1 : g.getLsbD l = true
  · have h2 := hg l h1
    simp [h1, h2, hx l h2]
  · by_cases h2 : x.getLsbD l = true
    · have := Lanes.lt h2
      have hf : g[l] = false := by simpa [BitVec.getLsbD_eq_getElem this] using h1
      simp [h2, hx l h2, this, hf]
    · simp [h1, h2]

/-- Noting writes changes the bookkeeping of results and nothing else. -/
theorem Warp.noteWrites_eq (ds : List (Nat × Lanes)) (w : Warp) :
    ∃ o m a b, ds.foldl (fun acc d => acc.noteWrite d.1 d.2) w = { w with ops := o, marks := m, arr := a, absent := b } := by
  induction ds generalizing w with
  | nil => exact ⟨_, _, _, _, rfl⟩
  | cons d r ih =>
    obtain ⟨o, m, a, b, h⟩ := ih (w.noteWrite d.1 d.2)
    exact ⟨o, m, a, b, by rw [List.foldl_cons, h]; rfl⟩

theorem Warp.writeRegs_eq (w : Warp) (vv : List (Nat × W32)) (sv : List (Nat × W64)) :
    ∃ o m a b, w.writeRegs vv sv = { w with v := w.v.setMany vv, s := w.s.setMany sv, ops := o, marks := m, arr := a, absent := b } := by
  obtain ⟨o, m, a, b, h⟩ := Warp.noteWrites_eq (destsOf vv sv) w
  exact ⟨o, m, a, b, by simp only [Warp.writeRegs, h]⟩

/-- The warp in the middle of the end of an instruction: registers written and results noted, the lanes that were passed over not moved yet. -/
theorem Ctx.finish_mid (c : Ctx) (lat : Lat) (r : Res) :
    ∃ o m a b sb, (∀ q, r.op = some q → o.getLast? = some q) ∧
      let w0 := if (r.jumped || r.all) = true then r.st.w else r.st.w.advance c.g c.len
      let w2 : Warp := { w0 with v := w0.v.setMany r.vv, s := w0.s.setMany r.sv, ops := o, marks := m, arr := a, absent := b, sb := sb }
      c.finish lat r = { r.st with w := (if r.all then w2 else w2.advance (c.x &&& ~~~c.g) c.len).spend c.f, fresh := r.st.fresh + 1 } := by
  obtain ⟨s, vv, sv, op, jumped, all⟩ := r
  generalize hw0 : (if (jumped || all) = true then s.w else s.w.advance c.g c.len) = w0
  obtain ⟨o, m, a, b, h⟩ := Warp.writeRegs_eq w0 vv sv
  cases op with
  | some q =>
    obtain ⟨o2, m2, a2, b2, h2⟩ := Warp.noteWrites_eq q.dests (w0.writeRegs vv sv)
    refine ⟨o2 ++ [q], m2, a2, b2, (w0.slotUp q.slot).sb, by rintro _ ⟨⟩; simp, ?_⟩
    simp only [Ctx.finish, hw0]
    rw [h2, h]
    cases hs : q.slot <;> rfl
  | none =>
    cases lat with
    | later =>
      refine ⟨o, m, a, b, w0.sb, by simp, ?_⟩
      simp only [Ctx.finish, hw0]
      rw [h]
    | cycles n =>
      by_cases he : vv = [] ∧ sv = []
      · refine ⟨o, m, a, b, w0.sb, by simp, ?_⟩
        simp only [Ctx.finish, hw0, if_pos he]
        rw [h]
      · refine ⟨o ++ [{ c.op with ready := some (w0.cycle + n), dests := destsOf vv sv, old := w0.wordsAt (destsOf vv sv) }], m, a, b,
          (w0.slotUp c.op.slot).sb, by simp, ?_⟩
        simp only [Ctx.finish, hw0, if_neg he]
        rw [h]
        cases hs : c.op.slot <;> rfl

/-- The end of an instruction as one update of the state that its effect leaves: the lanes' program counters, the register values, the cycles, and
bookkeeping; an operation that it leaves outstanding is the last. -/
theorem Ctx.finish_eq (c : Ctx) (lat : Lat) (r : Res) :
    ∃ o m a b sb, c.finish lat r =
      { r.st with
        fresh := r.st.fresh + 1
        w := { r.st.w with
          lpc := (if r.all then r.st.w else (if r.jumped then r.st.w else r.st.w.advance c.g c.len).advance (c.x &&& ~~~c.g) c.len).lpc
          v := r.st.w.v.setMany r.vv, s := r.st.w.s.setMany r.sv
          ops := o, marks := m, arr := a, absent := b, sb := sb, cycle := r.st.w.cycle + max 1 c.f.stall.toNat, ahead := max 1 c.f.stall.toNat
          idleSince := r.st.w.cycle, heldAt := 0 } } ∧
      (∀ q, r.op = some q → o.getLast? = some q) := by
  obtain ⟨o, m, a, b, sb, h1, h2⟩ := c.finish_mid lat r
  refine ⟨o, m, a, b, sb, ?_, h1⟩
  rw [h2]
  obtain ⟨s, vv, sv, op, jumped, all⟩ := r
  cases all <;> cases jumped <;> rfl

/-- The end of an instruction that leaves values for registers and nothing else: they are written, the lanes pass, and the rest is as it was. -/
theorem Ctx.finish_plain (c : Ctx) (lat : Lat) (s : State) (vv : List (Nat × W32)) (sv : List (Nat × W64))
    (hg : ∀ l, c.g.getLsbD l = true → c.x.getLsbD l = true) (hx : ∀ l, c.x.getLsbD l = true → s.w.lpc.get l = c.p) :
    let t := c.finish lat { st := s, vv := vv, sv := sv }
    t.w.v = s.w.v.setMany vv ∧ t.w.s = s.w.s.setMany sv ∧ c.Passed s t ∧ c.Spent s t ∧ OnlyRegisters s t := by
  obtain ⟨o, m, a, b, sb, h, -⟩ := c.finish_eq lat { st := s, vv := vv, sv := sv }
  refine ⟨by rw [h], by rw [h], ?_, by rw [h]; rfl, by rw [h]; rfl⟩
  intro l _
  rw [h]
  exact Warp.advance_both s.w c.x c.g c.len c.p hg hx l

end Sys2Proof.Machine
end

