-- ==== Sys2Proof/Laws/Lanes.lean ====
section
/-!
SUPPORT. What an instruction that writes one value a lane leaves in its destination, said once for every form of the destination.
-/
namespace Sys2Proof.Machine

/-- Lanes that share a value agree on it. -/
theorem agree_map {α β : Type} [DecidableEq α] (l : List β) (b : β) (f : β → α) (hl : l ≠ []) (h : ∀ x ∈ l, f x = f b) :
    agree (l.map f) = some (f b) := by
  cases l with
  | nil => exact absurd rfl hl
  | cons x r =>
    have hx := h x (List.mem_cons_self ..)
    have hr : (r.map f).all (fun y => y == f x) = true := by
      rw [List.all_eq_true]; intro y hy
      obtain ⟨z, hz, rfl⟩ := List.mem_map.mp hy
      simp [h z (List.mem_cons_of_mem _ hz), hx]
    rw [List.map_cons, agree, if_pos hr, hx]

theorem agree_none {α β : Type} [DecidableEq α] (l : List β) (b : β) (f : β → α) (hb : b ∈ l) (h : ∃ x ∈ l, f x ≠ f b) : agree (l.map f) = none := by
  cases l with
  | nil => simp at hb
  | cons x r =>
    have : ¬ ((r.map f).all (fun y => y == f x) = true) := by
      intro ha
      rw [List.all_eq_true] at ha
      have hall : ∀ z ∈ x :: r, f z = f x := by
        intro z hz
        rcases List.mem_cons.mp hz with rfl | hz
        · rfl
        · simpa using ha (f z) (List.mem_map_of_mem hz)
      obtain ⟨y, hy, hne⟩ := h
      exact hne ((hall y hy).trans (hall b hb).symm)
    simp only [List.map_cons, agree, if_neg this]

theorem bitList_ne_nil {g : Lanes} (h : g ≠ 0) : bitList g ≠ [] := by
  intro he
  apply h
  apply BitVec.eq_of_getLsbD_eq
  intro i _
  have : i ∉ bitList g := by rw [he]; simp
  rw [mem_bitList] at this
  simp only [Bool.not_eq_true] at this
  rw [this]; simp

theorem lowLane_mem {g : Lanes} (h : g ≠ 0) : lowLane g ∈ bitList g := by
  unfold lowLane
  have := bitList_ne_nil h
  cases hb : bitList g with
  | nil => exact absurd hb this
  | cons x r => simp

/-- Writing a pair of registers a lane. -/
theorem Store.get_setMany_vpair (m : Store 32) (ls : Lanes) (d : Nat) (h : Nat → W64) {r l : Nat} (hl : l < 32) :
    (m.setMany (((bitList ls).map (fun k => (k, h k))).flatMap (fun (p : Nat × W64) =>
        [(d * 32 + p.1, p.2.setWidth 32), ((d + 1) * 32 + p.1, BitVec.setWidth 32 (p.2 >>> (32 : Nat)))]))).get (r * 32 + l) =
      if ls.getLsbD l ∧ r = d then (h l).setWidth 32
      else if ls.getLsbD l ∧ r = d + 1 then (h l >>> (32 : Nat)).setWidth 32
      else m.get (r * 32 + l) := by
  have hmem : ∀ p, p ∈ (((bitList ls).map (fun k => (k, h k))).flatMap (fun (p : Nat × W64) =>
        [(d * 32 + p.1, p.2.setWidth 32), ((d + 1) * 32 + p.1, BitVec.setWidth 32 (p.2 >>> (32 : Nat)))])) ↔
      ∃ k, ls.getLsbD k = true ∧ (p = (d * 32 + k, (h k).setWidth 32) ∨ p = ((d + 1) * 32 + k, BitVec.setWidth 32 (h k >>> (32 : Nat)))) := by
    intro p
    simp only [List.mem_flatMap, List.mem_map, mem_bitList]
    constructor
    · rintro ⟨a, ⟨k, hk, rfl⟩, hp⟩
      exact ⟨k, hk, by simpa using hp⟩
    · rintro ⟨k, hk, hp⟩
      exact ⟨(k, h k), ⟨k, hk, rfl⟩, by simpa using hp⟩
  by_cases h1 : ls.getLsbD l = true ∧ r = d
  · rw [if_pos h1]
    obtain ⟨h1, rfl⟩ := h1
    refine Store.get_setMany_mem _ _ (List.mem_map.mpr ⟨_, (hmem _).mpr ⟨l, h1, Or.inl rfl⟩, rfl⟩) ?_
    intro p hp e
    obtain ⟨k, hk, rfl | rfl⟩ := (hmem p).mp hp
    · have : k = l := by simp only at e; omega
      rw [this]
    · have := Lanes.lt hk; simp only at e; omega
  · rw [if_neg h1]
    by_cases h2 : ls.getLsbD l = true ∧ r = d + 1
    · rw [if_pos h2]
      obtain ⟨h2, rfl⟩ := h2
      refine Store.get_setMany_mem _ _ (List.mem_map.mpr ⟨_, (hmem _).mpr ⟨l, h2, Or.inr rfl⟩, rfl⟩) ?_
      intro p hp e
      obtain ⟨k, hk, rfl | rfl⟩ := (hmem p).mp hp
      · have := Lanes.lt hk; simp only at e; omega
      · have : k = l := by simp only at e; omega
        rw [this]
    · rw [if_neg h2]
      refine Store.get_setMany_other _ _ ?_
      intro p hp e
      obtain ⟨k, hk, rfl | rfl⟩ := (hmem p).mp hp
      · have := Lanes.lt hk; simp only at e
        have e1 : k = l := by omega
        exact h1 ⟨e1 ▸ hk, by omega⟩
      · have := Lanes.lt hk; simp only at e
        have e1 : k = l := by omega
        exact h2 ⟨e1 ▸ hk, by omega⟩

/-- The destination and the values that an effect writing one value a lane leaves. -/
theorem Ctx.lanesW_ok (c : Ctx) (wide signed : Bool) (s : State) (val : Nat → W64) (hg : c.g ≠ 0) (ha : c.agrees c.f.d wide val = true) :
    ∃ vv sv, c.lanesW wide signed s val = .ok { st := s, vv := vv, sv := sv } ∧
      ∀ s0 t : State, s0.w.v = s.w.v → s0.w.s = s.w.s → t.w.v = s.w.v.setMany vv → t.w.s = s.w.s.setMany sv →
        c.Holds s0 t c.f.d wide signed val := by
  cases hd : c.f.d with
  | v d =>
    cases wide
    · refine ⟨_, [], by simp only [Ctx.lanesW, Bool.false_eq_true, if_false, Ctx.lanes32, Ctx.put32, Ctx.putTo, hd, List.nil_append, List.map_map]; rfl, ?_⟩
      intro s0 t h1 h2 h3 h4
      refine ⟨by rw [h4, h2]; rfl, ?_⟩
      intro r l hl
      rw [h3, h1]
      have := Store.get_setMany_vreg s.w.v c.g d (fun l => (val l).setWidth 32) (fun _ => Lanes.lt) (r := r) hl
      rw [show ((fun p : Nat × W32 => (d * 32 + p.1, p.2)) ∘ fun l => (l, BitVec.setWidth 32 (val l))) = fun k => (d * 32 + k, BitVec.setWidth 32 (val k)) from rfl]
      rw [this]
      simp
    · refine ⟨_, [], by simp only [Ctx.lanesW, if_true, Ctx.lanes64, Ctx.put64, hd, List.nil_append]; rfl, ?_⟩
      intro s0 t h1 h2 h3 h4
      refine ⟨by rw [h4, h2]; rfl, ?_⟩
      intro r l hl
      rw [h3, h1, Store.get_setMany_vpair s.w.v c.g d val hl]
      simp
  | s d =>
    have hl := lowLane_mem hg
    have hne := bitList_ne_nil hg
    simp only [Ctx.agrees, hd, List.all_eq_true] at ha
    cases wide
    · have hag := agree_map (bitList c.g) (lowLane c.g) (fun l => (val l).setWidth 32) hne (by intro x hx; simpa using ha x hx)
      refine ⟨[], _, by
        simp only [Ctx.lanesW, Bool.false_eq_true, if_false, Ctx.lanes32, Ctx.put32, Ctx.putTo, hd, List.map_map, Function.comp_def, hag, List.nil_append]; rfl, ?_⟩
      intro s0 t h1 h2 h3 h4
      refine ⟨by rw [h3, h1]; rfl, ?_⟩
      intro r
      rw [h4, h2]
      simp only [Store.setMany, List.foldl_cons, List.foldl_nil, Store.get_set]
      by_cases hr : r = d <;> simp [hr]
    · have hag := agree_map (bitList c.g) (lowLane c.g) val hne (by intro x hx; simpa using ha x hx)
      refine ⟨[], _, by
        simp only [Ctx.lanesW, if_true, Ctx.lanes64, Ctx.put64, hd, List.map_map, Function.comp_def, hag, List.nil_append]; rfl, ?_⟩
      intro s0 t h1 h2 h3 h4
      refine ⟨by rw [h3, h1]; rfl, ?_⟩
      intro r
      rw [h4, h2]
      simp only [Store.setMany, List.foldl_cons, List.foldl_nil, Store.get_set]
      by_cases hr : r = d <;> simp [hr]
  | sp x =>
    cases wide
    · exact ⟨[], [], by simp only [Ctx.lanesW, Bool.false_eq_true, if_false, Ctx.lanes32, Ctx.put32, Ctx.putTo, hd], fun s0 t h1 h2 h3 h4 =>
        ⟨by rw [h3, h1]; rfl, by rw [h4, h2]; rfl⟩⟩
    · exact ⟨[], [], by simp only [Ctx.lanesW, if_true, Ctx.lanes64, Ctx.put64, hd], fun s0 t h1 h2 h3 h4 =>
        ⟨by rw [h3, h1]; rfl, by rw [h4, h2]; rfl⟩⟩

/-- A scalar destination whose lanes do not agree: NONUNIFORM (01 R28; 04 R107). -/
theorem Ctx.lanesW_disagree (c : Ctx) (wide signed : Bool) (s : State) (val : Nat → W64) (hg : c.g ≠ 0) (ha : c.agrees c.f.d wide val = false) :
    c.lanesW wide signed s val = c.whole 0x03 0 := by
  cases hd : c.f.d with
  | v d => simp [Ctx.agrees, hd] at ha
  | sp x => simp [Ctx.agrees, hd] at ha
  | s d =>
    have hl := lowLane_mem hg
    have hne := bitList_ne_nil hg
    simp only [Ctx.agrees, hd, List.all_eq_false] at ha
    obtain ⟨x, hx, hxx⟩ := ha
    cases wide
    · have hag := agree_none (bitList c.g) (lowLane c.g) (fun l => (val l).setWidth 32) hl ⟨x, hx, by simpa using hxx⟩
      simp only [Ctx.lanesW, Bool.false_eq_true, if_false, Ctx.lanes32, Ctx.put32, Ctx.putTo, hd, List.map_map, Function.comp_def, hag]
      simp [hne]
    · have hag := agree_none (bitList c.g) (lowLane c.g) val hl ⟨x, hx, by simpa using hxx⟩
      simp only [Ctx.lanesW, if_true, Ctx.lanes64, Ctx.put64, hd, List.map_map, Function.comp_def, hag]
      simp [hne]

/-- Consuming full registers changes arrival states only. -/
theorem State.consumed_eq (s : State) (i : Instr) : ∃ a, s.consumed i = { s with w := { s.w with arr := a } } := by
  unfold State.consumed; split <;> exact ⟨_, rfl⟩

theorem State.issueAt_consumed (s : State) (i : Instr) : (s.consumed i).w.lpc = s.w.lpc ∧ (s.consumed i).w.v = s.w.v ∧ (s.consumed i).w.s = s.w.s := by
  unfold State.consumed; split <;> exact ⟨rfl, rfl, rfl⟩

theorem State.ctxOf_eq {s : State} {i : Instr} {ent : OpEntry} {f : Fields} (he : opEntry i = some (ent, f)) : s.ctxOf i = s.issueAt ent.opc f := by
  simp only [State.ctxOf, he]

theorem OnlyRegisters.of_consumed {s t : State} {i : Instr} (h : OnlyRegisters (s.consumed i) t) : OnlyRegisters s t := by
  unfold State.consumed at h
  split at h
  · exact h
  · exact h

/-- The end of an instruction that writes one value a lane. -/
theorem finish_lanesW {s : State} {ent : OpEntry} {f : Fields} (lat : Lat) (s' : State) (vv : List (Nat × W32)) (sv : List (Nat × W64))
    (hs : ∃ a fl, s' = { s with w := { s.w with arr := a, csr := { s.w.csr with fpstatus := s.w.csr.fpstatus ||| BitVec.setWidth 64 (fl : BitVec 5) } } }) :
    let c := s.issueAt ent.opc f
    let t := c.finish lat { st := s', vv := vv, sv := sv }
    t.w.v = s'.w.v.setMany vv ∧ t.w.s = s'.w.s.setMany sv ∧ c.Passed s t ∧ c.Spent s t ∧ OnlyRegisters s' t := by
  obtain ⟨a, fl, rfl⟩ := hs
  obtain ⟨f1, f2, f3, f4, f5⟩ := Ctx.finish_plain (s.issueAt ent.opc f) lat
    ({ s with w := { s.w with arr := a, csr := { s.w.csr with fpstatus := s.w.csr.fpstatus ||| BitVec.setWidth 64 fl } } } : State) vv sv
    (fun _ => State.issueAt_sub) (fun l hl => State.issueAt_lpc hl)
  exact ⟨f1, f2, f3, f4, f5⟩

/-- No flags added: the same as registers only. -/
theorem OnlyRegistersAndFlags.zero (s t : State) : OnlyRegistersAndFlags s t 0 = OnlyRegisters s t := by
  unfold OnlyRegistersAndFlags
  have : s.w.csr.fpstatus ||| BitVec.setWidth 64 (0 : BitVec 5) = s.w.csr.fpstatus := by simp
  rw [this]

/-- An instruction that writes one value a lane and adds flags, with nothing in its way: it ends with its destination written, its lanes passed, the
flags added and the rest as it was. -/
theorem runWarp_lanesFl {s : State} {i : Instr} {ent : OpEntry} {f : Fields} (pl : Plan) (wide signed : Bool) (val : Ctx → State → Nat → W64)
    (fl : Ctx → State → BitVec 5) (he : opEntry i = some (ent, f)) (h : s.clear i = true) (hv : val (s.ctxOf i) (s.consumed i) = val (s.ctxOf i) s)
    (hf : fl (s.ctxOf i) (s.consumed i) = fl (s.ctxOf i) s) (ha : (s.ctxOf i).agrees f.d wide (val (s.ctxOf i) s) = true) :
    let t := runWarp i pl (fun c s => (c.lanesW wide signed s (val c s)).flags (fl c s)) s
    (s.ctxOf i).Holds s t f.d wide signed (val (s.ctxOf i) s) ∧ (s.ctxOf i).Passed s t ∧ (s.ctxOf i).Spent s t ∧
      OnlyRegistersAndFlags s t (fl (s.ctxOf i) s) := by
  rw [State.ctxOf_eq he] at ha hv hf ⊢
  have hg := (State.clear_facts he h).lanes
  obtain ⟨vv, sv, h1, h2⟩ := Ctx.lanesW_ok (s.issueAt ent.opc f) wide signed (s.consumed i) (val (s.issueAt ent.opc f) s) hg ha
  rw [runWarp_clear pl _ he h]
  simp only [hv, hf, h1, Eff.flags, Eff.andThen]
  obtain ⟨a, hc⟩ := State.consumed_eq s i
  obtain ⟨f1, f2, f3, f4, f5⟩ := finish_lanesW (s := s) (ent := ent) (f := f) pl.lat
    ((s.consumed i).updW (fun w => w.orFlags (fl (s.issueAt ent.opc f) s))) vv sv ⟨a, _, by rw [hc]; rfl⟩
  refine ⟨h2 s _ (by rw [hc]) (by rw [hc]) f1 f2, f3, f4, ?_⟩
  rw [hc] at f5 ⊢
  exact f5

/-- The same without flags. -/
theorem runWarp_lanesW {s : State} {i : Instr} {ent : OpEntry} {f : Fields} (pl : Plan) (wide signed : Bool) (val : Ctx → State → Nat → W64)
    (he : opEntry i = some (ent, f)) (h : s.clear i = true) (hv : val (s.ctxOf i) (s.consumed i) = val (s.ctxOf i) s)
    (ha : (s.ctxOf i).agrees f.d wide (val (s.ctxOf i) s) = true) :
    let t := runWarp i pl (fun c s => c.lanesW wide signed s (val c s)) s
    (s.ctxOf i).Holds s t f.d wide signed (val (s.ctxOf i) s) ∧ (s.ctxOf i).Passed s t ∧ (s.ctxOf i).Spent s t ∧ OnlyRegistersAndFlags s t 0 := by
  rw [State.ctxOf_eq he] at ha hv ⊢
  have hg := (State.clear_facts he h).lanes
  obtain ⟨vv, sv, h1, h2⟩ := Ctx.lanesW_ok (s.issueAt ent.opc f) wide signed (s.consumed i) (val (s.issueAt ent.opc f) s) hg ha
  rw [runWarp_clear pl _ he h]
  simp only [hv, h1]
  obtain ⟨a, hc⟩ := State.consumed_eq s i
  obtain ⟨f1, f2, f3, f4, f5⟩ := finish_lanesW (s := s) (ent := ent) (f := f) pl.lat (s.consumed i) vv sv ⟨a, 0, by rw [hc]; simp⟩
  refine ⟨h2 s _ (by rw [hc]) (by rw [hc]) f1 f2, f3, f4, ?_⟩
  rw [hc] at f5 ⊢
  rw [OnlyRegistersAndFlags.zero]
  exact f5

/-- The same where lanes of a scalar destination disagree: NONUNIFORM is raised at the instruction, and nothing else has happened. -/
theorem runWarp_lanes_disagree {s : State} {i : Instr} {ent : OpEntry} {f : Fields} (pl : Plan) (wide signed : Bool) (val : Ctx → State → Nat → W64)
    (he : opEntry i = some (ent, f)) (h : s.clear i = true) (hv : val (s.ctxOf i) (s.consumed i) = val (s.ctxOf i) s)
    (ha : (s.ctxOf i).agrees f.d wide (val (s.ctxOf i) s) = false) (eff : Ctx → State → Eff)
    (hw : eff (s.ctxOf i) (s.consumed i) = (s.ctxOf i).lanesW wide signed (s.consumed i) (val (s.ctxOf i) (s.consumed i)) ∨
      ∃ fl, eff (s.ctxOf i) (s.consumed i) = ((s.ctxOf i).lanesW wide signed (s.consumed i) (val (s.ctxOf i) (s.consumed i))).flags fl) :
    runWarp i pl eff s = s.raise ((s.ctxOf i).info 0x03 0 (s.ctxOf i).g 0) := by
  rw [State.ctxOf_eq he] at ha hv hw ⊢
  rw [runWarp_clear pl _ he h]
  have key := Ctx.lanesW_disagree (s.issueAt ent.opc f) wide signed (s.consumed i) _ (State.clear_facts he h).lanes ha
  rw [hv, key] at hw
  rcases hw with hw | ⟨fl, hw⟩ <;> simp only [hw, Ctx.whole, Eff.flags, Eff.andThen] <;>
    rw [if_neg (show ¬ ((s.issueAt ent.opc f).info 3 0 (s.issueAt ent.opc f).g 0).code = 0 from (by decide : ¬ (3#8 : BitVec 8) = 0))]

end Sys2Proof.Machine
end

