-- ==== Sys2Proof/Laws/Memory.lean ====
section
/-!
SUPPORT. Every operation that writes bytes of memory or of a bank keeps the canonical form of both, and reset has it.
-/
namespace Sys2Proof.Machine

/-- The canonical form of a memory system. -/
def MemSys.canonical (m : MemSys) : Bool := Memory.wf m.dram && Memory.wf m.bank

theorem State.memoryWf_eq (s : State) : s.memoryWf = s.m.canonical := rfl

theorem MemSys.canonical_iff {m : MemSys} : m.canonical = true ↔ Store.wf m.dram = true ∧ Store.wf m.bank = true := by
  simp [MemSys.canonical, Memory.wf]

theorem MemSys.canonical_reset : MemSys.reset.canonical = true := rfl
theorem State.memoryWf_reset : State.reset.memoryWf = true := rfl

/-- What leaves both as they were keeps it. -/
theorem MemSys.canonical_same {m n : MemSys} (hd : n.dram = m.dram) (hb : n.bank = m.bank) (h : m.canonical = true) : n.canonical = true := by
  rw [canonical_iff] at *
  exact ⟨hd ▸ h.1, hb ▸ h.2⟩

/-- Bytes written in DRAM or host memory. -/
theorem MemSys.canonical_dram {m : MemSys} (ws : List (Nat × Byte)) (h : m.canonical = true) : ({ m with dram := m.dram.setMany ws } : MemSys).canonical = true := by
  rw [canonical_iff] at *
  exact ⟨Store.wf_setMany ws _ h.1, h.2⟩

theorem MemSys.canonical_putBlock {m : MemSys} (b : Nat) (d : BitVec 4096) (h : m.canonical = true) : (m.putBlock b d).canonical = true := canonical_dram _ h

/-- A byte written in a bank. -/
theorem MemSys.canonical_bankSet {m : MemSys} (k : Nat) (b : Byte) (h : m.canonical = true) : (m.bankSet k b).canonical = true := by
  rw [canonical_iff] at *
  exact ⟨h.1, Store.wf_set _ _ _ h.2⟩

/-- A write at a home changes neither: the bytes are in the home's line. -/
theorem MemSys.noteCover_stored (m : MemSys) (line key : Nat) (mask : BitVec 128) (cover : Option Nat) :
    (m.noteCover line key mask cover).dram = m.dram ∧ (m.noteCover line key mask cover).bank = m.bank := by
  unfold MemSys.noteCover
  split
  · exact ⟨rfl, rfl⟩
  · dsimp only
    split
    · exact ⟨rfl, rfl⟩
    · split
      · split <;> exact ⟨rfl, rfl⟩
      · exact ⟨rfl, rfl⟩

/-- Evicting a line from L2 sends its bytes and forgets it. -/
theorem MemSys.send_stored {m n : MemSys} {t loc type size ctx key : Nat} {flare poison alloc : Bool} {data : BitVec 4096} {mask : BitVec 512} {cls : BitVec 2}
    (h : m.send t loc type size ctx key flare data mask poison cls alloc = some n) : n.dram = m.dram ∧ n.bank = m.bank := by
  simp only [MemSys.send, Option.map_eq_some_iff] at h
  obtain ⟨_, -, rfl⟩ := h
  exact ⟨rfl, rfl⟩

theorem MemSys.pushLine_stored {m n : MemSys} {t : Nat} {x : L2Line} {alloc : Bool} {cls : BitVec 2} (h : m.pushLine t x alloc cls = some n) : n.dram = m.dram ∧ n.bank = m.bank := by
  unfold MemSys.pushLine at h
  split at h
  · cases h; exact ⟨rfl, rfl⟩
  · obtain ⟨k, hk, rfl⟩ := Option.map_eq_some_iff.1 h
    have h1 := send_stored hk
    exact ⟨h1.1, h1.2⟩

theorem MemSys.foldFloors_stored (t : Nat) (l : List L2Line) (m : MemSys) :
    (l.foldl (fun acc x => acc.foldFloor t x) m).dram = m.dram ∧ (l.foldl (fun acc x => acc.foldFloor t x) m).bank = m.bank := by
  induction l generalizing m with
  | nil => exact ⟨rfl, rfl⟩
  | cons x r ih => exact ih (m.foldFloor t x)

theorem MemSys.forgetL2_stored (m : MemSys) (t : Nat) (p : L2Line → Bool) : (m.forgetL2 t p).dram = m.dram ∧ (m.forgetL2 t p).bank = m.bank :=
  foldFloors_stored t _ m

/-- Evicting a sector writes its block. -/
theorem MemSys.canonical_storeSector {m : MemSys} (x : Sector) (h : m.canonical = true) : (m.storeSector x).canonical = true := by
  unfold MemSys.storeSector
  split
  · have h1 : (m.putBlock x.block x.data).canonical = true := canonical_putBlock x.block x.data h
    generalize m.putBlock x.block x.data = n at h1 ⊢
    exact canonical_same (m := n) rfl rfl h1
  · exact h

theorem MemSys.canonical_sectorRoom {m : MemSys} (b : Nat) (h : m.canonical = true) : (m.sectorRoom b).canonical = true := by
  unfold MemSys.sectorRoom
  dsimp only
  repeat' split
  all_goals first | exact h | exact canonical_storeSector _ h

theorem MemSys.canonical_mergeSector {m : MemSys} (b ctx key : Nat) (data : BitVec 4096) (mask : BitVec 512) (poison : Bool) (evict : BitVec 2)
    (h : m.canonical = true) : (m.mergeSector b ctx key data mask poison evict).canonical = true :=
  canonical_same (m := m.sectorRoom b) rfl rfl (canonical_sectorRoom b h)

/-- Serving a write packet. -/
theorem MemSys.canonical_reply {m : MemSys} (p : Packet) (h : m.canonical = true) : (m.reply p).canonical = true := canonical_same (m := m) rfl rfl h

theorem MemSys.canonical_serveWrite {m : MemSys} (p : Packet) (h : m.canonical = true) : (m.serveWrite p).canonical = true := by
  unfold MemSys.serveWrite
  dsimp only
  refine canonical_reply _ ?_
  split
  · exact canonical_mergeSector _ _ _ _ _ _ _ h
  · exact canonical_storeSector _ h

/-- A fold of steps that keep a property keeps it. -/
theorem foldl_keeps {α β : Type} (p : β → Prop) (g : β → α → β) (hg : ∀ b a, p b → p (g b a)) (l : List α) (b : β) (h : p b) : p (l.foldl g b) := by
  induction l generalizing b with
  | nil => exact h
  | cons a r ih => exact ih _ (hg b a h)

/-- Bytes applied below L2. -/
theorem MemSys.canonical_putBelow {m : MemSys} (line ctx key : Nat) (data : BitVec 1024) (mask poison : BitVec 128) (cls : BitVec 2) (h : m.canonical = true) :
    (m.putBelow line ctx key data mask poison cls).canonical = true :=
  canonical_mergeSector _ _ _ _ _ _ _ (foldl_keeps (fun x : MemSys => x.canonical = true) _ (fun _ p hb => canonical_serveWrite p hb) _ _ h)

/-- Evicting a line to make room for another. -/
theorem MemSys.canonical_l2Room {m : MemSys} (t line slice : Nat) (h : m.canonical = true) : (m.l2Room t line slice).canonical = true := by
  unfold MemSys.l2Room
  split
  · exact h
  · split
    · exact h
    · next x _ =>
      refine canonical_same (forgetL2_stored _ _ _).1 (forgetL2_stored _ _ _).2 ?_
      cases hp : m.pushLine t x with
      | none => exact canonical_putBelow _ _ _ _ _ _ _ h
      | some n => exact canonical_same (pushLine_stored hp).1 (pushLine_stored hp).2 h

theorem MemSys.canonical_noteCover {m : MemSys} (line key : Nat) (mask : BitVec 128) (cover : Option Nat) (h : m.canonical = true) :
    (m.noteCover line key mask cover).canonical = true :=
  canonical_same (noteCover_stored _ _ _ _ _).1 (noteCover_stored _ _ _ _ _).2 h

theorem MemSys.canonical_applyWrite {m : MemSys} (t line slice ctx key : Nat) (evict : BitVec 2) (data : BitVec 1024) (mask poison : BitVec 128) (scope : Nat)
    (cover : Option Nat) (host : Bool) (h : m.canonical = true) : (m.applyWrite t line slice ctx key evict data mask poison scope cover host).1.canonical = true := by
  unfold MemSys.applyWrite
  dsimp only
  refine canonical_noteCover _ _ _ _ ?_
  have h1 : (((m.noteOld t line key mask host).noteKey (line / 4) key).l2Room t line slice).canonical = true := canonical_l2Room _ _ _ (canonical_same rfl rfl h)
  split
  · exact canonical_same rfl rfl h1
  · exact canonical_putBelow _ _ _ _ _ _ _ h1

theorem MemSys.poisonBlock_stored (m : MemSys) (b : Nat) : (m.poisonBlock b).dram = m.dram ∧ (m.poisonBlock b).bank = m.bank := by
  unfold MemSys.poisonBlock
  dsimp only
  split <;> exact ⟨rfl, rfl⟩

/-- Bytes of a line of host memory or of another device. -/
theorem MemSys.canonical_pokeLine {m : MemSys} (t line : Nat) (d : BitVec 1024) (mask poison : BitVec 128) (cover : Option Nat) (h : m.canonical = true) :
    (m.pokeLine t line d mask poison cover).canonical = true := by
  have h1 : ({ m.noteOld t line 0 mask with
      dram := (m.noteOld t line 0 mask).dram.setMany ((bitList mask).map (fun i => (line * 128 + i, byteOf d i))) } : MemSys).canonical = true :=
    canonical_dram _ (m := m.noteOld t line 0 mask) h
  have h2 := canonical_noteCover line 0 mask cover h1
  unfold MemSys.pokeLine
  dsimp only
  split
  · exact h2
  · exact canonical_same (poisonBlock_stored _ _).1 (poisonBlock_stored _ _).2 h2

/-- Bytes written at homes, of this device or beyond it. -/
theorem MemSys.canonical_putBytes {m : MemSys} (t ctx die : Nat) (cover : Option Nat) (ws : List (Phys × Byte)) (evict : BitVec 2) (h : m.canonical = true) :
    (m.putBytes t ctx die cover ws evict).1.canonical = true := by
  refine foldl_keeps (fun (x : MemSys × Nat) => x.1.canonical = true) _ ?_ _ _ h
  intro b a hb
  dsimp only
  split
  · exact hb
  · split
    · exact canonical_pokeLine t a _ _ 0 cover hb
    · rename_i mine q b tail e g
      exact canonical_applyWrite t a q.slice ctx q.key evict _ _ 0 (scopeTo die q.slice) cover false hb

/-- A bank that is switched: its bytes are forgotten. -/
theorem MemSys.canonical_dropBank {m : MemSys} (lo hi : Nat) (h : m.canonical = true) : ({ m with bank := m.bank.dropRange lo hi } : MemSys).canonical = true := by
  rw [canonical_iff] at *
  exact ⟨h.1, Store.wf_dropRange _ _ _ h.2⟩

/-- Write-backs only send what a line holds. -/
theorem State.memoryWf_writeBack (s : State) (x : L1Line) (drop toMem : Bool) (h : s.memoryWf = true) : (s.writeBack x drop toMem).memoryWf = true := by
  refine MemSys.canonical_same (m := s.m) ?_ ?_ h <;>
    · unfold State.writeBack State.writeBackFor MemSys.l1Back
      dsimp only
      cases drop <;> split <;> rfl

theorem State.memoryWf_writeBackAll (s : State) (cl : Nat) (drop : Bool) (p : L1Line → Bool) (h : s.memoryWf = true) : (s.writeBackAll cl drop p).memoryWf = true :=
  foldl_keeps (fun (t : State) => t.memoryWf = true) _ (fun b a hb => b.memoryWf_writeBack a drop false hb) _ _ h

/-- Switching a bank's mode. -/
theorem State.memoryWf_setBank (s : State) (cl bank mode : Nat) (h : s.memoryWf = true) : (s.setBank cl bank mode).memoryWf = true := by
  have ht : (if (s.m.bankMode.get (cl * 16 + bank)).toNat = 0 ∧ mode ≠ 0 then s.writeBackAll cl true (fun x => s.m.bankHolding cl x.pa == bank)
      else if (s.m.bankMode.get (cl * 16 + bank)).toNat ≠ 0 ∧ mode = 0 then s.writeBackAll cl true (fun x => preferredBank x.pa == bank)
      else s).memoryWf = true := by
    split
    · exact State.memoryWf_writeBackAll _ _ _ _ h
    · split
      · exact State.memoryWf_writeBackAll _ _ _ _ h
      · exact h
  unfold State.setBank
  dsimp only
  generalize (if (s.m.bankMode.get (cl * 16 + bank)).toNat = 0 ∧ mode ≠ 0 then s.writeBackAll cl true (fun x => s.m.bankHolding cl x.pa == bank)
    else if (s.m.bankMode.get (cl * 16 + bank)).toNat ≠ 0 ∧ mode = 0 then s.writeBackAll cl true (fun x => preferredBank x.pa == bank) else s) = t at ht ⊢
  rw [State.memoryWf_eq, MemSys.canonical_iff] at *
  refine ⟨ht.1, ?_⟩
  dsimp only
  split
  · exact Store.wf_dropRange _ _ _ ht.2
  · exact ht.2

/-- A power-off or a reset: only host memory is left. -/
theorem State.memoryWf_lose (s : State) (p : Bool) (ports : BitVec 8) (h : s.memoryWf = true) : (s.lose p ports).memoryWf = true := by
  rw [State.memoryWf_eq, MemSys.canonical_iff] at h ⊢
  have hd : (s.lose p ports).m.dram = s.m.dram.filter (fun x => hostBase ≤ x.1) := rfl
  have hb : (s.lose p ports).m.bank = [] := rfl
  rw [hd, hb]
  exact ⟨Store.wf_filter _ _ h.1, Store.wf_nil⟩

/-! Lines that an L1 lists once (17 R355). -/

theorem MemSys.linesOnce_filter {m : MemSys} (f : L1Line → Bool) (h : m.linesOnce = true) : ({ m with l1 := m.l1.filter f } : MemSys).linesOnce = true := by
  simp only [MemSys.linesOnce, decide_eq_true_eq] at *
  exact h.sublist (List.filter_sublist.map _)

theorem MemSys.linesOnce_l1Drop {m : MemSys} (cl line : Nat) (h : m.linesOnce = true) : (m.l1Drop cl line).linesOnce = true := linesOnce_filter _ h

theorem mem_putBy_line (x : L1Line) (l : List L1Line) {y : L1Line} (h : y ∈ putBy (fun y => y.cluster == x.cluster && y.line == x.line) x l) : y = x ∨ y ∈ l := by
  induction l with
  | nil => exact .inl (by simpa [putBy] using h)
  | cons a r ih =>
    rw [putBy] at h
    split at h
    · rcases List.mem_cons.1 h with h | h
      · exact .inl h
      · exact .inr (List.mem_cons_of_mem _ h)
    · rcases List.mem_cons.1 h with h | h
      · exact .inr (h ▸ List.mem_cons_self)
      · exact (ih h).imp id (List.mem_cons_of_mem _)

theorem MemSys.linesOnce_l1Set {m : MemSys} (x : L1Line) (h : m.linesOnce = true) : (m.l1Set x).linesOnce = true := by
  simp only [MemSys.linesOnce, decide_eq_true_eq] at *
  show ((putBy (fun y => y.cluster == x.cluster && y.line == x.line) x m.l1).map (fun x => (x.cluster, x.line))).Nodup
  generalize m.l1 = l at h
  induction l with
  | nil => simp [putBy]
  | cons a r ih =>
    rw [List.map_cons, List.nodup_cons] at h
    rw [putBy]
    split
    · rename_i e
      simp only [Bool.and_eq_true, beq_iff_eq] at e
      rw [List.map_cons, List.nodup_cons, ← e.1, ← e.2]
      exact h
    · rename_i e
      rw [List.map_cons, List.nodup_cons]
      refine ⟨?_, ih h.2⟩
      rw [List.mem_map]
      rintro ⟨y, hy, k⟩
      rcases mem_putBy_line x r hy with rfl | hy
      · simp only [Prod.mk.injEq] at k
        simp [k.1, k.2] at e
      · exact h.1 (List.mem_map.2 ⟨y, hy, k⟩)

end Sys2Proof.Machine
end

