-- ==== Sys2Proof/Laws/Step.lean ====
section
/-!
SUPPORT. The two dispatches agree: what an issue performs is what exec does with the instruction (Machine/Perform.lean, Machine/Dispatch.lean).
-/
namespace Sys2Proof.Machine

/-- An instruction that has a word is performed by an issue as exec runs it. -/
theorem perform_eq_exec (i : Instr) (s : State) (h : (opEntry i).isSome = true) : perform i s = exec i s := by
  cases i <;> first | rfl | exact absurd h (by simp [opEntry])

end Sys2Proof.Machine
end

