-- ==== Sys2Proof/Tests/Slice0.lean ====
section
/-!
SUPPORT. Tests: ill-formed terms that the decode check refuses, words written out from the field maps of chapter 03, steps on small states, and for
every clause of every statement for the provers a state and operands that meet its hypotheses together. Expected values are worked out by hand
from the rules that each test names.
-/
set_option Elab.async false

namespace Sys2Proof.Tests
open Sys2Proof Sys2Proof.Machine

/-! Encoding (03). -/

/-- Fields that are zero but for the slot of an instruction that sets none (03 R78). -/
def fld : Fields := { noFields with slot := 7 }

/-- 03 R94, check by check: a format the opcode does not take, a reserved SUB, slot 6, a combination of one guard, hints where none are taken, a reserved MOD bit, no slot
where one is needed, an odd pair, a special register as a destination. -/
theorem smoke_format : (Instr.iadd { fld with fmt := .f128 }).wellFormed = false := by decide +kernel
theorem smoke_sub : (Instr.iadd { fld with sub := 4 }).wellFormed = false := by decide +kernel
theorem smoke_slot : (Instr.iadd { fld with slot := 6 }).wellFormed = false := by decide +kernel
theorem smoke_guard : (Instr.iadd { fld with fmt := .f96, gcomb := true }).wellFormed = false := by decide +kernel
theorem smoke_hint : (Instr.iadd { fld with fmt := .f96, evict := 1 }).wellFormed = false := by decide +kernel
theorem smoke_modifier : (Instr.iadd { fld with fmt := .f96, mod := 2 }).wellFormed = false := by decide +kernel
theorem smoke_needs_slot : (Instr.ld { fld with fmt := .f128i, sub := 2 }).wellFormed = false := by decide +kernel
theorem smoke_odd_pair : (Instr.iadd { fld with sub := 2, d := .v 1 }).wellFormed = false := by decide +kernel
theorem smoke_special_destination : (Instr.iadd { fld with d := .sp .laneId }).wellFormed = false := by decide +kernel
theorem smoke_same_outputs : (Instr.addc { fld with fmt := .f128, d := .v 4, e := .v 4 }).wellFormed = false := by decide +kernel
theorem smoke_good : (Instr.iadd { fld with fmt := .f96, mod := 1, d := .v 1, a := .s 3, b := .v 639 }).wellFormed = true := by decide +kernel

/-! Words that the spec prints with their fields. -/

/-- 03, the examples after R106: NOP with two guards, one of them negated and scalar. -/
theorem decode_nop_guards : decode [0x02, 0xC8, 0xA5, 0xC6, 0x01, 0x00, 0x0B, 0x30, 0, 0, 0, 0, 0, 0, 0, 0] =
    .ok (.nop { fld with fmt := .f128, stall := 2, wait := 0x12, g0 := some ⟨false, 7, 3, false⟩, g1 := some ⟨true, 0, 2, true⟩, gcomb := true }, 16) := by decide +kernel
/-- 04, the loop: ICMP.LT.I32 v3.2, v4, s7 and BRA of -8 units under v3.2. -/
theorem decode_icmp : decode [0xC1, 0xD0, 0x01, 0x00, 0x00, 0x00, 0x03, 0x10, 0x70, 0xA8, 0x04, 0x00] =
    .ok (.icmp { fld with fmt := .f96, stall := 4, d := .v 3, a := .v 4, b := .s 7, mod := 0x12 }, 12) := by decide +kernel
theorem decode_bra : decode [0x05, 0xC0, 0x81, 0x86, 0x00, 0x00, 0x00, 0x00, 0x80, 0xFF, 0xFF, 0xFF] =
    .ok (.bra { fld with fmt := .f96i, g0 := some ⟨false, 2, 3, false⟩, imm := 0x0FFFFFF8 }, 12) := by decide +kernel
/-- 05: FFMA.F32.RUP v10, v1, v2, v3. -/
theorem decode_ffma : decode [0x4E, 0xD1, 0x01, 0, 0, 0, 0, 0, 0x0A, 0x04, 0x20, 0xC0, 0x00, 0x00, 0x28, 0x00] =
    .ok (.ffma { fld with fmt := .f128, stall := 4, d := .v 10, a := .v 1, b := .v 2, c := .v 3, mod := 0xA }, 16) := by decide +kernel
/-- 09: RED.MIN of s24 + ZERO with v6, under v1.1 and not v6.31. -/
theorem decode_red : decode [0x8E, 0xC6, 0x81, 0x42, 0x20, 0x00, 0x99, 0x1F, 0x00, 0x60, 0x0A, 0xAC, 0x01, 0x00, 0x00, 0x00] =
    .ok (.red { fld with fmt := .f128, stall := 1, g0 := some ⟨false, 1, 1, false⟩, g1 := some ⟨true, 31, 6, false⟩, sub := 2, a := .s 24, b := .sp .zero, c := .v 6 }, 16) := by decide +kernel
/-- 10 R247 and 11: GLDE and GOPEN. -/
theorem decode_glde : decode [0xD2, 0x82, 0x00, 0x00, 0x00, 0x00, 0x00, 0x00, 0x0A, 0x10, 0x2A, 0x80, 0x01, 0x03, 0x00, 0x00] =
    .ok (.glde { fld with fmt := .f128, slot := 2, d := .v 10, a := .s 4, b := .v 2, c := .v 6, e := .v 3 }, 16) := by decide +kernel
theorem decode_gopen : decode [0xE2, 0xC6, 0x01, 0, 0, 0, 0, 0, 0xC0, 0x02, 0x4A, 0x28, 0x00, 0x00, 0x20, 0x00] =
    .ok (.gopen { fld with fmt := .f128, stall := 1, d := .sp .zero, a := .s 0, b := .s 4, mod := 8 }, 16) := by decide +kernel
/-- 12: MMA and TLD. -/
theorem decode_mma : decode [0x42, 0x03, 0x01, 0, 0, 0, 0, 0, 0x00, 0x28, 0xBA, 0x28, 0xA3, 0x00, 0x48, 0x00] =
    .ok (.mma { fld with fmt := .f128, slot := 4, a := .s 10, b := .s 11, c := .s 12, mod := 0x12 }, 16) := by decide +kernel
theorem decode_tld : decode [0x06, 0xC3, 0x80, 0x02, 0x10, 0, 0, 0, 0x8A, 0x22, 0x4A, 0x29, 0xA3, 0xC0, 0x2A, 0x00] =
    .ok (.tld { fld with fmt := .f128, slot := 3, g0 := some ⟨false, 0, 1, false⟩, sub := 1, d := .s 10, a := .s 8, b := .s 20, c := .s 12, e := .sp .zero, mod := 0xA }, 16) := by decide +kernel
/-- 13: a plane update. -/
theorem decode_plupd : decode [0x1E, 0xC7, 0x81, 0x02, 0, 0, 0, 0, 0x00, 0x10, 0x9A, 0x00, 0x02, 0x00, 0x00, 0x00] =
    .ok (.plupd { fld with fmt := .f128, stall := 1, g0 := some ⟨false, 0, 1, false⟩, a := .s 4, b := .v 9, c := .v 8 }, 16) := by decide +kernel
/-- 14: RCALL. -/
theorem decode_rcall : decode [0x9E, 0xC3, 0x01, 0, 0, 0, 0, 0, 0x28, 0x28, 0xBA, 0x28, 0x05, 0x8C, 0x4A, 0x04] =
    .ok (.rcall { fld with fmt := .f128, d := .v 40, a := .s 10, b := .s 11, c := .v 20, e := .s 12, mod := 0x112 }, 16) := by decide +kernel
/-- 15 R340: CSRR s40, TRAPINFO, TRET and TRET.SKIP. -/
theorem decode_csrr : decode [0xC1, 0xD3, 0x01, 0x00, 0x00, 0x00, 0xA8, 0x02, 0x00, 0x40, 0x40, 0x00] =
    .ok (.csrr { fld with fmt := .f96, stall := 4, d := .s 40, mod := 0x101 }, 12) := by decide +kernel
theorem decode_tret : decode [0xC8, 0xC3, 0x01, 0, 0, 0, 0, 0] = .ok (.tret fld, 8) := by decide +kernel
theorem decode_tret_skip : decode [0xC8, 0xC3, 0x01, 0, 0x10, 0, 0, 0] = .ok (.tret { fld with sub := 1 }, 8) := by decide +kernel
/-- LD.16.SX v20, [s4 + v2 + 0x40], slot 1, from R87 and R173: SUB 0x09, IMM at 125:94. -/
theorem decode_ld : decode (leBytes 16 (2 + 0x90 * 2 ^ 2 + 1 * 2 ^ 14 + 0x09 * 2 ^ 36 + 20 * 2 ^ 64 + 644 * 2 ^ 74 + 2 * 2 ^ 84 + 0x40 * 2 ^ 94)) =
    .ok (.ld { fld with fmt := .f128i, slot := 1, sub := 9, d := .v 20, a := .s 4, b := .v 2, imm := 0x40 }, 16) := by decide +kernel
/-- 03 R98: opcode 0xFF is never an instruction. -/
theorem decode_ff : decode [0xFC, 0xC3, 0x01, 0, 0, 0, 0, 0] = .error .opcode := by decide +kernel

/-! Small states. -/

/-- Lanes are below 32, so that a fact about the lanes of a set is a fact about 32 of them. -/
theorem lanes {g : Lanes} {p : Nat → Prop} (h : ∀ l < 32, g.getLsbD l = true → p l) : ∀ l, g.getLsbD l = true → p l :=
  fun l hl => h l (BitVec.lt_of_getLsbD hl) hl

/-- The state that an instruction leads to. -/
def run (i : Instr) (s : State) : State :=
  match exec i s with
  | .next t => t
  | .fault _ => s
  | .refused _ => s

/-- A warp of context 3 and task 5 in slot 0 of core 0, at offset 0, every register 0 but s1 (the scratch window), s2 (every bit), v9 (the lane's number) and v10 (1 in lane 5). -/
def warp : Warp :=
  { Warp.reset with
    live := true, active := true, ctx := 3, taskId := 5, s := [(1, 0x7FFFFFFF000000), (2, 0xFFFFFFFFFFFFFFFF)]
    v := (List.range 31).map (fun l => (9 * 32 + l + 1, BitVec.ofNat 32 (l + 1))) ++ [(10 * 32 + 5, 1)], csr := { Csrs.reset with groups := 0x8000, warpcfg := 2 } }
/-- A page of 64 KiB at VA 0, which may be read, written and executed, for the core and for the die's agents; key slot 0; banks 0 and 1 of cluster 0 as RAM. -/
def mem : MemSys :=
  { MemSys.reset with
    tlb := [⟨0, ⟨0, 0, 0⟩, 3, 0, 3, codePte⟩, ⟨0, ⟨0, 62, 0⟩, 3, 0, 3, codePte⟩], keys := [⟨0, true, none, 0, 0, 0, []⟩]
    bankMode := [(0, 1), (1, 1)], bankEra := [(0, 1), (1, 1)], contexts := [⟨3, 0, 0⟩] }
/-- Its cohort: two banks, a group of two warps. -/
def cohort : Cohort :=
  { die := 0, cluster := 0, cslot := 0, ctx := 3, task := 5, cohortId := 0, prio := 0, nwarps := 2, banks := [0, 1], groups := [3]
    barriers := [Barrier.start 3 2], rings := [some ⟨0, 256, 2, 1⟩], stages := stagesOf [some ⟨0, 256, 2, 1⟩], regs := 0, warpBytes := [0, 0]
    saveAddr := 0, away := false, stopping := false, placedAt := 0 }
def base : State := { State.reset with tick := 7, fresh := 20, time := 100, w := warp, cohorts := [cohort], m := mem }
/-- The same with other scalars. -/
def withS (s : State) (ws : List (Nat × W64)) : State := s.updW (fun w => { w with s := w.s.setMany ws })
def withRole (s : State) (r : W64) : State := s.updW (fun w => { w with csr := { w.csr with warpcfg := r } })


/-! Witnesses of the statements: encoding, the step, reset (in the order of the statements). -/

theorem witness_DecodeOfEncode : (Instr.iadd { fld with fmt := .f96, mod := 1, d := .v 1, a := .s 3, b := .v 639 }).wellFormed = true ∧
    (encode (.iadd { fld with fmt := .f96, mod := 1, d := .v 1, a := .s 3, b := .v 639 })).isSome = true := by decide +kernel
theorem witness_EncodeOfDecode : decode [0xC8, 0xC3, 0x01, 0, 0x10, 0, 0, 0] = .ok (.tret { fld with sub := 1 }, 8) := decode_tret_skip
/-- The page of VA 0 with a byte of LEN 3 at the issue address. -/
def len3 : State := base.updM (fun m => { m with dram := [(0, 3)] })
def pa0 : Phys := { loc := 0, pa := 0, slice := 0, key := 0, isch := 5, sel := 0, tgt := 0, l1 := true }
theorem witness_LengthByLen : decode (0xC8 :: [0xC3, 0x01, 0, 0, 0, 0, 0]) = .ok (.tret fld, 8) ∧ (3 : Byte).toNat % 4 = 3 ∧
    len3.m.translate len3.w.id.core len3.w.ctx (len3.w.codeVa 0) .exec = .ok pa0 ∧ len3.w.issuePc = 0 ∧ inScratch (len3.w.codeVa 0) = false ∧
    (∀ j < fetchLen 0, len3.m.byteHeld (pa0.loc + j) = false ∧ len3.m.placePoison { pa0 with loc := pa0.loc + j } = false) ∧
    len3.codeByte len3.w (len3.w.codeVa 0 + BitVec.ofNat 64 0) pa0 = 3 ∧ len3.w.live = true ∧ len3.w.heldAt ≠ len3.tick ∧ len3.w.running ≠ 0 ∧
    (∀ k < 8, len3.w.collects k = false) ∧ len3.candidates len3.w.id.core = [len3.w.id] ∧ len3.others len3.w.id.core = [] ∧ len3.w.wait = .ready ∧ len3.farErr pa0 = none ∧
    len3.w.releasable len3.w.running 0 = 0 := by decide +kernel
/-- Reset with TRET.SKIP placed where the next step fetches. -/
def started : State := State.reset.withFetchWord 64 0x100001C3C8
theorem witness_StepRunsDecoded :
    let s0 := started.advance
    let s1 : State := { s0.updW (fun w => w.releaseParked w.running 0) with alone := true }
    let p := s1.w.issuePc
    started.agenda = [] ∧ s0.w.wait = .ready ∧ s0.others s0.w.id.core = [] ∧ s1.farErr pa0 = none ∧ started.w.live = true ∧ s0.candidates s0.w.id.core = [s0.w.id] ∧ (∀ k < 8, s1.w.collects k = false) ∧ s1.w.running ≠ 0 ∧
      s1.m.translate s1.w.id.core s1.w.ctx (s1.w.codeVa p) .exec = .ok pa0 ∧ inScratch (s1.w.codeVa p) = false ∧
      (∀ j < fetchLen p, s1.m.byteHeld (pa0.loc + j) = false ∧ s1.m.placePoison { pa0 with loc := pa0.loc + j } = false) ∧ p.toNat % 4 = 0 ∧
      decode ((List.range (fetchLen p)).map (fun j => s1.codeByte s1.w (s1.w.codeVa p + BitVec.ofNat 64 j) { pa0 with loc := pa0.loc + j })) = .ok (.tret { fld with sub := 1 }, 8) ∧
      s1.m.oldCode = [] ∧ ∀ j < fetchLen p, s1.m.comingBytes (pa0.loc + j) = [] := by decide +kernel
/-- The first step after reset runs the word placed for it: NOP moves every lane on by 8 bytes (01 R20; 03 R74), and TRET in user mode raises PRIVILEGE, which is fatal where
no handler is, so that the task's cohorts stop at once and its end waits until the host takes the record (15 R328, R334; 19 R397). -/
theorem test_first_step_nop : (match step (State.reset.withFetchWord 64 0x1C000) with | .next t => t.w.lpc.get 0 == 8 && t.w.lpc.get 31 == 8 | _ => false) = true := by decide +kernel
theorem test_first_step_tret : (match step started with | .next t => t.h.records.map (fun r => (r.info.code, r.posted)) == [(0x02, none)] && !t.w.live | _ => false) = true := by decide +kernel

/-! Witnesses: results of one value a lane, and control. -/

/-- Instructions of every form of chapter 04, and of chapter 05, in the operands' first width. -/
def f1 : Fields := { fld with fmt := .f96, d := .v 4, a := .v 2 }
def f2 : Fields := { f1 with b := .v 9 }
def f3 : Fields := { f2 with fmt := .f128, c := .v 6 }
def forms04 : List Instr :=
  [.rdtime { f1 with a := .v 0 }, .mov f1, .movi { fld with fmt := .f96i, d := .v 4, imm := 5 }, .sel f3, .iadd f2, .isub f2, .imin f2, .imax f2, .iabs f1,
    .imul f2, .imulh f2, .imad f3, .imadw f3, .divOp f2, .remOp f2, .lea { f2 with a := .s 1 }, .cvti { f1 with sub := 2 }, .icmp f2, .shl f2, .shr f2, .sar f2,
    .rot f2, .fshl f3, .fshr f3, .andOp f2, .orOp f2, .xorOp f2, .notOp f1, .ltab f3, .popc f1, .clz f1, .ctz f1, .brev f1, .bfe f2, .bfi f3, .prmb f3]
def forms05 : List Instr :=
  let n (f : Fields) : Fields := { f with slot := 0 }
  [.shfl f2, .vote f1, .scanOp f1, .redl f1, .matchOp f1, .bcast f1, .fadd f2, .fsub f2, .fmul f2, .ffma f3, .fmin f2, .fmax f2, .fcmp f2, .fclass f1, .frnd f1,
    .fscale f2, .cvt { f1 with sub := 0x10 }, .rcp (n f1), .rsq (n f1), .sqrt (n f1), .ex2 (n f1), .lg2 (n f1), .sin (n f1), .cos (n f1), .tanh (n f1), .hadd2 f2,
    .hmul2 f2, .hfma2 f3, .fdot2 f3, .pack f3, .unpack { f2 with fmt := .f128 }]
def formReady (s : State) (i : Instr) : Bool := match laneForm i with | some r => i.wellFormed && s.clear i && r.agrees i s | none => false
theorem witness_ChapterFourResults : forms04.all (formReady base) = true := by decide +kernel
theorem witness_FloatResults : (forms05.drop 6).all (formReady base) = true := by decide +kernel
/-- In SHPUSH every lane names itself and receives one value; in COMPACT half of the lanes receive none, which a vector takes and a scalar does not, or all none. -/
theorem witness_CrossLaneResults : (forms05.take 6).all (formReady base) = true ∧
    (∀ i ∈ [Instr.shpush f2, .shpush { f2 with d := .s 4 }, .compact f2, .compact { f2 with d := .s 4 }, .compact { f2 with d := .s 4, b := .v 2 }],
      base.clear i = true ∧ (base.ctxOf i).g = 0xFFFFFFFF ∧ base.w.tileWidth = 32) ∧
    ((List.range 32).filter (fun m => (base.read32 f2.b m).getLsbD (f2.modBits 4 0))).length = 16 ∧ (∀ m < 32, (base.read32 f2.b m).toNat = m) ∧
    ∀ m < 32, (base.read32 (.v 2) m).getLsbD (f2.modBits 4 0) = false := by decide +kernel
/-- Values that differ from lane to lane for a scalar; odd offsets; words at odd addresses; no graph; a tile off its boundary. -/
theorem witness_OperandFaults :
    (let i : Instr := .mov { f1 with d := .s 4, a := .v 9 }
     laneForm i ≠ none ∧ base.clear i = true ∧ (laneForm i).all (fun r => !r.agrees i base) = true) ∧
    (∀ store ∈ [true, false], let f : Fields := { fld with fmt := .f128i, slot := 0, sub := 2, d := .v 4, a := .s 1, b := .v 9 }
      let i : Instr := if store then .st f else .ld f
      base.clear i = true ∧ (base.ea f false 0 3).toNat % 2 ^ f.subBits 2 0 ≠ 0 ∧ (base.ctxOf i).g.getLsbD 3 = true) ∧
    (let f : Fields := { fld with fmt := .f96, slot := 0, d := .v 4, a := .s 0, b := .v 9 }
     graphForm (.gdeg f) ≠ none ∧ base.clear (.gdeg f) = true ∧ base.w.acquiring = false ∧ (base.ctxOf (.gdeg f)).uni64 base f.a = some 0 ∧ base.graphOf base.w.ctx 0 = none ∧
       (let s := { base with g := { base.g with entries := [⟨3, 0, true, 0, 8, 0, 0⟩] } }
        s.clear (.gdeg f) = true ∧ (s.ctxOf (.gdeg f)).uni64 s f.a = some 0 ∧ (s.graphOf s.w.ctx 0).isSome = true ∧ 8 ≤ (s.read32 f.b 9).toNat)) ∧
    (let f : Fields := { fld with fmt := .f96, slot := 0, d := .v 4, a := .v 1 }
     base.clear (.gnext f) = true ∧ base.w.cursorBusy 0 0xFFFFFFFF = false ∧ curState (base.w.cursor 0 5) = 0) ∧
    (let f : Fields := { fld with fmt := .f128, slot := 0, d := .s 1, a := .s 3, b := .v 6, c := .v 0, e := .sp .zero }
     let s := withS (withRole base 0) [(1, 0x1001)]
     tileForm (.tst f) ≠ none ∧ s.clear (.tst f) = true ∧ (s.read64 f.d 0).toNat % 256 ≠ 0) := by decide +kernel
def fc : Fields := { fld with fmt := .f128, d := .v 4, a := .v 2, b := .v 9, c := .v 6, e := .v 5 }
theorem witness_CarryResults : base.clear (.addc fc) = true ∧ base.clear (.subb fc) = true ∧ base.clear (.addc { fc with sub := 1, b := .s 2, e := .v 7 }) = true ∧
    (base.ctxOf (.addc fc)).agrees fc.d false (fun _ => 0) = true ∧ decode ((encode (.subb fc)).getD []) = .ok (.subb fc, 16) := by decide +kernel
/-- Instructions that no lane executes: v2 is 0, so that a guard on it is false in every lane; a load at an address that is not aligned, one whose register is armed, a branch, a trap. -/
theorem witness_NothingDone_passedOver : let g : Option Guard := some ⟨false, 0, 2, false⟩
    let s := base.updW (fun w => { w with arr := w.arr.set 4 1 })
    ∀ i ∈ [Instr.iadd { fld with fmt := .f96, d := .v 4, a := .v 5, b := .v 6, g0 := g }, .ld { fld with fmt := .f128i, slot := 0, sub := 2, d := .v 4, a := .s 2, b := .v 9, g0 := g },
        .bra { fld with fmt := .f96i, imm := 8, g0 := g }, .trap { fld with fmt := .f96i, imm := 5, g0 := g }, .exit { fld with g0 := g }],
      s.passedOver i = true ∧ collectiveOf i = none := by decide +kernel
theorem witness_NothingDone : base.clear (.nop fld) = true ∧ base.clear (.waitsb fld) = true ∧
    (let g : Fields := { fld with fmt := .f96, mod := 1 }
     base.w.groupEntry (g.modBits 1 0) = none ∧ base.clear (.barSync { g with sub := 2 }) = true ∧ base.clear (.barWait { g with sub := 1, a := .s 0 }) = true ∧
       ((base.ctxOf (.barWait { g with sub := 1, a := .s 0 })).uni32 base (.s 0)).isSome = true ∧ base.clear (.barExpect { g with sub := 3, a := .s 0 }) = true) ∧
    base.clear (.sleep { fld with fmt := .f96, a := .s 0 }) = true ∧ (base.ctxOf (.sleep { fld with fmt := .f96, a := .s 0 })).uni32 base (.s 0) = some 0 := by decide +kernel
theorem witness_Branches : base.clear (.bra { fld with fmt := .f96i, imm := 0x0FFFFFF8 }) = true ∧ base.clear (.call { fld with fmt := .f96i, d := .s 5, imm := 8 }) = true ∧
    base.clear (.brx { fld with fmt := .f96, a := .v 2 }) = true ∧ base.clear (.ret { fld with a := .v 2 }) = true ∧
    (∀ l < 32, (base.ctxOf (.ret { fld with a := .v 2 })).g.getLsbD l = true → (base.read32 (.v 2) l).toNat % 4 = 0) ∧
    (∀ ret ∈ [true, false], let i : Instr := if ret then .ret { fld with a := .v 9 } else .brx { fld with fmt := .f96, a := .v 9 }
      base.clear i = true ∧ (base.read32 (.v 9) 3).toNat % 4 ≠ 0 ∧ (base.ctxOf i).g.getLsbD 3 = true) ∧
    [Instr.bra { fld with fmt := .f96i, imm := 8 }, .brx { fld with fmt := .f96, a := .v 2 }, .call { fld with fmt := .f96i, d := .sp .zero, imm := 8 }, .ret { fld with a := .v 2 }].all (fun i =>
      match decode ((encode i).getD []) with
      | .ok p => p.1 == i
      | .error _ => false) = true := by decide +kernel
/-- A guard on bit 0 of v9 lets the odd lanes execute. -/
def odd : Option Guard := some ⟨false, 0, 9, false⟩
theorem witness_LaneStates : base.clear (.yield fld) = true ∧
    (let i : Instr := .exit { fld with g0 := odd }
     base.clear i = true ∧ base.w.laneState 0 ≠ 3 ∧ (base.ctxOf i).g.getLsbD 0 = false ∧ ∀ k < 8, (base.w.exitLanes (base.ctxOf i).g).collects k = false) ∧
    base.clear (.sleep { fld with fmt := .f96, a := .s 2 }) = true ∧ (base.ctxOf (.sleep { fld with fmt := .f96, a := .s 2 })).uni32 base (.s 2) = some 0xFFFFFFFF ∧
    base.clear (.kdecl { fld with fmt := .f96, a := .s 2, mod := 7 }) = true ∧ (base.ctxOf (.kdecl { fld with fmt := .f96, a := .s 2, mod := 7 })).uni32 base (.s 2) = some 0xFFFFFFFF ∧
    base.w.signed 7 = 0 ∧
    (let i : Instr := .sign { fld with fmt := .f96, mod := 7 }
     let s := base.updW (fun w => { w with kdecl := [(7, 0xF)], lpc := [(1, 8)] })
     base.clear i = true ∧ base.w.decl 7 = 0 ∧ s.clear i = true ∧ s.w.signed 7 = 0 ∧ (s.ctxOf i).x &&& s.w.decl 7 = 0xD ∧
       (let t := s.updW (fun w => { w with lpc := [], lstate := 0xA8, ksigned := [(7, 0xE)] })
        t.clear i = true ∧ t.w.kaddr.get 7 = (t.ctxOf i).p ∧ (t.w.signed 7 ||| ((t.ctxOf i).x &&& t.w.decl 7)) = t.w.decl 7)) := by decide +kernel
def fb : Fields := { fld with fmt := .f96 }
theorem witness_Barriers :
    base.w.groupEntry 0 = some 0 ∧ base.barrierAt 0 = some (Barrier.start 3 2) ∧ base.writesPending base.w = false ∧ (base.cohortOf base.w.ref).map (·.away) = some false ∧
    (let b := Barrier.start 3 2
     b.arriveErr kindPlain = none ∧ (b.arrive kindPlain 0 0).done = false ∧ b.arriveErr (kindVote 2) = none ∧ (b.arrive (kindVote 2) 0 0).done = false ∧ b.arriveErr (kindRed 10 0) = none ∧
       (b.arrive (kindRed 10 0) 0 5).done = false ∧ b.ovf = false ∧ b.pend + (0xFF : W32).toNat ≤ 2 ^ 27 - 1 ∧ ({ b with pend := b.pend + 255 } : Barrier).done = false ∧
       0 < (b.phase - 0x80000001).toNat ∧ (b.phase - 0x80000001).toNat < 2 ^ 31) ∧
    base.clear (.barArrive { fb with d := .v 4 }) = true ∧ base.clear (.barSync { fb with sub := 2 }) = true ∧ base.clear (.gvote { fb with sub := 2, d := .v 4, a := .v 9 }) = true ∧
    base.clear (.gred { fb with sub := 10, d := .v 4, a := .s 3 }) = true ∧ (base.ctxOf (.gred { fb with sub := 10, d := .v 4, a := .s 3 })).uni32 base (.s 3) = some 0 ∧
    (let s := withS base [(3, 0x80000001), (4, 0xFF)]
     s.clear (.barWait { fb with sub := 1, a := .s 3 }) = true ∧ (s.ctxOf (.barWait { fb with sub := 1, a := .s 3 })).uni32 s (.s 3) = some 0x80000001 ∧
       s.clear (.barExpect { fb with sub := 3, a := .s 4 }) = true ∧ (s.ctxOf (.barExpect { fb with sub := 3, a := .s 4 })).uni32 s (.s 4) = some 0xFF) := by decide +kernel
/-- A second warp of the cohort that waits with GVOTE on phase 0 of the group's barrier, for v4; the barrier with one arrival of a kind. -/
def waiter : Warp :=
  { warp with
    id := ⟨⟨0, 0, 0⟩, 1⟩, ref := ⟨0, 0, 0, 1⟩, widx := 1, wait := .barrier 0 0 0xFFFFFFFF (.v 4) 6 12
    ops := [{ id := 6, slot := none, parts := 1, ready := none, dests := [(4, 0xFFFFFFFF)], vvals := [], svals := [], marks := [], isWrite := false, acq := false, cursor := none, reading := [], old := []
              aims := [], offset := 0, opc := 0x0A }] }
def halfway (kind : Nat) (x : W32) : Barrier := { Barrier.start 3 2 with arr := 1, kind := kind, arrivals := [⟨1, kind, x⟩] }
def arriving (kind : Nat) (x : W32) : State := { base with warps := [waiter], cohorts := [{ cohort with barriers := [halfway kind x] }] }
theorem witness_Barriers_completing :
    (let i : Instr := .barArrive { fb with d := .v 4 }
     let s := arriving kindPlain 0
     s.clear i = true ∧ s.w.groupEntry 0 = some 0 ∧ s.barrierAt 0 = some (halfway kindPlain 0)) ∧
    (∀ p ∈ [(Instr.barSync { fb with sub := 2 }, kindPlain, (0 : W32)), (.gvote { fb with sub := 2, d := .v 4, a := .v 9 }, kindVote 2, 1), (.gred { fb with sub := 10, d := .v 4, a := .s 3 }, kindRed 10 0, 0)],
      let s := arriving p.2.1 p.2.2
      let b := halfway p.2.1 p.2.2
      s.clear p.1 = true ∧ s.barrierAt 0 = some b ∧ b.arriveErr p.2.1 = none ∧ s.writesPending s.w = false ∧ (b.arrive p.2.1 s.w.ref.widx p.2.2).done = true ∧ b.leaving = 0 ∧
        (b.next (b.arrivals ++ [⟨s.w.ref.widx, p.2.1, p.2.2⟩])).done = false ∧ (s.cohortOf s.w.ref).map (·.away) = some false ∧ s.w.ops = []) ∧
    (let w := waiter
     w.live = true ∧ w.ref.die = base.w.ref.die ∧ w.ref.cluster = base.w.ref.cluster ∧ w.ref.cslot = base.w.ref.cslot ∧ w.wait = .barrier 0 0 0xFFFFFFFF (.v 4) 6 12 ∧
       (w.findOp 6).map (·.dests) = some (destOf (.v 4) 0xFFFFFFFF)) ∧
    [Instr.barArrive { fb with d := .v 4, mod := 1 }, .gvote { fb with sub := 2, d := .v 4, a := .v 9, mod := 1 }, .gred { fb with sub := 10, d := .v 4, a := .s 3, mod := 1 }].all base.clear = true ∧
    base.w.groupEntry 1 = none := by decide +kernel
/-- A handler at 0x400 for every code that a test raises. -/
def handled : State :=
  (base.updW (fun w => { w with csr := { w.csr with trapbase := 0x100 } })).updM (fun m => { m with dram := [0x07, 0x09, 0x20, 0x21].map (fun k => (0x101 + 4 * k, 4)) })
/-- The same after a restore, s63 still in the frame at VA 0. -/
def restored : State := handled.updW (fun w => { w with absent := BitVec.ofNat 704 (2 ^ 703), frame := 0 })
theorem witness_TrapInstructions : handled.clear (.trap { fld with fmt := .f96i, imm := 5, g0 := odd }) = true ∧ handled.clear (.bkpt { fld with g0 := odd }) = true ∧
    handled.w.onStackCore = false ∧ handled.w.priv = false ∧ handled.handlerOf handled.w 0x20 = some 0x400 ∧ handled.handlerOf handled.w 0x21 = some 0x400 ∧
    ∀ s ∈ [handled, restored], s.fillHeld s.w [703] = false ∧ (s.fillRegs s.w [703]).isSome = true ∧ s.handlerOf s.w 0x20 = some 0x400 := by decide +kernel

/-! Witnesses: memory. -/

/-- The place of an address below 128 in the page of VA 0. -/
def atLoc (n : Nat) : Phys := { pa0 with loc := n, pa := n }
def fm : Fields := { fld with fmt := .f128i, slot := 0, d := .v 4, a := .s 0, b := .v 9 }
/-- A guard that lane 5 alone meets. -/
def one : Option Guard := some ⟨false, 0, 10, false⟩
theorem witness_LoadsIssue : base.clear (.ld fm) = true ∧ base.w.acquiring = false ∧ (∀ l < 32, base.aim 1 .read (base.ea fm false 0 l) = .ok (.mem (atLoc l))) ∧
    (let f : Fields := { fm with b := .s 3, sub := 4, d := .s 6 }
     base.clear (.ldu f) = true ∧ (∀ l < 32, base.aim 16 .read (base.ea f false 0 l) = .ok (.mem (atLoc 0))) ∧ ((base.ctxOf (.ldu f)).uni64 base f.a).isSome = true ∧
       ((base.ctxOf (.ldu f)).uni32 base f.b).isSome = true) ∧
    (let f : Fields := { fm with a := .s 1, imm := 0x60, sub := 8 }
     base.clear (.ld f) = true ∧ ∀ l < 32, base.aim 1 .read (base.ea f false (f.imm.signExtend 64) l) = .ok (.bank (0x60 + l))) := by decide +kernel
theorem witness_StoresIssue : base.clear (.st fm) = true ∧ (∀ l < 32, base.aim 1 .write (base.ea fm false 0 l) = .ok (.mem (atLoc l))) ∧ base.lineBusy 0 = false ∧
    (let f : Fields := { fm with a := .s 1, mod := 2, sub := 0x50 }
     base.clear (.st f) = true ∧ (∀ l < 32, base.aim 1 .write (base.ea f false 0 l) = .ok (.bank l)) ∧ f.subBits 6 4 = 5 ∧ base.writesPending base.w = false ∧ base.hasDirty base.w = false ∧
       base.w.csr.horizon.toNat ≤ base.time) := by decide +kernel
def fa : Fields := { fld with fmt := .f128, slot := 0, d := .v 4, a := .s 1, b := .sp .zero, c := .v 6, mod := 0x10 }
theorem witness_AtomicsIssue : base.clear (.atom { fa with a := .s 0 }) = true ∧ base.clear (.atomf { fa with a := .s 0 }) = true ∧ base.clear (.cas { fa with a := .s 0, e := .v 5 }) = true ∧
    base.clear (.red { fa with a := .s 0, d := .v 0 }) = true ∧ base.clear (.redf { fa with a := .s 0, d := .v 0 }) = true ∧
    (∀ l < 32, base.aim 4 .both (base.ea { fa with a := .s 0 } false 0 l) = .ok (.mem pa0)) ∧ base.lineBusy 0 = false ∧
    (let f : Fields := { fa with sub := 0x10, g0 := one }
     base.clear (.atom f) = true ∧ (base.ctxOf (.atom f)).g = 2 ^ 5 ∧ (atomOf f (base.ctxOf (.atom f)) base 0).size = 8 ∧ base.aim 8 .both (base.ea f false 0 5) = .ok (.bank 0) ∧
       base.m.bankPoisoned 0 8 = false ∧ f.modBits 4 3 = 2 ∧ base.writesPending base.w = false) := by decide +kernel
theorem witness_AtomicOperations : (let f : Fields := { fa with sub := 1, g0 := one, c := .s 2, e := .s 1 }
    base.clear (.cas f) = true ∧ base.w.acquiring = false ∧ (base.ctxOf (.cas f)).g = BitVec.ofNat 32 (2 ^ 5) ∧ base.aim 8 .both (base.ea f false 0 5) = .ok (.bank 0) ∧
      base.m.bankPoisoned 0 8 = false ∧ base.writesPending base.w = false ∧ (Instr.cas f).wellFormed = true) := by decide +kernel
/-- The first floating operation on a signalling NaN, and the last, under NUM, on a negative zero. -/
theorem witness_AtomicOperations_floating :
    (let o : AtomOp := { lane := 0, off := 0, wide := false, opc := 0xA1, fn := 0, num := false, c := (0x7F800001 : W32).setWidth 64, e := 0, dest := none, va := 0 }
     o.wide = false ∧ (o.opc = 0xA1 ∨ o.opc = 0xA4) ∧ o.c = (0x7F800001 : W32).setWidth 64 ∧ o.fn ≤ 4) ∧
    (let o : AtomOp := { lane := 0, off := 0, wide := false, opc := 0xA4, fn := 4, num := true, c := (0x80000000 : W32).setWidth 64, e := 0, dest := none, va := 0 }
     o.wide = false ∧ (o.opc = 0xA1 ∨ o.opc = 0xA4) ∧ o.c = (0x80000000 : W32).setWidth 64 ∧ o.fn ≤ 4) ∧
    ∀ sub ∈ [(0 : BitVec 8), 4], (Instr.atomf { fa with sub := sub }).wellFormed = true ∧ (Instr.redf { fa with sub := sub, d := .v 0, slot := 7 }).wellFormed = true :=
  ⟨⟨rfl, .inl rfl, rfl, by decide⟩, ⟨rfl, .inr rfl, rfl, by decide⟩, by decide +kernel⟩
/-- A dirty line of the warp at VA 0, and a clean one. -/
def cached : State :=
  base.updM (fun m => { m with l1 :=
    [⟨0, 0, 0, 0x11, BitVec.allOnes 128, 1, 0, 1, 0, 0, 0, 0, 3, 0, none⟩, ⟨0, 1, 128, 0x22, BitVec.allOnes 128, 0, 0, 0, 1, 0, 0, 0, 3, 0, none⟩] })
/-- Byte 0 of line 0 is dirty in the L1 and answers at once; the other bytes have no lease any more and are asked at the home. A scalar D; an acquire, which asks the home for every byte. -/
theorem witness_LoadsIssue_cached :
    (∀ f ∈ [fm, { fm with mod := 1, sub := 0x20 }], cached.clear (.ld f) = true ∧ cached.w.acquiring = false ∧ ∀ l < 32, cached.aim 1 .read (cached.ea f false 0 l) = .ok (.mem (atLoc l))) ∧
    cached.atOnce false 1 (.mem (atLoc 0)) = some [0x11] ∧ cached.atOnce false 1 (.mem (atLoc 1)) = none ∧ cached.atOnce true 1 (.mem (atLoc 0)) = none ∧
    (let f : Fields := { fm with a := .s 1, b := .s 3, sub := 3, d := .s 6, imm := 0x60 }
     base.clear (.ldu f) = true ∧ (∀ l < 32, base.aim 8 .read (base.ea f false (f.imm.signExtend 64) l) = .ok (.bank 0x60)) ∧ ((base.ctxOf (.ldu f)).uni64 base f.a).isSome = true ∧
       ((base.ctxOf (.ldu f)).uni32 base f.b).isSome = true ∧ (base.atOnce false 8 (.bank 0x60)).isSome = true) := by decide +kernel
theorem witness_StoresIssue_cached : cached.clear (.st fm) = true ∧ cached.m.linesOnce = true ∧ base.m.linesOnce = true ∧ (∀ l < 32, cached.aim 1 .write (cached.ea fm false 0 l) = .ok (.mem (atLoc l))) ∧
    cached.lineBusy 0 = false := by decide +kernel
/-- Every lane on one word of a bank; every lane on one word of a line that is dirty in the L1; the operations of R191 on words of 64 bits. -/
theorem witness_AtomicsIssue_lanes :
    (base.clear (.atom fa) = true ∧ (base.ctxOf (.atom fa)).g = 0xFFFFFFFF ∧ (∀ l < 32, base.aim 4 .both (base.ea fa false 0 l) = .ok (.bank 0)) ∧ base.m.bankPoisoned 0 4 = false ∧
      base.writesPending base.w = false) ∧
    (let f : Fields := { fa with a := .s 0 }
     cached.clear (.atom f) = true ∧ cached.w.acquiring = false ∧ (∀ l < 32, cached.aim 4 .both (cached.ea f false 0 l) = .ok (.mem pa0)) ∧ cached.lineBusy 0 = false ∧
       (cached.m.l1Find 0 0).map (·.dirty) = some 1) ∧
    (∀ wide ∈ [true, false], ∀ opc ∈ [(0xA0 : BitVec 8), 0xA3], ∀ fn ∈ [0, 10], let o : AtomOp := { lane := 0, off := 0, wide := wide, opc := opc, fn := fn, num := false, c := 5, e := 0, dest := none, va := 0 }
      o.wide = wide ∧ o.c = (5 : W32).setWidth 64 ∧ o.fn ≤ 10) := by decide +kernel
theorem witness_CacheMaintenance_dirty :
    (let f : Fields := { fm with d := .v 0 }
     (match cleanPages f (cached.ctxOf (.clean f)) cached with | .ok runs => runs.any (fun r => r.has 0) | .error _ => false) = true) ∧
    (cached.m.l1Find 0 0).map (fun x => (x.cluster == cached.w.cl, x.dirty, x.dirtying.getLsbD (slotBit cached.w.id))) = some (true, 1, true) ∧
    cached.w.onStackCore = false ∧ cached.w.acquiring = false := by decide +kernel
theorem witness_CacheMaintenance : base.clear (.pf { fm with d := .v 0 }) = true ∧
    (∀ drop ∈ [true, false], ∀ range ∈ [true, false],
      let f : Fields := { fm with d := .v 0, sub := if range then 1 else 0, b := if range then .s 2 else .v 9, imm := 0 }
      let s := withS cached [(2, 256)]
      let i : Instr := if drop then .invl f else .clean f
      s.clear i = true ∧ s.w.acquiring = false ∧ s.w.onStackCore = false ∧ s.m.linesOnce = true ∧ (cleanPages f (s.ctxOf i) s).toOption.isSome = true) ∧
    cached.clear (.cctl { fld with fmt := .f96, sub := 2 }) = true ∧ cached.clear (.fence { fld with fmt := .f96, sub := 5 }) = true := by decide +kernel
theorem witness_SpillFill : (∀ fill ∈ [true, false], let f : Fields := { fm with a := .s 1, b := .v 0, sub := 1 }
    let i : Instr := if fill then .fill f else .spill f
    base.clear i = true ∧ (base.read64 f.a 0 + f.imm.signExtend 64).toNat % 128 = 0 ∧ fieldOf base.w.csr.resume 31 31 = 0 ∧
      ∀ j < 2, ∀ l < 32, base.aim 4 (if fill then .read else .write) (base.read64 f.a 0 + f.imm.signExtend 64 + BitVec.ofNat 64 (128 * j) + BitVec.ofNat 64 (4 * l)) =
        .ok (.bank (128 * j + 4 * l))) := by decide +kernel
/-- A range of two scalars and one of two vectors in linear memory, the first line dirty in the L1 in byte 0. -/
theorem witness_SpillFill_linear : ∀ s ∈ [base, cached], ∀ fill ∈ [true, false],
    s.w.acquiring = false ∧ s.m.linesOnce = true ∧ fieldOf s.w.csr.resume 31 31 = 0 ∧ s.lineBusy 0 = false ∧ s.lineBusy 1 = false ∧
    (let f : Fields := { fm with d := .s 40, sub := 1, b := .v 0 }
     let i : Instr := if fill then .fill f else .spill f
     s.clear i = true ∧ (s.read64 f.a 0 + f.imm.signExtend 64).toNat % 8 = 0 ∧
       ∀ j < 2, s.aim 8 (if fill then .read else .write) (s.read64 f.a 0 + f.imm.signExtend 64 + BitVec.ofNat 64 (8 * j)) = .ok (.mem (atLoc (8 * j)))) ∧
    (let f : Fields := { fm with sub := 1, b := .v 0 }
     let i : Instr := if fill then .fill f else .spill f
     s.clear i = true ∧ (s.read64 f.a 0 + f.imm.signExtend 64).toNat % 128 = 0 ∧
       ∀ j < 2, ∀ l < 32, s.aim 4 (if fill then .read else .write) (s.read64 f.a 0 + f.imm.signExtend 64 + BitVec.ofNat 64 (128 * j) + BitVec.ofNat 64 (4 * l)) =
         .ok (.mem (if j = 0 then atLoc (4 * l) else { atLoc (128 + 4 * l) with slice := 1 }))) := by decide +kernel
/-- A base that is not aligned; a transfer that RESUME lets go on at its second register; one whose second register lies past the banks. -/
theorem witness_SpillFill_resumed : ∀ fill ∈ [true, false],
    let f : Fields := { fm with a := .s 1, b := .v 0, sub := 1 }
    let i (f : Fields) : Instr := if fill then .fill f else .spill f
    (let f : Fields := { f with imm := 4 }
     base.clear (i f) = true ∧ (base.read64 f.a 0 + f.imm.signExtend 64).toNat % 128 ≠ 0) ∧
    (let s := base.updW (fun w => { w with csr := { w.csr with resume := BitVec.ofNat 64 (2 ^ 31 + (base.ctxOf (i f)).opc * 256 + 1) } })
     s.clear (i f) = true ∧ fieldOf s.w.csr.resume 31 31 = 1 ∧ fieldOf s.w.csr.resume 15 8 = (s.ctxOf (i f)).opc ∧ fieldOf s.w.csr.resume 6 0 = 1 ∧
       ∀ l < 32, s.aim 4 (if fill then .read else .write) (s.read64 f.a 0 + BitVec.ofNat 64 (128 + 4 * l)) = .ok (.bank (128 + 4 * l))) ∧
    (let f : Fields := { f with imm := 0x1FF80 }
     base.clear (i f) = true ∧ (base.read64 f.a 0 + f.imm.signExtend 64).toNat % 128 = 0 ∧ ∀ l < 32,
       base.aim 4 (if fill then .read else .write) (base.read64 f.a 0 + f.imm.signExtend 64 + BitVec.ofNat 64 (4 * l)) = .ok (.bank (0x1FF80 + 4 * l)) ∧
       (match base.aim 4 (if fill then .read else .write) (base.read64 f.a 0 + f.imm.signExtend 64 + BitVec.ofNat 64 (128 + 4 * l)) with | .ok _ => false | .error e => e.code != 0) = true) := by decide +kernel
/-- Bytes at a location, as a part of a memory. -/
def bytesAt (loc n x : Nat) : Store 8 := (runOf loc (leBytes n x)).filter (fun p => p.2 != 0)
/-- A record of a nested tensor of 64 elements with one plane at 0x1000 and scales at 0x2000, sealed, at 0x3000. -/
def recBits0 : Nat := 0x1000 + 7 * 2 ^ 56 + 1 * 2 ^ 60 + 0x2000 * 2 ^ 64 + 64 * 2 ^ 224
def sealed (r : Nat) : Nat := r + (crc32c (leBytes 60 r)).toNat * 2 ^ 480
def withRec : State := withS (base.updM (fun m => { m with dram := bytesAt 0x3000 64 (sealed recBits0) })) [(4, 0x3000)]
def fn : Fields := { fld with fmt := .f128, slot := 0, d := .v 4, a := .s 4, b := .v 9, c := .v 6 }
theorem witness_NestedIssue :
    withRec.clear (.ldn { fn with c := .v 0 }) = true ∧ withRec.clear (.stn { fn with d := .v 0 }) = true ∧ withRec.clear (.plupd { fn with d := .v 0 }) = true ∧
    withRec.clear (.plaxpy { fn with d := .v 0, e := .v 5 }) = true ∧ withRec.clear (.plresc { fn with fmt := .f96, d := .v 0, b := .s 0, c := .v 0 }) = true ∧
    (withRec.ctxOf (.stn { fn with d := .v 0 })).uni64 withRec fn.a = some 0x3000 ∧ withRec.w.acquiring = false ∧ (∀ l < 32, (withRec.read32 fn.b l).toNat / 32 = 0) ∧
    (match withRec.recordAt withRec.w.id.core withRec.w.ctx 0x3000 with
      | .ok r => r.fmt == 7 && [Need.read, .write, .both].all (fun n => match withRec.nblock withRec.w.id.core withRec.w.ctx n r 0 with | .ok b => b == ⟨atLoc 0x2000, [atLoc 0x1000]⟩ | .error _ => false)
      | .error _ => false) = true ∧
    [32, 64].all (fun line => !withRec.lineBusy line) = true ∧
    (let f : Fields := { fn with fmt := .f96, d := .v 0, b := .v 0, c := .v 0 }
     let withRec := withRole withRec 0
     withRec.clear (.tseal f) = true ∧ (withRec.read64 f.a 0).toNat % 64 = 0 ∧ inScratch (withRec.read64 f.a 0) = false ∧
       (withRec.m.translate withRec.w.id.core withRec.w.ctx 0x3000 .both).toOption.map (fun p => (p.loc, p.tgt)) = some (0x3000, 0) ∧ withRec.lineBusy (lineOf 0x3000) = false) := by decide +kernel

/-! Witnesses: graph memory. -/

def entry0 : GEntry := { ctx := 3, idx := 0, used := true, gen := 0, nv := 32, pool := 0, poolLen := 0 }
def gbase : State := { base with g := { base.g with entries := [entry0] } }
def fg : Fields := { fld with fmt := .f128, slot := 0, d := .v 4, a := .s 0, b := .v 9 }
def graphForms : List Instr :=
  [.gadd { fg with c := .v 9, e := .v 5 }, .gdel { fg with c := .v 9 }, .gsetw { fg with c := .v 9, e := .v 5 }, .grmw { fg with sub := 11, c := .v 9, e := .v 5 }, .gdelv { fg with sub := 2 },
    .gdeg { fg with fmt := .f96, sub := 1 }, .glde { fg with c := .v 6, e := .v 7, mod := 31 }, .gfind { fg with c := .v 9, e := .sp .zero }]
theorem witness_GraphRequests : graphForms.all (fun i => match graphForm i with
    | some r => gbase.clear i && !gbase.w.acquiring && (gbase.ctxOf i).uni64 gbase r.f.a == some 0 && r.vertices.all (fun o => (List.range 32).all (fun l => decide ((gbase.read32 o l).toNat < entry0.nv)))
    | none => false) = true ∧ gbase.graphOf gbase.w.ctx 0 = some entry0 := by decide +kernel
/-- Every lane's cursor 2 open on its own list, halfway through. -/
def opened : State :=
  gbase.updW (fun w => (List.range 32).foldl (fun acc l => acc.setCursor 2 l (cursorWord 4 2 l 0 1 0 false 1)) w)
theorem witness_Cursors :
    (let f : Fields := { fg with mod := 2 }
     opened.clear (.gopen f) = true ∧ opened.w.acquiring = false ∧ opened.w.cursorBusy 2 0xFFFFFFFF = false ∧ (opened.ctxOf (.gopen f)).uni64 opened f.a = some 0 ∧
       opened.graphOf opened.w.ctx 0 = some entry0 ∧ (∀ l < 32, (opened.read32 f.b l).toNat < entry0.nv)) ∧
    (let f : Fields := { fg with mod := 2 + 8 + 16 * 7, b := .s 0 }
     let s := opened.updW (fun w => { w with kdecl := [(7, 0xFFFFFFFF)] })
     let c : Ctx := { s.ctxOf (.gopen f) with g := s.guardLanes f (s.w.decl 7) }
     s.clear (.gopen f) = true ∧ f.modBits 3 3 = 1 ∧ f.modBits 6 4 = 7 ∧ s.w.signed 7 = 0 ∧ s.w.decl 7 &&& ~~~(s.ctxOf (.gopen f)).x = 0 ∧ c.g ≠ 0 ∧ (c.uni32 s f.b).isSome = true ∧
       c.uni64 s f.a = some 0) ∧
    (let f : Fields := { fg with fmt := .f96, mod := 2, a := .v 1, b := .v 0 }
     opened.clear (.gnext f) = true ∧ ∀ l < 32, curState (opened.w.cursor 2 l) ≠ 0) ∧
    (∀ sub ∈ [(2 : BitVec 8), 8], opened.clear (.gclose { fld with sub := sub }) = true ∧ opened.w.cursorBusy 8 0xFFFFFFFF = false) ∧
    (let f : Fields := { fg with fmt := .f96, mod := 2, a := .v 0, b := .v 0, slot := 7 }
     opened.clear (.gcur f) = true ∧ (opened.ctxOf (.gcur f)).agrees f.d true (fun _ => 0) = true) := by decide +kernel
/-- A list of vertex 5 with four slots, one of them dying and one dead, an operation of the focus warp on it, and credit and room for it. -/
def list5 : GList := { ctx := 3, idx := 0, dir := false, vertex := 5, slots := [⟨7, 70, .live⟩, ⟨8, 80, .dying⟩, ⟨9, 90, .dead 50⟩, ⟨11, 110, .live⟩], opens := 0, bad := false }
def gmsg (kind : GKind) (xs : List (Nat × W32 × W32)) : GMsg :=
  { id := 4, warp := base.w.ref, op := 6, ctx := 3, idx := 0, dir := false, vertex := 5, kind := kind, lanes := xs.map (fun x => ⟨x.1, x.2.1, x.2.2⟩), dest := .v 4, pred := none }
def gop : Op :=
  { id := 6, slot := some 0, parts := 2, ready := none, dests := [(4, 0x8001), (5, 0x8001)], vvals := [], svals := [], marks := [], isWrite := false, acq := false, cursor := none, reading := [], old := [],
    aims := [], offset := 0, opc := 0xB0 }
def homes (kind : GKind) (xs : List (Nat × W32 × W32)) : State :=
  { (gbase.updW (fun w => { (w.setCursor 2 15 (cursorWord 4 1 5 0 1 0 false 1)) with ops := [gop] })) with
    g := { gbase.g with
      lists := [list5], msgs := [gmsg kind xs], shares := [⟨3, 0, entry0.home 5, 4, 0⟩], credits := [⟨3, 0, entry0.home 5, entry0.home 12, 60⟩] } }
theorem witness_GraphHomes : ([GKind.add, .del, .setw, .rmw 9, .deg, .lde, .find, .next 2, .openc 2 1]).all (fun k =>
    let s := homes k [(0, 7, 1), (15, 12, 2)]
    let x := s.g.list 3 0 false 5
    s.g.msgs.find? (fun m => m.id == 4) == some (gmsg k [(0, 7, 1), (15, 12, 2)]) && s.g.entry 3 0 == some entry0 && !s.engineHeld (entry0.home 5) && x == list5 && s.w.findOp 6 == some gop &&
      s.w.live && !s.w.exited && s.w.ref == (gmsg k []).warp && (s.warpNow (gmsg k []).warp).isSome) = true ∧
    (let s := homes .add [(0, 12, 1), (15, 12, 2)]
     2 ≤ (s.g.share 3 0 (entry0.home 5)).free ∧ 2 ≤ (s.g.credit 3 0 (entry0.home 5) (entry0.home 12)).unused) := by decide +kernel
/-- GDELV of an out-list with a live edge and of one with none, and of a mirror list; a close; a removal that a mirror list asks of the out-home, where the edge is live and where it is not. -/
def delOp : Op := { gop with vvals := [(128, 0)] }
theorem witness_GraphHomes_removals :
    (∀ p ∈ [(false, [⟨8, 80, .dying⟩, ⟨7, 70, .live⟩]), (false, [⟨8, 80, .dying⟩]), (true, [(⟨7, 70, .live⟩ : GSlot)])],
      let g : GMsg := { gmsg .delv [(0, 0, 0)] with dir := p.1 }
      let s0 := homes .delv [(0, 0, 0)]
      let s : State := { s0 with w := { s0.w with ops := [delOp] }, g := { s0.g with lists := [{ list5 with dir := p.1, slots := p.2 }], msgs := [g] } }
      s.g.msgs.find? (fun m => m.id == 4) = some g ∧ s.g.entry 3 0 = some entry0 ∧ s.engineHeld (entry0.home 5) = false ∧ (s.g.list 3 0 p.1 5).slots = p.2 ∧ (s.g.list 3 0 p.1 5).bad = false ∧
        s.w.findOp 6 = some delOp ∧ (delOp.vvals.find? (fun p => p.1 == 4 * 32 + 0)).map Prod.snd = some 0) ∧
    (let s := homes .close [(0, 0, 0), (15, 0, 0)]
     s.g.msgs.find? (fun m => m.id == 4) = some (gmsg .close [(0, 0, 0), (15, 0, 0)]) ∧ s.g.list 3 0 false 5 = list5) ∧
    (∀ n ∈ [7, 8], let m : MirrorMsg := { id := 40, warp := base.w.ref, op := 6, lane := 0, dest := .v 4, ctx := 3, idx := 0, u := 5, v := n, kind := .asked }
      let s0 := homes .delv [(0, 0, 0)]
      let s : State := { s0 with w := { s0.w with ops := [delOp] }, g := { s0.g with mirrors := [m] } }
      (∀ g ∈ s.g.msgs, g.id ≠ 40) ∧ s.g.mirrors.head? = some m ∧ s.g.entry 3 0 = some entry0 ∧ s.engineHeld (entry0.home 5) = false ∧ (s.g.list 3 0 false 5).bad = false ∧
        (s.g.list 3 0 false 5).slots.any (fun q => q.life == .live && q.nbr == BitVec.ofNat 32 n) = (n == 7) ∧ s.w.live = true ∧ s.w.ref = m.warp ∧ s.w.findOp 6 = some delOp) ∧
    (let s := homes .add [(0, 12, 1), (15, 12, 2)]
     (s.g.list 3 0 false 5).slots.length + 2 < 2 ^ 32 - 1 ∧ s.g.inSlots 3 0 12 + 2 < 2 ^ 32 - 1) ∧
    (let s := { gbase with g := { gbase.g with lists := [list5] } }
     (s.g.list 3 0 false 5).slots.all (fun q => match q.life with | .live => true | .dying => true | .dead d => decide (s.time < d)) = false) := by decide +kernel
theorem witness_GraphUpkeep :
    (∀ k ∈ [MKind.append 5, .setw 6, .kill], let m : MirrorMsg := { id := 4, warp := base.w.ref, op := 6, lane := 0, dest := .v 4, ctx := 3, idx := 0, u := 7, v := 5, kind := k }
      let s := { gbase with g := { gbase.g with lists := [{ list5 with dir := true }], mirrors := [m] } }
      s.g.mirrors.find? (fun m => m.id == 4 && m.kind != .asked) = some m ∧ s.g.entry 3 0 = some entry0 ∧ s.engineHeld (entry0.home 5) = false ∧ (s.g.list 3 0 true 5).bad = false ∧
        s.g.mirrors.head? = some m ∧ m.warp ≠ WRef.none) ∧
    (let d : DeathMsg := { id := 4, ctx := 3, idx := 0, u := 5, v := 8, wct := 60 }
     let s := { gbase with g := { gbase.g with lists := [list5], deaths := [d] } }
     s.g.deaths.find? (fun y => y.id == 4) = some d ∧ s.g.deaths.head? = some d) ∧
    (let s := { gbase with g := { gbase.g with shares := [⟨3, 0, 15, 1, 0⟩], credits := [⟨3, 0, 0, 15, 964⟩] } }
     (s.g.entry (3 * 4096 / 4096) (3 * 4096 % 4096)).isSome = true ∧ s.engineHeld 15 = false ∧ (s.g.credit 3 0 0 15).unused + 60 ≤ 1024 ∧ (s.g.share 3 0 15).free ≠ 0) ∧
    (let s := { gbase with g := { gbase.g with lists := [list5] } }
     s.engineHeld (entry0.home 5) = false ∧ (s.g.list 3 0 false 5).opens = 0 ∧ s.time = 100 ∧ (s.g.list 3 0 false 5).slots[2]? = some ⟨9, 90, .dead 50⟩) := by decide +kernel

/-! Witnesses: the streamer, the sequencers and the matrix engine. -/

/-- A record of FP32 values of rank 1, 64 elements at 0x1000, and the nested one, sealed; s4 and s5 hold their addresses, s1 a tile in the window, s10 to s12 coordinates. -/
def recBits1 : Nat := 0x1000 + 0 * 2 ^ 56 + 1 * 2 ^ 60 + 64 * 2 ^ 224
def recBits2 : Nat := 0x1000 + 0 * 2 ^ 56 + 2 * 2 ^ 60 + 64 * 2 ^ 224 + 64 * 2 ^ 256 + 2 * 2 ^ 384
def tiled : State :=
  withS (withRole (base.updM (fun m => { m with dram := bytesAt 0x3000 64 (sealed recBits0) ++ bytesAt 0x3040 64 (sealed recBits1) ++ bytesAt 0x3080 64 (sealed recBits2) })) 0)
    [(3, 0x3080), (4, 0x3000), (5, 0x3040)]
def ft : Fields := { fld with fmt := .f128, slot := 0, d := .s 1, a := .s 5, b := .s 10, c := .v 6, e := .v 4 }
def tileCases : List Instr :=
  [.tld { ft with sub := 1 }, .tld { ft with a := .s 4, mod := 0x2E }, .tst { ft with sub := 2 }, .tst { ft with a := .s 4, mod := 6 }, .tgath { ft with a := .s 3, b := .v 20, mod := 0x40 },
    .tscat { ft with a := .s 3, b := .v 20, mod := 0x01 }]
theorem witness_TileRequests : tileCases.all (fun i => match tileForm i with
    | none => false
    | some r =>
      match tiled.recordAt tiled.w.id.core tiled.w.ctx (tiled.read64 r.f.a 0) with
      | .error _ => false
      | .ok rec =>
        let q := r.request (tiled.ctxOf i) tiled rec
        tiled.clear i && lowLane (tiled.ctxOf i).g == 0 && (tiled.read64 r.f.d 0).toNat % 256 == 0 && tiled.windowRun (tiled.read64 r.f.d 0) r.size == none && suits r.kind rec == none && q.blockAlign rec &&
          (q.nestBlocks rec).all (fun b => (tiled.nblock tiled.w.id.core tiled.w.ctx (if r.load then .read else .write) rec b).toOption.isSome) &&
          (r.coordRegs rec).all (fun k => !tiled.w.regMissing k && tiled.w.reachable k && tiled.w.settled k) && (r.gather || rec.rank ≤ 53) && !tiled.engineFull) = true := by decide +kernel
/-- A tile off its boundary, with a record that can be used, and with none. -/
theorem witness_OperandFaults_tiles :
    (tileCases.all (fun i => match tileForm i with
    | none => false
    | some r =>
      let s := withS tiled [(1, 0x1001)]
      s.clear i && (s.read64 r.f.d 0).toNat % 256 != 0 &&
        match s.recordAt s.w.id.core s.w.ctx (s.read64 r.f.a 0) with
        | .error _ => false
        | .ok rec => (suits r.kind rec).isNone && (r.gather || rec.rank ≤ 53) && (r.coordRegs rec).all (fun k => !s.w.regMissing k && s.w.reachable k && s.w.settled k) &&
            ((r.request (s.ctxOf i) s rec).nestBlocks rec).all (fun b => match s.nblock s.w.id.core s.w.ctx (if r.load then .read else .write) rec b with | .ok _ => true | .error e => e.1.code != 0))) = true ∧
    (let s := withS (withRole base 0) [(1, 0x1001)]
     (match s.recordAt s.w.id.core s.w.ctx 0 with | .error e => e.code != 0 | .ok _ => false) = true) := by decide +kernel
/-- A pool of lumens, and a descriptor that clears two rows of 32 bytes at 0x1000, at 0x3000. -/
def desc0 : Nat := 2 * 2 ^ 4 + 32 * 2 ^ 96 + 2 * 2 ^ 128 + 64 * 2 ^ 160 + 0x1000 * 2 ^ 256
def pooled : State :=
  let s := withS (withRole (base.updM (fun m => { m with dram := bytesAt 0x3000 64 desc0 })) 0) [(3, 0x3000), (10, 0x1000), (11, 0x2000), (12, 256), (13, 0x0000000500000007)]
  { s with e := { s.e with pools := [⟨0, 50, 1, 100, 0⟩] } }
def fx : Fields := { fld with fmt := .f128, slot := 0, d := .s 10, a := .s 11, b := .s 12, c := .s 14, e := .v 4 }
def copySeq (s : State) : SeqRun := xseqOf 0 0 256 (s.read64 (.s 10) 0) (s.read64 (.s 11) 0) 0
def ready (s : State) (q : Except (TErr × Nat) SeqRun) : Bool :=
  match q with | .ok q => (s.e.seqs.filter (fun x => x.stack == q.stack && !x.finished)).length < 64 && s.e.lumens == [] && 0 < (s.pool (q.stack / 4)).level && (s.pool (q.stack / 4)).fits q.lumens | .error _ => false
theorem witness_Copies :
    pooled.clear (.xcopy fx) = true ∧ pooled.clear (.xcopy { fx with b := .s 0 }) = true ∧ pooled.engineFull = false ∧ (pooled.read32 (.s 0) 0).toNat = 0 ∧
    pooled.windowRun 0x2000 256 = none ∧ pooled.windowRun 0x1000 (copySeq pooled).total = none ∧ ready pooled (pooled.placeSeq pooled.w.id.core pooled.w.ctx (copySeq pooled)) = true ∧
    (let s := withS pooled [(10, 0x7FFFFFFF000000)]
     s.clear (.xcopy fx) = true ∧ s.windowRun 0x7FFFFFFF000000 (copySeq s).total = none ∧ (s.placeSeq s.w.id.core s.w.ctx (copySeq s)).toOption = none) ∧
    (let f : Fields := { fx with d := .v 4, a := .s 3, b := .v 0, c := .s 14, e := .v 0 }
     pooled.clear (.nbseq f) = true ∧ (pooled.m.translate pooled.w.id.core pooled.w.ctx 0x3000 .read).toOption.map (fun p => (p.loc, p.tgt)) = some (0x3000, 0) ∧
       (∀ j < 64, pooled.m.homePoison (0x3000 + j) = false) ∧
       (match seqOf (numOf (pooled.m.homeBytes 0x3000 64 0)) with | some q => !q.overlaps && ready pooled (pooled.placeSeq pooled.w.id.core pooled.w.ctx q) | none => false) = true) ∧
    (let f : Fields := { fld with fmt := .f96, a := .s 5 }
     let s := { pooled with e := { pooled.e with reqs := [{ XReq.new noFields (.xcopy 0 0 16 0) 0 0 16 0x200 0 with id := 30, warp := base.w.ref, ticket := 0 }] } }
     pooled.clear (.xwait f) = true ∧ (pooled.ctxOf (.xwait f)).uni32 pooled f.a = some 0 ∧ pooled.e.reqs = [] ∧ pooled.e.seqs = [] ∧ s.clear (.xwait f) = true ∧ ((0 : W32) - 0).toNat < 2 ^ 31) := by decide +kernel
/-- A thermal hold of stack 0 makes a descriptor's bytes wait; a walk for XCOPY waits where its table does; a sequence that XWAIT covers. -/
theorem witness_Copies_waiting :
    (let s := pooled.updM (fun m => { m with tlb := [], contexts := [⟨3, 0, 0⟩], holds := [⟨0, 0, false⟩] })
     s.clear (.xcopy fx) = true ∧ s.windowRun 0x2000 256 = none ∧ s.windowRun 0x1000 (copySeq s).total = none ∧
       (match s.placeSeq s.w.id.core s.w.ctx (copySeq s) with | .error e => e.1 == waitErr | .ok _ => false) = true) ∧
    (∀ j < 64, pooled.m.byteHeld (0x3000 + j) = false) ∧
    (let f : Fields := { fld with fmt := .f96, a := .s 5 }
     let s := { pooled with e := { pooled.e with seqs := [{ SeqRun.fresh .zero with id := 30, warp := base.w.ref, ticket := 0 }] } }
     s.clear (.xwait f) = true ∧ (s.ctxOf (.xwait f)).uni32 s f.a = some 0 ∧ ((0 : W32) - 0).toNat < 2 ^ 31) := by decide +kernel
/-- A copy of 16 bytes from VA 0 on its way to VA 0x200. -/
def copy0 : XReq := { XReq.new noFields (.xcopy 0 0 16 0) 0 0 16 0x200 0 with id := 30, warp := base.w.ref, core := base.w.id.core, ctx := 3, op := 6, ticket := 1 }
def copying (q : XReq) : State := { base with e := { base.e with reqs := [q] } }
theorem witness_StreamerWork :
    (let s := copying copy0
     s.reqAt 30 = some copy0 ∧ s.engErr copy0 = none ∧ (engOwns (s.engGroups copy0 (s.engOut copy0))).map (·.loc) = [0x200] ∧ s.owned (lineOf 0x200) = false ∧ s.seqBlocks (lineOf 0x200) = false) ∧
    (let q := { copy0 with dst := 0x7FFFFFFF000000 }
     let s := copying q
     s.engErr q = none ∧ engOwns (s.engGroups q (s.engOut q)) = []) ∧
    (let s := (copying copy0).updM (fun m => { m with keys := [] })
     s.engErr copy0 = some (⟨0x08, 5⟩, 0, 0) ∧ s.w.live = true ∧ s.w.ref = copy0.warp) ∧
    (let g : EngWrite := { linear := [(atLoc 0x200, 5)], scratch := [], poison := [], spoison := [], adds := [] }
     let q := { copy0 with staged := some [g] }
     (copying q).reqAt 30 = some q ∧ (copying q).e.seqs = [] ∧ (g.linear.map (fun p => p.1.loc)).Nodup ∧ 0x200 < hostBase) ∧
    (let g : EngWrite := { linear := [], scratch := [(0, 5), (1, 6)], poison := [], spoison := [], adds := [] }
     let q := { copy0 with staged := some [g] }
     (copying q).cohortOf q.warp = some cohort ∧ cohort.away = false ∧ cohort.banks.Nodup ∧ cohort.banks[0 / 65536]? = some 0 ∧ base.m.bankMode.get 0 ≠ 0 ∧ (g.scratch.map Prod.fst).Nodup) ∧
    (let q := { copy0 with staged := some [], wct := 100 }
     (copying q).reqAt 30 = some q ∧ q.wct ≤ (copying q).time) := by decide +kernel
/-- A destination whose page is missing, with the fault buffer closed and open; a request that is suspended; one that reads a peer's memory. -/
theorem witness_StreamerWork_faults :
    (let q := { copy0 with dst := 0x50000 }
     let s := (copying q).updM (fun m => { m with contexts := [⟨3, 0, 0⟩] })
     s.reqAt 30 = some q ∧ (s.engErr q).map (fun e => (e.1.code, e.2.1)) = some (0x07, 0x50000) ∧ s.h.records = [] ∧ s.h.fbOpen = false) ∧
    (let q := { copy0 with paged := some 9 }
     (copying q).reqAt 30 = some q ∧ q.staged = none ∧ q.paged.isSome = true) ∧
    (copying copy0).engineWaits copy0.warp copy0.core copy0.ctx [] ((copy0.pieces.1 ++ copy0.pieces.2.filter (fun x => x.2 == .both)).map (fun x => (x.1.va, x.1.n))) = false ∧
    (copying copy0).m.linesOnce = true ∧
    (let s := { copying copy0 with m := cached.m }
     (engOwns (s.engGroups { copy0 with dst := 0 } (s.engOut { copy0 with dst := 0 }))).map (·.loc) = [0] ∧ (s.m.l1Find 0 0).map (·.dirty) = some 1) := by decide +kernel
/-- Groups that leave a block poisoned, that add to a word of FP32 and of BF16, and that write and poison a bank, their lines in L2. -/
theorem witness_StreamerWork_writing : ∀ g ∈ [({ linear := [(atLoc 0x200, 5)], scratch := [], poison := [atLoc 0x200], spoison := [], adds := [] } : EngWrite),
      { linear := [], scratch := [], poison := [], spoison := [], adds := [(atLoc 0x27C, false, 0x3F800000)] }, { linear := [], scratch := [], poison := [], spoison := [], adds := [(atLoc 0x27E, true, 0x3F800000)] },
      { linear := [], scratch := [(0, 5), (1, 6)], poison := [], spoison := [1], adds := [] }],
    let q := { copy0 with staged := some [g] }
    let s := (copying q).updM (fun m => { m with l2 := [4, 5].map (fun l => ⟨l, 0, BitVec.allOnes 128, 0, 0, 0, 64, 0, 0, 0, 0, 3, 0, some 30⟩) })
    s.reqAt 30 = some q ∧ s.e.seqs = [] ∧ q.level = 0 ∧ (∀ p ∈ g.places, p.loc < hostBase ∧ (s.m.l2Find (lineOf p.loc)).isSome = true) ∧
      (∀ a ∈ g.adds, a.1.loc % 128 + (if a.2.1 then 2 else 4) = 128 ∧ ∀ j < 4, s.m.homePoison (a.1.loc + j) = false) := by decide +kernel
/-- The sequence of the descriptor, accepted. -/
def seq0 : SeqRun :=
  { ((base.placeSeq base.w.id.core 3 ((seqOf desc0).getD (.fresh .zero))).toOption).getD (.fresh .zero) with id := 30, warp := base.w.ref, core := base.w.id.core, ctx := 3, op := 6, ticket := 1 }
def running (q : SeqRun) : State := { base with e := { base.e with seqs := [q] } }
theorem witness_SequenceWork :
    (running seq0).seqAt 30 = some seq0 ∧ (running seq0).stackHeld 0 = false ∧ seq0.stack = 0 ∧ seq0.running = false ∧ seq0.finished = false ∧ seq0.n = 2 ∧ seq0.writes = [8] ∧ base.m.packets = [] ∧
    (let q := { seq0 with running := true, row := 1 }
     let cells := ((running q).seqRow q q.row).flatMap (fun o => (List.range o.bytes.length).filterMap (fun j => (placeAt q.pages (o.va + j)).map (fun p => (p.loc, o.bytes.getD j 0))))
     (running q).seqAt 30 = some q ∧ q.row < q.n ∧ (cells.map Prod.fst).Nodup ∧ cells.length = 32 ∧ (cells.map (fun x => blockOf x.1)).dedup.length ≤ 16 ∧ (running q).m.sectors = []) ∧
    (let q := { seq0 with running := true, row := 2, homeWrites := [8], run := 3 }
     (running q).seqAt 30 = some q ∧ q.n ≤ q.row ∧ q.blocking = false ∧ 8 ∈ q.homeWrites ∧ 8 ∈ q.writes) ∧
    (let q := { seq0 with running := true, row := 2, blocking := true }
     (running q).seqAt 30 = some q ∧ q.n ≤ q.row) ∧
    (let q := { seq0 with finished := true, wct := 100 }
     (running q).seqAt 30 = some q ∧ q.wct ≤ (running q).time ∧ (running q).w.ref = q.warp) ∧
    (let s := { running { seq0 with running := true } with time := 1000000 }
     (s.e.seqs.map (·.id)).Nodup ∧ ((s.e.lastRow.find? (fun x => x.1 == 0)).map Prod.snd).getD 0 + 1000000 ≤ s.time) := by decide +kernel
/-- An MMA of BF16 tiles in linear memory, k = 64. -/
def fmma : Fields := { fld with fmt := .f128, slot := 0, d := .v 0, a := .s 12, b := .s 10, c := .s 11, mod := 0x1C1 }
def matrix : State :=
  let s := withS (withRole base 0x41) [(10, 0x8000), (11, 0x0001000000000000), (12, 0x4000)]
  { s with w := { s.w with kdecl := [(7, 0xFFFFFFFF)] }, e := { s.e with pools := [⟨0, 1000, 1, 1000, 0⟩] } }
theorem witness_MatrixIssue_mma : (let c0 := matrix.ctxOf (.mma fmma)
    let c : Ctx := { c0 with g := matrix.guardLanes fmma (matrix.w.decl 7) }
    let m : MmaArgs := { mmaArgs fmma matrix with pages := matrix.runPages matrix.w ((mmaArgs fmma matrix).bRuns ++ (List.range 8).flatMap (mmaArgs fmma matrix).aRuns) }
    matrix.clear (.mma fmma) = true ∧ fmma.modBits 8 6 = 7 ∧ matrix.w.signed 7 = 0 ∧ matrix.w.decl 7 &&& ~~~c0.x = 0 ∧ c.g ≠ 0 ∧ matrix.w.progress 0xD0 = 0 ∧ m.tiles = 1 ∧
      max (matrix.tileAct (mmaType m.ta) m.a) (matrix.tileAct (mmaType m.tb) m.b) = 7 ∧ (m.tiles * mmaLumens m.ta 7 * 8 + 7) / 8 = 200 ∧
      matrix.e.lumens = [] ∧ 0 < (matrix.pool 0).level ∧ (matrix.pool 0).fits 200 = true ∧ m.misaligned = none ∧ matrix.checkB m = none ∧ ∀ j < 8, matrix.checkA m j = none) := by decide +kernel
theorem witness_MatrixIssue : matrix.clear (.mzero { fld with fmt := .f96, mod := 0x31 }) = true ∧
    (let f : Fields := { fld with fmt := .f128, slot := 0, d := .v 4, a := .s 3, mod := 0x41 }
     matrix.clear (.mlda f) = true ∧ matrix.clear (.msta f) = true ∧ (matrix.ctxOf (.mlda f)).uni32 matrix f.a = some 0) ∧
    matrix.clear (.msync fld) = true ∧ matrix.w.streams = [] ∧
    (let s := matrix.updW (fun w => { w with streams := [⟨3, 6, true, .zero 1, false⟩] })
     s.clear (.msync { fld with sub := 8 }) = true ∧ (8 : Nat).testBit 3 = true) ∧
    matrix.clear (.mrdp { fld with fmt := .f96, d := .v 4 }) = true := by decide +kernel
/-- An entry on a tile that another stream uses; an MSYNC that waits for it. -/
theorem witness_MatrixIssue_streams :
    (let w := matrix.w.enter 2 5 true (.zero 1)
     (w.enter 3 6 true (.zero 1)).streams.map (·.racy) = [true, true] ∧ (w.enter 3 6 true (.zero 0)).streams.map (·.racy) = [false, false]) ∧
    (let s := matrix.updW (fun w => w.enter 3 6 true (.zero 1))
     s.clear (.msync { fld with sub := 8 }) = true ∧ s.clear (.msync { fld with sub := 4 }) = true ∧ s.w.streams.map (·.stream) = [3]) := by decide +kernel
theorem witness_MatrixCompletion :
    ([MOp.rowBlock (mmaArgs fmma matrix) 7, .zero 1, .store 1 63 2 0xFFFFFFFF [(0, 5), (127, 6)], .load 1 63 2 4 0xFFFFFFFF]).all (fun b =>
      let e : MEntry := ⟨3, 6, true, b, false⟩
      let s := matrix.updW (fun w => { w with streams := [⟨2, 5, true, .zero 0, false⟩, e], ops := [{ gop with dests := [(4, 0xFFFFFFFF), (5, 0xFFFFFFFF), (6, 0xFFFFFFFF), (7, 0xFFFFFFFF)] }] })
      s.w.live && s.w.streams.find? (fun x => x.stream == e.stream) == some e && !s.entryHeld s.w b && (s.w.findOp 6).isSome) = true ∧
    (let e : MEntry := ⟨3, 6, true, .rowBlock (mmaArgs fmma matrix) 7, false⟩
     let s := (matrix.updW (fun w => { w with streams := [e] })).updM (fun m => { m with holds := [⟨0, 0, false⟩] })
     s.w.streams.find? (fun x => x.stream == e.stream) = some e ∧ s.entryHeld s.w e.body = true) ∧
    (f32.val 0x3F800000).isFinite = true ∧ (bf16.val 0x4000).isFinite = true := by decide +kernel

/-! Witnesses: stage rings, the register fabric, remote calls, register blocks. -/

/-- The last stage of ring 0, in a state; s10 names it, s11 holds the largest count of bytes. -/
def staged (st : StageState) (pend : Int) (phase : Bool) (ncons : Nat) : State :=
  { withS base [(10, 0xFFFFFFF1), (11, 2 ^ 27 - 1)] with
    cohorts := [{ cohort with rings := [some ⟨0, 256, 2, ncons⟩], stages := [⟨0, 0, .empty, false, 0, 0, false, [], [], 0⟩, ⟨0, 1, st, phase, pend, 0, false, [], [], 0⟩] }] }
def fr : Fields := { fld with fmt := .f96, a := .s 10, d := .v 0 }
def atStage (i : Instr) (f : Fields) (s : State) (g : Stage) (ncons : Nat) : Bool :=
  s.clear i && (s.ctxOf i).uni32 s f.a == some 0xFFFFFFF1 && (match s.ringAt 0 1 with | .ok (d, x) => d == ⟨0, 256, 2, ncons⟩ && x == g | .error _ => false) && (s.cohortOf s.w.ref).any (fun h => !h.away) && !g.ovf
theorem witness_RingStages :
    (let f : Fields := { fr with d := .s 12 }
     atStage (.ringAcq f) f (staged .empty 0 false 1) ⟨0, 1, .empty, false, 0, 0, false, [], [], 0⟩ 1 = true ∧ atStage (.ringAcq f) f (staged .full 0 true 1) ⟨0, 1, .full, true, 0, 0, false, [], [], 0⟩ 1 = true) ∧
    (∀ pend ∈ [(0 : Int), -(2 ^ 27 - 1)], let f : Fields := { fr with sub := 1, b := .s 11 }
     let s := staged .filling pend false 1
     atStage (.ringCommit f) f s ⟨0, 1, .filling, false, pend, 0, false, [], [], 0⟩ 1 = true ∧ (s.ctxOf (.ringCommit f)).uni32 s f.b = some (2 ^ 27 - 1) ∧ pend + (2 ^ 27 - 1) ≤ 2 ^ 27 - 1 ∧ s.writesPending s.w = false) ∧
    (let f : Fields := { fr with sub := 2, b := .s 11 }
     atStage (.ringWait f) f (staged .full 0 true 1) ⟨0, 1, .full, true, 0, 0, false, [], [], 0⟩ 1 = true ∧ atStage (.ringWait f) f (staged .full 0 false 1) ⟨0, 1, .full, false, 0, 0, false, [], [], 0⟩ 1 = true ∧
       (BitVec.ofNat 32 (2 ^ 27 - 1)).getLsbD 0 = true) ∧
    (∀ n ∈ [1, 31], let f : Fields := { fr with sub := 3 }
     atStage (.ringRel f) f (staged .full 0 true n) ⟨0, 1, .full, true, 0, 0, false, [], [], 0⟩ n = true ∧ (staged .full 0 true n).writesPending (staged .full 0 true n).w = false) := by decide +kernel
/-- A RING.WAIT that a fill released, one of a stage that is not full, and a RING.ACQ of a stage that is filling. -/
theorem witness_RingStages_waiting :
    (let f : Fields := { fr with sub := 2, b := .s 11 }
     let g : Stage := ⟨0, 1, .empty, true, 0, 0, false, [(1, true)], [(0, true)], 0⟩
     let s := { staged .empty 0 true 1 with cohorts := [{ cohort with rings := [some ⟨0, 256, 2, 1⟩], stages := [⟨0, 0, .empty, false, 0, 0, false, [], [], 0⟩, g] }] }
     atStage (.ringWait f) f s g 1 = true ∧ (s.ctxOf (.ringWait f)).uni32 s f.b = some (2 ^ 27 - 1) ∧ (s.w.ref.widx, (2 ^ 27 - 1 : W32).getLsbD 0) ∈ g.freed ∧
       (let u := staged .filling 0 true 1
        atStage (.ringWait f) f u ⟨0, 1, .filling, true, 0, 0, false, [], [], 0⟩ 1 = true)) ∧
    (let f : Fields := { fr with d := .s 12 }
     atStage (.ringAcq f) f (staged .filling 0 false 1) ⟨0, 1, .filling, false, 0, 0, false, [], [], 0⟩ 1 = true) := by decide +kernel

/-- A capability of the warp's own: entry 3, generation 7, vectors 20 to 23; and its grant. -/
def low0 : BitVec 96 := capFields base.w.ref 0 3 7 false false 20 4
def cap0 : BitVec 128 := Config.capTag 0 low0 ++ low0
def capped : State :=
  let s := base.updW (fun w => { w with s := w.s ++ [(8, cap0.setWidth 64), (9, (cap0 >>> 64).setWidth 64)] })
  { s with f := { s.f with grants := [⟨base.w.ref, 3, true, 7, low0⟩] } }
theorem halves (x : BitVec 128) : (x >>> 64).setWidth 64 ++ x.setWidth 64 = x := by
  apply BitVec.eq_of_getLsbD_eq
  intro i hi
  simp only [BitVec.getLsbD_append, BitVec.getLsbD_setWidth, BitVec.getLsbD_ushiftRight]
  by_cases h : i < 64
  · simp [h]
  · simp [h, show i - 64 < 64 by omega, show 64 + (i - 64) = i by omega]
theorem capped_read : capped.readCap (.s 8) = cap0 := halves cap0
theorem capLow_append (t : BitVec 32) (x : BitVec 96) : capLow (t ++ x) = x := by
  apply BitVec.eq_of_getLsbD_eq
  intro i hi
  rw [capLow, BitVec.getLsbD_setWidth, BitVec.getLsbD_append]
  simp [hi]
theorem capTag_append (t : BitVec 32) (x : BitVec 96) : ((t ++ x) >>> (96 : Nat)).setWidth 32 = t := by
  apply BitVec.eq_of_getLsbD_eq
  intro i hi
  rw [BitVec.getLsbD_setWidth, BitVec.getLsbD_ushiftRight, BitVec.getLsbD_append]
  simp [hi]
theorem cap0_ok : capOk capped.m 3 cap0 = true := by
  have h : capLow cap0 = low0 := capLow_append _ _
  have k : capTagged capped.m 3 cap0 = true := by
    simp only [capTagged, h]
    rw [show (cap0 >>> (96 : Nat)).setWidth 32 = Config.capTag 0 low0 from capTag_append _ _]
    exact beq_self_eq_true _
  simp only [capOk, h, k]
  decide +kernel
theorem zero_not_ok (m : MemSys) (ctx : Nat) : capOk m ctx 0 = false := by simp [capOk, capLow]
theorem witness_RightsAndArrivals_granted :
    (let f : Fields := { fld with fmt := .f128, d := .s 62, a := .v 703, mod := 0x400 }
     base.clear (.rgrant { f with a := .v 127 }) = true ∧ base.clear (.rgrant { f with a := .s 63 }) = true ∧ base.f.freeEntry base.w.ref = some 0 ∧ base.w.ref.die ≤ 3 ∧ base.w.ref.cluster ≤ 47 ∧
       base.w.ref.cslot < 64 ∧ base.w.ref.widx < 32) ∧
    (let f : Fields := { fld with fmt := .f96, a := .s 8 }
     base.clear (.rrevoke { f with sub := 1, a := .v 0 }) = true ∧ capped.clear (.rrevoke f) = true ∧ capRef low0 = capped.w.ref ∧ capDev low0 = capped.m.devId.toNat ∧ capEntry low0 = 3 ∧
       capped.f.grant capped.w.ref 3 = ⟨base.w.ref, 3, true, 7, low0⟩) := by decide +kernel
theorem witness_RightsAndArrivals : capOk capped.m capped.w.ctx (capped.readCap (.s 8)) = true ∧ capLow (capped.readCap (.s 8)) = low0 :=
  ⟨capped_read ▸ cap0_ok, capped_read ▸ capLow_append _ _⟩
/-- Task 6 in a state, its counter 1. -/
def task0 : Task :=
  { ctx := 3, id := 6, st := .waiting, counter := 1, held := false, irq := false, queue := 0, cpl := 0, record := 0x4000, cls := 0, ncoh := 1, left := 1, ready := 0, entry := 0
    codebase := 0, nwarps := 2, nbank := 2, fifo := 0, regs := 0, trapbase := 0, trapswap := 0, save := 0, saveStride := 0, warpBytes := [0, 0], rings := [none, none, none, none]
    groups := [3], params := [], edges := [], miss := false, pending := [], ran := [], cleaned := false, wct := 0, inRegions := [], notBefore := 0, rung := 0, born := none }
def tasked (k : Task) : State := { withS base [(10, 6)] with t := { base.t with tasks := [k] } }
theorem witness_RightsAndArrivals_arms :
    (let f : Fields := { fld with fmt := .f96, d := .v 0, a := .v 20, mod := 3 }
     base.clear (.rarm f) = true ∧ base.clear (.rpoll { f with d := .v 4 }) = true) ∧
    (∀ launch ∈ [true, false], ∀ st ∈ [TaskState.checking, .waiting, .ready],
      let f : Fields := { fr with d := .v 4, slot := 0, sub := if launch then 1 else 0 }
      let i : Instr := if launch then .taskLaunch f else .taskSignal f
      let s := tasked { task0 with st := st, held := launch }
      s.clear i = true ∧ (s.ctxOf i).uni32 s f.a = some 6 ∧ s.w.ops = [] ∧ s.task s.w.ctx 6 = some { task0 with st := st, held := launch } ∧ (st = .waiting → taskStatus launch (s.task s.w.ctx 6) = 0)) := by decide +kernel

def fput : Fields := { fld with fmt := .f128, slot := 0, a := .s 8, b := .s 10, c := .v 9, d := .s 5 }
theorem witness_RemoteWrite_sent :
    (let s := withS base [(10, 3)]
     s.clear (.rput { fput with d := .v 0 }) = true ∧ (s.ctxOf (.rput fput)).uni32 s fput.b = some 3 ∧ s.readCap (.s 8) = 0) ∧
    capped.clear (.rput fput) = true ∧ (capped.ctxOf (.rput fput)).uni32 capped fput.b = some 0 ∧ 0 < capCount low0 ∧ (rangeOf fput.c).1 = low0.getLsbD 47 ∧ fput.modBits 4 3 ≠ 2 ∧
    (let f := { fput with c := .s 2 }
     capped.clear (.rput f) = true ∧ (rangeOf f.c).1 ≠ low0.getLsbD 47) := by decide +kernel
theorem witness_RemoteWrite_checked : capOk capped.m capped.w.ctx (capped.readCap fput.a) = true ∧ capLow (capped.readCap fput.a) = low0 ∧
    capOk base.m base.w.ctx ((withS base [(10, 3)]).readCap fput.a) = false :=
  ⟨capped_read ▸ cap0_ok, capped_read ▸ capLow_append _ _, zero_not_ok _ _⟩
/-- A write on its way to the last vector of the grant. -/
def put0 (reg : Nat) : Rput :=
  { id := 30, src := base.w.ref, op := 6, dev := 0, dst := base.w.ref, entry := 3, gen := 0, fields := low0, aow := false, reg := reg, lanes := 1, vals := List.replicate 32 9, sval := 5 }
def putting (reg : Nat) (valid : Bool) (arr : BitVec 2) : State :=
  let s := base.updW (fun w => { w with arr := w.arr.set reg arr, ops := [{ gop with dests := [], parts := 1 }] })
  { s with f := { s.f with puts := [put0 reg], grants := [⟨base.w.ref, 3, valid, 7, low0⟩], statuses := [⟨31, base.w.ref, 6, 3, 2⟩] } }
theorem witness_RemoteWrite :
    (∀ p ∈ [(23, true, (1 : BitVec 2)), (23, false, 1), (23, true, 0), (23, true, 2), (703, true, 1)], let s := putting p.1 p.2.1 p.2.2
     s.f.puts.find? (fun x => x.id == 30) = some (put0 p.1) ∧ (put0 p.1).dev = s.m.devId.toNat ∧ (put0 p.1).dst = s.w.ref ∧ s.w.live = true ∧ s.w.exited = false ∧
       s.f.puts.takeWhile (fun x => x.id != 30) = [] ∧ s.w.regMissing p.1 = false ∧ s.w.absent.getLsbD p.1 = false ∧ (s.f.grant base.w.ref (capEntry low0)).valid = p.2.1) ∧
    (let s := putting 23 true 1
     s.f.statuses.find? (fun y => y.id == 31) = some ⟨31, base.w.ref, 6, 3, 2⟩ ∧ s.w.findOp 6 = some { gop with dests := [], parts := 1 }) := by decide +kernel

/-- A call of the focus warp to unit 0 of this device, in a state. -/
def call0 (st : CallState) : Call :=
  { id := 30, caller := base.w.ref, src := 0, lost := false, offset := 0, op := 6, unit := 0, dev := 0, st := st, target := 0, entry := 0x400, vecs := [List.replicate 32 7], scals := [8]
    echoReg := 20, echoCnt := 2, nf := some 12, horizon := 92, timeout := some 100, codebase := 0, ctx := 3, warpcfg := 2, taskId := 5, cohortId := 0, widx := 0, slot := 0, status := 0, code := 0
    roffset := 0, echo := [List.replicate 32 9], gone := [] }
def calling (c : Call) : State :=
  let s := (withS base [(10, 0x400)]).updW (fun w => { w with arr := [(20, 1), (21, 1), (652, 1)] })
  { s with f := { s.f with calls := [c] } }
/-- The warp of a remote function in slot 1 of unit 0's stack core. -/
def inCall : State := { base with w := { warp with id := ⟨⟨6, 63, 0⟩, 1⟩, ref := ⟨6, 63, 1, 0⟩, call := some ⟨30, [List.replicate 32 7], [8], 0⟩ }, f := { base.f with calls := [call0 .running] } }
def fcall : Fields := { fld with fmt := .f128, slot := 0, d := .v 20, a := .s 3, b := .s 10, c := .v 9, e := .s 12, mod := 0x1211 }
theorem witness_RemoteCalls :
    (let s := withS base [(10, 0x402)]
     s.clear (.rcall fcall) = true ∧ (s.ctxOf (.rcall fcall)).uni64 s fcall.a = some 0 ∧ (s.ctxOf (.rcall fcall)).uni32 s fcall.b = some 0x402) ∧
    (let s := withS base [(10, 0x400)]
     s.clear (.rcall fcall) = true ∧ (s.ctxOf (.rcall fcall)).uni64 s fcall.a = some 0 ∧ (s.ctxOf (.rcall fcall)).uni32 s fcall.b = some 0x400 ∧ (s.callTarget 0 (s.w.codeVa 0x400)).toOption = some (0, 0) ∧
       s.writesPending s.w = false ∧ s.hasDirty s.w = false ∧ s.callAt (s.ctxOf (.rcall fcall)).p (0, 0) = none ∧
       (let t := { s with f := { s.f with calls := [call0 .reserved] } }
        t.clear (.rcall fcall) = true ∧ t.callAt (t.ctxOf (.rcall fcall)).p (0, 0) = some (call0 .reserved) ∧ t.callOf 30 = some (call0 .reserved))) ∧
    (∀ sub ∈ [(0 : BitVec 8), 1, 2], let f : Fields := { fld with fmt := .f96, sub := sub, d := if sub = 0 then .v 4 else .s 4, mod := 0 }
     inCall.clear (.rarg f) = true) ∧
    (let f : Fields := { fld with fmt := .f128, d := .v 9, mod := 3 }
     inCall.clear (.rret f) = true ∧ inCall.callOf 30 = some (call0 .running) ∧ inCall.writesPending inCall.w = false ∧ inCall.w.csr.horizon.toNat ≤ inCall.time) := by decide +kernel
theorem witness_CallEvents :
    (∀ st ∈ [CallState.asking, .sent, .waiting, .echoing], let s := calling (call0 st)
     s.callOf 30 = some (call0 st) ∧ (s.f.calls.filter (fun x => x.dev == 0 && x.unit == 0)).head? = some (call0 st) ∧ base.w.ref ≠ WRef.none ∧ (call0 st).horizon + 8 ≤ s.time ∧ s.w.live = true ∧
       s.w.exited = false ∧ (call0 st).caller = s.w.ref ∧ s.w.arr.get 20 = 1 ∧ s.w.arr.get 21 = 1 ∧ s.w.arr.get 652 = 1 ∧ s.w.absent = 0) ∧
    (∀ q ∈ [{ call0 .echoing with status := 1, code := 9 }, { call0 .echoing with status := 1, nf := none }, { call0 .sent with dev := 1 }, { call0 .running with nf := none }],
      (calling q).callOf 30 = some q ∧ q.timeout = some (calling q).time ∧ (q.dev = 1 ∨ q.st = .echoing ∨ q.asks = false)) ∧
    (let s := calling (call0 .queued)
     s.f.calls.find? (fun x => x.unit == 0 && x.dev == s.m.devId.toNat && x.st == .queued) = some (call0 .queued) ∧ s.callOf 30 = some (call0 .queued) ∧
       (List.range 8).find? (fun n => !(s.callsOn 0).any (fun x => x.slot == n)) = some 0) := by decide +kernel
/-- Echoes that a caller awaits, from its own device and from another one, reachable and not, some of its registers released since; a timeout that is reached. -/
theorem witness_CallEvents_awaited :
    (∀ c ∈ [call0 .echoing, { call0 .echoing with status := 1, code := 9 }, { call0 .echoing with status := 1, nf := none }, { call0 .echoing with gone := [21] }, { call0 .sent with dev := 1 }, call0 .running, { call0 .running with nf := none }],
      let s := calling c
      s.w.live = true ∧ s.w.exited = false ∧ c.caller = s.w.ref ∧ c.echoReg + c.echoCnt ≤ 640 ∧ s.w.absent = 0 ∧ (∀ i < c.echoCnt, s.w.arr.get (c.echoReg + i) = 1) ∧ s.w.arr.get (640 + 12) = 1 ∧ c.nf.all (fun r => r == 12) = true ∧
        s.unreachable 1 = false ∧ c.lost = false ∧ c.asks = false ∧ c.timeout = some 100 ∧ 100 ≤ s.time) ∧
    (let s := calling { call0 .sent with dev := 1 }
     ({ s with h := { s.h with peers := [⟨1, some 0, true, false⟩] } } : State).unreachable 1 = true) ∧
    (∀ src ∈ [0, 1], let c := { call0 .asking with src := src }
     (calling c).callOf 30 = some c ∧ ((calling c).f.calls.filter (fun x => x.dev == 0 && x.unit == 0 && x.st == .asking)).head? = some c ∧
       ((calling c).f.calls.filter (·.slotted)).length < 64 ∧ (c.src = (calling c).m.devId.toNat ↔ src = 0)) ∧
    (let c := { call0 .waiting with src := 1, horizon := 20 }
     c.horizon + 80 ≤ (calling c).time ∧ c.src ≠ (calling c).m.devId.toNat) := by decide +kernel
/-- A call of the focus warp for registers of a block that RREL gives up. -/
theorem witness_RegisterBlocks_calls :
    let s := { (withS base [(10, 1)]).updW (fun w => w.setBlocks 8) with f := { base.f with calls := [{ call0 .running with echoReg := 635, echoCnt := 4, nf := none }] } }
    s.clear (.rrel fr) = true ∧ (s.ctxOf (.rrel fr)).uni32 s fr.a = some 1 ∧ s.w.blocksHeld = 8 ∧ s.w.ops = [] := by decide +kernel
theorem witness_RegisterBlocks :
    (let s := withS base [(10, 9), (11, 8)]
     s.clear (.racq fr) = true ∧ (s.ctxOf (.racq fr)).uni32 s fr.a = some 9 ∧ s.w.blocksHeld = 0 ∧
       (let f := { fr with a := .s 11 }
        s.clear (.racq f) = true ∧ (s.ctxOf (.racq f)).uni32 s f.a = some 8 ∧ (s.coreSt s.w.id.core).racq = [] ∧ 8 ≤ s.freeBlocks s.w.id.core)) ∧
    (let s := (withS base [(10, 9), (11, 8)]).updW (fun w => w.setBlocks 8)
     s.clear (.rrel fr) = true ∧ s.w.blocksHeld = 8 ∧ s.w.ops = [] ∧ s.clear (.rrel { fr with a := .s 11 }) = true) := by decide +kernel

/-! Witnesses: traps, the system instructions, memory events, packets. -/

theorem witness_TrapEntry :
    (let x : FaultInfo := { code := 0x09, cause := 0x3F, lane := 31, flanes := 0x80000000, xlanes := 0xFFFFFFFF, addr := 0x7FFFFFFFFFFFFF, offset := 0xFFFFFFFC }
     ∀ s ∈ [handled, restored], s.w.onStackCore = false ∧ s.w.priv = false ∧ x.code ≠ 0x07 ∧ s.handlerOf s.w x.code = some 0x400 ∧ s.fillHeld s.w [703] = false ∧ (s.fillRegs s.w [703]).isSome = true) ∧
    (let x : FaultInfo := { code := 0x07, defer := true }
     x.defer = true ∧ handled.handlerOf handled.w x.code = some 0x400) ∧
    base.w.onStackCore = false ∧ base.handlerOf base.w 0x09 = none := by decide +kernel
/-- Traps that wait: the handler's word, or the frame that s63 is in, lies in a stack that is held. -/
theorem witness_TrapEntry_waiting : ∀ s ∈ [handled, restored], let s1 : State := s.updM (fun m => { m with holds := [⟨0, 0, false⟩] })
    s1.w.onStackCore = false ∧ s1.w.priv = false ∧ s1.trapHeld s1.w 0x09 = true := by decide +kernel
/-- A state whose fault buffer takes a record. -/
def buffered (s : State) : State := { s with h := { s.h with fbCfg := 0x10000 } }
theorem witness_TrapEntry_fatal :
    (buffered base).h.fbOpen = true ∧ (buffered base).h.records = [] ∧ (buffered base).w.onStackCore = false ∧ (buffered base).handlerOf base.w 0x09 = none ∧
    base.h.fbOpen = false ∧ base.h.records = [] ∧ base.w.live = true ∧ base.w.priv = false ∧ (base.updW (fun w => { w with priv := true })).w.priv = true ∧ base.trapHeld base.w 0x09 = false ∧
    (let s := handled.updW (fun w => { w with absent := BitVec.ofNat 704 (2 ^ 703), frame := 0x70000 })
     s.trapHeld s.w 0x09 = false ∧ s.handlerOf s.w 0x09 = some 0x400 ∧ (s.fillRegs s.w [703]).isNone = true) := by decide +kernel
/-- The warp in privileged mode, in the role that takes every instruction but those of a tile. -/
def privileged0 : State := withRole (base.updW (fun w => { w with priv := true })) 0
def userCases : List (Instr × Fields × OpEntry) :=
  [Instr.tret fld, .tlbinv { fld with fmt := .f96, slot := 0, a := .s 1 }, .keydestroy { fld with fmt := .f96, slot := 0, a := .s 1 },
    .keyset { fld with fmt := .f128, slot := 0, d := .v 4, a := .s 1, b := .s 2 }, .ctxsave { fld with fmt := .f96, slot := 0, a := .s 1 }, .ctxload { fld with fmt := .f96, a := .s 1 },
    .csrr { fld with fmt := .f96, d := .s 4, mod := 0x106 }, .csrw { fld with fmt := .f96, a := .s 1, mod := 0x10 }].filterMap (fun i => (opEntry i).map (fun p => (i, p.2, p.1)))
theorem witness_PrivilegedInUserMode : userCases.length = 8 ∧ userCases.all (fun p =>
    decide (privileged p.1 = true ∨ (p.1 = .csrr p.2.1 ∧ 0x100 ≤ p.2.1.mod.toNat) ∨ (p.1 = .csrw p.2.1 ∧ 5 ≤ p.2.1.mod.toNat)) && base.w.issuable && base.w.ops.isEmpty && !base.w.priv &&
      !base.w.onStackCore && p.1.wellFormed && !(namedOf p.1 p.2.1).any base.w.regMissing) = true := by decide +kernel
theorem witness_ControlRegisters : [(0x000 : Nat), 0x001, 0x002, 0x003, 0x004, 0x010, 0x011, 0x012, 0x013, 0x014, 0x020, 0x021, 0x100, 0x105].all (fun n =>
    let f : Fields := { fld with fmt := .f96, d := .s 4, mod := BitVec.ofNat 18 n }
    privileged0.clear (.csrr f) && (List.range 3).all (fun sub =>
      let f : Fields := { fld with fmt := .f96, a := .s 2, sub := BitVec.ofNat 8 sub, mod := BitVec.ofNat 18 n }
      privileged0.clear (.csrw f) && (privileged0.ctxOf (.csrw f)).uni64 privileged0 f.a == some 0xFFFFFFFFFFFFFFFF)) = true := by decide +kernel
theorem witness_TrapReturn : privileged0.clear (.tret fld) = true ∧ privileged0.clear (.tret { fld with sub := 1 }) = true ∧ privileged0.w.absent.getLsbD 703 = false := by decide +kernel
def fs : Fields := { fld with fmt := .f96, a := .s 0 }
theorem witness_SystemEffects_caches :
    (∀ sub ∈ [(0 : BitVec 8), 1, 2], let s := { privileged0 with m := cached.m }
     s.clear (.tlbinv { fs with slot := 0, sub := sub, a := if sub = 0 then .s 0 else .v 0 }) = true ∧ s.m.linesOnce = true) ∧
    (let s := withS privileged0 [(10, 3), (11, 2)]
     let f : Fields := { fs with a := .s 10, b := .s 11 }
     s.clear (.bankcfg f) = true ∧ (s.ctxOf (.bankcfg f)).uni32 s f.a = some 3 ∧ (s.ctxOf (.bankcfg f)).uni32 s f.b = some 2 ∧ s.cohortOf s.w.ref = some cohort ∧
       ∀ j < 16, (3 : W32).getLsbD j = true → j < cohort.banks.length ∧ cohort.bankBusy j = false) := by decide +kernel
/-- A dirty line of the warp's context, whose bytes TLBINV sends home. -/
theorem witness_SystemEffects_dirty : ∃ x ∈ cached.m.l1, x.ctx = privileged0.w.ctx ∧ x.dirty ≠ 0 := by decide +kernel
theorem witness_SystemEffects_keys :
    (let s := (withS privileged0 [(10, 255), (11, 0x40)]).updM (fun m => { m with keys := m.keys ++ [⟨255, true, none, 0, 0, 0, []⟩] })
     let f : Fields := { fld with fmt := .f128, slot := 0, d := .v 4, a := .s 11, b := .s 10 }
     s.clear (.keyset f) = true ∧ (s.ctxOf (.keyset f)).uni32 s f.b = some 255 ∧ (s.read64 f.a 0).toNat % 64 = 0 ∧
       (match s.acquireBytes s.w (s.read64 f.a 0) 96 with | .ok bs => bs.length == 96 && bs.all (fun x => !x.2) | .error _ => false) = true ∧
       (let f : Fields := { fs with slot := 0, a := .s 10 }
        s.clear (.keydestroy f) = true ∧ (s.ctxOf (.keydestroy f)).uni32 s f.a = some 255)) := by decide +kernel
theorem witness_SystemEffects_frames :
    (let s := withS privileged0 [(10, 0x8000)]
     let f : Fields := { fs with slot := 0, a := .s 10 }
     s.clear (.ctxsave f) = true ∧ (s.read64 f.a 0).toNat % 4096 = 0 ∧ s.w.ops = [] ∧ s.w.absent = 0 ∧
       (match s.regionPuts (s.read64 f.a 0) ((s.consumed (.ctxsave f)).w.frame0 s.f.grants true) with
         | .ok ps => ps.length == 178 && (putLines (ps.map Prod.snd)).all (fun l => !s.lineBusy l)
         | .error _ => false) = true) := by decide +kernel
theorem witness_SystemEffects :
    (let s := withS privileged0 [(10, 0x8000)]
     let f : Fields := { fs with a := .s 10 }
     s.clear (.ctxload f) = true ∧ s.w.busy = false ∧ (match s.frameRead s.w.id.core s.w.ctx 0x8000 s.w.tiles with
         | .ok parts => let w := s.w.fromFrame 0x8000 parts [] []; w.blocksHeld == s.w.blocksHeld && w.csr.warpcfg == s.w.csr.warpcfg
         | .error _ => false) = true) := by decide +kernel
/-- A result of a vector register and a scalar that is ready. -/
def ready0 : Op := { gop with parts := 0, ready := some 0, dests := [(4, 1), (645, 0xFFFFFFFF)], vvals := [(128, 9)], svals := [(5, 8)] }
theorem witness_MemoryReturns :
    (let s := base.updW (fun w => { w with ops := [ready0], sb := [(0, 1)] })
     s.w.live = true ∧ s.w.findOp 6 = some ready0 ∧ ready0.parts = 0 ∧ ready0.ready = some s.w.cycle ∧ ready0.opc ≠ 0xF3 ∧ ready0.opc ≠ 0xF6 ∧ (ready0.vvals.map Prod.fst).Nodup ∧ (ready0.svals.map Prod.fst).Nodup ∧
       (∀ p ∈ ready0.vvals, ∃ d ∈ ready0.dests, d.1 = p.1 / 32 ∧ d.2.getLsbD (p.1 % 32) = true) ∧ ∀ p ∈ ready0.svals, ∃ d ∈ ready0.dests, d.1 = 640 + p.1) ∧
    (base.updW (fun w => { w with wait := .sleep 100 })).w.wait = .sleep base.time ∧
    (let s := base.updW (fun w => { w with wait := .fence 4 1 12, csr := { w.csr with horizon := 100 } })
     s.w.wait = .fence 4 1 12 ∧ s.writesPending s.w = false ∧ s.w.csr.horizon.toNat = s.time ∧ s.w.deferred = []) ∧
    (let s := base.updM (fun m => { m with acks := [⟨30, base.w.ref, 6, 200⟩] })
     s.m.acks.find? (fun x => x.id == 30) = some ⟨30, base.w.ref, 6, 200⟩ ∧ base.w.ref.die ≠ 98) := by decide +kernel
/-- A message of cluster 0 about line 0, which the home holds whole; the cluster's own line is `l1`. -/
def msg0 (kind : MsgKind) : Msg :=
  { id := 30, warp := base.w.ref, cluster := 0, line := 0, pa := 0, slice := 0, ctx := 3, key := 0, cls := 0, op := 6, level := 0, flare := false, kind := kind, tries := 0 }
def line0 : L2Line := ⟨0, 0x1234, BitVec.allOnes 128, 0, 0, 0, 64, 90, 0, 0, 0, 3, 0, none⟩
def dirtyLine : L1Line := ⟨0, 0, 0, 0x11, BitVec.allOnes 128, 1, 0, 1, 0, 100, 0, 0, 3, 0, none⟩
def atHome (g : Msg) (l1 : List L1Line) : State :=
  (base.updM (fun m => { m with l2 := [line0], l1 := l1, msgs := [g] })).updW (fun w => { w with ops := [{ gop with dests := [(4, 1)], parts := 1 }] })
def piece0 : Piece := ⟨1, 124, 4, 4, false, false, 124⟩
def swap0 : AtomOp := { lane := 0, off := 124, wide := false, opc := 0xA0, fn := 1, num := false, c := 5, e := 0, dest := some 4, va := 124 }
def hostMsg (tries : Nat) : Msg := { msg0 (.atomic [swap0]) with line := hostBase / 128, tries := tries }
theorem witness_HomeEvents_accesses :
    (∀ p ∈ [(MsgKind.fill [piece0] true, true), (.read [piece0], false)], let g := msg0 p.1
     let s := atHome g [dirtyLine]
     s.msgOf g.id = some g ∧ s.behind g = false ∧ g.line * 128 < hostBase ∧ s.owned g.line = false ∧ s.m.lacks g.line (if p.2 then BitVec.allOnes 128 else pieceMask [piece0]) = false ∧
       s.m.hasL1 g.cluster = true ∧ s.m.msgs = [g] ∧ s.w.live = true ∧ s.w.ref = g.warp ∧ s.w.findOp 6 = some { gop with dests := [(4, 1)], parts := 1 }) ∧
    (let g := msg0 (.write 0x55 1 0 none [base.w.ref] false)
     let s := atHome g []
     s.msgOf g.id = some g ∧ s.behind g = false ∧ s.owned g.line = false ∧ s.e.seqs = [] ∧ s.partner g = none ∧ base.w.ref ≠ WRef.none) ∧
    (let g := msg0 (.atomic [swap0])
     let s := atHome g []
     s.msgOf g.id = some g ∧ s.behind g = false ∧ s.owned g.line = false ∧ s.m.l1Find 0 0 = none ∧ swap0.off + swap0.size = 128 ∧
       s.m.lacks g.line (ofBits 128 ((List.range swap0.size).map (swap0.off + ·))) = false ∧ (∀ j < swap0.size, s.m.homePoison (swap0.off + j) = false) ∧ (swap0.new 0).isSome = true) ∧
    (∀ n ∈ [0, 63], let g := hostMsg n
     let s := atHome g []
     s.msgOf g.id = some g ∧ memKind (g.line * 128) = .host ∧ g.key ≠ 1 ∧ s.behind g = false ∧ s.hostQueue g = false ∧ swap0.direct = false ∧ swap0.off + swap0.size ≤ 128) := by decide +kernel
/-- A block of one plane at 0x1000 with its scale at 0x2000; a message about it, or about the record at 0x3000, at its home, which holds what it needs. -/
def block0 : NBlock := ⟨atLoc 0x2000, [atLoc 0x1000]⟩
def nestMsg (a : HomeAct) (line : Nat) : Msg := { msg0 (.act a) with line := line }
def nesting (a : HomeAct) (line : Nat) : State :=
  (base.updM (fun m => { m with l2 := [32, 64, 96].map (fun l => { line0 with line := l }), msgs := [nestMsg a line] })).updW (fun w => { w with ops := [{ gop with dests := [(4, 1)], parts := 1 }] })
/-- The conditions of nestReady. -/
def nestOk (a : HomeAct) (b : NBlock) (line : Nat) : Bool :=
  let s := nesting a line
  let g := nestMsg a line
  s.msgOf g.id == some g && g.kind == .act a && !s.behind g && g.level == 0 && s.e.seqs == [] && b.lines.all (fun l => !s.owned l && s.m.l1Find 0 l == none) &&
    b.regions.all (fun x => decide (x.1.loc + x.2 ≤ hostBase ∧ x.1.loc % 128 + x.2 ≤ 128) && !s.m.lacksRegion x && !s.regionPoison x) &&
    decide ((b.regions.flatMap (fun x => (List.range x.2).map (x.1.loc + ·))).Nodup)
theorem witness_NestedIssue_homes :
    nestOk (.ldn block0 1 false false 4 [⟨0, 3, 0, 0⟩]) block0 64 = true ∧ nestOk (.stn block0 1 false [⟨0, 3, 5, 0⟩]) block0 64 = true ∧ nestOk (.plane block0 .upd [⟨0, 3, 5, 0⟩]) block0 64 = true ∧
    (let s := nesting (.ldn block0 1 false false 4 [⟨0, 3, 0, 0⟩]) 64
     s.w.live = true ∧ s.w.ref = (msg0 (.read [])).warp ∧ (s.w.findOp 6).map (·.dests) = some [(4, 1)]) ∧
    (let p := atLoc 0x3000
     let s := nesting (.seal p 0) 96
     nestOk (.seal p 0) ⟨p, []⟩ 96 = true ∧ lineOf p.loc = 96 ∧ p.loc % 64 = 0 ∧ s.missing (nestMsg (.seal p 0) 96) [(p, 60)] = none ∧ s.regionPoison (p, 60) = false) := by decide +kernel
theorem witness_HomeEvents :
    (let s := atHome (msg0 (.read [])) [dirtyLine]
     s.m.l1Find 0 0 = some dirtyLine ∧ dirtyLine.leaseEnd = s.time ∧ s.m.linesOnce = true ∧ s.m.isVictim dirtyLine = true) ∧
    (∀ x ∈ [line0, { line0 with dirty := 1 }], let s := base.updM (fun m => { m with l2 := [x] })
     s.m.l2Find 0 = some x ∧ x.owner = none ∧ s.m.reading 0 = false ∧ (s.m.freeTag (unitOf 0) (locChannel 0 % 32)).isSome = true) := by decide +kernel
/-- A write to a line that L2 holds, so that no other line gives way; an eviction under a floor that lasts; a lease of the cluster's other line. -/
theorem witness_HomeEvents_room :
    (let g := msg0 (.write 0x55 1 0 none [base.w.ref] false)
     ((atHome g []).m.l2Find g.line).isSome = true ∧ (atHome g []).m.l2Takes (atHome g []).time g.line g.slice = true ∧ (atHome g []).m.l2Fits g.line g.slice = true ∧
       (base.m.l2Takes 0 0 0 = true ∧ base.m.l2Fits 0 0 = true)) ∧
    (let s := base.updM (fun m => { m with l2 := [line0], floors := [⟨0, 200, 4⟩] })
     s.m.l2Find 0 = some line0 ∧ line0.slice = 0 ∧ s.time < (s.m.floor 0).till ∧ (s.m.floor 0).scope = 4 ∧ line0.owner = none ∧ s.m.reading 0 = false) := by decide +kernel
/-- A packet of a type for block 0, alone at its base die, 2 microseconds old. -/
def packet0 (type : Nat) : Packet := ⟨unitOf 0, 1023, false, type, 512, 3, 0, 0, 0, 0x77, 1, false, 100, 0, true⟩
def packets (type : Nat) (x : Option Sector) : State := { base with time := 2100, m := { base.m with packets := [packet0 type], sectors := x.toList, l2 := [{ line0 with valid := 1 }] } }
theorem witness_PacketsServed :
    (∀ type < 6, let s := packets type (some ⟨0, 0x99, true, false, 0, 3, 0, 0, none⟩)
     s.m.packet (unitOf 0) 1023 = some (packet0 type) ∧ s.m.turn s.time (packet0 type) = true ∧ (packet0 type).block * 512 + 512 ≤ hostBase ∧
       s.m.sector (packet0 type).block = some ⟨0, 0x99, true, false, 0, 3, 0, 0, none⟩ ∧ (packet0 type).since + 2000 = s.time) ∧
    (packets 6 none).m.packet (unitOf 0) 1023 = some (packet0 6) ∧ (packets 6 none).m.l2Find (packet0 6).line = some { line0 with valid := 1 } ∧
    (packets 7 none).m.packet (unitOf 0) 1023 = some (packet0 7) := by decide +kernel
/-- Requests whose block has no sector, one whose hints allow none; a sector that is there. -/
theorem witness_PacketsServed_hints :
    (∀ type ∈ [0, 1, 2], ∀ alloc ∈ [true, false], let p := { packet0 type with alloc := alloc }
     let s : State := { base with m := { base.m with packets := [p] } }
     s.m.packet (unitOf 0) 1023 = some p ∧ s.m.turn s.time p = true ∧ s.m.sector p.block = none ∧ s.m.sectors = [] ∧ p.flare = false) ∧
    (let s := packets 1 (some ⟨0, 0x99, true, false, 0, 3, 0, 0, none⟩)
     (s.m.sector (packet0 1).block).isSome = true) := by decide +kernel
/-- A row whose base die has been asked, and has given all or not yet; a run that a home write met with bytes saved; a final run with its sector; a watchdog that finds one. -/
theorem witness_SequenceWork_runs :
    (let q := { seq0 with running := true, row := 1, asked := true }
     (running q).seqAt 30 = some q ∧ q.row < q.n ∧ (running q).m.packets = []) ∧
    (let q := { seq0 with running := true, row := 1, asked := true }
     let p : Packet := { packet0 4 with data := BitVec.ofNat 4096 30, unit := 0 }
     let s := (running q).updM (fun m => { m with packets := [p] })
     s.seqAt 30 = some q ∧ p ∈ s.m.packets ∧ p.type = 4 ∧ p.unit = q.stack) ∧
    (let x : Sector := ⟨8, 7, true, false, 0, 3, 0, 0, some 30⟩
     let q := { seq0 with running := true, row := 2, homeWrites := [8], undo := [(8, 5, false)] }
     let s := (running q).updM (fun m => { m with sectors := [x] })
     s.seqAt 30 = some q ∧ q.n ≤ q.row ∧ q.blocking = false ∧ 8 ∈ q.homeWrites ∧ 8 ∈ q.writes ∧ (q.undo.map (fun u => u.1)).Nodup ∧ s.m.sector 8 = some x ∧ (running q).m.sector 8 = none) ∧
    (let x : Sector := ⟨8, 7, true, false, 0, 3, 0, 0, some 30⟩
     let q := { seq0 with running := true, row := 2, blocking := true }
     let s := (running q).updM (fun m => { m with sectors := [x] })
     s.seqAt 30 = some q ∧ q.n ≤ q.row ∧ (∀ p ∈ q.dstPlaces, blockOf p.loc ∈ q.writes) ∧ s.m.l1 = [] ∧ s.m.l2 = [] ∧ s.m.sector 8 = some x) ∧
    (let x : Sector := ⟨8, 7, true, false, 0, 3, 0, 0, some 30⟩
     let q := { seq0 with running := true }
     let s := { (running q).updM (fun m => { m with sectors := [x] }) with time := 1000000 }
     (∃ q ∈ s.e.seqs, q.stack = 0 ∧ q.running = true) ∧ s.stackHeld 0 = false ∧ s.m.sector 8 = some x ∧ x.spec = some q.id ∧ s.w.live = true ∧ s.w.ref = q.warp) := by decide +kernel
/-- A row of which no channel has a free tag, and of which every channel has one; a running sequence that has written a block, beside another block's sector. -/
theorem witness_SequenceWork_tags :
    (let q := { seq0 with running := true, row := 1 }
     let s := (running q).updM (fun m => { m with packets := (List.range 1024).map (fun n => { packet0 0 with tag := n }) })
     s.seqAt 30 = some q ∧ q.asked = false ∧ (∀ p ∈ s.m.packets, p.type ≠ 4) ∧ (q.rowChannels q.row).map (fun p => (unitOf p.loc, locChannel p.loc % 32)) = [(0, 0)]) ∧
    (let q := { seq0 with running := true, row := 1 }
     (running q).m.packets = [] ∧ q.asked = false) ∧
    (let q := { seq0 with running := true, row := 1 }
     let s := { (running q).updM (fun m => { m with sectors := [⟨8, 7, true, false, 0, 3, 0, 0, some 30⟩, ⟨9, 7, true, false, 0, 3, 0, 0, none⟩] }) with time := 1000000 }
     s.e.seqs = [q] ∧ q.stack = 0 ∧ q.running = true ∧ 8 ∈ q.written ∧ 9 ∉ q.written ∧ (s.m.sector 8).isSome = true ∧ (s.m.sector 9).isSome = true) := by decide +kernel
/-- Every tag is in use there. -/
theorem witness_SequenceWork_noTag (unit channel : Nat) : ¬ ∃ tag < 1024, ∀ x ∈ (List.range 1024).map (fun n => ({ packet0 0 with unit := unit, tag := n, channel := channel } : Packet)),
    ¬ (x.unit = unit ∧ x.channel = channel ∧ x.tag = tag) := by
  rintro ⟨tag, h, f⟩
  exact f _ (List.mem_map.2 ⟨tag, List.mem_range.2 h, rfl⟩) ⟨rfl, rfl, rfl⟩
theorem witness_Upkeep :
    unitOf (0 * 512) = 0 ∧ (let s := base.updM (fun m => { m with holds := [⟨15, 100, false⟩], l1 := [dirtyLine, { dirtyLine with line := 1, dirty := 0 }], l2 := [line0] })
     let t := { s with time := 2000100 }
     t.m.holds.find? (fun h => h.stack == 15) = some ⟨15, 100, false⟩ ∧ (∀ h ∈ t.m.holds, h.stack ≠ 0) ∧ 100 + 2000000 = t.time ∧ s.m.l1Find 0 0 = some dirtyLine ∧
       s.m.l1Find 0 1 = some { dirtyLine with line := 1, dirty := 0 } ∧ s.m.l2Find 0 = some line0 ∧ line0.dirty = 0) ∧
    (let s := { pooled with time := 2000 }
     s.e.pools.find? (fun p => p.die == 0) = some ⟨0, 50, 1, 100, 0⟩ ∧ 0 + 1000 ≤ s.time ∧ s.e.lumens = []) ∧
    base.w.live = true ∧ base.w.vcount = 128 ∧ matrix.w.tiles = 16 ∧ base.m.bankMode.get (0 * 16 + 1) ≠ 0 ∧
    (hostBase / 512 - 1) * 512 < hostBase ∧ ({ base with g := { base.g with entries := [entry0] } } : State).g.entry 3 0 = some entry0 := by decide +kernel
/-- A hold of 2 ms and of less, posted and not; a block under another generation; a pool with lumens to come. -/
theorem witness_Upkeep_holds : ∀ p ∈ [(true, 2000100), (false, 2000100), (false, 2000099)],
    let s := { base.updM (fun m => { m with holds := [⟨15, 100, p.1⟩] }) with time := p.2 }
    s.m.holds.find? (fun h => h.stack == 15) = some ⟨15, 100, p.1⟩ ∧ (100 + 2000000 ≤ s.time ∨ s.time < 100 + 2000000) := by decide +kernel
/-- A clean line with a bad tag that an engine owns; nothing waits for a write of an agent. -/
theorem witness_Upkeep_owned : ((base.updM (fun m => { m with l2 := [{ line0 with owner := some 5 }] })).m.l2Find 0).map (fun x => (x.dirty, x.owner)) = some (0, some 5) ∧ base.m.later = [] ∧ base.t.after = [] := by decide +kernel
/-- An uncorrectable chunk poisons its list (10 R238), and a block of DRAM is flagged (17 R363). -/
theorem test_chunk_error :
    (match execDoubleError (.chunk 3 0 false 5) { base with g := { base.g with entries := [entry0] } } with
      | .next t => (t.g.list 3 0 false 5).bad && !(t.g.list 3 0 true 5).bad
      | _ => false) = true := by decide +kernel
theorem test_block_error :
    (match execDoubleError (.block 7) base with
      | .next t => (t.m.blk 7).poison && !(t.m.blk 6).poison
      | _ => false) = true := by decide +kernel

/-! Witnesses: the scheduler, the host window, the domain. -/

/-- The device ready, with an exported page of device 1 and its first 64 KiB. -/
def live0 : State := { base with h := { HostIf.reset with boot := .ready }, m := { base.m with exports := [⟨0, 0x10000, 0, 2⟩] } }
def withH (f : HostIf → HostIf) : State := { live0 with h := f live0.h }
def withM (f : MemSys → MemSys) : State := live0.updM f
/-- Bytes at a physical address of ring 0. -/
def paBytes (pa n x : Nat) : Store 8 := bytesAt (locOf 0 0 pa) n x
/-- A write of an agent reaches its homes at once; a completion record can be written at once. -/
def inLine (ps : List Phys) (loc n : Nat) : Bool := ps.map (·.loc) == (List.range n).map (loc + ·) && decide (loc % 128 + n ≤ 128 ∧ loc + n ≤ hostBase)
def nowFits (s : State) (ps : List Phys) (loc n : Nat) : Bool :=
  inLine ps loc n && !s.heldBack ps && s.e.seqs == [] && !s.m.writing s.fresh && ps.all (fun p => s.m.l2Takes s.time (lineOf p.loc) p.slice)
def recordFits (s : State) (ctx : Nat) (cpl : W64) (loc : Nat) : Bool :=
  cpl != 0 && cpl.toNat % 16 == 0 && match ({ s.m with msgs := [] } : MemSys).places (agentCore 0) ctx cpl.toNat 16 .write with | .ok ps => nowFits s ps loc 16 | .error _ => false
theorem nowFits_writesNow {s : State} {ps : List Phys} {loc n : Nat} (h : nowFits s ps loc n = true) : s.WritesNow ps loc n := by
  simp only [nowFits, inLine, Bool.and_eq_true, beq_iff_eq, decide_eq_true_eq, Bool.not_eq_true', List.all_eq_true] at h
  obtain ⟨⟨⟨⟨⟨a, b, c⟩, d⟩, e⟩, f⟩, g⟩ := h
  exact ⟨⟨a, b, c⟩, d, e, f, g⟩
theorem recordFits_fits {s : State} {ctx : Nat} {cpl : W64} {loc : Nat} (h : recordFits s ctx cpl loc = true) : s.RecordFits ctx cpl loc := by
  simp only [recordFits, Bool.and_eq_true, bne_iff_ne, beq_iff_eq] at h
  obtain ⟨⟨a, b⟩, c⟩ := h
  refine ⟨a, b, ?_⟩
  split at c
  · exact ⟨_, ‹_›, nowFits_writesNow c⟩
  · cases c
/-- Queue 63 enabled, with one packet at PA 0x1000. -/
def queued (packet : Nat) (ts : List Task) : State :=
  let s := withM (fun m => { m with dram := paBytes 0x1000 64 packet })
  { s with t := { s.t with queues := [⟨63, 0x1000, 0x10300, 1, 0, 0, 0⟩], tasks := ts } }
/-- A packet of a type for context 3, of a task, with a record at VA 0x4000. -/
def packetOf (type task : Nat) : Nat := type + 3 * 2 ^ 56 + task * 2 ^ 352 + 0x4000 * 2 ^ 384
def next63 (s : State) (type : Nat) : Bool := s.nextQueue == some 63 && (s.headPacket 63).any (fun bs => numAt bs 0 1 % 16 == type && pktCtx bs == 3 && pktCpl bs == 0)
theorem witness_QueuePackets_doorbell : live0.h.live = true ∧ ringSize (live0.queue 63).cfg = 64 ∧
    ((64 : W64).setWidth 32 - (live0.queue 63).head).toNat = 64 ∧ ((65 : W64).setWidth 32 - (live0.queue 63).head).toNat = 65 ∧ fieldOf (10 : W64) 3 0 = 10 ∧ fieldOf (11 : W64) 3 0 = 11 := by decide +kernel
theorem witness_QueuePackets :
    next63 (queued (packetOf 0 6) []) 0 = true ∧ next63 (queued (packetOf 4 6) []) 4 = true ∧ next63 (queued (packetOf 15 6) []) 15 = true ∧
    (let s := queued (packetOf 1 6) []
     next63 s 1 = true ∧ (s.headPacket 63).map s.packetReasons = some []) ∧
    (let s := queued (packetOf 1 6) [task0]
     next63 s 1 = true ∧ (s.headPacket 63).map s.packetReasons = some [5]) ∧
    (∀ n ∈ [1, 2], let s := queued (packetOf 2 6) [{ task0 with counter := n }]
     next63 s 2 = true ∧ (s.headPacket 63).map pktTask = some 6 ∧ s.task 3 6 = some { task0 with counter := n }) ∧
    (let s := queued (packetOf 3 6) [{ task0 with st := .running }]
     next63 s 3 = true ∧ (s.headPacket 63).map pktTask = some 6 ∧ s.task 3 6 = some { task0 with st := .running }) := by decide +kernel
/-- Packets whose completion records can be written at once, at VA 0x6070 and 0x6080: a LAUNCH of a number that is taken, a KILL of a task without a cohort, a reserved type. -/
theorem witness_QueuePackets_records : ∀ cpl ∈ [0x6070, 0x6080],
    (let s := queued (packetOf 1 6 + cpl * 2 ^ 448) [task0]
     s.nextQueue = some 63 ∧ (s.headPacket 63).map (fun bs => (numAt bs 0 1 % 16, s.packetReasons bs, recordFits s 3 (pktCpl bs) cpl, s.recordHeld 3 (pktRecord bs))) = some (1, [5], true, false)) ∧
    (let k := { task0 with st := .running, cpl := BitVec.ofNat 64 cpl }
     let s := queued (packetOf 3 6) [k]
     next63 s 3 = true ∧ s.task 3 6 = some k ∧ k.st ≠ .ending ∧ ({ s with cohorts := [] } : State).cohorts = [] ∧ recordFits { s with cohorts := [] } 3 k.cpl cpl = true ∧ k.queue < 64) ∧
    (let s := queued (packetOf 15 6 + cpl * 2 ^ 448) []
     s.nextQueue = some 63 ∧ (s.headPacket 63).map (fun bs => (numAt bs 0 1 % 16, recordFits s 3 (pktCpl bs) cpl)) = some (15, true)) := by decide +kernel
/-- A packet whose record can be read now, of a queue of the second priority. -/
theorem witness_QueuePackets_reads :
    (let s := queued (packetOf 1 6) [task0]
     (s.headPacket 63).map (fun bs => s.recordHeld 3 (pktRecord bs)) = some false ∧ fieldOf (s.queue 63).cfg 9 8 = 3) := by decide +kernel

/-- A record of one cohort of two warps with a counter and one group, its group table at VA 0x5000. -/
def taskRec (counter : Nat) : Nat := 2 ^ 64 + 0x400 * 2 ^ 96 + 2 * 2 ^ 128 + 2 ^ 192 + counter * 2 ^ 224 + 0x5000 * 2 ^ 256 + 0x1B0000 * 2 ^ 576
def checking0 : Task := { task0 with st := .checking }
def checkingOf (record : Nat) : State :=
  let s := withM (fun m => { m with dram := bytesAt 0x4000 384 record ++ [(0x5000, 3)] })
  { s with t := { s.t with tasks := [checking0] } }
theorem witness_TaskLife_checked :
    (∀ n ∈ [0, 2 ^ 32 - 1], let s := checkingOf (taskRec n)
     s.task 3 6 = some checking0 ∧ (let r := s.readRecord 3 checking0.record
       r.reasons = [] ∧ r.raw.isSome = true ∧ r.groups.isSome = true ∧ r.edges.isSome = true ∧ r.raw.map (fun raw => recBits raw 0x18 63 32) = some n)) ∧
    (let s := checkingOf 0
     s.task 3 6 = some checking0 ∧ (s.readRecord 3 checking0.record).reasons ≠ []) := by decide +kernel
/-- Nothing holds back the record that is checked. -/
theorem witness_TaskLife_reads : ∀ r ∈ [taskRec 0, 0], checking0.pending = [] ∧ (checkingOf r).recordHeld 3 checking0.record = false := by decide +kernel
def readyTask : Task := { task0 with st := .ready, ready := 1, counter := 0 }
def unplacedOf (us : List Unplaced) (ks : List Task) : State := { live0 with t := { live0.t with tasks := ks, unplaced := us } }
theorem witness_TaskLife :
    (let s := unplacedOf [⟨0, 3, 6, 4⟩, ⟨0, 3, 6, 0⟩] [readyTask]
     s.nextTask 0 = some (readyTask, true) ∧ s.bestCluster 0 readyTask = some 1 ∧ lowest (s.ownedBy 0 readyTask) = some 0 ∧ s.t.saved = []) ∧
    (let k := { task0 with st := .draining, cpl := 0x6070, wct := 100 }
     let s := unplacedOf [] [k]
     let t := unplacedOf [] [{ k with cleaned := true }]
     s.task 3 6 = some k ∧ k.cleaned = false ∧ t.task 3 6 = some { k with cleaned := true } ∧ t.cleaning (WRef.ofTask 3 6) = false ∧ k.wct = t.time ∧ k.edges = [] ∧ k.cpl.toNat % 16 = 0 ∧
       (match t.m.places (agentCore 0) 3 0x6070 16 .write with | .ok ps => inLine ps 0x6070 16 | .error _ => false) = true ∧ t.e.seqs = []) := by decide +kernel
/-- No region that a task reads or cleans is held, and the place of its completion record is not held back. -/
theorem witness_TaskLife_held :
    (let s := unplacedOf [⟨0, 3, 6, 4⟩, ⟨0, 3, 6, 0⟩] [readyTask]
     s.regionsHeld 0 3 readyTask.inRegions = false) ∧
    (let k := { task0 with st := .draining, cpl := 0x6070, wct := 100, cleaned := true }
     let s := unplacedOf [] [k]
     recordFits s 3 k.cpl 0x6070 = true ∧ k.queue < 64 ∧
       ∀ cl ∈ k.ran, s.regionsHeld (cl / 48) 3 (k.edges.flatMap (·.regions)) = false) := by decide +kernel
/-- A task that is checked and fails, its record to be written; a task with three edges, to a task that waits, to none, and to one that is not there, its cleaning done; before it, with a dirty
line of a region in the cluster that it ran on, beside a clean one, and a write of the cluster on its way. -/
theorem witness_TaskLife_edges :
    (let k := { checking0 with cpl := 0x6070 }
     let s0 := checkingOf 0
     let s := { s0 with t := { s0.t with tasks := [k] } }
     s.task 3 6 = some k ∧ (s.readRecord 3 k.record).reasons ≠ [] ∧ s.recordHeld 3 k.record = false ∧ recordFits s 3 k.cpl 0x6070 = true ∧ k.queue < 64) ∧
    (let k := { task0 with st := .draining, cpl := 0x6070, wct := 100, cleaned := true, ran := [0], edges := [⟨7, [(0, 256)]⟩, ⟨0xFFFFFFFF, []⟩, ⟨9, []⟩] }
     let y := { task0 with id := 7, counter := 1 }
     let s := unplacedOf [] [k, y]
     s.task 3 6 = some k ∧ s.cleaning (WRef.ofTask 3 6) = false ∧ k.wct ≤ s.time ∧ (∀ e ∈ k.edges, e.succ ≠ 6) ∧ ((k.edges.map (·.succ)).filter (· != 0xFFFFFFFF)).Nodup ∧
       s.task 3 7 = some y ∧ y.st = .waiting ∧ 0 < y.counter ∧ s.task 3 9 = none ∧ recordFits s 3 k.cpl 0x6070 = true) ∧
    (let k := { task0 with st := .draining, cpl := 0x6070, ran := [0], edges := [⟨7, [(0, 128)]⟩] }
     let g : Msg := { msg0 (.write 0x55 1 0 none [base.w.ref] false) with wb := true }
     let s := (unplacedOf [] [k]).updM (fun m => { m with l1 := cached.m.l1, msgs := [g] })
     s.task 3 6 = some k ∧ k.cleaned = false ∧ s.m.linesOnce = true ∧ (∀ cl ∈ k.ran, cl < 192) ∧ s.regionsHeld 0 3 (k.edges.flatMap (·.regions)) = false ∧
       ((s.regionRuns 0 3 (k.edges.flatMap (·.regions))).map (fun r => (r.has 0, r.has 1))) = [(true, false)] ∧ (s.m.l1Find 0 0).map (·.dirty) = some 1 ∧ (s.m.l1Find 0 1).map (·.dirty) = some 0 ∧
       g ∈ s.m.msgs ∧ g.cluster ∈ k.ran ∧ g.line = 0) := by decide +kernel
theorem witness_Distribution_work :
    (let s := unplacedOf [⟨1, 3, 6, 0⟩, ⟨1, 3, 6, 4⟩] [readyTask]
     s.hungry 0 = true ∧ s.t.stealAt = [] ∧ s.gift 0 1 = some (readyTask, [4])) ∧
    (∀ j ∈ [2, 3], let s := unplacedOf [⟨j, 3, 6, 0⟩, ⟨j, 3, 6, 4⟩] [readyTask]
     s.hungry 0 = true ∧ s.t.stealAt = [] ∧ (∀ i < j, 1 ≤ i → s.gift 0 i = none) ∧ s.gift 0 j = some (readyTask, [4])) ∧
    live0.hungry 0 = true ∧ live0.gift 0 1 = none ∧ live0.gift 0 2 = none ∧ live0.gift 0 3 = none ∧
    (let s := { live0 with t := { live0.t with stealAt := [(0, 100)] } }
     s.t.stealAt.find? (fun p => p.1 == 0) = some (0, 100) ∧ 100 ≤ s.time ∧ s.hungry 0 = true) := by decide +kernel
theorem witness_Distribution_preempted :
    (let k := { readyTask with cls := 3, nbank := 16 }
     let s := { unplacedOf [⟨0, 3, 6, 0⟩] [k] with cohorts := (List.range 48).map (fun cl => { cohort with cluster := cl }) }
     (∀ c ∈ s.cohorts, c.stopping = false) ∧ earliest ((s.placeable 0).filter (fun k => k.cls == 3 && (s.bestCluster 0 k).isNone && (s.victimCluster 0 k).isSome)) = some k ∧ (s.victimCluster 0 k).isSome = true) ∧
    (let c := { cohort with stopping := true }
     let s := { live0 with cohorts := [c] }
     s.cohorts.filter (fun x => x.die == 0 && x.stopping && !x.away) = [c] ∧ s.cohortOf ⟨0, 0, 0, 0⟩ = some c ∧ (s.warpsOf c).all Warp.quiet = true ∧ s.warpsOf c = [warp] ∧
       ∀ w ∈ s.warpsOf c, w.ctx = c.ctx ∧ w.taskId = c.task) ∧
    (let c := { cohort with away := true }
     let x : Saved := ⟨0, 0, 0, 0, 50, [warp]⟩
     let s := { live0 with w := Warp.reset, cohorts := [c], t := { live0.t with saved := [x] } }
     (s.nextRestore 0).map (fun p => (p.1, p.2.1)) = some (x, c) ∧ warp.ctx = c.ctx ∧ warp.taskId = c.task ∧ warp.wait = .ready) := by decide +kernel
/-- A cohort that stops, and one that is away, with its save area at VA 0, its frames at VA 0x102000, or at an address that is not mapped. -/
def swapping (away : Bool) (save : W64) : State :=
  let c := { cohort with stopping := !away, away := away, banks := if away then [0, 1] else [], saveAddr := save }
  let s := buffered live0
  { s with
    m := { s.m with tlb := ⟨0, agentCore 0, 3, 0x100000, 3, codePte⟩ :: s.m.tlb }, cohorts := [c], w := if away then Warp.reset else warp
    t := { s.t with saved := if away then [⟨0, 0, 0, 0, 50, [warp]⟩] else [] } }
theorem witness_Distribution_saved :
    (∀ p ∈ [((0 : W64), true, [(Warp.reset, ([] : List Warp))]), (0x70000, false, [(warp, [warp])])], ∀ x ∈ p.2.2, let s : State := { swapping false p.1 with w := x.1 }
     ∀ c ∈ s.cohorts, s.cohorts.filter (fun x => x.die == 0 && x.stopping && !x.away) = [c] ∧ s.cohortOf ⟨0, 0, 0, 0⟩ = some c ∧ (s.warpsOf c).all Warp.quiet = true ∧ s.warpsOf c = x.2 ∧
       (match (s.warpsOf c).mapM s.filled with | some full => (s.areaWritten c full).isSome == p.2.1 | none => false) = true ∧ (∀ w ∈ s.warpsOf c, w.ctx = c.ctx ∧ w.taskId = c.task) ∧ s.h.fbOpen = true ∧
       s.h.records = []) := by decide +kernel
/-- The frame of its warp can be read. -/
theorem witness_Distribution_frame : ((swapping true 0).frameRead (agentCore 0) 3 0x102000 warp.tiles).toOption.isSome = true := by decide +kernel
theorem witness_Distribution_restored : live0.nextRestore 0 = none ∧
    (match (swapping true 0).nextRestore 0 with
     | none => false
     | some x => x.1.warps == [warp] && x.2.2.length == 1 && !(swapping true 0).areaHeld x.2.1 x.1.warps && ((swapping true 0).banksRead ((swapping true 0).backOn x.2.1)).isSome == true &&
         x.2.1.saveAddr == 0 && warp.ctx == x.2.1.ctx && warp.taskId == x.2.1.task) = true ∧
    (match (swapping true 0x70000).nextRestore 0 with
     | none => false
     | some x => x.1.warps == [warp] && x.2.2.length == 1 && !(swapping true 0x70000).areaHeld x.2.1 x.1.warps && ((swapping true 0x70000).banksRead ((swapping true 0x70000).backOn x.2.1)).isSome == false &&
         x.2.1.saveAddr == 0x70000 && warp.ctx == x.2.1.ctx && warp.taskId == x.2.1.task) = true ∧
    (swapping true 0x70000).h.fbOpen = true ∧ (swapping true 0x70000).h.records = [] ∧ warp.live = true ∧ warp.wait = .ready ∧
    (let s := (swapping true 0).updM (fun m => { m with holds := [⟨0, 0, false⟩] })
     (s.nextRestore 0).map (fun x => s.areaHeld x.2.1 x.1.warps) = some true) := by decide +kernel
theorem witness_Distribution :
    (∀ r ∈ [0, 447], let s := live0.updW (fun w => { w with absent := BitVec.ofNat 704 (2 ^ r) })
     s.w.live = true ∧ s.w.absent = BitVec.ofNat 704 (2 ^ r) ∧ (s.m.places (agentCore 0) 3 (s.w.frame.toNat + 0x2000 + 128 * r) 128 .read).toOption.isSome = true) ∧
    (let a := { warp with cycle := 4096, wait := .sleep 1000000 }
     let b := { warp with id := ⟨⟨0, 0, 0⟩, 1⟩, ref := ⟨0, 0, 0, 1⟩, widx := 1, active := false, cycle := 4096 }
     let s := { live0 with w := a, warps := [b] }
     s.pickWarp ⟨0, 0, 0⟩ (fun w => w.active && 64 ≤ w.idle && !s.readyNow w) Warp.idle = some a ∧
       s.pickWarp ⟨0, 0, 0⟩ (fun w => !w.active && s.readyNow w) (fun w => w.prio * 2 ^ 64 + w.outside) = some b ∧
       s.pickWarp ⟨0, 0, 0⟩ (fun w => !w.active && 4096 ≤ w.outside && s.readyNow w) (fun w => w.prio * 2 ^ 64 + w.outside) = some b ∧
       s.pickWarp ⟨0, 0, 0⟩ (fun w => w.active && w.prio ≤ b.prio) (fun w => w.cycle - w.activeSince) = some a) := by decide +kernel

/-- A PAGE record of the focus warp, posted or not. -/
def pageRec (posted : Option Nat) : RecSt := ⟨4, 0, some (.warp base.w.ref), { code := 0x07, defer := true }, posted, false⟩
theorem witness_FaultAnswers :
    (let s := { handled with w := { handled.w with wait := .page 4 0 }, h := { live0.h with records := [pageRec (some 9)] } }
     s.h.pageRecord 9 = some (pageRec (some 9)) ∧ s.h.records.find? (fun x => x.num == 4) = some (pageRec (some 9)) ∧ s.w.live = true ∧ s.w.exited = false ∧ s.w.wait = .page 4 0 ∧
       s.w.onStackCore = false ∧ s.w.priv = false ∧ s.handlerOf s.w 0x07 = some 0x400) := by decide +kernel
/-- The focus warp waits for the answer of a record that is posted, where the buffer takes another record and where it takes none. -/
theorem witness_FaultAnswers_killed :
    (let s := { handled with w := { handled.w with wait := .page 4 0 }, h := { live0.h with records := [pageRec (some 9)], fbCfg := 0x10000 } }
     s.h.pageRecord 9 = some (pageRec (some 9)) ∧ (∀ r ∈ s.h.records, r.posted.isSome = true) ∧ s.h.fbOpen = true) ∧
    (let s := { handled with w := { handled.w with wait := .page 4 0 }, h := { live0.h with records := [pageRec (some 9)] } }
     (∀ r ∈ s.h.records, r.posted.isSome = true) ∧ s.h.fbOpen = false ∧ s.fillHeld s.w [703] = false ∧ (s.fillRegs s.w [703]).isSome = true) := by decide +kernel
theorem witness_HostRegisters :
    live0.h.live = true ∧ live0.h.records = [] ∧
    (let s := withH (fun h => { h with records := [pageRec none], fbBase := 0x1000, fbCfg := 0x10000 })
     s.h.live = true ∧ s.h.records = [pageRec none] ∧ ({ s.h with fbTail := (0 : W64).setWidth 32 } : HostIf).fbOpen = true ∧ ({ s.h with fbCfg := (0x1000F : W64) &&& 0x1000F } : HostIf).fbOpen = true) ∧
    live0.tlbBusy = false ∧ (let s := { withM (fun m => { m with msgs := [msg0 (.read [])] }) with h := { live0.h with tlbBusy := some 31 } }
     s.h.live = true ∧ s.tlbBusy = true) ∧
    live0.h.evtOver = false ∧ (withH (fun h => { h with evtOver := true })).h.live = true ∧
    ((64 : W64).setWidth 32 - live0.h.clHead).toNat ≤ ringSize live0.h.clCfg ∧ ringSize live0.h.clCfg < ((65 : W64).setWidth 32 - live0.h.clHead).toNat := by decide +kernel
/-- A record of no fatal fault that waits while the ring is not enabled; a device that is not ready. -/
theorem witness_HostRegisters_posting :
    (let s := withH (fun h => { h with records := [pageRec none], fbCfg := 0x10000 })
     (match barePlaces 0x1000 64 with | some ps => nowFits s ps (locOf 0 0 0x1000) 64 && (s.updM (fun m => { m with l2 := [{ line0 with line := lineOf (locOf 0 0 0x1000), owner := some 5 }] })).heldBack ps | none => false) = true ∧
     s.h.records = [pageRec none] ∧ (pageRec none).posted = none ∧ (pageRec none).who = some (.warp base.w.ref) ∧ ({ s.h with fbBase := (0x1000 : W64) &&& 0xFFFFFFFFFF000 } : HostIf).fbOpen = true) ∧
    (State.reset.h.live = false ∧ live0.h.boot = .ready) := by decide +kernel
/-- A command in the mailbox, with MBDOOR set. -/
def commanded (xs : List W64) : State := withH (fun h => { h with mbox := (runOf 0 xs).filter (fun p => p.2 != 0), door := true })
def freeKey (slot : Nat) (loaded : Bool) : KeySlot := ⟨slot, loaded, none, 2 ^ 15 - 1, 3, 0, []⟩
theorem witness_MailboxCommands_contexts :
    (∀ n ∈ [1, 255], let s := commanded [1, BitVec.ofNat 64 n, 0x10000]
     s.submitted = some 1 ∧ s.arg 1 = n ∧ s.m.context (s.arg 1) = none) ∧
    (let s := commanded [2, 3]
     s.submitted = some 2 ∧ (s.m.context 3).isSome = true ∧ s.t.tasks = [] ∧ ∀ k ∈ s.m.keys, k.ctx ≠ 3) ∧
    (let s := commanded [3, 3, 0xFFFFFFFF, 0, 0xC000000000]
     s.submitted = some 3 ∧ (s.m.context 3).isSome = true ∧ s.arg 2 = 0xFFFFFFFF ∧ s.arg 3 + s.arg 4 = 0xC000000000 ∧ s.arg 4 % 65536 = 0 ∧ s.g.freeEntry 3 = some (0, 0)) ∧
    (let s := { commanded [4, 3, 0] with g := gbase.g }
     s.submitted = some 4 ∧ s.graphOf 3 0 = some entry0 ∧ (s.g.entries.map (fun e => (e.ctx, e.idx))).Nodup ∧ s.g.lists = [] ∧ s.g.msgs = [] ∧ s.g.mirrors = [] ∧ s.g.deaths = []) := by decide +kernel
/-- A graph with a list that no cursor is open on. -/
theorem witness_MailboxCommands_graph :
    let s := { commanded [4, 3, 0] with g := { gbase.g with lists := [list5] } }
    s.submitted = some 4 ∧ s.graphOf 3 0 = some entry0 ∧ ∀ l ∈ s.g.lists, l.ctx = 3 ∧ l.idx = entry0.idx ∧ l.opens = 0 := by decide +kernel
theorem witness_MailboxCommands_keys :
    (commanded [5]).submitted = some 5 ∧
    (∀ loaded ∈ [true, false], let s := (commanded [6, 255, 0x1000]).updM (fun m => { m with keys := [freeKey 255 loaded] })
     s.submitted = some 6 ∧ (s.m.bareRead (s.arg 2) 96).isSome = true ∧ s.arg 1 = 255 ∧ s.arg 2 % 64 = 0 ∧ s.m.keyOf 255 = some (freeKey 255 loaded) ∧ s.h.session = none ∧
       (freeKey 255 loaded).stale.contains (((freeKey 255 loaded).gen + 1) % 2 ^ 15) = false) ∧
    (let s := (commanded [7, 1]).updM (fun m => { m with keys := [freeKey 1 true] })
     s.submitted = some 7 ∧ s.arg 1 = 1 ∧ s.inFlight s.fresh = false) := by decide +kernel
/-- Addresses in two runs, one above the other, are distinct. -/
theorem runs_nodup (a n b k : Nat) (h : a + n ≤ b) : ((List.range n).map (a + ·) ++ (List.range k).map (b + ·)).Nodup := by
  refine List.nodup_append.2 ⟨List.nodup_range.map (fun _ _ h => Nat.add_left_cancel h), List.nodup_range.map (fun _ _ h => Nat.add_left_cancel h), ?_⟩
  simp only [List.mem_map, List.mem_range]
  rintro _ ⟨x, hx, rfl⟩ _ ⟨y, -, rfl⟩
  omega
theorem witness_MailboxCommands :
    (let s := commanded [8, 1, 2, 3, 4, 0x1000]
     s.submitted = some 8 ∧ (barePlaces (s.arg 5) 288).map (fun ps => ps.map (·.loc)) = some ((List.range 256).map (2147483648 + ·) ++ (List.range 32).map (70866960384 + ·)) ∧ 70866960384 + 288 ≤ hostBase ∧ s.e.seqs = []) ∧
    (let s := commanded [9, 255, 0x1000]
     s.submitted = some 9 ∧ (s.m.bareRead (s.arg 2) 256).isSome = true ∧ s.arg 1 = 255) ∧
    (let s := commanded [10, 0x10000, 0x10000, 255]
     s.submitted = some 10 ∧ s.arg 1 % 65536 = 0 ∧ s.arg 2 % 65536 = 0 ∧ s.arg 3 = 255 ∧ s.m.exports.length < 64) ∧
    (∀ n ∈ [600, 3600], (commanded [11, BitVec.ofNat 64 n]).submitted = some 11 ∧ (commanded [11, BitVec.ofNat 64 n]).arg 1 = n) ∧
    ∀ n ∈ [0, 12, 255], (commanded [BitVec.ofNat 64 n]).submitted = some n := by decide +kernel
/-- A report whose lines are in L2; blobs and route tables that no hold keeps. -/
theorem witness_MailboxCommands_places :
    (let s := (commanded [8, 1, 2, 3, 4, 0x1000]).updM (fun m => { m with l2 := [16777216, 16777217, 553648128].map (fun l => { line0 with line := l }) })
     (match barePlaces (s.arg 5) 288 with | some ps => ps.all (fun p => (s.m.l2Find (lineOf p.loc)).isSome) && !s.heldBack ps | none => false) = true) ∧
    (let s := (commanded [6, 255, 0x1000]).updM (fun m => { m with keys := [freeKey 255 true] })
     s.m.bareHeld (s.arg 2) 96 = false) ∧
    (let s := commanded [9, 255, 0x1000]
     s.m.bareHeld (s.arg 2) 256 = false) := by decide +kernel
theorem witness_Outside :
    (let s := live0
     s.h.live = true ∧ (match barePlaces 0x1000 128 with | some ps => inLine ps (locOf 0 0 0x1000) 128 && !s.heldBack ps | none => false) = true ∧ s.e.seqs = [] ∧
       (let r : DomReq := ⟨1, 0, 0, 0xFF80, .store (List.replicate 128 9)⟩
        (match s.exported r 128 with | some ps => inLine ps (locOf 0 0 0xFF80) 128 && !s.heldBack ps | none => false) = true ∧ s.exported ⟨1, 0, 0, 0xFF81, .load 128⟩ 128 = none ∧
          s.exported ⟨2, 0, 0, 0, .store [9]⟩ 1 = none ∧ (s.exported ⟨1, 0, 0, 0, .load 8⟩ 8).isSome = true) ∧
       s.unreachable 1 = false ∧ (1 : Nat) ≠ s.m.devId.toNat) ∧
    (let s := withH (fun h => { h with peers := [⟨1, some 0, false, false⟩], portsUp := 0xFE, routes := [(1, 0x80)] })
     ({ s with time := 100000 } : State).h.peers.find? (fun (x : Peer) => x.dev == 1) = some ⟨1, some 0, false, false⟩ ∧ 0 + 100000 ≤ ({ s with time := 100000 } : State).time ∧ s.h.power = true ∧ s.h.portsUp.getLsbD 0 = false ∧ s.h.route 1 ≠ 0 ∧
       ∀ t, run (.portLinkLoss 7) s = t → t.h.routed 1 = false) := by
  refine ⟨by decide +kernel, by decide +kernel, by decide +kernel, by decide +kernel, by decide +kernel, by decide +kernel, ?_⟩
  rintro t rfl
  decide +kernel
/-- Reads and atomics from outside that nothing holds back; an address that holds nothing; a line that may be leased; a warp that is not there; a call to an address that an
export allows; a peer that is cut off for TIME; a port that goes down while it is up. -/
theorem witness_Outside_requests :
    (let s := live0
     (match barePlaces 0x1000 128 with | some ps => !s.heldRead ps && ps.all (fun p => !s.m.placePoison p && s.m.lastKey p.loc == 0) | none => false) = true ∧ barePlaces (2 ^ 51) 1 = none ∧
       (match s.exported ⟨1, 0, 0, 0xFF80, .lease⟩ 128 with | some (p :: rest) => !s.heldRead (p :: rest) | _ => false) = true ∧
       (match s.exported ⟨1, 0, 0, 0xFF80, .load 8⟩ 8 with | some ps => inLine ps (locOf 0 0 0xFF80) 8 && !s.heldRead ps && !s.heldBack ps && ps.all (fun p => !s.m.placePoison p) | none => false) = true ∧
       s.warpNow (WRef.ofTask 3 6) = none ∧ (s.exported ⟨1, 0, 0, 0, .load 1⟩ 1).isSome = true ∧ s.exported ⟨1, 0, 0, 0x10000, .load 1⟩ 1 = none ∧ ({ lane := 0, off := 0, wide := false, opc := 0xA0, fn := 1, num := false, c := 5, e := 0, dest := none, va := 0 : AtomOp }.new 0).isSome = true) ∧
    (let s := withH (fun h => { h with peers := [⟨1, some 0, true, true⟩], portsUp := 0xFF })
     s.h.live = true ∧ s.h.power = true ∧ s.h.portsUp.getLsbD 7 = true ∧ s.h.peers.find? (fun x => x.dev == 1) = some ⟨1, some 0, true, true⟩) ∧
    (let s : State := { withH (fun h => { h with peers := [⟨1, some 0, false, false⟩], portsUp := 0xFE, routes := [(1, 0x01)] }) with time := 100000, f := { base.f with calls := [{ call0 .sent with dev := 1 }] } }
     (s.h.peer 1).downSince = some 0 ∧ (s.h.peer 1).unreachable = false ∧ 0 + 100000 ≤ s.time ∧ (s.h.route 1).getLsbD 0 = true ∧ s.h.portsUp.getLsbD 0 = false ∧ s.h.events.length ≤ 248 ∧
       s.f.calls = [{ call0 .sent with dev := 1 }] ∧ (call0 .sent).asks = false ∧ (call0 .sent).lost = false) := by decide +kernel
/-- Host and device writes whose lines L2 takes; a line that an engine owns, for the writes of the host. -/
theorem witness_Outside_writes :
    (match barePlaces 0x1000 128 with | some ps => nowFits live0 ps (locOf 0 0 0x1000) 128 | none => false) = true ∧
    (match live0.exported ⟨1, 0, 0, 0xFF80, .load 8⟩ 8 with | some ps => nowFits live0 ps (locOf 0 0 0xFF80) 8 | none => false) = true := by decide +kernel
/-- A collective of two contributions of device 1: 64 elements, the list of its addresses at PA 0x2000. -/
def collDesc : Nat := 2 ^ 8 + 64 * 2 ^ 16 + 0x3000 * 2 ^ 64 + 0x2000 * 2 ^ 384
def collRun (contribs : List (Nat × List Byte × List Bool)) (status : Option Nat) : CollRun :=
  { id := 30, addrs := [2 ^ 52, 2 ^ 52 + 512], npart := 1, op := 0, type := 3, count := 16, dst := 0x3000, cpl := 1, task := none, timeout := 1000, start := 50, contribs := contribs, status := status, wct := 100 }
theorem witness_CollectiveEngine :
    (∀ d ∈ [collDesc, 0], let s := { withM (fun m => { m with dram := paBytes 0x1000 64 d ++ paBytes 0x2000 32 (2 ^ 52 + (2 ^ 52 + 512) * 2 ^ 128) }) with
      h := { live0.h with clBase := 0x1000, clCfg := 0x10000, clTail := 1 } }
     s.h.live = true ∧ s.e.coll = none ∧ s.h.clCfg.getLsbD 16 = true ∧ s.h.clTail ≠ s.h.clHead ∧
       (s.ringEntry s.h.clBase s.h.clCfg s.h.clHead).map (fun bs => (descOk bs, s.contribAddrs (descBits bs 447 384) (descBits bs 15 8 + 1))) =
         some (d == collDesc, if d = collDesc then some [2 ^ 52, 2 ^ 52 + 512] else s.contribAddrs 0 1)) ∧
    (∀ c ∈ [collRun [] none, collRun [(1, [], [])] none], let s := { live0 with e := { live0.e with coll := some c } }
     s.e.coll = some c ∧ c.status = none ∧ (∀ x ∈ c.contribs, x.1 ≠ 0) ∧ s.time < c.start + c.timeout ∧ c.addrs.getD 0 0 / 2 ^ 52 ≠ s.m.devId.toNat ∧ s.unreachable 1 = false ∧
       (match s.domainPlaces c.dst c.size with | some ps => inLine ps (locOf 0 0 0x3000) c.size && !s.heldBack ps | none => false) = true ∧ c.size = 64 ∧
       ∀ b < c.blocks, ({ c with contribs := c.contribs ++ [(0, padTo c.size [9], [false])] } : CollRun).bad b = false) ∧
    (let s := { live0 with time := 1050, e := { live0.e with coll := some (collRun [] none) } }
     (collRun [] none).start + (collRun [] none).timeout = s.time) ∧
    (let s := { live0 with e := { live0.e with coll := some (collRun [] (some 2)) } }
     (collRun [] (some 2)).wct = s.time ∧ (collRun [] (some 2)).task = none ∧ (collRun [] (some 2)).cpl % 16 ≠ 0) := by decide +kernel
/-- A good descriptor whose list and destination nothing holds back, and its run; contributions of this device's own memory and of one that is poisoned; a collective that is
complete, and one that waits for its completion time or whose record has a place. -/
theorem witness_CollectiveEngine_states :
    (let s := { withM (fun m => { m with dram := paBytes 0x1000 64 collDesc ++ paBytes 0x2000 32 (2 ^ 52 + (2 ^ 52 + 512) * 2 ^ 128) }) with
      h := { live0.h with clBase := 0x1000, clCfg := 0x10000, clTail := 1 } }
     s.m.bareHeld 0x2000 32 = false ∧ s.m.linesOnce = true ∧ s.e.seqs = [] ∧
       (match (s.ringEntry s.h.clBase s.h.clCfg s.h.clHead).map s.collOf with
         | some c => c.status == none && c.size == 256 && (match s.domainPlaces c.dst c.size with | some ps => ps.all (fun p => !s.owned (lineOf p.loc) && decide (p.loc < hostBase)) | none => false)
         | none => false) = true) ∧
    (let c := { collRun [] none with addrs := [0x4000, 2 ^ 52], npart := 2 }
     let s := { live0 with e := { live0.e with coll := some c } }
     c.addrs.getD 0 0 / 2 ^ 52 = s.m.devId.toNat ∧ (match s.domainPlaces (c.addrs.getD 0 0) c.size with | some qs => qs.all (fun p => !s.m.byteHeld p.loc) | none => false) = true) ∧
    (let c := collRun [(1, List.replicate 64 0, [true])] none
     c.contribs.length = c.npart ∧ ∀ b < c.blocks, ({ c with contribs := c.contribs ++ [(0, padTo c.size [9], [false])] } : CollRun).bad b = true) ∧
    (let c := collRun [(1, List.replicate 64 1, [false]), (0, List.replicate 64 2, [false])] none
     let s := { live0 with e := { live0.e with coll := some c } }
     c.npart < c.contribs.length ∧ 0 < c.size ∧ 15 < c.count ∧ s.e.seqs = [] ∧ (match s.domainPlaces c.dst c.size with | some ps => inLine ps (locOf 0 0 0x3000) c.size | none => false) = true) ∧
    (let c := { collRun [] (some 0) with cpl := 0x3070 }
     let s := { live0 with e := { live0.e with coll := some c } }
     c.cpl % 16 = 0 ∧ c.task = none ∧ c.wct ≤ s.time ∧ (match barePlaces c.cpl 16 with | some ps => inLine ps (locOf 0 0 0x3070) 16 && !s.heldBack ps | none => false) = true ∧
       s.time < ({ c with wct := 101 } : CollRun).wct) := by decide +kernel
/-- A result that L2 takes; the record of a collective that can be written, one whose line an engine owns, one at an address that is no multiple of 16. -/
theorem witness_CollectiveEngine_records :
    (match live0.domainPlaces 0x3000 64 with | some ps => nowFits live0 ps (locOf 0 0 0x3000) 64 | none => false) = true ∧
    (let c := { collRun [] (some 0) with cpl := 0x3070 }
     let s := { live0 with e := { live0.e with coll := some c } }
     (match barePlaces c.cpl 16 with | some ps => nowFits s ps (locOf 0 0 0x3070) 16 | none => false) = true ∧ s.m.writing s.fresh = false ∧
       (let t := s.updM (fun m => { m with l2 := [{ line0 with line := lineOf (locOf 0 0 0x3070), owner := some 5 }] })
        (match barePlaces c.cpl 16 with | some ps => t.heldBack ps | none => false) = true)) ∧
    (collRun [] (some 2)).cpl % 16 ≠ 0 := by decide +kernel
/-- A contribution of one element of each type, at its smallest and greatest number of participants that the float trees name. -/
theorem witness_CollectiveEngine_elements : ∀ type < 4, ∀ npart ∈ [1, 2, 3],
    let c := { collRun ((List.range (npart + 1)).map (fun j => (j, List.replicate 64 1, [false]))) none with type := type, npart := npart }
    0 < c.count ∧ c.op = 0 ∧ c.contribs.length = c.npart + 1 := by decide +kernel
theorem witness_BootAndPower : State.reset.h.power = true ∧ State.reset.h.boot = .waiting ∧ (∃ t, exec .powerOff State.reset = .next t ∧ t.h.power = false) ∧
    (∃ t, exec (.bootgo (BitVec.ofNat 64 (2 ^ 26))) State.reset = .next t ∧ t.h.boot = .verifying) ∧ 2 ^ 26 < (BitVec.ofNat 64 (2 ^ 26 + 1)).toNat ∧
    ({ State.reset with h := { HostIf.reset with boot := .initialising } } : State).h.boot = .initialising :=
  ⟨rfl, rfl, ⟨_, rfl, rfl⟩, ⟨_, rfl, rfl⟩, by decide +kernel, rfl⟩
/-- A device without power, one that checks an image, and one that is reset while it runs. -/
theorem witness_BootAndPower_states :
    (run .powerOff State.reset).h.power = false ∧ ({ State.reset with h := { HostIf.reset with boot := .verifying, imageLen := 3 } } : State).h.boot = .verifying ∧ live0.h.power = true :=
  ⟨rfl, rfl, rfl⟩
/-- The two invariants hold at reset (statements MemoryStaysCanonical and LinesStayOnce). -/
theorem witness_MemoryStaysCanonical : State.reset.memoryWf = true := by decide +kernel
theorem witness_LinesStayOnce : State.reset.m.linesOnce = true ∧ cached.m.linesOnce = true := by decide +kernel

/-! Every instruction's word, laid out from the formats of 03 R78 and R83-R88 and the opcodes of R96: its length in bytes, its bits and its fields. -/

def wordsControl : List (Nat × Nat × Instr) :=
  [(8, 0x1C000, .nop fld),
    (12, 0xFFFFFFD0000000000001C005, .bra { fld with fmt := .f96i, imm := 268435453 }),
    (12, 0x240000000001C009, .brx { fld with fmt := .f96, a := .v 9 }),
    (12, 0x70028500000001C00D, .call { fld with fmt := .f96i, d := .s 5, imm := 7 }),
    (8, 0xC500000001C010, .ret { fld with a := .s 5 }),
    (8, 0x1C014, .exit fld),
    (8, 0x1C018, .yield fld),
    (12, 0x1C00A040000000001C01D, .kdecl { fld with fmt := .f96, a := .s 1, mod := 7 }),
    (12, 0x14000000000000001C021, .sign { fld with fmt := .f96, mod := 5 }),
    (12, 0xC000000300000001C025, .barArrive { fld with fmt := .f96, d := .v 3, mod := 3 }),
    (12, 0x80000C0000100001C025, .barWait { fld with fmt := .f96, sub := 1, a := .v 3, mod := 2 }),
    (12, 0x4000000000200001C025, .barSync { fld with fmt := .f96, sub := 2, mod := 1 }),
    (12, 0xC00A080000300001C025, .barExpect { fld with fmt := .f96, sub := 3, a := .s 2, mod := 3 }),
    (12, 0x40001A8400200001C029, .gvote { fld with fmt := .f96, sub := 2, d := .s 4, a := .v 6, mod := 1 }),
    (12, 0xC400A180400800001C02D, .gred { fld with fmt := .f96, sub := 8, d := .v 4, a := .s 6, mod := 49 }),
    (12, 0xA1C0000000001C031, .sleep { fld with fmt := .f96, a := .s 7 }),
    (12, 0x27E00100001C035, .rdtime { fld with fmt := .f96, sub := 1, d := .v 638 }),
    (8, 0x1C038, .waitsb fld),
    (12, 0xABCDEF10000000000001C03D, .trap { fld with fmt := .f96i, imm := 180150001 }),
    (8, 0x1C040, .bkpt fld)]
theorem decode_words_control : ∀ r ∈ wordsControl, decode (leBytes r.1 r.2.1) = .ok (r.2.2, r.1) := by decide +kernel

def wordsInteger : List (Nat × Nat × Instr) :=
  [(12, 0xAFC0A00100001C081, .mov { fld with fmt := .f96, sub := 1, d := .v 10, a := .s 63 }),
    (12, 0x50028900200001C085, .movi { fld with fmt := .f96i, sub := 2, d := .s 9, imm := 5 }),
    (16, 0x7C0000EC100801000000000001C08A, .sel { fld with fmt := .f128, d := .v 1, a := .v 2, b := .sp .laneId, c := .v 3, mod := 31 }),
    (8, 0x7FFBF100001C08C, .iadd { fld with sub := 1, d := .v 191, a := .s 63, b := .v 7 }),
    (12, 0x68100A7E00300001C091, .isub { fld with fmt := .f96, sub := 3, d := .v 638, a := .v 2, b := .s 1, mod := 1 }),
    (16, 0x50100300801000000000001C096, .addc { fld with fmt := .f128, d := .v 1, a := .v 2, b := .v 3, c := .v 4, e := .v 5 }),
    (16, 0x901C0601002000000100001C09A, .subb { fld with fmt := .f128, sub := 1, d := .v 2, a := .v 4, b := .v 6, c := .v 7, e := .v 9 }),
    (8, 0x30201000001C09C, .imul { fld with d := .v 1, a := .v 2, b := .v 3 }),
    (12, 0x283A0A8100200001C0A1, .imulh { fld with fmt := .f96, sub := 2, d := .s 1, a := .s 2, b := .s 3 }),
    (16, 0x400A100300801000000100001C0A6, .imad { fld with fmt := .f128, sub := 1, d := .v 1, a := .v 2, b := .v 3, c := .s 4, mod := 1 }),
    (16, 0x180500C02000000100001C0AA, .imadw { fld with fmt := .f128, sub := 1, d := .v 2, a := .v 3, b := .v 5, c := .v 6 }),
    (12, 0x60100200200001C0AD, .divOp { fld with fmt := .f96, sub := 2, d := .v 2, a := .v 4, b := .v 6 }),
    (12, 0x60100200100001C0B1, .remOp { fld with fmt := .f96, sub := 1, d := .v 2, a := .v 4, b := .v 6 }),
    (8, 0x60402300001C0B4, .imin { fld with sub := 3, d := .v 2, a := .v 4, b := .v 6 }),
    (12, 0x2C00100200100001C0B9, .imax { fld with fmt := .f96, sub := 1, d := .v 2, a := .v 4, b := .sp .zero }),
    (12, 0x4000100200200001C0BD, .iabs { fld with fmt := .f96, sub := 2, d := .v 2, a := .v 4, mod := 1 }),
    (12, 0x3F4060100300300001C0C1, .icmp { fld with fmt := .f96, sub := 3, d := .v 3, a := .v 4, b := .v 6, mod := 253 }),
    (8, 0x50402100001C0C4, .shl { fld with sub := 1, d := .v 2, a := .v 4, b := .v 5 }),
    (8, 0x50402000001C0C8, .shr { fld with d := .v 2, a := .v 4, b := .v 5 }),
    (12, 0x50100200100001C0CD, .sar { fld with fmt := .f96, sub := 1, d := .v 2, a := .v 4, b := .v 5 })] ++
  [(12, 0x2850100200000001C0D1, .rot { fld with fmt := .f96, d := .v 2, a := .v 4, b := .s 5 }),
    (16, 0x1C0501002000000000001C0D6, .fshl { fld with fmt := .f128, d := .v 2, a := .v 4, b := .v 5, c := .v 7 }),
    (16, 0x1C0501002000000000001C0DA, .fshr { fld with fmt := .f128, d := .v 2, a := .v 4, b := .v 5, c := .v 7 }),
    (8, 0x60402100001C0DC, .andOp { fld with sub := 1, d := .v 2, a := .v 4, b := .v 6 }),
    (12, 0x60100200000001C0E1, .orOp { fld with fmt := .f96, d := .v 2, a := .v 4, b := .v 6 }),
    (8, 0x60402000001C0E4, .xorOp { fld with d := .v 2, a := .v 4, b := .v 6 }),
    (12, 0x100200100001C0E9, .notOp { fld with fmt := .f96, sub := 1, d := .v 2, a := .v 4 }),
    (16, 0x3A00001C0501002000000000001C0EE, .ltab { fld with fmt := .f128, d := .v 2, a := .v 4, b := .v 5, c := .v 7, mod := 232 }),
    (8, 0x403100001C0F0, .popc { fld with sub := 1, d := .v 3, a := .v 4 }),
    (12, 0x100300000001C0F5, .clz { fld with fmt := .f96, d := .v 3, a := .v 4 }),
    (8, 0x403000001C0F8, .ctz { fld with d := .v 3, a := .v 4 }),
    (8, 0x402100001C0FC, .brev { fld with sub := 1, d := .v 2, a := .v 4 }),
    (12, 0x60100200300001C101, .bfe { fld with fmt := .f96, sub := 3, d := .v 2, a := .v 4, b := .v 6 }),
    (16, 0x1C0601002000000100001C106, .bfi { fld with fmt := .f128, sub := 1, d := .v 2, a := .v 4, b := .v 6, c := .v 7 }),
    (16, 0x1C0500C02000000000001C10A, .prmb { fld with fmt := .f128, d := .v 2, a := .v 3, b := .v 5, c := .v 7 }),
    (12, 0x3C06A100200000001C10D, .lea { fld with fmt := .f96, d := .v 2, a := .s 4, b := .v 6, mod := 15 }),
    (12, 0x4000140200B00001C111, .cvti { fld with fmt := .f96, sub := 11, d := .v 2, a := .v 5, mod := 1 })]
theorem decode_words_integer : ∀ r ∈ wordsInteger, decode (leBytes r.1 r.2.1) = .ok (r.2.2, r.1) := by decide +kernel

def wordsFloating : List (Nat × Nat × Instr) :=
  [(12, 0x1F2830080100100001C141, .fadd { fld with fmt := .f96, sub := 1, d := .v 1, a := .v 2, b := .s 3, mod := 124 }),
    (12, 0x1F2830080100100001C145, .fsub { fld with fmt := .f96, sub := 1, d := .v 1, a := .v 2, b := .s 3, mod := 124 }),
    (12, 0x1F2830080100100001C149, .fmul { fld with fmt := .f96, sub := 1, d := .v 1, a := .v 2, b := .s 3, mod := 124 }),
    (16, 0x20000140300801000000200001C14E, .ffma { fld with fmt := .f128, sub := 2, d := .v 1, a := .v 2, b := .v 3, c := .v 5, mod := 8 }),
    (12, 0x200030080100000001C151, .fmin { fld with fmt := .f96, d := .v 1, a := .v 2, b := .v 3, mod := 128 }),
    (12, 0x100030080100200001C155, .fmax { fld with fmt := .f96, sub := 2, d := .v 1, a := .v 2, b := .v 3, mod := 64 }),
    (12, 0x9A00050080300000001C159, .fcmp { fld with fmt := .f96, d := .v 3, a := .v 2, b := .v 5, mod := 9856 }),
    (12, 0x80100200001C15D, .fclass { fld with fmt := .f96, sub := 2, d := .v 1, a := .v 2 }),
    (12, 0x24000080100100001C161, .frnd { fld with fmt := .f96, sub := 1, d := .v 1, a := .v 2, mod := 9 }),
    (12, 0x30080100000001C165, .fscale { fld with fmt := .f96, d := .v 1, a := .v 2, b := .v 3 }),
    (12, 0x2800008010B000001C169, .cvt { fld with fmt := .f96, sub := 176, d := .v 1, a := .v 2, mod := 10 }),
    (12, 0x100000080100100000816D, .rcp { fld with fmt := .f96, slot := 2, sub := 1, d := .v 1, a := .v 2, mod := 64 }),
    (12, 0x1000000801001000008171, .rsq { fld with fmt := .f96, slot := 2, sub := 1, d := .v 1, a := .v 2, mod := 64 }),
    (12, 0x1000000801001000008179, .ex2 { fld with fmt := .f96, slot := 2, sub := 1, d := .v 1, a := .v 2, mod := 64 }),
    (12, 0x100000080100100000817D, .lg2 { fld with fmt := .f96, slot := 2, sub := 1, d := .v 1, a := .v 2, mod := 64 }),
    (12, 0x1000000801001000008181, .sin { fld with fmt := .f96, slot := 2, sub := 1, d := .v 1, a := .v 2, mod := 64 }),
    (12, 0x1000000801001000008185, .cos { fld with fmt := .f96, slot := 2, sub := 1, d := .v 1, a := .v 2, mod := 64 }),
    (12, 0x1000000801001000008189, .tanh { fld with fmt := .f96, slot := 2, sub := 1, d := .v 1, a := .v 2, mod := 64 }),
    (12, 0x2C0000801000000014175, .sqrt { fld with fmt := .f96, slot := 5, d := .v 1, a := .v 2, mod := 11 }),
    (8, 0x30201100001C18C, .hadd2 { fld with sub := 1, d := .v 1, a := .v 2, b := .v 3 })] ++
  [(12, 0x20030080100000001C191, .hmul2 { fld with fmt := .f96, d := .v 1, a := .v 2, b := .v 3, mod := 8 }),
    (16, 0x140300801000000100001C196, .hfma2 { fld with fmt := .f128, sub := 1, d := .v 1, a := .v 2, b := .v 3, c := .v 5 }),
    (16, 0x100000140300801000000000001C19A, .fdot2 { fld with fmt := .f128, d := .v 1, a := .v 2, b := .v 3, c := .v 5, mod := 64 }),
    (16, 0x801000000200001C19E, .pack { fld with fmt := .f128, sub := 2, d := .v 1, a := .v 2 }),
    (16, 0xE00000000300801000000200001C1A2, .unpack { fld with fmt := .f128, sub := 2, d := .v 1, a := .v 2, b := .v 3, mod := 896 })]
theorem decode_words_floating : ∀ r ∈ wordsFloating, decode (leBytes r.1 r.2.1) = .ok (r.2.2, r.1) := by decide +kernel

def wordsLanes : List (Nat × Nat × Instr) :=
  [(12, 0x4050100200300001C201, .shfl { fld with fmt := .f96, sub := 3, d := .v 2, a := .v 4, b := .v 5, mod := 1 }),
    (12, 0x50100200100001C205, .shpush { fld with fmt := .f96, sub := 1, d := .v 2, a := .v 4, b := .v 5 }),
    (12, 0x440000C0200200001C209, .vote { fld with fmt := .f96, sub := 2, d := .v 2, a := .v 3, mod := 17 }),
    (12, 0x2300000C0200800001C20D, .scanOp { fld with fmt := .f96, sub := 8, d := .v 2, a := .v 3, mod := 140 }),
    (12, 0xE8200300001C211, .redl { fld with fmt := .f96, sub := 3, d := .s 2, a := .v 3 }),
    (12, 0x100200100001C215, .matchOp { fld with fmt := .f96, sub := 1, d := .v 2, a := .v 4 }),
    (12, 0x4000100200100001C219, .bcast { fld with fmt := .f96, sub := 1, d := .v 2, a := .v 4, mod := 1 }),
    (12, 0xC050100200000001C21D, .compact { fld with fmt := .f96, d := .v 2, a := .v 4, b := .v 5, mod := 3 })]
theorem decode_words_lanes : ∀ r ∈ wordsLanes, decode (leBytes r.1 r.2.1) = .ok (r.2.2, r.1) := by decide +kernel

def wordsMemory : List (Nat × Nat × Instr) :=
  [(16, 0x3FFFFFFF004008050000609000004242, .ld { fld with fmt := .f128i, slot := 1, sub := 9, evict := 2, level := 1, d := .v 5, a := .v 2, b := .v 4, imm := 4294967292 }),
    (16, 0x800000022C0A0A84000003300001C246, .st { fld with fmt := .f128i, sub := 51, d := .s 4, a := .s 2, b := .sp .zero, mod := 2, imm := 8 }),
    (16, 0x3FFFFFFF284A0A86000000400000024A, .ldu { fld with fmt := .f128i, slot := 0, sub := 4, d := .s 6, a := .s 2, b := .s 4, imm := 4294967292 }),
    (16, 0x4A0805000030F00000424E, .ldn { fld with fmt := .f128, slot := 1, sub := 15, evict := 3, d := .v 5, a := .s 2, b := .v 4 }),
    (16, 0x1804A0800000000B00001C252, .stn { fld with fmt := .f128, sub := 11, a := .s 2, b := .v 4, c := .v 6 }),
    (16, 0x20000A0A40000003F00001C256, .spill { fld with fmt := .f128i, sub := 63, d := .v 576, a := .s 2, imm := 128 }),
    (16, 0x2000B02BF000000000000C25A, .fill { fld with fmt := .f128i, slot := 3, d := .s 63, a := .sp .zero, imm := 8 }),
    (16, 0x100400800000080000001C25E, .pf { fld with fmt := .f128i, level := 2, a := .v 2, b := .v 4, imm := 4 }),
    (16, 0x40000001284A0800000000100001C262, .clean { fld with fmt := .f128i, sub := 1, a := .s 2, b := .s 4, mod := 1, imm := 4 }),
    (16, 0x3FFFFFFF00500800000000000001C266, .invl { fld with fmt := .f128i, a := .v 2, b := .v 5, imm := 4294967292 }),
    (12, 0x200001C269, .cctl { fld with fmt := .f96, sub := 2 }),
    (12, 0x500001C26D, .fence { fld with fmt := .f96, sub := 5 }),
    (16, 0x6C0001805A0802000001A000010282, .atom { fld with fmt := .f128, slot := 4, sub := 26, d := .v 2, a := .s 2, b := .v 5, c := .v 6, mod := 27 }),
    (16, 0x800001805A08030000003000010286, .atomf { fld with fmt := .f128, slot := 4, sub := 3, d := .v 3, a := .s 2, b := .v 5, c := .v 6, mod := 32 }),
    (16, 0x801805A0802000000100001028A, .cas { fld with fmt := .f128, slot := 4, sub := 1, d := .v 2, a := .s 2, b := .v 5, c := .v 6, e := .v 8 }),
    (16, 0x480001805A0800000000000001C28E, .red { fld with fmt := .f128, a := .s 2, b := .v 5, c := .v 6, mod := 18 }),
    (16, 0x1805A0800000000400001C292, .redf { fld with fmt := .f128, sub := 4, a := .s 2, b := .v 5, c := .v 6 })]
theorem decode_words_memory : ∀ r ∈ wordsMemory, decode (leBytes r.1 r.2.1) = .ok (r.2.2, r.1) := by decide +kernel

def wordsGraph : List (Nat × Nat × Instr) :=
  [(16, 0x601404A080300000000000002C2, .gadd { fld with fmt := .f128, slot := 0, d := .v 3, a := .s 2, b := .v 4, c := .v 5, e := .v 6 }),
    (16, 0x1404A0AC0000000000001C2C6, .gdel { fld with fmt := .f128, d := .sp .zero, a := .s 2, b := .v 4, c := .v 5 }),
    (16, 0x4A080300000020000002CA, .gdelv { fld with fmt := .f128, slot := 0, sub := 2, d := .v 3, a := .s 2, b := .v 4 }),
    (12, 0x4A08030010000002CD, .gdeg { fld with fmt := .f96, slot := 0, sub := 1, d := .v 3, a := .s 2, b := .v 4 }),
    (16, 0x7C1F01404A080200000010000002D2, .glde { fld with fmt := .f128, slot := 0, sub := 1, d := .v 2, a := .s 2, b := .v 4, c := .v 5, e := .v 31, mod := 31 }),
    (16, 0x2C001404A080200000000000002D6, .gfind { fld with fmt := .f128, slot := 0, d := .v 2, a := .s 2, b := .v 4, c := .v 5, e := .sp .zero }),
    (16, 0x601404A0AC0000000000001C2DA, .gsetw { fld with fmt := .f128, d := .sp .zero, a := .s 2, b := .v 4, c := .v 5, e := .v 6 }),
    (16, 0x601404A0802000000B0000002DE, .grmw { fld with fmt := .f128, slot := 0, sub := 11, d := .v 2, a := .s 2, b := .v 4, c := .v 5, e := .v 6 }),
    (16, 0x1E80000004A080300000010000002E2, .gopen { fld with fmt := .f128, slot := 0, sub := 1, d := .v 3, a := .s 2, b := .v 4, mod := 122 }),
    (12, 0x3FC0007C020000000002E5, .gnext { fld with fmt := .f96, slot := 0, d := .v 2, a := .v 31, mod := 255 }),
    (8, 0x800001C2E8, .gclose { fld with sub := 8 }),
    (12, 0x18000000200000001C2ED, .gcur { fld with fmt := .f96, d := .v 2, mod := 6 })]
theorem decode_words_graph : ∀ r ∈ wordsGraph, decode (leBytes r.1 r.2.1) = .ok (r.2.2, r.1) := by decide +kernel

def wordsTensor : List (Nat × Nat × Instr) :=
  [(12, 0xA080000000001C301, .tseal { fld with fmt := .f96, a := .s 2 }),
    (16, 0xF80701805A1282000000300001C306, .tld { fld with fmt := .f128, sub := 3, d := .s 2, a := .s 4, b := .v 5, c := .v 6, e := .v 7, mod := 62 }),
    (16, 0xAC001A85A1282000000100001C30A, .tst { fld with fmt := .f128, sub := 1, d := .s 2, a := .s 4, b := .s 5, c := .v 6, e := .sp .zero, mod := 2 }),
    (16, 0xFF068801C05A1282000000200001C30E, .tgath { fld with fmt := .f128, sub := 2, d := .s 2, a := .s 4, b := .v 5, c := .v 7, e := .s 8, mod := 16321 }),
    (16, 0x93AC001C05A1282000000000001C312, .tscat { fld with fmt := .f128, d := .s 2, a := .s 4, b := .v 5, c := .v 7, e := .sp .zero, mod := 590 }),
    (16, 0x3008A1A85A1282000000000001C316, .xcopy { fld with fmt := .f128, d := .s 2, a := .s 4, b := .s 5, c := .s 6, e := .v 8, mod := 12 }),
    (12, 0x200000000001C319, .xwait { fld with fmt := .f96, a := .v 8 }),
    (16, 0x1404A0800000000800001C31E, .plupd { fld with fmt := .f128, sub := 8, a := .s 2, b := .v 4, c := .v 5 }),
    (16, 0x601404A0800000000000001C322, .plaxpy { fld with fmt := .f128, a := .s 2, b := .v 4, c := .v 5, e := .v 6 }),
    (12, 0x4A080000000001C325, .plresc { fld with fmt := .f96, a := .s 2, b := .v 4 }),
    (16, 0xFFC00A1283A0800000001A00001C342, .mma { fld with fmt := .f128, sub := 26, a := .s 2, b := .s 3, c := .s 4, mod := 1023 }),
    (12, 0xA4000000000000001C345, .mzero { fld with fmt := .f96, mod := 41 }),
    (16, 0x344000000001008000000000000834A, .mlda { fld with fmt := .f128, slot := 2, d := .v 8, a := .v 4, mod := 209 }),
    (16, 0x7440000000A1008000000000001C34E, .msta { fld with fmt := .f128, d := .v 8, a := .s 4, mod := 465 }),
    (8, 0xA00001C350, .msync { fld with sub := 10 }),
    (12, 0x300000001C355, .mrdp { fld with fmt := .f96, d := .v 3 }),
    (12, 0x1C00A0C0200000001C381, .ringAcq { fld with fmt := .f96, d := .v 2, a := .s 3, mod := 7 }),
    (12, 0x1A84A0C0000100001C381, .ringCommit { fld with fmt := .f96, sub := 1, a := .s 3, b := .s 4, mod := 6 }),
    (12, 0x1684A0C0000200001C381, .ringWait { fld with fmt := .f96, sub := 2, a := .s 3, b := .s 4, mod := 5 }),
    (12, 0x1000A0C0000300001C381, .ringRel { fld with fmt := .f96, sub := 3, a := .s 3, mod := 4 })]
theorem decode_words_tensor : ∀ r ∈ wordsTensor, decode (leBytes r.1 r.2.1) = .ok (r.2.2, r.1) := by decide +kernel

def wordsFabric : List (Nat × Nat × Instr) :=
  [(12, 0xA0C02000000004385, .taskSignal { fld with fmt := .f96, slot := 1, d := .v 2, a := .s 3 }),
    (12, 0xA0EC000100001C385, .taskLaunch { fld with fmt := .f96, sub := 1, d := .sp .zero, a := .s 3 }),
    (16, 0x300C000000001282000000000001C38A, .rgrant { fld with fmt := .f128, d := .s 2, a := .v 4, mod := 3075 }),
    (12, 0xA080000000001C38D, .rrevoke { fld with fmt := .f96, a := .s 2 }),
    (12, 0x24000100000000001C391, .rarm { fld with fmt := .f96, a := .v 4, mod := 9 }),
    (16, 0x4C00A1805A10020000000000004396, .rput { fld with fmt := .f128, slot := 1, d := .v 2, a := .s 4, b := .v 5, c := .s 6, mod := 19 }),
    (12, 0x7C000100200000001C399, .rpoll { fld with fmt := .f96, d := .v 2, a := .v 4, mod := 31 }),
    (16, 0x50CA8601283A0808000000000001C39E, .rcall { fld with fmt := .f128, d := .v 8, a := .s 2, b := .s 3, c := .v 4, e := .s 6, mod := 5170 }),
    (12, 0x1C000028200100001C3A1, .rarg { fld with fmt := .f96, sub := 1, d := .s 2, mod := 7 }),
    (16, 0x20000000000004000000000001C3A6, .rret { fld with fmt := .f128, d := .v 4, mod := 8 }),
    (16, 0x1400A1002000000200001C3AA, .nbseq { fld with fmt := .f128, sub := 2, d := .v 2, a := .s 4, c := .v 5 }),
    (8, 0xC200000001C3AC, .racq { fld with a := .s 2 }),
    (12, 0x80000000001C3B1, .rrel { fld with fmt := .f96, a := .v 2 }),
    (12, 0x418000028200000001C3C1, .csrr { fld with fmt := .f96, d := .s 2, mod := 262 }),
    (12, 0x8000A080000200001C3C5, .csrw { fld with fmt := .f96, sub := 2, a := .s 2, mod := 32 }),
    (8, 0x100001C3C8, .tret { fld with sub := 1 }),
    (12, 0xA080000000001C3CD, .tlbinv { fld with fmt := .f96, a := .s 2 }),
    (12, 0x283A080000000001C3D1, .bankcfg { fld with fmt := .f96, a := .s 2, b := .s 3 }),
    (16, 0x285A1002000000000001C3D6, .keyset { fld with fmt := .f128, d := .v 2, a := .s 4, b := .s 5 }),
    (12, 0xA080000000001C3D9, .keydestroy { fld with fmt := .f96, a := .s 2 })] ++
  [(12, 0xA080000000001C3DD, .ctxsave { fld with fmt := .f96, a := .s 2 }),
    (12, 0xA080000000001C3E1, .ctxload { fld with fmt := .f96, a := .s 2 })]
theorem decode_words_fabric : ∀ r ∈ wordsFabric, decode (leBytes r.1 r.2.1) = .ok (r.2.2, r.1) := by decide +kernel
end Sys2Proof.Tests
end

section
/-!
Boot, power and resets (00 R3; 19 R396, R400, R409): what is left of a device that loses its power or is reset, what BOOTGO and the mask ROM do with
an image, and the device as firmware hands it over.
-/
namespace Sys2Proof

/-- Keeping the pairs whose key a test accepts: the other keys read as zero. -/
theorem Store.get_filter_key {n : Nat} (m : Store n) (f : Nat → Bool) (q : Nat) :
    Store.get (m.filter (fun p => f p.1)) q = if f q then m.get q else 0 := by
  induction m with
  | nil => simp [Store.get]
  | cons p r ih =>
    obtain ⟨k, x⟩ := p
    by_cases hk : q = k
    · subst hk
      cases hf : f q <;> simp_all [Store.get]
    · cases hf : f k <;> simp [Store.get, hf, hk, ih]

end Sys2Proof

namespace Sys2Proof.Machine

/-! Host memory, which is all that a power-off, a reset and boot keep of memory. -/

theorem hostMemory_get (m : Memory) {q : Nat} (hq : hostBase ≤ q) : Store.get (m.filter (fun p => hostBase ≤ p.1)) q = m.get q :=
  (Store.get_filter_key m (fun k => hostBase ≤ k) q).trans (if_pos (decide_eq_true hq))

theorem deviceMemory_get (m : Memory) {q : Nat} (hq : q < hostBase) : Store.get (m.filter (fun p => hostBase ≤ p.1)) q = 0 :=
  (Store.get_filter_key m (fun k => hostBase ≤ k) q).trans (if_neg (by simpa using hq))

/-! Power and resets. -/

theorem State.lost_lose (s : State) (power : Bool) (ports : BitVec 8) : (s.lose power ports).Lost := by
  unfold State.Lost
  and_intros <;> rfl

theorem State.lose_hostMemory (s : State) (power : Bool) (ports : BitVec 8) {q : Nat} (hq : hostBase ≤ q) :
    (s.lose power ports).m.dram.get q = s.m.dram.get q := hostMemory_get s.m.dram hq

theorem exec_powerUp_of_off {s : State} (h : s.h.power = false) : exec .powerUp s = .next (s.lose true 0xFF) := by
  change execPowerUp s = _
  simp [execPowerUp, h, HostIf.reset]

theorem exec_powerOff (s : State) : exec .powerOff s = .next (s.lose false 0) := rfl

/-- Each of the four resets of R409 is the same event. -/
theorem exec_reset_of_on {s : State} {i : Instr} (hi : i = .cxlReset ∨ i = .functionLevelReset ∨ i = .hotReset ∨ i = .d3cold) (h : s.h.power = true) :
    exec i s = .next (s.lose true s.h.portsUp) := by
  have hr : exec i s = .next s.reboot := by obtain rfl | rfl | rfl | rfl := hi <;> rfl
  rw [hr, State.reboot, if_pos h]

/-- Whatever loses the device's state leaves it waiting, with its ports and host memory as given. -/
theorem exec_lose {s : State} {i : Instr} {power : Bool} {ports : BitVec 8} (h : exec i s = .next (s.lose power ports)) :
    ∃ t, exec i s = .next t ∧ t.Lost ∧ t.h.power = power ∧ t.h.portsUp = ports ∧ ∀ q, hostBase ≤ q → t.m.dram.get q = s.m.dram.get q :=
  ⟨_, h, s.lost_lose power ports, rfl, rfl, fun _ hq => s.lose_hostMemory power ports hq⟩

/-! The mask ROM and its verdict. -/

theorem exec_bootgo_of_waiting {s : State} (v : W64) (hp : s.h.power = true) (hb : s.h.boot = .waiting) :
    exec (.bootgo v) s = .next (if 2 ^ 26 < v.toNat then s.bootFail 1 else { s with h := { s.h with boot := .verifying, err := 0, imageLen := v.toNat } }) := by
  change execBootgo v s = _
  have hw : ¬ (s.h.power = false ∨ s.h.boot ≠ .waiting) := by simp [hp, hb]
  rw [execBootgo, if_neg hw]
  exact (apply_ite Host.Outcome.next _ _ _).symm

theorem imageError_of_no_header {image : List Byte} (h : Config.imageHeader image = none) : imageError image = 2 := by
  simp [imageError, h]

theorem imageError_of_untrusted_key {image key sig : List Byte} {len : Nat} (h : Config.imageHeader image = some (key, sig, len))
    (hk : ∀ i < 4, sha256 key = Config.vendorHash i → Config.vendorRevoked i = true) : imageError image = 3 := by
  have hall : (List.range 4).all (fun i => sha256 key != Config.vendorHash i || Config.vendorRevoked i) = true := by
    simpa [List.all_eq_true, imp_iff_not_or] using hk
  simp only [imageError, h, hall, if_true]

theorem imageError_of_trusted_key {image key sig : List Byte} {len : Nat} (h : Config.imageHeader image = some (key, sig, len))
    (hk : ∃ i < 4, sha256 key = Config.vendorHash i ∧ Config.vendorRevoked i = false) :
    imageError image = if ecdsaGood (pointOf key) (image.drop len) sig then 0 else 4 := by
  have hall : ¬ (List.range 4).all (fun i => sha256 key != Config.vendorHash i || Config.vendorRevoked i) = true := by
    simpa [List.all_eq_true] using hk
  simp only [imageError, h, if_neg hall]

/-- An error of the ROM is one of the three that BOOTSTAT has for an image. -/
theorem imageError_range {image : List Byte} (h : imageError image ≠ 0) : 2 ≤ imageError image ∧ imageError image ≤ 4 := by
  rcases hh : Config.imageHeader image with _ | ⟨key, sig, len⟩
  · rw [imageError_of_no_header hh]
    decide
  · by_cases hk : ∃ i < 4, sha256 key = Config.vendorHash i ∧ Config.vendorRevoked i = false
    · rw [imageError_of_trusted_key hh hk] at h ⊢
      have hbad : ¬ ecdsaGood (pointOf key) (image.drop len) sig = true := fun hg => h (if_pos hg)
      rw [if_neg hbad]
      decide
    · rw [imageError_of_untrusted_key hh (by simpa using hk)]
      decide

theorem exec_bootVerifyComplete_good {s : State} (hb : s.h.boot = .verifying) (hi : imageError (s.h.staging.bytes 0 s.h.imageLen) = 0) :
    exec .bootVerifyComplete s = .next { s with h := { s.h with boot := .initialising, image := s.h.staging.bytes 0 s.h.imageLen } } := by
  change execBootVerifyComplete s = _
  simp [execBootVerifyComplete, hb, hi]

theorem exec_bootVerifyComplete_bad {s : State} (hb : s.h.boot = .verifying) (hi : imageError (s.h.staging.bytes 0 s.h.imageLen) ≠ 0) :
    exec .bootVerifyComplete s = .next (s.bootFail (imageError (s.h.staging.bytes 0 s.h.imageLen))) := by
  change execBootVerifyComplete s = _
  simp [execBootVerifyComplete, hb, hi]

/-! The device as firmware leaves it. -/

/-- A die's pool at the full power limit, full at a time (18 R390; 19 R400). -/
def fullPool (time die : Nat) : Pool :=
  { die := die, level := (Config.lumenCap die : Int), rate := Config.lumenRate 3600 die, cap := Config.lumenCap die, last := time }

/-- Memory as firmware leaves it (19 R400): host memory kept, nothing else written, key slot 0 loaded. -/
def MemSys.booted (m : MemSys) : MemSys :=
  { MemSys.reset with dram := m.dram.filter (fun p => hostBase ≤ p.1), keys := [⟨0, true, none, 0, 0, Config.slotZeroKeys, []⟩] }

theorem MemSys.booted_keyLoaded (m : MemSys) (k : Nat) : m.booted.keyLoaded k = (k == 0) := by
  rw [BEq.comm]
  cases hk : (0 == k) <;> simp [MemSys.keyLoaded, MemSys.keyOf, MemSys.booted, hk]

/-- With every cache, packet and block of metadata gone, a home reads DRAM under slot 0. -/
theorem MemSys.booted_homeByte (m : MemSys) (q : Nat) : m.booted.homeByte q 0 = m.booted.dram.get q := by
  simp [MemSys.homeByte, MemSys.l2Find, MemSys.lowByte, MemSys.storedByte, MemSys.sector, MemSys.blk, MemSys.booted, MemSys.reset]

theorem MemSys.booted_homeByte_device (m : MemSys) {q : Nat} (hq : q < hostBase) : m.booted.homeByte q 0 = 0 :=
  (m.booted_homeByte q).trans (deviceMemory_get m.dram hq)

theorem exec_firmwareInitComplete_of_initialising {s : State} (hb : s.h.boot = .initialising) :
    exec .firmwareInitComplete s =
      .next { s with m := s.m.booted, e := { s.e with pools := (List.range 4).map (fullPool s.time) }, h := { s.h with boot := .ready, ecc := [] } } := by
  change execFirmwareInitComplete s = _
  rw [execFirmwareInitComplete, if_neg (not_not_intro hb)]
  rfl

/-- The pool of a die where pools are listed die by die. -/
theorem State.pool_of_range {t : State} {g : Nat → Pool} {n d : Nat} (ht : t.e.pools = (List.range n).map g) (hg : ∀ d, (g d).die = d) (hd : d < n) :
    t.pool d = g d := by
  have hf : (List.range n).find? (fun x => x == d) = some d :=
    List.find?_range_eq_some.2 ⟨beq_self_eq_true d, List.mem_range.2 hd, fun j hj => by simp [hj.ne]⟩
  simp [State.pool, ht, List.find?_map, hg, hf]

/-- Settles O60: each event is brought to its result by its `exec_` lemma; the verdict of the ROM is split along its three errors. -/
theorem bootAndPower : Obligations.BootAndPower := by
  refine ⟨?lose, fun s => exec_lose (exec_powerOff s), ?bootgo, ?verify, ?verdict, ?ready⟩
  case lose =>
    rintro s i (⟨rfl, hoff⟩ | ⟨hi, hon⟩)
    · exact exec_lose (exec_powerUp_of_off hoff)
    · have hne : i ≠ .powerUp := by rintro rfl; simp at hi
      rw [if_neg hne]
      exact exec_lose (exec_reset_of_on hi hon)
  case bootgo =>
    intro s v hp hb
    rw [exec_bootgo_of_waiting v hp hb]
    split <;> rfl
  case verify =>
    intro s hb image
    by_cases hi : imageError image = 0
    · exact ⟨_, exec_bootVerifyComplete_good hb hi, rfl, fun _ => ⟨rfl, rfl⟩, fun h => absurd hi h⟩
    · have hr := imageError_range hi
      have he : (BitVec.ofNat 8 (imageError image)).toNat = imageError image := by
        rw [BitVec.toNat_ofNat, Nat.mod_eq_of_lt (by omega)]
      exact ⟨_, exec_bootVerifyComplete_bad hb hi, rfl, fun h => absurd h hi,
        fun _ => ⟨rfl, he, he.symm ▸ hr.1, he.symm ▸ hr.2, rfl⟩⟩
  case verdict =>
    exact fun image => ⟨imageError_of_no_header, fun key sig len h => ⟨imageError_of_untrusted_key h, imageError_of_trusted_key h⟩⟩
  case ready =>
    intro s hb
    refine ⟨_, exec_firmwareInitComplete_of_initialising hb, rfl, s.m.booted_keyLoaded 0, fun k hk => ?_,
      fun _ hq => s.m.booted_homeByte_device hq, fun _ hq => hostMemory_get s.m.dram hq, fun d hd => ?_⟩
    · exact (s.m.booted_keyLoaded k).trans (beq_false_of_ne hk)
    · rw [State.pool_of_range (g := fullPool s.time) rfl (fun _ => rfl) hd]
      exact ⟨rfl, rfl⟩

end Sys2Proof.Machine
end

section
/-!
The issue of an instruction that does nothing or that a check before its operands turns away: what an effect reads, which instructions are issued by
`runWarp`, and the end of one that leaves no value.
-/
namespace Sys2Proof.Machine

/-! Reads of the state in which an effect acts. -/

@[simp] theorem State.consumed_tick (s : State) (i : Instr) : (s.consumed i).tick = s.tick := by
  obtain ⟨a, h⟩ := s.consumed_eq i
  rw [h]

@[simp] theorem State.read32_consumed (s : State) (i : Instr) (o : Opnd) : (s.consumed i).read32 o = s.read32 o := by
  obtain ⟨a, h⟩ := s.consumed_eq i
  rw [h]
  cases o <;> rfl

@[simp] theorem State.read64_consumed (s : State) (i : Instr) (o : Opnd) : (s.consumed i).read64 o = s.read64 o := by
  obtain ⟨a, h⟩ := s.consumed_eq i
  rw [h]
  cases o <;> rfl

@[simp] theorem Ctx.uni32_consumed (c : Ctx) (s : State) (i : Instr) (o : Opnd) : c.uni32 (s.consumed i) o = c.uni32 s o := by
  simp [Ctx.uni32]

@[simp] theorem Ctx.uni64_consumed (c : Ctx) (s : State) (i : Instr) (o : Opnd) : c.uni64 (s.consumed i) o = c.uni64 s o := by
  simp [Ctx.uni64]

@[simp] theorem Warp.groupEntry_consumed (s : State) (i : Instr) (n : Nat) : (s.consumed i).w.groupEntry n = s.w.groupEntry n := by
  obtain ⟨a, h⟩ := s.consumed_eq i
  rw [h]
  rfl

/-! The issue of an instruction. -/

/-- Every instruction that has a word, collects no signers and lets no lane exit is issued by `runWarp` with a plan and an effect of its own. -/
theorem exec_eq_runWarp (i : Instr) (hw : (opEntry i).isSome = true) (hc : collectiveOf i = none) (hx : ∀ f, i ≠ .exit f) :
    ∃ pl eff, ∀ s, exec i s = .next (runWarp i pl eff s) := by
  cases i
  case gopen f =>
    have hf : f.modBits 3 3 ≠ 1 := fun h => by simp [collectiveOf, h] at hc
    exact ⟨_, _, fun s => congrArg Host.Outcome.next (if_neg hf)⟩
  case sign => cases hc
  case mma => cases hc
  case exit f => exact absurd rfl (hx f)
  all_goals first | exact ⟨_, _, fun _ => rfl⟩ | exact absurd hw Bool.false_ne_true

/-- An instruction that leaves no value and nothing outstanding: its lanes move on and its cycles are spent. -/
theorem Ctx.finish_nothing (c : Ctx) (lat : Lat) (s : State) :
    c.finish lat { st := s } =
      { s with w := ((s.w.advance c.g c.len).advance (c.x &&& ~~~c.g) c.len).spend c.f, fresh := s.fresh + 1 } := by
  cases lat <;> rfl

/-- What such an end leaves, where the effect has changed arrival states only. -/
theorem State.finish_nothing_kept (s : State) (i : Instr) (lat : Lat) (a : Store 2) :
    let t := (s.ctxOf i).finish lat { st := { s with w := { s.w with arr := a } } }
    (s.ctxOf i).Went s t ∧ WarpKept s t ∧ RestKept s t ∧ t.w.ops = s.w.ops ∧ t.w.sb = s.w.sb ∧ t.w.marks = s.w.marks ∧ t.w.absent = s.w.absent := by
  obtain ⟨opc, f, hc⟩ : ∃ opc f, s.ctxOf i = s.issueAt opc f := by unfold State.ctxOf; split <;> exact ⟨_, _, rfl⟩
  rw [hc, Ctx.finish_nothing]
  refine ⟨⟨fun l _ => ?_, rfl⟩, rfl, rfl, rfl, rfl, rfl, rfl⟩
  exact Warp.advance_both _ _ _ _ _ (fun _ => State.issueAt_sub) (fun _ hl => State.issueAt_lpc hl) l

/-- What `passedOver` says of an instruction whose entry in the opcode map is known. -/
structure PassedFacts (s : State) (i : Instr) (ent : OpEntry) (f : Fields) : Prop where
  issuable : s.w.issuable = true
  pending : s.w.ops.all (fun o => o.pending s.w.cycle) = true
  pre : preFault s.w i f ent = none
  slots : slotHeld s.w f = false
  deferred : s.w.deferred = []
  reach : (guardRegs f).all s.w.reachable = true
  settle : (guardRegs f).all s.w.settled = true
  lanes : (s.issueAt ent.opc f).g = 0

theorem State.passedOver_facts {s : State} {i : Instr} {ent : OpEntry} {f : Fields} (he : opEntry i = some (ent, f)) (h : s.passedOver i = true) :
    PassedFacts s i ent f := by
  simp only [State.passedOver, he, Bool.and_eq_true, Bool.not_eq_true', Option.isNone_iff_eq_none, List.isEmpty_iff, beq_iff_eq] at h
  obtain ⟨⟨⟨⟨⟨⟨⟨hiss, hpend⟩, hpre⟩, hslot⟩, hdef⟩, hreach⟩, hset⟩, hg⟩ := h
  exact ⟨hiss, hpend, hpre, hslot, hdef, hreach, hset, hg⟩

/-- The checks before the operands, where they all pass. -/
theorem issueWith_passedOver {s : State} {i : Instr} {ent : OpEntry} {f : Fields} (k : Ctx → State → State) (h : PassedFacts s i ent f) :
    issueWith i f ent s k = k (s.issueAt ent.opc f) s := by
  have hd : s.updW Warp.deliverDue = s := by simp [State.updW, Warp.deliverDue_of_pending h.pending]
  simp [issueWith, h.issuable, hd, h.pre, h.slots, anyArmed_of_reachable h.reach, anyAbsent_of_reachable h.reach, slotFault, h.deferred, State.issueAt]

/-- An instruction that no lane executes ends at once. -/
theorem runWarp_passedOver {s : State} {i : Instr} (pl : Plan) (eff : Ctx → State → Eff) (h : s.passedOver i = true) :
    ∃ a, runWarp i pl eff s = (s.ctxOf i).finish .later { st := { s with w := { s.w with arr := a } } } := by
  cases he : opEntry i with
  | none => simp [State.passedOver, he] at h
  | some p =>
    obtain ⟨ent, f⟩ := p
    have hf := State.passedOver_facts he h
    have hr : (s.issueAt ent.opc f).readFault s.w [] (fun _ => 0) = none :=
      Ctx.readFault_of_settled _ _ (by rw [List.append_nil]; exact hf.settle)
    refine ⟨(s.w.consume (guardRegs f)).arr, ?_⟩
    simp only [State.ctxOf_eq he, runWarp, he, issueWith_passedOver _ hf, if_pos hf.lanes, hr]
    rfl

/-- An instruction with nothing in its way ends with what its effect leaves, or raises the fault that its effect has. -/
theorem runWarp_of_ok {s : State} {i : Instr} {pl : Plan} {eff : Ctx → State → Eff} {r : Res} (h : s.clear i = true)
    (hr : eff (s.ctxOf i) (s.consumed i) = .ok r) : runWarp i pl eff s = (s.ctxOf i).finish pl.lat r := by
  cases he : opEntry i with
  | none => simp [State.clear, he] at h
  | some p =>
    rw [State.ctxOf_eq (ent := p.1) (f := p.2) he] at hr ⊢
    rw [runWarp_clear pl eff he h, hr]

theorem runWarp_of_fault {s : State} {i : Instr} {pl : Plan} {eff : Ctx → State → Eff} {x : FaultInfo} {g : State → State} (h : s.clear i = true)
    (hr : eff (s.ctxOf i) (s.consumed i) = .fault x g) (hx : x.code ≠ 0) : runWarp i pl eff s = (g s).raise x := by
  cases he : opEntry i with
  | none => simp [State.clear, he] at h
  | some p =>
    rw [State.ctxOf_eq (ent := p.1) (f := p.2) he] at hr
    rw [runWarp_clear pl eff he h, hr]
    exact if_neg hx

end Sys2Proof.Machine
end

section
/-!
Power-up, instructions that do nothing, and privileged instructions in user mode (01 R33, R34, R37; 03 R79, R99; 15 R329, R333).
-/
namespace Sys2Proof.Machine

/-- Settles O7: each clause is a field of the literal that reset is. -/
theorem resetState : Obligations.ResetState := by
  refine ⟨?window, ?registers, State.memoryWf_reset, rfl⟩
  case window => exact ⟨rfl, rfl, rfl, rfl, rfl, rfl, rfl, rfl, rfl, rfl, rfl, rfl, rfl, rfl, fun _ => rfl, rfl, rfl, rfl, rfl, rfl, rfl⟩
  case registers => exact ⟨rfl, rfl, rfl, rfl, rfl, rfl, rfl, rfl, rfl, rfl, rfl, rfl⟩

/-! Instructions that do nothing (01 R37; 03 R79, R99; 04 R118, R123). -/

/-- Ending without an effect leaves the state of exited lanes, so that no exit follows. -/
theorem State.afterExit_passedOver {s : State} {i : Instr} {lat : Lat} {a : Store 2} :
    State.afterExit (s.w.lanesIn 3) ((s.ctxOf i).finish lat { st := { s with w := { s.w with arr := a } } }) =
      (s.ctxOf i).finish lat { st := { s with w := { s.w with arr := a } } } := by
  rw [Ctx.finish_nothing]
  exact if_pos rfl

/-- An instruction that no lane executes and that collects no signers moves the lanes on. -/
theorem exec_passedOver {s : State} {i : Instr} (hc : collectiveOf i = none) (h : s.passedOver i = true) :
    ∃ a, exec i s = .next ((s.ctxOf i).finish .later { st := { s with w := { s.w with arr := a } } }) := by
  by_cases hx : ∃ f, i = .exit f
  · obtain ⟨f, rfl⟩ := hx
    obtain ⟨a, ha⟩ := runWarp_passedOver { deferAll := true } (fun c s => .ok { st := s.updW (fun w => w.exitLanes c.g), jumped := true }) h
    refine ⟨a, congrArg Host.Outcome.next ?_⟩
    rw [ha, State.afterExit_passedOver]
  · have hw : (opEntry i).isSome = true := by
      cases he : opEntry i with
      | none => simp [State.passedOver, he] at h
      | some p => rfl
    obtain ⟨pl, eff, hi⟩ := exec_eq_runWarp i hw hc (fun f hf => hx ⟨f, hf⟩)
    obtain ⟨a, ha⟩ := runWarp_passedOver pl eff h
    exact ⟨a, (hi s).trans (congrArg Host.Outcome.next ha)⟩

/-- The same for an instruction with nothing in its way whose effect is nothing. -/
theorem exec_nothing {s : State} {i : Instr} {pl : Plan} {eff : Ctx → State → Eff} (hi : exec i s = .next (runWarp i pl eff s)) (h : s.clear i = true)
    (hn : eff (s.ctxOf i) (s.consumed i) = .ok { st := s.consumed i }) :
    ∃ t, exec i s = .next t ∧ (s.ctxOf i).Went s t ∧ WarpKept s t ∧ RestKept s t := by
  obtain ⟨a, ha⟩ := s.consumed_eq i
  obtain ⟨hwent, hwarp, hrest, -⟩ := s.finish_nothing_kept i pl.lat a
  rw [← ha] at hwent hwarp hrest
  exact ⟨_, hi.trans (congrArg Host.Outcome.next (runWarp_of_ok h hn)), hwent, hwarp, hrest⟩

/-- Settles O15: in each case the effect leaves the state in which it acts as it is. -/
theorem nothingDone : Obligations.NothingDone := by
  refine ⟨?idle, ?passed⟩
  case idle =>
    intro i s hi h
    cases i
    case nop f => exact exec_nothing rfl h rfl
    case waitsb f => exact exec_nothing rfl h rfl
    case barSync f => exact exec_nothing rfl h (by simp [hi])
    case barWait f =>
      obtain ⟨hnone, hu⟩ := hi
      obtain ⟨x, hx⟩ := Option.isSome_iff_exists.1 hu
      exact exec_nothing rfl h (by simp [hnone, hx])
    case barExpect f =>
      obtain ⟨hnone, hu⟩ := hi
      obtain ⟨x, hx⟩ := Option.isSome_iff_exists.1 hu
      exact exec_nothing rfl h (by simp [hnone, hx])
    case sleep f => exact exec_nothing rfl h (by simp [hi])
    all_goals exact hi.elim
  case passed =>
    intro i s hc h
    obtain ⟨a, ha⟩ := exec_passedOver hc h
    exact ⟨_, ha, s.finish_nothing_kept i .later a⟩

/-! PRIVILEGE (01 R33; 15 R329, R333). -/

/-- A failing check before the operands raises its fault for every lane at the issue address. -/
theorem runWarp_preFault {s : State} {i : Instr} {ent : OpEntry} {f : Fields} {code : Nat} (pl : Plan) (eff : Ctx → State → Eff)
    (he : opEntry i = some (ent, f)) (hi : s.w.issuable = true) (hp : s.w.ops.all (fun o => o.pending s.w.cycle) = true)
    (hf : preFault s.w i f ent = some code) :
    runWarp i pl eff s = s.raise (({ s.ctxOf i with g := s.w.lanesAt s.w.issuePc } : Ctx).info code 0 (s.w.lanesAt s.w.issuePc) 0) := by
  have hd : s.updW Warp.deliverDue = s := by simp [State.updW, Warp.deliverDue_of_pending hp]
  rw [State.ctxOf_eq he]
  simp only [runWarp, he, issueWith, hi, hd, hf]
  rfl

/-- The privileged instructions, and the accesses to control registers that user mode may not reach, fail the privilege check in user mode, and none
of them is one that a remote function alone may issue. -/
theorem privilegeFails_of_user {w : Warp} {i : Instr} {ent : OpEntry} {f : Fields} (he : opEntry i = some (ent, f)) (hw : w.priv = false)
    (h : privileged i = true ∨ (i = .csrr f ∧ 0x100 ≤ f.mod.toNat) ∨ (i = .csrw f ∧ 5 ≤ f.mod.toNat)) :
    privilegeFails w i = true ∧ ent.opc ≠ 0xE8 ∧ ent.opc ≠ 0xE9 := by
  rcases h with h | ⟨rfl, h⟩ | ⟨rfl, h⟩
  · have hi : i = .tret f ∨ i = .tlbinv f ∨ i = .keyset f ∨ i = .keydestroy f ∨ i = .ctxsave f ∨ i = .ctxload f := by
      cases i <;> simp_all [privileged, opEntry]
    rcases hi with rfl | rfl | rfl | rfl | rfl | rfl <;> cases he <;> simp [privilegeFails, privileged, hw]
  · cases he
    simp [privilegeFails, csrUser, hw, h]
  · cases he
    simp [privilegeFails, csrUser, hw, Nat.lt_of_succ_le h]

/-- Settles O44: the checks before that of the mode pass, and that one fails. -/
theorem privilegedInUserMode : Obligations.PrivilegedInUserMode := by
  intro i ent f s he hi hiss hpend huser hstack hwf hregs
  obtain ⟨hpriv, h8, h9⟩ := privilegeFails_of_user he huser hi
  have hpre : preFault s.w i f ent = some 0x02 := by
    simp [preFault, hwf, hstack, h8, h9, hregs, hpriv]
  have hkind : collectiveOf i = none ∧ ∀ g, i ≠ .exit g := by
    rcases hi with hi | ⟨rfl, -⟩ | ⟨rfl, -⟩
    · cases i <;> simp_all [privileged, collectiveOf]
    · simp [collectiveOf]
    · simp [collectiveOf]
  obtain ⟨pl, eff, hrun⟩ := exec_eq_runWarp i (by rw [he]; rfl) hkind.1 hkind.2
  rw [hrun, runWarp_preFault pl eff he hiss hpend hpre]

end Sys2Proof.Machine
end

section
/-!
Control registers (01 R34; 15 R333, R340).
-/
namespace Sys2Proof.Machine

@[simp] theorem Warp.csrGet_consumed (s : State) (i : Instr) (n : Nat) : (s.consumed i).w.csrGet n = s.w.csrGet n := by
  obtain ⟨a, h⟩ := s.consumed_eq i
  rw [h]
  rfl

/-- A register that is none of those that software can write keeps its value. -/
theorem csrAfter_of_readOnly {n : Nat} (old x : W64)
    (h : n ∉ [0x000, 0x001, 0x002, 0x003, 0x004, 0x010, 0x013, 0x014, 0x020, 0x021, 0x100, 0x105]) : csrAfter n old x = old := by
  unfold csrAfter
  split <;> simp_all

theorem partitionOf_eq (old x : W64) : partitionOf old x = if x.toNat % 8 = 0 ∨ 5 < x.toNat % 8 then old else x &&& 7 := by
  unfold partitionOf
  split <;> split <;> first | rfl | omega

/-- HORIZON takes the greater of its value and the one written (07 R204). -/
theorem horizon_max (old x : W64) : BitVec.ofNat 64 (max old.toNat x.toNat) = if old.toNat < x.toNat then x else old := by
  split
  · rw [Nat.max_eq_right (by omega), BitVec.ofNat_toNat, BitVec.setWidth_eq]
  · rw [Nat.max_eq_left (by omega), BitVec.ofNat_toNat, BitVec.setWidth_eq]

/-- The register written reads as what it took. -/
theorem Warp.csrGet_csrSet_same (w : Warp) (n : Nat) (x : W64) (hp : n = 0x013 → w.priv = true) : (w.csrSet n x).csrGet n = csrAfter n (w.csrGet n) x := by
  by_cases hn : n ∈ [0x000, 0x001, 0x002, 0x003, 0x004, 0x010, 0x013, 0x014, 0x020, 0x021, 0x100, 0x105]
  · simp only [List.mem_cons, List.not_mem_nil, or_false] at hn
    rcases hn with rfl | rfl | rfl | rfl | rfl | rfl | rfl | rfl | rfl | rfl | rfl | rfl
    case inr.inr.inl => exact partitionOf_eq _ _
    case inr.inr.inr.inr.inr.inr.inl => exact if_pos (hp rfl)
    case inr.inr.inr.inr.inr.inr.inr.inr.inl => exact horizon_max _ _
    all_goals rfl
  · rw [csrAfter_of_readOnly _ _ hn]
    have hw : w.csrSet n x = w := by
      unfold Warp.csrSet
      split <;> simp_all
    rw [hw]

/-- Every other register reads as before. -/
theorem Warp.csrGet_csrSet_other (w : Warp) {m n : Nat} (x : W64) (h : m ≠ n) : (w.csrSet n x).csrGet m = w.csrGet m := by
  unfold Warp.csrSet
  dsimp only
  split
  all_goals first | rfl | (unfold Warp.csrGet; split <;> first | rfl | exact absurd rfl h)

theorem Warp.csrSet_eq (w : Warp) (n : Nat) (x : W64) : ∃ c tl, w.csrSet n x = { w with csr := c, tlstate := tl } := by
  unfold Warp.csrSet
  dsimp only
  split <;> exact ⟨_, _, rfl⟩

theorem privilegeFails_of_preFault_none {w : Warp} {i : Instr} {f : Fields} {ent : OpEntry} (h : preFault w i f ent = none) :
    privilegeFails w i = false := by
  by_contra hp
  simp only [Bool.not_eq_false] at hp
  simp only [preFault, hp, if_true] at h
  repeat' split at h
  all_goals cases h

/-- The form of CSRW (15 R340). -/
theorem csrForm_eq (n : Nat) (old a : W64) : csrForm n old a = match n with | 0 => a | 1 => old ||| a | _ => old &&& ~~~a := by
  unfold csrForm
  rfl

theorem Warp.csrSet_arr (w : Warp) (b : Store 2) (n : Nat) (x : W64) : ({ w with arr := b } : Warp).csrSet n x = { w.csrSet n x with arr := b } := by
  unfold Warp.csrSet
  dsimp only
  split <;> rfl

/-- CSRW with nothing in its way sets the register, moves the lanes on and does nothing else. -/
theorem exec_csrw_clear {f : Fields} {s : State} {a : W64} (h : s.clear (.csrw f) = true) (ha : (s.ctxOf (.csrw f)).uni64 s f.a = some a) :
    ∃ t, exec (.csrw f) s = .next t ∧ (s.ctxOf (.csrw f)).Went s t ∧ RestKept s t ∧
      WarpKept (s.updW (fun w => { w with csr := t.w.csr, tlstate := t.w.tlstate })) t ∧
      ∀ m, t.w.csrGet m = (s.w.csrSet f.mod.toNat (csrForm f.sub.toNat (s.w.csrGet f.mod.toNat) a)).csrGet m := by
  generalize hx : csrForm f.sub.toNat (s.w.csrGet f.mod.toNat) a = x
  obtain ⟨b, hb⟩ := s.consumed_eq (.csrw f)
  obtain ⟨cs, tl, hw⟩ := s.w.csrSet_eq f.mod.toNat x
  have hu : (s.consumed (.csrw f)).updW (fun w => w.csrSet f.mod.toNat x) = { s with w := { s.w with arr := b, csr := cs, tlstate := tl } } := by
    rw [hb]
    simp only [State.updW, Warp.csrSet_arr, hw]
  refine ⟨_, congrArg Host.Outcome.next (runWarp_of_ok (r := { st := (s.consumed (.csrw f)).updW (fun w => w.csrSet f.mod.toNat x) }) h ?_), ?_⟩
  · simp [ha, State.updW, hx]
  · rw [hu, hw, Ctx.finish_nothing]
    refine ⟨⟨fun l _ => ?_, rfl⟩, rfl, rfl, fun _ => rfl⟩
    exact Warp.advance_both _ _ _ _ _ (fun _ => State.issueAt_sub) (fun _ hl => State.issueAt_lpc hl) l

/-- Settles O45: CSRR by the lemma for results of one value a lane, CSRW register by register. -/
theorem controlRegisters : Obligations.ControlRegisters := by
  refine ⟨?read, ?write⟩
  case read =>
    intro f s c h
    obtain ⟨hd, hp, hs, ho⟩ := runWarp_lanesW (f := f) {} true false (fun _ s _ => s.w.csrGet f.mod.toNat) rfl h (by simp)
      (by cases hf : f.d <;> simp [Ctx.agrees])
    rw [OnlyRegistersAndFlags.zero] at ho
    exact ⟨_, rfl, ⟨hp, hs⟩, ho, hd⟩
  case write =>
    intro f s a c n old x h ha
    have hpriv : n = 0x013 → s.w.priv = true := by
      intro hn
      have hf : (!s.w.priv && !csrUser n true) = false := privilegeFails_of_preFault_none (State.clear_facts rfl h).pre
      rw [hn] at hf
      simpa [csrUser] using hf
    obtain ⟨t, ht, hwent, hrest, hkept, hget⟩ := exec_csrw_clear h ha
    have hx : csrForm f.sub.toNat (s.w.csrGet f.mod.toNat) a = x := csrForm_eq _ _ _
    refine ⟨t, ht, hwent, hrest, hkept, fun m => ?_⟩
    rw [hget m, hx]
    by_cases hm : m = n
    · rw [if_pos hm, hm]
      exact s.w.csrGet_csrSet_same n x hpriv
    · rw [if_neg hm]
      exact s.w.csrGet_csrSet_other x hm

end Sys2Proof.Machine
end

section
/-!
SIGN where a lane that counts as a signer runs (01 R25): what refutes O17.
-/
namespace Sys2Proof.Machine

/-- The fields of a SIGN of register 0. -/
def signFields : Fields := { noFields with fmt := .f96, slot := 7 }

/-- Every lane runs at offset 0; register 0 is declared for lane 0 and counts lane 1, which is not declared and does not wait, among its signers at that offset. -/
def strayWarp : Warp := { Warp.reset with live := true, kdecl := [(0, 0x1)], ksigned := [(0, 0x2)] }
def strayState : State := { State.reset with w := strayWarp }

theorem strayState_clear : strayState.clear (.sign signFields) = true := by decide +kernel

/-- Where the SIGN issues, in which lanes, and how long it is. -/
theorem strayState_ctx : (strayState.ctxOf (.sign signFields)).p = 0 ∧ (strayState.ctxOf (.sign signFields)).x = 0xFFFFFFFF ∧
    (strayState.ctxOf (.sign signFields)).len = 12 := by decide +kernel

/-- The lanes declared, those that have signed and their address, before the SIGN. -/
theorem strayState_register : signFields.modBits 2 0 = 0 ∧ strayState.w.decl 0 = 1 ∧ strayState.w.signed 0 = 2 ∧ strayState.w.kaddr.get 0 = 0 ∧
    strayState.w.lpc.get 1 = 0 := by decide +kernel

/-- Lane 1 moves on twice: as a lane that passes an instruction it is not declared for, and as a signer when lane 0 completes the register. -/
theorem strayState_sign {t : State} (h : exec (.sign signFields) strayState = .next t) : t.w.lpc.get 1 = 24 := by
  have hlane : (match exec (.sign signFields) strayState with | .next u => u.w.lpc.get 1 | .fault _ => 0 | .refused _ => 0) = 24 := by decide +kernel
  rw [h] at hlane
  exact hlane

/-- Refutes O17: in the clause of SIGN, lane 1 of `strayState` stands at the issue address 0 and is among the signers, so that it should run on at
offset 12; it runs on at 24, since the statement leaves open signers that do not wait. -/
theorem not_laneStates : ¬ Obligations.LaneStates := by
  rintro ⟨-, hsign⟩
  have hs := hsign signFields strayState strayState_clear
  obtain ⟨hp, hx, hlen⟩ := strayState_ctx
  obtain ⟨hk, hdecl, hsigned, hkaddr, hlpc⟩ := strayState_register
  simp only [hp, hx, hlen, hk, hdecl, hsigned, hkaddr, or_true, forall_const] at hs
  obtain ⟨t, ht, -, hlanes⟩ := hs
  rw [if_neg (by decide), if_neg (by decide)] at hlanes
  have h12 := (hlanes.2 1 (by decide) (by decide)).2 (.inr hlpc)
  rw [strayState_sign ht] at h12
  exact absurd h12 (by decide)

end Sys2Proof.Machine
end

section
/-!
Results, sleeps, fences and completion times (01 R38, R41; 04 R123; 06 R189; 07 R204).
-/
namespace Sys2Proof.Machine

/-! The focus warp in the slot and under the name that an event gives. -/

theorem State.findWarp_self {s : State} (h : s.w.live = true) : s.findWarp s.w.id = some s.w := by
  simp [State.findWarp, State.allWarps, h]

theorem State.updWarp_self {s : State} (h : s.w.live = true) (g : Warp → Warp) : s.updWarp s.w.id g = s.updW g := by
  simp [State.updWarp, h, State.updW]

theorem State.focus_self {s : State} (h : s.w.live = true) : s.focus s.w.id = s := by
  simp [State.focus, h]

/-- An event on the focus warp that keeps it in its slot. -/
theorem State.onWarp_self {s : State} {k : State → State} (h : s.w.live = true) (hl : (k s).w.live = true) (hi : (k s).w.id = s.w.id) :
    s.onWarp s.w.id k = k s := by
  rw [State.onWarp, State.focus_self h, ← hi, State.focus_self hl]

/-- What a change of the warp that a name stands for does to the focus warp, and to the memory system. -/
theorem State.updAny_self {s : State} (h : s.w.live = true) (g : Warp → Warp) : (s.updAny s.w.ref g).w = g s.w := by
  simp [State.updAny, State.mapCohort, h]

theorem State.updAny_m (s : State) (r : WRef) (g : Warp → Warp) : (s.updAny r g).m = s.m := rfl

/-! Delivering a result. -/

/-- The vector values and scalars of an operation for registers that it still owns (01 R41). -/
def Op.vectorsOwned (o : Op) : List (Nat × W32) := o.vvals.filter (fun p => o.dests.any (fun d => d.1 == p.1 / 32 && d.2.getLsbD (p.1 % 32)))
def Op.scalarsOwned (o : Op) : List (Nat × W64) := o.svals.filter (fun p => o.dests.any (fun d => d.1 == 640 + p.1))

/-- Delivering an operation writes the values for registers that it still owns, counts its slot down and forgets it. -/
theorem Warp.deliver_of_find {w : Warp} {o : Op} {k : Nat} (h : w.findOp k = some o) :
    ∃ ms ab, w.deliver k =
      ({ w with ops := w.ops.filter (fun x => x.id != k), v := w.v.setMany o.vectorsOwned, s := w.s.setMany o.scalarsOwned
                marks := ms, absent := ab } : Warp).slotDown o.slot := by
  unfold Warp.findOp at h
  refine ⟨?marks, ?absent, ?eq⟩
  case eq =>
    unfold Warp.deliver
    rw [h]
    rfl

theorem Warp.slotDown_eq (w : Warp) (n : Option Nat) : ∃ sb, w.slotDown n = { w with sb := sb } := by
  cases n <;> exact ⟨_, rfl⟩

theorem Warp.slotDown_sb (w : Warp) (n : Nat) : (w.slotDown (some n)).sb.get n = if w.sb.get n = 0 then 0 else w.sb.get n - 1 := by
  simp [Warp.slotDown]

/-- An operation that owns the register of each of its values writes them all. -/
theorem Op.vectorsOwned_all {o : Op} (h : ∀ p ∈ o.vvals, ∃ d ∈ o.dests, d.1 = p.1 / 32 ∧ d.2.getLsbD (p.1 % 32) = true) : o.vectorsOwned = o.vvals := by
  refine List.filter_eq_self.2 fun p hp => ?_
  obtain ⟨d, hd, hr, hl⟩ := h p hp
  exact List.any_eq_true.2 ⟨d, hd, by simp [hr, hl]⟩

theorem Op.scalarsOwned_all {o : Op} (h : ∀ p ∈ o.svals, ∃ d ∈ o.dests, d.1 = 640 + p.1) : o.scalarsOwned = o.svals := by
  refine List.filter_eq_self.2 fun p hp => ?_
  obtain ⟨d, hd, hr⟩ := h p hp
  exact List.any_eq_true.2 ⟨d, hd, by simp [hr]⟩

/-- Where each key is named once, each pair written is read back. -/
theorem Store.get_setMany_of_nodup {n : Nat} (m : Store n) {ws : List (Nat × BitVec n)} (hn : (ws.map Prod.fst).Nodup) {p : Nat × BitVec n} (hp : p ∈ ws) :
    (m.setMany ws).get p.1 = p.2 :=
  Store.get_setMany_mem ws m (List.mem_map_of_mem hp) fun _ hq he => congrArg Prod.snd (List.inj_on_of_nodup_map hn hq hp he)

theorem Store.get_setMany_of_notMem {n : Nat} (m : Store n) {ws : List (Nat × BitVec n)} {k : Nat} (h : k ∉ ws.map Prod.fst) :
    (m.setMany ws).get k = m.get k :=
  Store.get_setMany_other ws m fun _ hp he => h (he ▸ List.mem_map_of_mem hp)

/-- RESULT_WRITE of a result of the focus warp whose replies have come and whose time has passed. -/
theorem exec_resultWrite_ready {s : State} {o : Op} (hl : s.w.live = true) (hf : s.w.findOp o.id = some o) (hp : o.parts = 0)
    (hr : ∀ c, o.ready = some c → c ≤ s.w.cycle) (h3 : o.opc ≠ 0xF3) (h6 : o.opc ≠ 0xF6) :
    exec (.resultWrite s.w.id o.id) s = .next (s.updW (fun w => w.deliver o.id)) := by
  change execResultWrite s.w.id o.id s = _
  have hready : o.ready.all (fun c => decide (c ≤ s.w.cycle)) = true := by
    cases hc : o.ready with
    | none => rfl
    | some c => simpa using hr c hc
  have hno : ¬ (o.parts ≠ 0 ∨ o.ready.all (fun c => decide (c ≤ s.w.cycle)) = false) := by simp [hp, hready]
  simp only [execResultWrite, State.findWarp_self hl, Option.bind_some, hf, Option.map_some, if_neg hno, h3, h6, or_self, false_and, if_false,
    State.updWarp_self hl]

/-! Completion times. -/

theorem Warp.updOp_eq (w : Warp) (k : Nat) (g : Op → Op) : ∃ ops, w.updOp k g = { w with ops := ops } := ⟨_, rfl⟩

/-- A reply of an operation writes no register: an operation that still has one to write waits for RESULT_WRITE. -/
theorem Warp.gotPart_eq (w : Warp) (k : Nat) (g : Op → Op) :
    ∃ ops ms ab sb, w.gotPart k g = { w with ops := ops, marks := ms, absent := ab, sb := sb } := by
  unfold Warp.gotPart
  dsimp only
  generalize hg : (fun o => if (g o).parts ≤ 1 then ({ g o with parts := 0 } : Op).settle else { g o with parts := (g o).parts - 1 }) = g'
  obtain ⟨ops, ho⟩ := w.updOp_eq k g'
  rw [ho]
  split
  · exact ⟨_, _, _, _, rfl⟩
  · next o hf =>
    split
    · next hd =>
      obtain ⟨ms, ab, hw⟩ := Warp.deliver_of_find hf
      have hv : o.vectorsOwned = [] := by simp [Op.vectorsOwned, hd.2]
      have hs : o.scalarsOwned = [] := by simp [Op.scalarsOwned, hd.2]
      rw [hw, hv, hs]
      obtain ⟨sb, h⟩ := Warp.slotDown_eq _ o.slot
      exact ⟨_, ms, ab, sb, h⟩
    · exact ⟨_, _, _, _, rfl⟩

/-- Settles O48: the events one by one. -/
theorem memoryReturns : Obligations.MemoryReturns := by
  refine ⟨?result, ?sleep, ?fence, ?completion⟩
  case result =>
    intro s o hl hf hp hr h3 h6 hnv hns hov hos
    obtain ⟨ms, ab, hd⟩ := Warp.deliver_of_find hf
    rw [Op.vectorsOwned_all hov, Op.scalarsOwned_all hos] at hd
    obtain ⟨sb, hsb⟩ := Warp.slotDown_eq ({ s.w with ops := s.w.ops.filter (fun x => x.id != o.id), v := s.w.v.setMany o.vvals, s := s.w.s.setMany o.svals
                                                     marks := ms, absent := ab } : Warp) o.slot
    refine ⟨_, exec_resultWrite_ready hl hf hp hr h3 h6, rfl, ?_⟩
    rw [State.updW_w, hd]
    refine ⟨by rw [hsb], by rw [hsb], by rw [hsb], ?_, ?_⟩
    · rintro n hn
      rw [hn, Warp.slotDown_sb]
    · rw [hsb]
      exact ⟨fun _ h => Store.get_setMany_of_nodup _ hnv h, fun _ h => Store.get_setMany_of_notMem _ h,
        fun _ h => Store.get_setMany_of_nodup _ hns h, fun _ h => Store.get_setMany_of_notMem _ h⟩
  case sleep =>
    intro s n hl hw hn
    refine congrArg Host.Outcome.next ?_
    rw [State.updWarp_self hl]
    simp [State.updW, hw, hn]
  case fence =>
    intro s scope len g hl hw hp hh hd
    have hdone : s.fenceDone s.w scope = true := by
      by_cases h2 : scope < 2
      · simp [State.fenceDone, hp, h2]
      · simp [State.fenceDone, hp, hh (Nat.le_of_not_lt h2)]
    refine ⟨s.updW (fun w => { w with wait := .ready, lpc := (w.advance g len).lpc }), ?_, rfl, rfl, fun l _ => ?_⟩
    · change execFenceComplete s.w.id s = _
      simp only [execFenceComplete, State.findWarp_self hl, hw, hdone, if_true, hd]
      rw [State.onWarp_self hl hl rfl]
      rfl
    · exact Store.get_setMany_lanes s.w.lpc g (fun k => s.w.lpc.get k + BitVec.ofNat 32 len) l
  case completion =>
    intro s a hl hf hr hd
    let s1 := s.updM (fun m => { m with acks := m.acks.filter (fun x => x.id != a.id) })
    let g (w : Warp) : Warp := if a.op = 0 then w.raiseHorizon a.wct else (w.raiseHorizon a.wct).gotPart a.op (fun o => o)
    have hg : ∃ ops ms ab sb, g s.w = { s.w.raiseHorizon a.wct with ops := ops, marks := ms, absent := ab, sb := sb } := by
      by_cases h0 : a.op = 0
      · exact ⟨_, _, _, _, if_pos h0⟩
      · obtain ⟨ops, ms, ab, sb, h⟩ := (s.w.raiseHorizon a.wct).gotPart_eq a.op (fun o => o)
        exact ⟨ops, ms, ab, sb, (if_neg h0).trans h⟩
    obtain ⟨ops, ms, ab, sb, hg⟩ := hg
    have hw : (s1.updAny s1.w.ref g).w = g s.w := State.updAny_self (s := s1) hl g
    refine ⟨s1.updAny s1.w.ref g, ?_, rfl, ?_⟩
    · change execWriteCompletionReturn a.id s = _
      rw [execWriteCompletionReturn, hf]
      simp only [if_neg hd]
      rw [hr]
      rfl
    · rw [hw, hg]
      exact ⟨rfl, rfl, rfl, rfl⟩

end Sys2Proof.Machine
end

section
/-!
Register blocks (01 R29, R30; 14 R325).
-/
namespace Sys2Proof

/-! Fields of words. -/

theorem testBit_fieldOf {n : Nat} (x : BitVec n) (hi lo j : Nat) : (fieldOf x hi lo).testBit j = (decide (j < hi + 1 - lo) && x.getLsbD (lo + j)) := by
  rw [fieldOf, Nat.testBit_mod_two_pow, Nat.testBit_div_two_pow, Nat.add_comm lo j]
  rfl

theorem getLsbD_setField {n : Nat} (x : BitVec n) {hi lo : Nat} (v : Nat) {i : Nat} (hn : hi < n) (hl : lo ≤ hi) :
    (setField x hi lo v).getLsbD i = if lo ≤ i ∧ i ≤ hi then v.testBit (i - lo) else x.getLsbD i := by
  have hmask : (BitVec.ofNat n ((2 ^ (hi + 1 - lo) - 1) * 2 ^ lo)).getLsbD i = decide (lo ≤ i ∧ i ≤ hi) := by
    rw [BitVec.getLsbD_ofNat, Nat.testBit_mul_two_pow, Nat.testBit_two_pow_sub_one]
    by_cases h : lo ≤ i <;> by_cases h2 : i ≤ hi <;> simp [h, h2] <;> omega
  have hval : (BitVec.ofNat n (v * 2 ^ lo)).getLsbD i = (decide (i < n) && (decide (lo ≤ i) && v.testBit (i - lo))) := by
    rw [BitVec.getLsbD_ofNat, Nat.testBit_mul_two_pow]
  simp only [setField, BitVec.getLsbD_or, BitVec.getLsbD_and, BitVec.getLsbD_not, hmask, hval]
  by_cases h : lo ≤ i ∧ i ≤ hi
  · simp [h, Nat.lt_of_le_of_lt h.2 hn]
  · rw [if_neg h]
    by_cases hin : i < n
    · simp [h, hin]
    · simp [h, hin, BitVec.getLsbD_of_ge x i (Nat.le_of_not_lt hin)]

/-- The field just set. -/
theorem fieldOf_setField_same {n : Nat} (x : BitVec n) {hi lo v : Nat} (hn : hi < n) (hl : lo ≤ hi) (hv : v < 2 ^ (hi + 1 - lo)) :
    fieldOf (setField x hi lo v) hi lo = v := by
  refine Nat.eq_of_testBit_eq fun j => ?_
  rw [testBit_fieldOf, getLsbD_setField x v hn hl]
  by_cases hj : j < hi + 1 - lo
  · rw [if_pos (by omega), Nat.add_sub_cancel_left]
    simp [hj]
  · have hz : v.testBit j = false :=
      Nat.testBit_lt_two_pow (Nat.lt_of_lt_of_le hv (Nat.pow_le_pow_right (by decide) (by omega)))
    simp [hj, hz]

/-- A field that lies beside the one set. -/
theorem fieldOf_setField_other {n : Nat} (x : BitVec n) {hi lo v hi' lo' : Nat} (hn : hi < n) (hl : lo ≤ hi) (h : hi' < lo ∨ hi < lo') :
    fieldOf (setField x hi lo v) hi' lo' = fieldOf x hi' lo' := by
  refine Nat.eq_of_testBit_eq fun j => ?_
  rw [testBit_fieldOf, testBit_fieldOf, getLsbD_setField x v hn hl]
  by_cases hj : j < hi' + 1 - lo'
  · rw [if_neg (by omega)]
  · simp [hj]

/-- Keys of a dropped range read as zero, the others as before. -/
theorem Store.get_dropRange {n : Nat} (m : Store n) (lo hi k : Nat) : (m.dropRange lo hi).get k = if lo ≤ k ∧ k < hi then 0 else m.get k := by
  refine (Store.get_filter_key m (fun q => q < lo || hi ≤ q) k).trans ?_
  by_cases h : lo ≤ k ∧ k < hi
  · rw [if_pos h, if_neg (by simp; omega)]
  · rw [if_neg h, if_pos (by simp; omega)]

end Sys2Proof

namespace Sys2Proof.Machine

/-! What RACQ and RREL read of the state in which they act. -/

@[simp] theorem Warp.blocksHeld_consumed (s : State) (i : Instr) : (s.consumed i).w.blocksHeld = s.w.blocksHeld := by
  obtain ⟨b, h⟩ := s.consumed_eq i
  rw [h]
  rfl

@[simp] theorem State.consumed_regs (s : State) (i : Instr) : (s.consumed i).w.regs = s.w.regs := by
  obtain ⟨b, h⟩ := s.consumed_eq i
  rw [h]

@[simp] theorem State.consumed_ops (s : State) (i : Instr) : (s.consumed i).w.ops = s.w.ops := by
  obtain ⟨b, h⟩ := s.consumed_eq i
  rw [h]

@[simp] theorem State.consumed_id (s : State) (i : Instr) : (s.consumed i).w.id = s.w.id := by
  obtain ⟨b, h⟩ := s.consumed_eq i
  rw [h]

@[simp] theorem State.coreSt_consumed (s : State) (i : Instr) (c : CoreId) : (s.consumed i).coreSt c = s.coreSt c := by
  obtain ⟨b, h⟩ := s.consumed_eq i
  rw [h]
  rfl

@[simp] theorem State.freeBlocks_consumed (s : State) (i : Instr) (c : CoreId) : (s.consumed i).freeBlocks c = s.freeBlocks c := by
  obtain ⟨b, h⟩ := s.consumed_eq i
  rw [h]
  by_cases hl : s.w.live = true <;> by_cases hc : (s.w.id.core == c) = true <;>
    simp [State.freeBlocks, State.allWarps, hl, hc, Warp.blocksHeld]

/-! The blocks of a warp. -/

theorem Warp.clearBlocks_blocksHeld (w : Warp) (lo : Nat) {hi : Nat} (h : hi ≤ 8) : (w.clearBlocks lo hi).blocksHeld = hi :=
  fieldOf_setField_same _ (by decide) (by decide) (by omega)

theorem Warp.setBlocks_blocksHeld (w : Warp) {n : Nat} (h : n ≤ 8) : (w.setBlocks n).blocksHeld = n :=
  fieldOf_setField_same _ (by decide) (by decide) (by omega)

theorem Warp.clearBlocks_v (w : Warp) (lo hi r : Nat) {l : Nat} (hl : l < 32) :
    (w.clearBlocks lo hi).v.get (r * 32 + l) = if 64 * lo + 128 ≤ r ∧ r < 64 * hi + 128 then 0 else w.v.get (r * 32 + l) := by
  refine (Store.get_dropRange _ _ _ _).trans ?_
  by_cases h : 64 * lo + 128 ≤ r ∧ r < 64 * hi + 128
  · rw [if_pos h, if_pos (by omega)]
  · rw [if_neg h, if_neg (by omega)]

/-! RACQ. -/

section
variable {f : Fields} {c : Ctx} {u : State} {x : W32}

theorem racqEff_tooMany (hx : c.uni32 u f.a = some x) (h : 8 < u.w.blocksHeld + x.toNat % 16) : racqEff f c u = c.whole 0x04 0 := by
  simp [racqEff, hx, h]

theorem racqEff_none (hx : c.uni32 u f.a = some x) (h : u.w.blocksHeld + x.toNat % 16 ≤ 8) (hk : x.toNat % 16 = 0) : racqEff f c u = .ok { st := u } := by
  simp only [racqEff, hx, if_neg (Nat.not_lt.2 h), if_pos hk]

theorem racqEff_granted (hx : c.uni32 u f.a = some x) (h : u.w.blocksHeld + x.toNat % 16 ≤ 8) (hk : x.toNat % 16 ≠ 0)
    (hq : (u.coreSt u.w.id.core).racq = []) (hfree : u.w.blocksHeld + x.toNat % 16 - max u.w.blocksHeld u.w.regs ≤ u.freeBlocks u.w.id.core) :
    racqEff f c u = .ok { st :=
      (u.setCore { u.coreSt u.w.id.core with racq := [] }).updW (fun w => w.clearBlocks u.w.blocksHeld (u.w.blocksHeld + x.toNat % 16)) } := by
  simp only [racqEff, hx, if_neg (Nat.not_lt.2 h), if_neg hk, hq, List.any_nil, Bool.false_and, Bool.false_or, decide_eq_true_eq,
    if_neg (fun hn => Nat.not_lt.2 hfree hn.2 : ¬ (0 < _ ∧ _)), List.filter_nil]

/-! RREL. -/

theorem rrelEff_tooMany (hx : c.uni32 u f.a = some x) (h : u.w.blocksHeld < x.toNat % 16) : rrelEff f c u = c.whole 0x04 0 := by
  simp [rrelEff, hx, h]

theorem rrelEff_none (hx : c.uni32 u f.a = some x) (hk : x.toNat % 16 = 0) : rrelEff f c u = .ok { st := u } := by
  simp [rrelEff, hx, hk]

theorem rrelEff_released (hx : c.uni32 u f.a = some x) (h : x.toNat % 16 ≤ u.w.blocksHeld) (hk : x.toNat % 16 ≠ 0)
    (ho : ∀ o ∈ u.w.ops, ∀ d ∈ o.dests, ¬ (64 * (u.w.blocksHeld - x.toNat % 16) + 128 ≤ d.1 ∧ d.1 < 64 * u.w.blocksHeld + 128)) :
    rrelEff f c u = .ok { st :=
      (u.releaseEchoes (64 * (u.w.blocksHeld - x.toNat % 16) + 128) (64 * u.w.blocksHeld + 128)).updW (fun w =>
        (w.clearBlocks (u.w.blocksHeld - x.toNat % 16) u.w.blocksHeld).setBlocks (u.w.blocksHeld - x.toNat % 16)) } := by
  have hany : ¬ u.w.ops.any (fun o => o.dests.any (fun d =>
      64 * (u.w.blocksHeld - x.toNat % 16) + 128 ≤ d.1 && d.1 < 64 * u.w.blocksHeld + 128)) = true := by
    simpa [List.any_eq_true] using ho
  simp only [rrelEff, hx, if_neg (Nat.not_lt.2 h), if_neg hk, if_neg hany]

end

/-- The end of an instruction that leaves no value, where its effect has kept the program counters and the count of cycles. -/
theorem State.finish_nothing_went {s u : State} (i : Instr) (lat : Lat) (hl : u.w.lpc = s.w.lpc) (hc : u.w.cycle = s.w.cycle) :
    let t := (s.ctxOf i).finish lat { st := u }
    (s.ctxOf i).Went s t ∧ t = { u with fresh := t.fresh, w := { u.w with
      lpc := t.w.lpc, cycle := t.w.cycle, ahead := t.w.ahead, idleSince := t.w.idleSince, heldAt := t.w.heldAt } } := by
  obtain ⟨opc, f, h⟩ : ∃ opc f, s.ctxOf i = s.issueAt opc f := by unfold State.ctxOf; split <;> exact ⟨_, _, rfl⟩
  rw [h, Ctx.finish_nothing]
  refine ⟨⟨fun l _ => ?_, ?_⟩, rfl⟩
  · have hadv := Warp.advance_both u.w (s.issueAt opc f).x (s.issueAt opc f).g (s.issueAt opc f).len (s.issueAt opc f).p (fun _ => State.issueAt_sub)
      (fun k hx => (congrArg (·.get k) hl).trans (State.issueAt_lpc hx)) l
    rw [hl] at hadv
    exact hadv
  · exact congrArg (· + max 1 (s.issueAt opc f).f.stall.toNat) hc

/-- Registers of blocks from lo up to hi. -/
def inBlocks (lo hi r : Nat) : Prop := 64 * lo + 128 ≤ r ∧ r < 64 * hi + 128

theorem not_inBlocks_self (n r : Nat) : ¬ inBlocks n n r := fun h => absurd (Nat.lt_of_lt_of_le h.2 h.1) (Nat.lt_irrefl r)

/-- What RACQ of blocks that are free, and RREL, leave of the warp. -/
structure BlocksMoved (s t : State) (n lo hi : Nat) : Prop where
  held : t.w.blocksHeld = n
  scalars : t.w.s = s.w.s
  mem : t.m = s.m
  lanes : t.w.lstate = s.w.lstate
  csrs : t.w.csr = { s.w.csr with extblk := t.w.csr.extblk }
  dropped : ∀ r l, l < 32 → inBlocks lo hi r → t.w.v.get (r * 32 + l) = 0
  kept : ∀ r l, l < 32 → ¬ inBlocks lo hi r → t.w.v.get (r * 32 + l) = s.w.v.get (r * 32 + l)

/-- The end of the instruction changes none of it. -/
theorem BlocksMoved.finish {s u : State} {n lo hi : Nat} (i : Instr) (lat : Lat) (h : BlocksMoved s u n lo hi) (hl : u.w.lpc = s.w.lpc)
    (hc : u.w.cycle = s.w.cycle) :
    let t := (s.ctxOf i).finish lat { st := u }
    (s.ctxOf i).Went s t ∧ t.f = u.f ∧ BlocksMoved s t n lo hi := by
  intro t
  obtain ⟨hwent, ht⟩ := State.finish_nothing_went i lat hl hc
  have hv : t.w.v = u.w.v := congrArg (·.w.v) ht
  have hcsr : t.w.csr = u.w.csr := congrArg (·.w.csr) ht
  have hheld : t.w.blocksHeld = u.w.blocksHeld := congrArg (·.w.blocksHeld) ht
  obtain ⟨held, scalars, mem, lanes, csrs, dropped, kept⟩ := h
  refine ⟨hwent, congrArg (·.f) ht, hheld.trans held, (congrArg (·.w.s) ht).trans scalars, (congrArg (·.m) ht).trans mem,
    (congrArg (·.w.lstate) ht).trans lanes, ?_, ?_, ?_⟩
  · rw [hcsr]
    exact csrs
  · rw [hv]
    exact dropped
  · rw [hv]
    exact kept

/-- No block moved. -/
theorem BlocksMoved.refl (s : State) (i : Instr) : BlocksMoved s (s.consumed i) s.w.blocksHeld s.w.blocksHeld s.w.blocksHeld := by
  obtain ⟨b, hb⟩ := s.consumed_eq i
  rw [hb]
  exact ⟨rfl, rfl, rfl, rfl, rfl, fun _ _ _ h => absurd h (not_inBlocks_self _ _), fun _ _ _ _ => rfl⟩

theorem exec_racq {f : Fields} {s : State} {x : W32} (h : s.clear (.racq f) = true) (hx : (s.ctxOf (.racq f)).uni32 s f.a = some x)
    (h8 : s.w.blocksHeld + x.toNat % 16 ≤ 8) (hq : (s.coreSt s.w.id.core).racq = [])
    (hfree : s.w.blocksHeld + x.toNat % 16 - max s.w.blocksHeld s.w.regs ≤ s.freeBlocks s.w.id.core) :
    ∃ t, exec (.racq f) s = .next t ∧ (s.ctxOf (.racq f)).Went s t ∧ t.f = s.f ∧
      BlocksMoved s t (s.w.blocksHeld + x.toNat % 16) s.w.blocksHeld (s.w.blocksHeld + x.toNat % 16) := by
  have hx' : (s.ctxOf (.racq f)).uni32 (s.consumed (.racq f)) f.a = some x := by simpa using hx
  by_cases hk : x.toNat % 16 = 0
  · have he := racqEff_none hx' (by simpa using h8) hk
    obtain ⟨b, hb⟩ := s.consumed_eq (.racq f)
    obtain ⟨hwent, hf, hmoved⟩ := (BlocksMoved.refl s (.racq f)).finish (.racq f) (.cycles 4) (by rw [hb]) (by rw [hb])
    rw [hk]
    exact ⟨_, congrArg Host.Outcome.next (runWarp_of_ok h he), hwent, hf.trans (by rw [hb]), hmoved⟩
  · have he := racqEff_granted hx' (by simpa using h8) hk (by simpa using hq) (by simpa using hfree)
    rw [Warp.blocksHeld_consumed] at he
    obtain ⟨b, hb⟩ := s.consumed_eq (.racq f)
    have hmoved : BlocksMoved s (((s.consumed (.racq f)).setCore { (s.consumed (.racq f)).coreSt (s.consumed (.racq f)).w.id.core with racq := [] }).updW
        (fun w => w.clearBlocks s.w.blocksHeld (s.w.blocksHeld + x.toNat % 16))) (s.w.blocksHeld + x.toNat % 16) s.w.blocksHeld (s.w.blocksHeld + x.toNat % 16) := by
      rw [hb]
      exact ⟨Warp.clearBlocks_blocksHeld _ _ h8, rfl, rfl, rfl, rfl, fun r l hl hr => (Warp.clearBlocks_v _ _ _ r hl).trans (if_pos hr),
        fun r l hl hr => (Warp.clearBlocks_v _ _ _ r hl).trans (if_neg hr)⟩
    obtain ⟨hwent, hf, hmoved⟩ := hmoved.finish (.racq f) (.cycles 4) (by rw [hb]; rfl) (by rw [hb]; rfl)
    exact ⟨_, congrArg Host.Outcome.next (runWarp_of_ok h he), hwent, hf.trans (by rw [hb]; rfl), hmoved⟩

/-- What releasing blocks does to the echoes of calls: those of the focus warp's calls for registers from lo up to hi will be discarded. -/
theorem State.releaseEchoes_calls (s : State) (lo hi j : Nat) {x y : Call} (hx : s.f.calls[j]? = some x) (hy : (s.releaseEchoes lo hi).f.calls[j]? = some y) :
    y = { x with gone := y.gone } ∧
      ∀ r, r ∈ y.gone ↔ r ∈ x.gone ∨ (x.caller = s.w.ref ∧ (lo ≤ r ∧ r < hi) ∧ x.echoReg ≤ r ∧ r < x.echoReg + x.echoCnt) := by
  simp only [State.releaseEchoes, List.getElem?_map, hx, Option.map_some, Option.some.injEq] at hy
  by_cases hc : x.caller = s.w.ref
  · rw [if_pos (by simpa using hc)] at hy
    subst hy
    refine ⟨rfl, fun r => ?_⟩
    have hrange : r ∈ (List.range x.echoCnt).map (x.echoReg + ·) ↔ x.echoReg ≤ r ∧ r < x.echoReg + x.echoCnt := by
      rw [List.mem_map]
      constructor
      · rintro ⟨k, hk, rfl⟩
        have := List.mem_range.1 hk
        omega
      · rintro ⟨h1, h2⟩
        exact ⟨r - x.echoReg, List.mem_range.2 (by omega), by omega⟩
    rw [List.mem_append, List.mem_filter, hrange]
    simp [hc, and_comm]
  · rw [if_neg (by simpa using hc)] at hy
    subst hy
    exact ⟨rfl, fun r => by simp [hc]⟩

theorem exec_rrel {f : Fields} {s : State} {x : W32} (h : s.clear (.rrel f) = true) (hx : (s.ctxOf (.rrel f)).uni32 s f.a = some x)
    (hn : x.toNat % 16 ≤ s.w.blocksHeld) (h8 : s.w.blocksHeld ≤ 8)
    (ho : ∀ o ∈ s.w.ops, ∀ d ∈ o.dests, ¬ inBlocks (s.w.blocksHeld - x.toNat % 16) s.w.blocksHeld d.1) :
    ∃ t, exec (.rrel f) s = .next t ∧ (s.ctxOf (.rrel f)).Went s t ∧
      t.f = (if x.toNat % 16 = 0 then s else s.releaseEchoes (64 * (s.w.blocksHeld - x.toNat % 16) + 128) (64 * s.w.blocksHeld + 128)).f ∧
      BlocksMoved s t (s.w.blocksHeld - x.toNat % 16) (s.w.blocksHeld - x.toNat % 16) s.w.blocksHeld := by
  have hx' : (s.ctxOf (.rrel f)).uni32 (s.consumed (.rrel f)) f.a = some x := by simpa using hx
  obtain ⟨b, hb⟩ := s.consumed_eq (.rrel f)
  by_cases hk : x.toNat % 16 = 0
  · have he := rrelEff_none hx' hk
    obtain ⟨hwent, hf, hmoved⟩ := (BlocksMoved.refl s (.rrel f)).finish (.rrel f) (.cycles 4) (by rw [hb]) (by rw [hb])
    rw [if_pos hk, hk]
    exact ⟨_, congrArg Host.Outcome.next (runWarp_of_ok h he), hwent, hf.trans (by rw [hb]), hmoved⟩
  · have he := rrelEff_released hx' (by simpa using hn) hk (by simpa [inBlocks] using ho)
    rw [Warp.blocksHeld_consumed] at he
    generalize hm : s.w.blocksHeld - x.toNat % 16 = m at he ⊢
    have hmoved : BlocksMoved s (((s.consumed (.rrel f)).releaseEchoes (64 * m + 128) (64 * s.w.blocksHeld + 128)).updW
        (fun w => (w.clearBlocks m s.w.blocksHeld).setBlocks m)) m m s.w.blocksHeld := by
      rw [hb]
      exact ⟨Warp.setBlocks_blocksHeld _ (by omega), rfl, rfl, rfl, rfl, fun r l hl hr => (Warp.clearBlocks_v _ _ _ r hl).trans (if_pos hr),
        fun r l hl hr => (Warp.clearBlocks_v _ _ _ r hl).trans (if_neg hr)⟩
    obtain ⟨hwent, hf, hmoved⟩ := hmoved.finish (.rrel f) (.cycles 4) (by rw [hb]; rfl) (by rw [hb]; rfl)
    rw [if_neg hk]
    exact ⟨_, congrArg Host.Outcome.next (runWarp_of_ok h he), hwent, hf.trans (by rw [hb]; rfl), hmoved⟩

/-- What RREL does to the fabric: only which echoes will be discarded. -/
theorem State.released_fabric (s : State) {m k : Nat} {t : State}
    (h : t.f = (if k = 0 then s else s.releaseEchoes (64 * m + 128) (64 * s.w.blocksHeld + 128)).f) :
    t.f = { s.f with calls := t.f.calls } ∧ t.f.calls.length = s.f.calls.length ∧
      ∀ (j : Nat) (x y : Call), s.f.calls[j]? = some x → t.f.calls[j]? = some y → y = { x with gone := y.gone } ∧
        ∀ r, r ∈ y.gone ↔ r ∈ x.gone ∨ (x.caller = s.w.ref ∧ inBlocks m s.w.blocksHeld r ∧ k ≠ 0 ∧ x.echoReg ≤ r ∧ r < x.echoReg + x.echoCnt) := by
  by_cases hk : k = 0
  · rw [if_pos hk] at h
    rw [h]
    refine ⟨rfl, rfl, fun j x y hx hy => ?_⟩
    obtain rfl : x = y := Option.some.inj (hx.symm.trans hy)
    exact ⟨rfl, fun r => by simp [hk]⟩
  · rw [if_neg hk] at h
    rw [h]
    refine ⟨rfl, List.length_map _, fun j x y hx hy => ?_⟩
    obtain ⟨hy', hgone⟩ := s.releaseEchoes_calls _ _ j hx hy
    exact ⟨hy', fun r => by rw [hgone r]; simp only [inBlocks, ne_eq, hk, not_false_eq_true, true_and]⟩

/-- Settles O42: RACQ and RREL by their `exec_` lemmas. -/
theorem registerBlocks : Obligations.RegisterBlocks := by
  intro acq f s x
  cases acq
  case true =>
    simp only [if_true, Bool.true_eq_false, false_implies, true_implies]
    intro h hx
    refine ⟨fun hn => ?_, fun ⟨h8, hq, hfree⟩ => ?_⟩
    · exact congrArg Host.Outcome.next (runWarp_of_fault h (racqEff_tooMany (by simpa using hx) (by simpa using hn)) (by decide : (4#8 : BitVec 8) ≠ 0))
    · obtain ⟨t, ht, hwent, hf, hm⟩ := exec_racq h hx h8 hq hfree
      exact ⟨t, ht, hwent, hm.held, hm.scalars, hm.mem, hm.lanes, hm.csrs, hf, trivial, fun r l hl => ⟨fun hr _ => hm.dropped r l hl hr, hm.kept r l hl⟩⟩
  case false =>
    simp only [Bool.false_eq_true, if_false, false_implies, true_implies]
    intro h hx
    refine ⟨fun hn => ?_, fun ⟨hn, h8, ho⟩ => ?_⟩
    · exact congrArg Host.Outcome.next (runWarp_of_fault h (rrelEff_tooMany (by simpa using hx) (by simpa using hn)) (by decide : (4#8 : BitVec 8) ≠ 0))
    · obtain ⟨t, ht, hwent, hf, hm⟩ := exec_rrel h hx hn h8 ho
      obtain ⟨hcalls, hlen, hgone⟩ := s.released_fabric hf
      exact ⟨t, ht, hwent, hm.held, hm.scalars, hm.mem, hm.lanes, hm.csrs, trivial, ⟨hcalls, hlen, hgone⟩,
        fun r l hl => ⟨fun hr _ => hm.dropped r l hl hr, hm.kept r l hl⟩⟩

end Sys2Proof.Machine
end

section
/-!
The step of the machine with nothing else due: the focus warp issues what its fetch decodes (01 R20; 03 R75, R77; 15 R338; 18 R387).
-/
namespace Sys2Proof

theorem opEntry_of_ofOpcode {opc : Nat} {f : Fields} {i : Instr} (h : ofOpcode opc f = some i) : (opEntry i).isSome = true := by
  unfold ofOpcode at h
  repeat' split at h
  all_goals cases h
  all_goals rfl

/-- What bytes decode to is an instruction of the opcode map. -/
theorem opEntry_of_decode {bs : List Byte} {i : Instr} {n : Nat} (h : decode bs = .ok (i, n)) : (opEntry i).isSome = true := by
  simp only [decode, bind, Except.bind, pure, Except.pure, throw, throwThe, MonadExceptOf.throw] at h
  repeat' split at h
  all_goals cases h
  exact opEntry_of_ofOpcode ‹_›

end Sys2Proof

namespace Sys2Proof.Machine

/-- An instruction with a word always has a next state. -/
theorem exec_next_of_word {i : Instr} (h : (opEntry i).isSome = true) (s : State) : ∃ t, exec i s = .next t := by
  cases i
  all_goals first | exact ⟨_, rfl⟩ | exact absurd h Bool.false_ne_true

/-! Cycles that pass for no time at all. -/

theorem Warp.pass_zero (w : Warp) : w.pass 0 = w := by
  unfold Warp.pass
  split
  · rfl
  · next n h =>
    cases w
    cases h
    simp

theorem Warp.pass_live (d : Nat) (w : Warp) : (w.pass d).live = w.live := by
  unfold Warp.pass
  split <;> rfl

theorem State.passCycles_zero (s : State) (c : CoreId) : s.passCycles c 0 = s := by
  simp [State.passCycles, Warp.pass_zero]

/-- A fold of minima is no more than any of its numbers. -/
theorem foldl_min_le {α : Type} (g : α → Nat) (l : List α) (a : Nat) :
    l.foldl (fun acc x => min acc (g x)) a ≤ a ∧ ∀ x ∈ l, l.foldl (fun acc x => min acc (g x)) a ≤ g x := by
  induction l generalizing a with
  | nil => simp
  | cons y r ih =>
    obtain ⟨h1, h2⟩ := ih (min a (g y))
    refine ⟨h1.trans (Nat.min_le_left _ _), fun x hx => ?_⟩
    rcases List.mem_cons.1 hx with rfl | hx
    · exact h1.trans (Nat.min_le_right _ _)
    · exact h2 x hx

theorem State.leastAhead_le {s : State} {c : CoreId} {w : Warp} (h : w ∈ s.readyOn c) : s.leastAhead c ≤ w.ahead := by
  unfold State.leastAhead
  split
  · next he => simp [he] at h
  · next x r he =>
    rw [he] at h
    rcases List.mem_cons.1 h with rfl | h
    · exact (foldl_min_le Warp.ahead r _).1
    · exact (foldl_min_le Warp.ahead r _).2 w h

/-- A core with a candidate waits for no stall. -/
theorem State.leastAhead_of_candidates {s : State} {c : CoreId} {i : WarpId} (h : i ∈ s.candidates c) : s.leastAhead c = 0 := by
  simp only [State.candidates, List.mem_flatMap, List.mem_filterMap, Option.map_eq_some_iff] at h
  obtain ⟨cls, -, d, -, w, hw, -⟩ := h
  have hm := List.mem_of_find?_eq_some hw
  rw [List.mem_filter, beq_iff_eq] at hm
  have := State.leastAhead_le hm.1
  omega

/-- ISSUE_STEP of a core whose only candidate is the focus warp, with no other ready: one cycle after the issue, and the slot noted where the warp was not
held. -/
theorem execIssueStep_focus {s t : State} (hl : s.w.live = true) (hc : s.candidates s.w.id.core = [s.w.id]) (ho : s.others s.w.id.core = [])
    (ht : ({ s with alone := true } : State).issueFocus = .next t) :
    execIssueStep s.w.id.core s =
      .next (if s.heldNow t s.w.id then t.passCycles s.w.id.core 1 else (t.passCycles s.w.id.core 1).setLast s.w.id.core s.w.id.slot) := by
  have h0 : s.leastAhead s.w.id.core = 0 := State.leastAhead_of_candidates (i := s.w.id) (by rw [hc]; exact List.mem_singleton_self _)
  simp only [execIssueStep, h0, State.passCycles_zero, hc, State.tryIssue, State.focus_self hl, ho, List.isEmpty_nil, ht, List.foldl_nil]
  split <;> rfl

/-- An issue of the focus warp that waits on nothing and collects no signers: the instruction that its fetch gives. -/
theorem State.issueFocus_of_fetch {s0 : State} {i : Instr} (hw : s0.w.wait = .ready)
    (hc : ∀ k < 8, (s0.w.releaseParked s0.w.running 0).collects k = false) (hr : (s0.w.releaseParked s0.w.running 0).running ≠ 0) :
    let s := s0.updW (fun w => w.releaseParked w.running 0)
    s.fetch s.w s.w.issuePc = .instr i →
      s0.issueFocus = s.finishIssue i (perform i (s.touch s.w.id.core s.w.ctx (s.w.codeVa s.w.issuePc))) := by
  intro s hf
  have hnone : (List.range 8).find? (fun k => s.w.collects k) = none :=
    List.find?_eq_none.2 fun k hk => Bool.not_eq_true _ ▸ hc k (List.mem_range.1 hk)
  have hrun : ¬ s.w.running = 0 := hr
  unfold State.issueFocus
  rw [hw]
  dsimp only
  rw [hnone]
  dsimp only
  rw [if_neg hrun, hf]

/-- A fetch of bytes that are there decodes them. -/
theorem State.fetch_of_decode {s : State} {w : Warp} {p : W32} {ph : Phys} {i : Instr} {n : Nat}
    (htr : s.m.translate w.id.core w.ctx (w.codeVa p) .exec = .ok ph) (hscr : inScratch (w.codeVa p) = false)
    (hbytes : ∀ j < fetchLen p, s.m.byteHeld (ph.loc + j) = false ∧ s.m.placePoison { ph with loc := ph.loc + j } = false)
    (hfar : s.farErr ph = none) (hp : p.toNat % 4 = 0)
    (hd : decode ((List.range (fetchLen p)).map (fun j => s.codeByte w (w.codeVa p + BitVec.ofNat 64 j) { ph with loc := ph.loc + j })) = .ok (i, n)) :
    s.fetch w p = .instr i := by
  have hheld : (List.range (fetchLen p)).any (fun j => s.m.byteHeld (ph.loc + j)) = false := by
    simp only [List.any_eq_false, List.mem_range, Bool.not_eq_true]
    exact fun j hj => (hbytes j hj).1
  have hpoison : (List.range (fetchLen p)).any (fun j => s.m.placePoison { ph with loc := ph.loc + j }) = false := by
    simp only [List.any_eq_false, List.mem_range, Bool.not_eq_true]
    exact fun j hj => (hbytes j hj).2
  simp only [State.fetch, htr, hscr, hheld, hpoison, hfar, hp, hd, Bool.false_eq_true, if_false, if_true]

/-- With no store to a byte on its way and none replaced that a fetch may still return, a fetch returns what the home holds (03 R77). -/
theorem State.codeByte_of_settled {s : State} {w : Warp} {va : W64} {ph : Phys}
    (hold : ∀ o ∈ s.m.oldCode, o.line = lineOf ph.loc → o.mask.getLsbD (ph.loc % 128) = false) (hcoming : s.m.comingBytes ph.loc = []) :
    s.codeByte w va ph = s.m.homeByte ph.loc ph.key := by
  have hnone : s.m.oldCode.filter (fun o => o.line == lineOf ph.loc && o.mask.getLsbD (ph.loc % 128) && !s.codeSettled w va o) = [] := by
    refine List.filter_eq_nil_iff.2 fun o ho => ?_
    by_cases hl : o.line = lineOf ph.loc
    · simp [hold o ho hl]
    · simp [hl]
  simp [State.codeByte, hnone, hcoming]

/-- Settles O5: the step issues the focus warp, the only candidate; its fetch decodes the bytes; the instruction is performed as `exec` has it. -/
theorem stepRunsDecoded : Obligations.StepRunsDecoded := by
  intro s i n ph s0 s1 p hagenda hwait hothers hfar hlive hcand hcollects hrun htr hscr hbytes hp hd
  have hword := opEntry_of_decode hd
  have hstep : step s = exec (.issueStep s0.w.id.core) s0 := by
    unfold step
    dsimp only
    rw [show s.advance.agenda = [] from hagenda]
  obtain ⟨t, ht⟩ := exec_next_of_word hword (s1.touch s1.w.id.core s1.w.ctx (s1.w.codeVa p))
  refine ⟨fun j _ hold hcoming => State.codeByte_of_settled hold hcoming, hstep, t, ht, ?_⟩
  have hid : s1.w.id = s0.w.id := Warp.putLanes_id _ _ _
  have hfetch : s1.fetch s1.w p = .instr i := State.fetch_of_decode htr hscr hbytes hfar hp hd
  have hissue : ({ s0 with alone := true } : State).issueFocus = .next (t.closeIssue s1.w.running (justParked i s1.w)) := by
    refine (State.issueFocus_of_fetch (s0 := { s0 with alone := true }) hwait hcollects hrun hfetch).trans ?_
    rw [perform_eq_exec _ _ hword]
    exact congrArg (s1.finishIssue i) ht
  have hl0 : s0.w.live = true := (Warp.pass_live _ _).trans hlive
  intro u v
  have hv : v = u.passCycles s0.w.id.core 1 := congrArg (fun x : WarpId => u.passCycles x.core 1) hid
  have hheld : s0.heldNow u s0.w.id = true ↔ u.w.live = true ∧ u.w.id = s1.w.id ∧ u.w.heldAt = s0.tick := by
    rw [hid]
    simp [State.heldNow, and_assoc]
  rw [hstep, hv, hid]
  rw [hid] at hheld
  exact (execIssueStep_focus hl0 hcand hothers hissue).trans (congrArg Host.Outcome.next (if_congr hheld rfl rfl))

end Sys2Proof.Machine
end

section
/-!
A load in which one lane's address is misaligned while another lane's translation waits for a thermal hold (15 R329; 17 R372): what refutes O13.
-/
namespace Sys2Proof.Machine

/-- The fields of an LD of 4 bytes from s1 plus v9 into v4. -/
def oddLoadFields : Fields := { noFields with fmt := .f128i, sub := 2, d := .v 4, a := .s 1, b := .v 9 }

/-- A user-mode warp with a trap table; v9 is 1 in lane 0, so that lane 0 loads from address 1 and every other lane from address 0. -/
def oddLaneWarp : Warp :=
  { Warp.reset with live := true, active := true, ctx := 3, v := [(9 * 32, 1)], csr := { Csrs.reset with trapbase := 0x10000 } }

/-- The root table of the warp's context lies in stack 0, whose DRAM is under a thermal hold; no TLB and no cache holds anything. -/
def oddLoadState : State :=
  { State.reset with w := oddLaneWarp, m := { MemSys.reset with contexts := [⟨3, 0, 0⟩], holds := [⟨0, 0, false⟩] } }

theorem oddLoadState_clear : oddLoadState.clear (.ld oddLoadFields) = true := by decide +kernel

/-- Lane 0 is the one lane at fault. -/
theorem oddLoadState_bad :
    (bitList (oddLoadState.ctxOf (.ld oddLoadFields)).g).filter (fun l =>
      (oddLoadState.ea oddLoadFields (oddLoadFields.subBits 7 7 = 1) (oddLoadFields.imm.signExtend 64) l).toNat % 2 ^ oddLoadFields.subBits 2 0 ≠ 0) = [0] := by
  decide +kernel

/-- The load is held: the other lanes wait for the hold, which comes before the ALIGN of lane 0. -/
theorem oddLoadState_load {t : State} (h : exec (.ld oddLoadFields) oddLoadState = .next t) : t.w.cycle = oddLoadState.w.cycle + 1 := by
  have hcycle : (match exec (.ld oddLoadFields) oddLoadState with | .next u => u.w.cycle | .fault _ => 0 | .refused _ => 0) = oddLoadState.w.cycle + 1 := by
    decide +kernel
  rw [h] at hcycle
  exact hcycle

theorem oddLoadState_trapHeld : oddLoadState.w.priv = false ∧ oddLoadState.w.onStackCore = false ∧ oddLoadState.trapHeld oddLoadState.w 0x09 = true := by
  decide +kernel

/-- An ALIGN would make the warp wait for its handler's word, with no time passing. -/
theorem oddLoadState_raise {x : FaultInfo} (hx : x.code = 0x09) : (oddLoadState.raise x).w.cycle = oddLoadState.w.cycle := by
  obtain ⟨hpriv, hcore, hheld⟩ := oddLoadState_trapHeld
  simp only [State.raise, State.trapEntry, hx, hpriv, hcore, hheld]
  rfl

/-- Refutes O13: in the clause of LD and ST, the load of `oddLoadState` has a misaligned address in lane 0 and yet raises nothing: the wait of the
other lanes for the thermal hold of the page table comes first. -/
theorem not_operandFaults : ¬ Obligations.OperandFaults := by
  rintro ⟨-, halign, -⟩
  have hbad : _ ≠ [] := ne_of_eq_of_ne oddLoadState_bad (List.cons_ne_nil 0 [])
  obtain ⟨x, hexec, hcode, -⟩ := halign false oddLoadFields oddLoadState oddLoadState_clear hbad
  have hstays := (oddLoadState_load hexec).symm.trans (oddLoadState_raise hcode)
  omega

end Sys2Proof.Machine
end

section
/-!
Bytes of a word, lines of an L1 and bytes of banks: what a read returns after a write (06 R170, R175; 17 R353, R355).
-/
namespace Sys2Proof.Machine

/-! Bytes of a word. -/

/-- The number whose byte i is 0xFF for the bits below n of a mask that are set. -/
theorem testBit_maskSum (p : Nat → Bool) (n k : Nat) :
    (((List.range n).filter p).foldl (fun acc i => acc + 255 * 2 ^ (8 * i)) 0 < 2 ^ (8 * n)) ∧
      (((List.range n).filter p).foldl (fun acc i => acc + 255 * 2 ^ (8 * i)) 0).testBit k = (decide (k < 8 * n) && p (k / 8)) := by
  induction n with
  | zero => simp
  | succ n ih =>
    obtain ⟨hlt, hbit⟩ := ih
    rw [List.range_succ, List.filter_append, List.foldl_append]
    generalize ((List.range n).filter p).foldl (fun acc i => acc + 255 * 2 ^ (8 * i)) 0 = v at hlt hbit ⊢
    have hpow : (2 : Nat) ^ (8 * (n + 1)) = 256 * 2 ^ (8 * n) := by rw [Nat.mul_succ, Nat.pow_add]; omega
    cases hp : p n with
    | false =>
      simp only [List.filter_cons, hp, List.filter_nil, List.foldl_nil, Bool.false_eq_true, if_false]
      refine ⟨by omega, ?_⟩
      rw [hbit]
      by_cases hk : k < 8 * n
      · simp [hk, show k < 8 * (n + 1) by omega]
      · by_cases hk' : k < 8 * (n + 1)
        · simp [hk, hk', show k / 8 = n by omega, hp]
        · simp [hk, hk']
    | true =>
      simp only [List.filter_cons, hp, List.filter_nil, List.foldl_cons, List.foldl_nil, if_true]
      refine ⟨by omega, ?_⟩
      rw [show v + 255 * 2 ^ (8 * n) = 2 ^ (8 * n) * 255 + v by omega, Nat.testBit_two_pow_mul_add _ hlt, hbit]
      by_cases hk : k < 8 * n
      · simp [hk, show k < 8 * (n + 1) by omega]
      · rw [if_neg hk, show (255 : Nat) = 2 ^ 8 - 1 from rfl, Nat.testBit_two_pow_sub_one]
        by_cases hk' : k < 8 * (n + 1)
        · simp [hk', show k - 8 * n < 8 by omega, show k / 8 = n by omega, hp]
        · simp [hk', show ¬ k - 8 * n < 8 by omega]

theorem getLsbD_spreadMask (mask : BitVec 128) {k : Nat} (h : k < 1024) : (spreadMask 128 1024 mask).getLsbD k = mask.getLsbD (k / 8) := by
  rw [spreadMask, BitVec.getLsbD_ofNat, bitList, (testBit_maskSum _ 128 k).2]
  simp [h]

theorem getLsbD_byteOf {bits : Nat} (d : BitVec bits) (i : Nat) {k : Nat} (h : k < 8) : (byteOf d i).getLsbD k = d.getLsbD (8 * i + k) := by
  rw [byteOf, BitVec.getLsbD_ofNat, Nat.testBit_div_two_pow]
  simp [h, BitVec.getLsbD, Nat.add_comm]

/-- Bytes that a mask names are replaced, the others stay. -/
theorem byteOf_mergeBytes (old new : BitVec 1024) (mask : BitVec 128) {j : Nat} (h : j < 128) :
    byteOf (mergeBytes old new mask) j = if mask.getLsbD j then byteOf new j else byteOf old j := by
  ext k hk
  simp only [← BitVec.getLsbD_eq_getElem]
  rw [getLsbD_byteOf _ _ hk, mergeBytes, BitVec.getLsbD_or, BitVec.getLsbD_and, BitVec.getLsbD_and, BitVec.getLsbD_not,
    getLsbD_spreadMask mask (by omega), show (8 * j + k) / 8 = j by omega]
  cases mask.getLsbD j <;> simp [getLsbD_byteOf _ _ hk, show 8 * j + k < 1024 by omega]

/-- The last byte that pairs of positions and bytes give to a position. -/
def lastAt (ws : List (Nat × Byte)) (q : Nat) : Option Byte := (ws.filterMap (fun w => if w.1 = q then some w.2 else none)).getLast?

theorem lastAt_concat (ws : List (Nat × Byte)) (w : Nat × Byte) (q : Nat) : lastAt (ws ++ [w]) q = if w.1 = q then some w.2 else lastAt ws q := by
  unfold lastAt
  by_cases h : w.1 = q <;> simp [h]

theorem byteOf_ofNat_same (b : Byte) {j : Nat} (h : j < 128) : byteOf (BitVec.ofNat 1024 (b.toNat * 2 ^ (8 * j))) j = b := by
  ext k hk
  simp only [← BitVec.getLsbD_eq_getElem]
  rw [getLsbD_byteOf _ _ hk, BitVec.getLsbD_ofNat, Nat.testBit_mul_two_pow]
  simp [show 8 * j + k < 1024 by omega, BitVec.getLsbD]

/-- The mask and the bytes of a line that pairs of positions and bytes are gathered into: at each position the last. -/
theorem gatherBytes_at (ws : List (Nat × Byte)) {j : Nat} (h : j < 128) :
    (if (gatherBytes 128 1024 ws).2.getLsbD j then some (byteOf (gatherBytes 128 1024 ws).1 j) else none) = lastAt ws j := by
  induction ws using List.reverseRecOn with
  | nil => simp [gatherBytes, lastAt]
  | append_singleton ws w ih =>
    have hbit : (BitVec.ofNat 128 (2 ^ w.1)).getLsbD j = decide (w.1 = j) := by
      rw [BitVec.getLsbD_ofNat, Nat.testBit_two_pow, decide_eq_true h, Bool.true_and]
    rw [lastAt_concat, ← ih]
    simp only [gatherBytes, List.foldl_append, List.foldl_cons, List.foldl_nil]
    rw [byteOf_mergeBytes _ _ _ h, BitVec.getLsbD_or, hbit]
    by_cases hw : w.1 = j
    · subst hw
      simp [byteOf_ofNat_same _ h]
    · simp [hw]

/-- A run of bytes gives its positions theirs. -/
theorem lastAt_runOf (k q : Nat) (bs : List Byte) :
    (runOf k bs).filterMap (fun w => if w.1 = q then some w.2 else none) = if k ≤ q ∧ q < k + bs.length then [bs.getD (q - k) 0] else [] := by
  induction bs generalizing k with
  | nil => simp [runOf, show ¬ (k ≤ q ∧ q < k) by omega]
  | cons b r ih =>
    rw [runOf, List.filterMap_cons, ih, List.length_cons]
    rcases Nat.lt_trichotomy k q with hk | rfl | hk
    · rw [if_neg (by simp; omega)]
      simp only [show q - k = (q - (k + 1)) + 1 by omega, List.getD_cons_succ]
      by_cases hq : q < k + (r.length + 1)
      · rw [if_pos ⟨by omega, by omega⟩, if_pos ⟨by omega, hq⟩]
      · rw [if_neg (by omega), if_neg (by omega)]
    · simp
    · rw [if_neg (by simp; omega), if_neg (by omega), if_neg (by omega)]

theorem filterMap_flatMap_toList {α β γ : Type} (l : List α) (g : α → List β) (p : β → Option γ) (h : α → Option γ)
    (hgh : ∀ x ∈ l, (g x).filterMap p = (h x).toList) : (l.flatMap g).filterMap p = l.filterMap h := by
  induction l with
  | nil => rfl
  | cons x r ih =>
    rw [List.flatMap_cons, List.filterMap_append, hgh x List.mem_cons_self, ih (fun y hy => hgh y (List.mem_cons_of_mem _ hy)), List.filterMap_cons]
    cases h x <;> rfl

/-- The bytes that puts give to a line, and to the banks. -/
theorem lastAt_putsIn (ps : List Put) (line j : Nat) : lastAt (putsIn line ps) j = memStored ps line j := by
  unfold lastAt putsIn memStored
  refine congrArg List.getLast? (filterMap_flatMap_toList _ _ _ _ (fun x _ => ?_))
  cases x.tgt with
  | bank k => rfl
  | mem p =>
    by_cases hl : lineOf p.loc = line
    · simp only [hl, if_true, true_and, lastAt_runOf]
      split <;> rfl
    · simp [hl]

theorem lastAt_putBank (ps : List Put) (q : Nat) : lastAt (putBank ps) q = bankStored ps q := by
  unfold lastAt putBank bankStored
  refine congrArg List.getLast? (filterMap_flatMap_toList _ _ _ _ (fun x _ => ?_))
  cases x.tgt with
  | bank k =>
    simp only [lastAt_runOf]
    split <;> rfl
  | mem p => rfl

/-! Bytes of banks. -/

theorem MemSys.bankGet_bankSet (m : MemSys) (k q : Nat) (b : Byte) : (m.bankSet k b).bankGet q = if k = q then b else m.bankGet q := by
  unfold MemSys.bankGet MemSys.bankSet
  simp only [Store.get_set]
  by_cases h : k = q
  · subst h
    simp [MemSys.bankBase]
  · simp [h, Ne.symm h, MemSys.bankBase]

/-- Writing bytes of banks changes the banks and their poison only. -/
theorem MemSys.bankSets_eq (ws : List (Nat × Byte)) (m : MemSys) :
    ws.foldl (fun acc w => acc.bankSet w.1 w.2) m = { m with bank := (ws.foldl (fun acc w => acc.bankSet w.1 w.2) m).bank } := by
  induction ws generalizing m with
  | nil => rfl
  | cons w r ih => rw [List.foldl_cons, ih]; rfl

theorem MemSys.bankWrites_eq (m : MemSys) (ws : List (Nat × Byte)) :
    m.bankWrites ws = { m with bank := (m.bankWrites ws).bank, bankPoison := (m.bankWrites ws).bankPoison } := by
  unfold MemSys.bankWrites
  dsimp only
  rw [MemSys.bankSets_eq]

theorem MemSys.bankGet_bankWrites (m : MemSys) (ws : List (Nat × Byte)) (q : Nat) : (m.bankWrites ws).bankGet q = (lastAt ws q).getD (m.bankGet q) := by
  show (ws.foldl (fun acc w => acc.bankSet w.1 w.2) m).bankGet q = _
  induction ws using List.reverseRecOn with
  | nil => rfl
  | append_singleton ws w ih =>
    rw [List.foldl_append, List.foldl_cons, List.foldl_nil, MemSys.bankGet_bankSet, lastAt_concat, ih]
    by_cases h : w.1 = q <;> simp [h]

/-! Lines of an L1. -/

theorem find?_putBy_same {α : Type} (p : α → Bool) {y : α} (h : p y = true) (l : List α) : (putBy p y l).find? p = some y := by
  induction l with
  | nil => simp [putBy, h]
  | cons x r ih =>
    rw [putBy]
    by_cases hx : p x = true
    · rw [if_pos hx, List.find?_cons, h]
    · rw [if_neg hx, List.find?_cons, Bool.eq_false_iff.2 hx, ih]

theorem find?_putBy_other {α : Type} (p q : α → Bool) {y : α} (h : ∀ z, p z = true → q z = false) (hy : q y = false) (l : List α) :
    (putBy p y l).find? q = l.find? q := by
  induction l with
  | nil => simp [putBy, hy]
  | cons x r ih =>
    rw [putBy]
    by_cases hx : p x = true
    · rw [if_pos hx, List.find?_cons, List.find?_cons, hy, h x hx]
    · rw [if_neg hx, List.find?_cons, List.find?_cons, ih]

theorem MemSys.l1Find_key {m : MemSys} {cl line : Nat} {x : L1Line} (h : m.l1Find cl line = some x) : x.cluster = cl ∧ x.line = line := by
  have := List.find?_some h
  simpa using this

theorem MemSys.l1Find_l1Set_same (m : MemSys) (x : L1Line) : (m.l1Set x).l1Find x.cluster x.line = some x :=
  find?_putBy_same _ (by simp) _

theorem MemSys.l1Find_l1Set_other (m : MemSys) (x : L1Line) {cl line : Nat} (h : x.cluster ≠ cl ∨ x.line ≠ line) :
    (m.l1Set x).l1Find cl line = m.l1Find cl line := by
  refine find?_putBy_other _ _ (fun z hz => ?_) ?_ _
  · simp only [Bool.and_eq_true, beq_iff_eq] at hz
    simpa [hz, imp_iff_not_or] using h
  · simpa [imp_iff_not_or] using h

theorem MemSys.l1Find_l1Drop (m : MemSys) (cl line cl' line' : Nat) :
    (m.l1Drop cl line).l1Find cl' line' = if cl' = cl ∧ line' = line then none else m.l1Find cl' line' := by
  unfold MemSys.l1Drop MemSys.l1Find
  rw [List.find?_filter]
  split
  · next h =>
    obtain ⟨rfl, rfl⟩ := h
    exact List.find?_eq_none.2 (fun x _ => by cases x.cluster == cl' && x.line == line' <;> simp)
  · next h =>
    refine congrArg (fun p => List.find? p m.l1) (funext fun x => ?_)
    by_cases hx : x.cluster = cl' ∧ x.line = line'
    · obtain ⟨rfl, rfl⟩ := hx
      simp only [not_and] at h
      simpa [imp_iff_not_or] using h
    · have : (x.cluster == cl' && x.line == line') = false := by simpa [imp_iff_not_or] using hx
      simp [this]

/-- A line that is used changes its place in the order of last use and nothing else. -/
@[simp] theorem MemSys.l1Find_l1Touch (m : MemSys) (cl line cl' line' : Nat) : (m.l1Touch cl line).l1Find cl' line' = m.l1Find cl' line' := by
  unfold MemSys.l1Touch
  split
  · rfl
  · next x hx =>
    obtain ⟨rfl, rfl⟩ := MemSys.l1Find_key hx
    have hdrop := m.l1Find_l1Drop x.cluster x.line cl' line'
    unfold MemSys.l1Drop MemSys.l1Find at hdrop
    unfold MemSys.l1Find
    rw [List.find?_append, hdrop]
    split
    · next h => obtain ⟨rfl, rfl⟩ := h; simpa [MemSys.l1Find] using hx.symm
    · next h =>
      have : (x.cluster == cl' && x.line == line') = false := by
        simp only [not_and, eq_comm (a := cl'), eq_comm (a := line')] at h
        simpa using h
      simp [this]

theorem MemSys.l1Touch_eq (m : MemSys) (cl line : Nat) : m.l1Touch cl line = { m with l1 := (m.l1Touch cl line).l1 } := by
  unfold MemSys.l1Touch
  split <;> rfl

theorem MemSys.linesOnce_l1Touch {m : MemSys} (cl line : Nat) (h : m.linesOnce = true) : (m.l1Touch cl line).linesOnce = true := by
  unfold MemSys.l1Touch
  split
  · exact h
  · next x hx =>
    obtain ⟨rfl, rfl⟩ := MemSys.l1Find_key hx
    have hrest := MemSys.linesOnce_l1Drop x.cluster x.line h
    simp only [MemSys.linesOnce, MemSys.l1Drop, decide_eq_true_eq, List.map_append, List.map_cons, List.map_nil] at hrest ⊢
    refine List.nodup_append.2 ⟨of_decide_eq_true hrest, List.nodup_singleton _, ?_⟩
    rintro k hk k' hk' rfl
    obtain ⟨y, hy, rfl⟩ := List.mem_map.1 hk
    simp only [List.mem_singleton, Prod.mk.injEq] at hk'
    simp [hk'] at hy

/-- In an L1 that lists a line once, a line that is listed is the one that is found. -/
theorem MemSys.l1Find_of_mem {m : MemSys} (h : m.linesOnce = true) {x : L1Line} (hx : x ∈ m.l1) : m.l1Find x.cluster x.line = some x := by
  simp only [MemSys.linesOnce, decide_eq_true_eq] at h
  unfold MemSys.l1Find
  generalize m.l1 = l at h hx
  induction l with
  | nil => cases hx
  | cons y r ih =>
    rw [List.map_cons, List.nodup_cons] at h
    rw [List.find?_cons]
    rcases List.mem_cons.1 hx with rfl | hr
    · simp
    · have hne : ¬ (y.cluster = x.cluster ∧ y.line = x.line) := fun e => h.1 (List.mem_map.2 ⟨x, hr, by rw [← e.1, ← e.2]⟩)
      have : (y.cluster == x.cluster && y.line == x.line) = false := by simpa [imp_iff_not_or] using hne
      rw [this]
      exact ih h.2 hr

end Sys2Proof.Machine
end

section
/-!
A store of puts (06 R175; 17 R355): its bytes are in the banks or newest in the cluster, in its L1 or on their way, and nothing else has changed. Each
operation that a store is made of keeps `State.Sending`.
-/
namespace Sys2Proof.Machine

/-! The translations of accesses. -/

theorem MemSys.noteTlb_eq (m : MemSys) (core : CoreId) (ctx : Nat) (va : W64) : m.noteTlb core ctx va = { m with tlb := (m.noteTlb core ctx va).tlb } := by
  unfold MemSys.noteTlb
  split <;> rfl

theorem MemSys.noteWalk_eq (m : MemSys) (core : CoreId) (ctx : Nat) (va : W64) : m.noteWalk core ctx va = { m with tlb := (m.noteWalk core ctx va).tlb } := by
  unfold MemSys.noteWalk
  split
  · rfl
  · dsimp only
    split
    · rfl
    · split
      · rfl
      · repeat' split
        all_goals rfl

theorem State.touch_eq (s : State) (core : CoreId) (ctx : Nat) (va : W64) :
    s.touch core ctx va = { s with m := { s.m with tlb := (s.touch core ctx va).m.tlb } } := by
  unfold State.touch
  split
  · rfl
  · split
    · rfl
    · rw [MemSys.noteTlb_eq, MemSys.noteWalk_eq]

/-- Translations that enter the TLBs change nothing else. -/
theorem State.touchAll_eq (s : State) (vas : List W64) : ∃ tlb, s.touchAll vas = { s with m := { s.m with tlb := tlb } } := by
  unfold State.touchAll
  induction vas generalizing s with
  | nil => exact ⟨s.m.tlb, rfl⟩
  | cons va r ih =>
    obtain ⟨tlb, h⟩ := ih (s.touch s.w.id.core s.w.ctx va)
    rw [s.touch_eq] at h
    rw [List.foldl_cons, s.touch_eq]
    exact ⟨tlb, h⟩

/-! The newest byte of a place. -/

/-- The byte that a message carries to a place of a line. -/
def Msg.byteAt (g : Msg) (line j : Nat) : Option Byte :=
  match g.kind with
  | .write d mask _ _ _ _ => if g.line = line ∧ mask.getLsbD j = true then some (byteOf d j) else none
  | .fill .. | .read .. | .atomic _ | .act _ => none

/-- The byte that the last of some messages carries there. -/
def sentByte (new : List Msg) (line j : Nat) : Option Byte := (new.filterMap (fun g => g.byteAt line j)).getLast?

/-- The byte that a line of an L1 keeps from its home. -/
def L1Line.dirtyByte (x : L1Line) (j : Nat) : Option Byte := if x.dirty.getLsbD j then some (byteOf x.data j) else none

/-- The byte that the focus warp's cluster keeps from its home. -/
def State.ownByte (s : State) (m : MemSys) (line j : Nat) : Option Byte :=
  if s.w.onStackCore then none else (m.l1Find s.w.cl line).bind (fun x => x.dirtyByte j)

theorem State.newest_eq (s : State) (m : MemSys) (new : List Msg) (line j : Nat) : s.newest m new line j = (s.ownByte m line j).or (sentByte new line j) := by
  refine congrArg (fun l => (s.ownByte m line j).or (List.getLast? l)) (congrArg (fun h => new.filterMap h) (funext fun g => ?_))
  unfold Msg.byteAt
  cases g.kind <;> rfl

theorem sentByte_append (a b : List Msg) (line j : Nat) : sentByte (a ++ b) line j = (sentByte b line j).or (sentByte a line j) := by
  simp [sentByte, List.filterMap_append, List.getLast?_append]

theorem sentByte_singleton (g : Msg) (line j : Nat) : sentByte [g] line j = g.byteAt line j := by
  cases h : g.byteAt line j <;> simp [sentByte, h]

/-- The cluster's byte depends on its line of the L1 alone. -/
theorem State.ownByte_congr {s : State} {m n : MemSys} {line : Nat} (h : n.l1Find s.w.cl line = m.l1Find s.w.cl line) (j : Nat) :
    s.ownByte n line j = s.ownByte m line j := by
  simp [State.ownByte, h]

/-! The operations of a store. -/

/-- A writeback that drops its line: a message carries the line's dirty bytes, where it has any. -/
theorem State.writeBack_eq (t : State) (x : L1Line) :
    ∃ new fr, t.writeBack x true false = { t with fresh := fr, m := { t.m with msgs := t.m.msgs ++ new, l1 := (t.m.l1Drop x.cluster x.line).l1 } } ∧
      (∀ g ∈ new, g.op = 0) ∧ ∀ line j, sentByte new line j = if line = x.line then x.dirtyByte j else none := by
  unfold State.writeBack State.writeBackFor
  by_cases h : x.dirty = 0
  · refine ⟨[], t.fresh, ?_, by simp, fun line j => ?_⟩
    · simp [h, MemSys.l1Back, MemSys.l1Drop]
    · simp [sentByte, L1Line.dirtyByte, h]
  · refine ⟨[t.backMsg WRef.none 0 x false], t.fresh + 1, ?_, ?_, fun line j => ?_⟩
    · rw [if_neg (fun e => h e.1)]
      rfl
    · simp [State.backMsg]
    · rw [sentByte_singleton]
      by_cases hl : x.line = line
      · simp [Msg.byteAt, State.backMsg, L1Line.dirtyByte, hl]
      · simp [Msg.byteAt, State.backMsg, hl, Ne.symm hl]

/-- Room in an L1 comes from a line of the cluster other than the one that it is for. -/
theorem State.l1Room_cases (t : State) (cl line pa : Nat) :
    t.l1Room cl line pa = t ∨ ∃ x ∈ t.m.l1, x.cluster = cl ∧ t.l1Room cl line pa = t.writeBack x true false := by
  unfold State.l1Room
  split
  · exact .inl rfl
  · dsimp only
    split
    · exact .inl rfl
    · split
      · exact .inl rfl
      · next x hx =>
        have hmem := List.mem_of_find?_eq_some hx
        simp only [MemSys.l1Mates, List.mem_filter, Bool.and_eq_true, beq_iff_eq] at hmem
        obtain ⟨hin, ⟨hcl, -⟩, -⟩ := hmem
        exact .inr ⟨x, hin, hcl, rfl⟩

/-- Bytes stored into a line of an L1 are dirty in it, over those that were. -/
theorem MemSys.l1Store_find (m : MemSys) (cl line pa slice ctx key : Nat) (evict : BitVec 2) (bit : Nat) (data : BitVec 1024) (mask : BitVec 128) (cover : Option Nat) :
    ∃ y, m.l1Store cl line pa slice ctx key evict bit data mask cover = m.l1Set y ∧ y.cluster = cl ∧ y.line = line ∧
      ∀ j < 128, y.dirtyByte j = (if mask.getLsbD j then some (byteOf data j) else none).or ((m.l1Find cl line).bind (fun x => x.dirtyByte j)) := by
  refine ⟨_, rfl, ?_⟩
  cases h : m.l1Find cl line with
  | none =>
    refine ⟨rfl, rfl, fun j hj => ?_⟩
    simp only [L1Line.dirtyByte, Option.getD_none, byteOf_mergeBytes _ _ _ hj, BitVec.getLsbD_or]
    cases mask.getLsbD j <;> simp
  | some x =>
    obtain ⟨hc, hl⟩ := MemSys.l1Find_key h
    refine ⟨hc, hl, fun j hj => ?_⟩
    simp only [L1Line.dirtyByte, Option.getD_some, byteOf_mergeBytes _ _ _ hj, BitVec.getLsbD_or]
    cases mask.getLsbD j <;> simp

/-- A state in which the puts to some lines of memory have been issued from another: their bytes are newest in the cluster, messages of the operation or
of none have been added, and a line of an L1 that is not stored to is as it was, or has left the cluster's. -/
structure State.Sending (s : State) (op : Nat) (ps : List Put) (ls : List Nat) (t : State) (new : List Msg) : Prop where
  same : t = { s with fresh := t.fresh, m := { s.m with msgs := s.m.msgs ++ new, l1 := t.m.l1 } }
  once : t.m.linesOnce = true
  ops : ∀ g ∈ new, g.op = op ∨ g.op = 0
  bytes : ∀ line j, j < 128 → s.newest t.m new line j = (if line ∈ ls then memStored ps line j else none).or (s.newest s.m [] line j)
  kept : ∀ cl line, cl ≠ s.w.cl ∨ line ∉ ls → t.m.l1Find cl line = s.m.l1Find cl line ∨ (cl = s.w.cl ∧ t.m.l1Find cl line = none)

variable {s t : State} {op : Nat} {ps : List Put} {ls : List Nat} {new : List Msg}

theorem State.Sending.start (h : s.m.linesOnce = true) : s.Sending op ps [] s [] where
  same := by rw [List.append_nil]
  once := h
  ops := by simp
  bytes := by simp
  kept := fun _ _ _ => .inl rfl

theorem State.Sending.warp (h : s.Sending op ps ls t new) : t.w = s.w := by rw [h.same]

/-- A line of the cluster's is written back and dropped. -/
theorem State.Sending.writeBack (h : s.Sending op ps ls t new) {x : L1Line} (hs : s.w.onStackCore = false) (hx : t.m.l1Find s.w.cl x.line = some x) :
    ∃ new', s.Sending op ps ls (t.writeBack x true false) new' ∧ (t.writeBack x true false).m.l1Find s.w.cl x.line = none := by
  obtain ⟨back, fr, heq, hop, hbyte⟩ := t.writeBack_eq x
  have hcl := (MemSys.l1Find_key hx).1
  have hfind (cl line : Nat) : (t.writeBack x true false).m.l1Find cl line = if cl = x.cluster ∧ line = x.line then none else t.m.l1Find cl line := by
    rw [heq, ← MemSys.l1Find_l1Drop]
    rfl
  refine ⟨new ++ back, ⟨?_, ?_, ?_, fun line j hj => ?_, fun cl line hout => ?_⟩, by rw [hfind, if_pos ⟨hcl.symm, rfl⟩]⟩
  · rw [heq, h.same]
    simp
  · rw [heq]
    exact MemSys.linesOnce_l1Drop x.cluster x.line h.once
  · intro g hg
    rcases List.mem_append.1 hg with hg | hg
    · exact h.ops g hg
    · exact .inr (hop g hg)
  · rw [← h.bytes line j hj, s.newest_eq, s.newest_eq, sentByte_append, hbyte]
    simp only [State.ownByte, hs, hfind, hcl, true_and, Bool.false_eq_true, if_false]
    by_cases hl : line = x.line
    · simp [hl, hx]
    · simp [hl]
  · rw [hfind]
    by_cases hl : cl = x.cluster ∧ line = x.line
    · exact .inr ⟨hl.1.trans hcl, if_pos hl⟩
    · rw [if_neg hl]
      exact h.kept cl line hout

theorem State.Sending.l1Room (h : s.Sending op ps ls t new) (hs : s.w.onStackCore = false) (line pa : Nat) :
    ∃ new', s.Sending op ps ls (t.l1Room s.w.cl line pa) new' := by
  rcases t.l1Room_cases s.w.cl line pa with heq | ⟨x, hx, hcl, heq⟩
  · rw [heq]
    exact ⟨new, h⟩
  · rw [heq]
    obtain ⟨new', h', -⟩ := h.writeBack hs (x := x) (hcl ▸ MemSys.l1Find_of_mem h.once hx)
    exact ⟨new', h'⟩

/-- The bytes of the lines stored to, where those of one more line are newest. -/
theorem storedBytes_concat {line l : Nat} (j : Nat) (r : Option Byte) :
    (if l ∈ ls ++ [line] then memStored ps l j else none).or r =
      if l = line then (memStored ps line j).or r else (if l ∈ ls then memStored ps l j else none).or r := by
  by_cases h : l = line
  · simp [h]
  · simp [h]

/-- A message carries the puts to a line that the cluster has no copy of. -/
theorem State.Sending.post (h : s.Sending op ps ls t new) (f : Fields) {p : Phys} {d : BitVec 1024} {mask : BitVec 128} {cover : Option Nat} {who : List WRef}
    (hnot : lineOf p.loc ∉ ls) (hown : ∀ j, s.ownByte t.m (lineOf p.loc) j = none)
    (hd : ∀ j < 128, (if mask.getLsbD j then some (byteOf d j) else none) = memStored ps (lineOf p.loc) j) :
    ∃ new', s.Sending op ps (ls ++ [lineOf p.loc]) (t.post f op p (.write d mask 0 cover who false)) new' := by
  have hfind (cl line : Nat) : (t.post f op p (.write d mask 0 cover who false)).m.l1Find cl line = t.m.l1Find cl line := rfl
  obtain ⟨g, heq, hop, hbyte⟩ : ∃ g : Msg, t.post f op p (.write d mask 0 cover who false) = { t with m := { t.m with msgs := t.m.msgs ++ [g] }, fresh := t.fresh + 1 } ∧
      g.op = op ∧ ∀ line j, g.byteAt line j = if lineOf p.loc = line ∧ mask.getLsbD j = true then some (byteOf d j) else none := ⟨_, rfl, rfl, fun _ _ => rfl⟩
  refine ⟨new ++ [g], ⟨?_, h.once, ?_, fun line j hj => ?_, fun cl line hout => ?_⟩⟩
  · rw [heq, h.same]
    simp
  · intro q hq
    rcases List.mem_append.1 hq with hq | hq
    · exact h.ops q hq
    · exact .inl (List.mem_singleton.1 hq ▸ hop)
  · rw [storedBytes_concat, s.newest_eq, sentByte_append, sentByte_singleton, hbyte, State.ownByte_congr (hfind _ _)]
    by_cases hl : line = lineOf p.loc
    · have hrest := h.bytes line j hj
      rw [s.newest_eq, hl, hown, if_neg hnot, Option.none_or, Option.none_or] at hrest
      rw [if_pos hl, hl, hown, ← hd j hj, ← hrest]
      simp
    · rw [if_neg hl, if_neg (fun e => hl e.1.symm), Option.none_or, ← s.newest_eq]
      exact h.bytes line j hj
  · rw [hfind]
    exact h.kept cl line (hout.imp_right fun e m => e (List.mem_append_left _ m))

/-- The puts to a line are dirty in the cluster's L1. -/
theorem State.Sending.l1Store (h : s.Sending op ps ls t new) (hs : s.w.onStackCore = false) {line pa slice ctx key bit : Nat} {evict : BitVec 2} {d : BitVec 1024}
    {mask : BitVec 128} {cover : Option Nat} (hnot : line ∉ ls)
    (hd : ∀ j < 128, (if mask.getLsbD j then some (byteOf d j) else none) = memStored ps line j) :
    s.Sending op ps (ls ++ [line]) { t with m := (t.m.l1Store s.w.cl line pa slice ctx key evict bit d mask cover).l1Touch s.w.cl line } new := by
  obtain ⟨y, heq, hcl, hline, hbyte⟩ := t.m.l1Store_find s.w.cl line pa slice ctx key evict bit d mask cover
  rw [heq]
  have hsame : ((t.m.l1Set y).l1Touch s.w.cl line).l1Find s.w.cl line = some y := by
    rw [MemSys.l1Find_l1Touch, ← hcl, ← hline, MemSys.l1Find_l1Set_same]
  have hother (cl l : Nat) (hne : cl ≠ s.w.cl ∨ l ≠ line) : ((t.m.l1Set y).l1Touch s.w.cl line).l1Find cl l = t.m.l1Find cl l := by
    rw [MemSys.l1Find_l1Touch, MemSys.l1Find_l1Set_other _ _ (by rw [hcl, hline]; exact hne.imp Ne.symm Ne.symm)]
  refine ⟨?_, MemSys.linesOnce_l1Touch _ _ (MemSys.linesOnce_l1Set y h.once), h.ops, fun l j hj => ?_, fun cl l hout => ?_⟩
  · rw [MemSys.l1Touch_eq, MemSys.l1Set, h.same]
  · rw [storedBytes_concat, s.newest_eq]
    by_cases hl : l = line
    · have hrest := h.bytes line j hj
      rw [s.newest_eq, if_neg hnot, Option.none_or] at hrest
      rw [if_pos hl, hl, ← hd j hj, ← hrest]
      simp only [State.ownByte, hs, hsame, Bool.false_eq_true, if_false, Option.bind_some, hbyte j hj, Option.or_assoc]
    · rw [if_neg hl, State.ownByte_congr (hother _ _ (.inr hl)), ← s.newest_eq]
      exact h.bytes l j hj
  · have hne : cl ≠ s.w.cl ∨ l ≠ line := hout.imp_right fun e m => e (m ▸ List.mem_append_right _ (List.mem_singleton_self _))
    rw [hother cl l hne]
    exact h.kept cl l (hout.imp_right fun e m => e (List.mem_append_left _ m))

/-- The puts to one line of memory. -/
theorem State.Sending.storeLine (h : s.Sending op ps ls t new) (f : Fields) (forced : Bool) {line : Nat} {p : Phys} (hp : placeIn line ps = some p)
    (hline : lineOf p.loc = line) (hnot : line ∉ ls) : ∃ new', s.Sending op ps (ls ++ [line]) (t.storeLine f op forced ps line) new' := by
  have hd : ∀ j < 128, (if (gatherBytes 128 1024 (putsIn line ps)).2.getLsbD j then some (byteOf (gatherBytes 128 1024 (putsIn line ps)).1 j) else none) =
      memStored ps line j := fun j hj => by rw [gatherBytes_at _ hj, lastAt_putsIn]
  subst hline
  simp only [State.storeLine, hp]
  by_cases hthrough : t.goesThrough f forced p = true
  · rw [if_pos hthrough, State.throughLine, h.warp]
    cases hs : s.w.onStackCore with
    | true =>
      have hnone : ∀ j, s.ownByte t.m (lineOf p.loc) j = none := fun j => by simp [State.ownByte, hs]
      cases hx : t.m.l1Find s.w.cl (lineOf p.loc) with
      | none => exact h.post f hnot hnone hd
      | some x => exact h.post f hnot hnone hd
    | false =>
      cases hx : t.m.l1Find s.w.cl (lineOf p.loc) with
      | none => exact h.post f hnot (fun j => by simp [State.ownByte, hx]) hd
      | some x =>
        have hxl := (MemSys.l1Find_key hx).2
        obtain ⟨new', h', hgone⟩ := h.writeBack hs (x := x) (by rw [hxl, hx])
        rw [hxl] at hgone
        exact h'.post f hnot (fun j => by simp [State.ownByte, hgone]) hd
  · have hs : s.w.onStackCore = false := by
      cases e : s.w.onStackCore with
      | false => rfl
      | true => simp [State.goesThrough, h.warp, e] at hthrough
    rw [if_neg hthrough, h.warp]
    obtain ⟨new', h'⟩ := h.l1Room hs (lineOf p.loc) (p.pa / 128 * 128)
    exact ⟨new', h'.l1Store hs hnot hd⟩

/-- Every line that puts go to has a place. -/
theorem placeIn_of_mem {line : Nat} (h : line ∈ putLines ps) : ∃ p, placeIn line ps = some p ∧ lineOf p.loc = line := by
  have hsome : (placeIn line ps).isSome = true := by
    simp only [putLines, List.mem_dedup, List.mem_filterMap] at h
    obtain ⟨x, hx, hl⟩ := h
    rw [placeIn, List.isSome_findSome?, List.any_eq_true]
    refine ⟨x, hx, ?_⟩
    cases hk : x.tgt with
    | bank k => simp [hk] at hl
    | mem p => simp_all
  obtain ⟨p, hp⟩ := Option.isSome_iff_exists.1 hsome
  refine ⟨p, hp, ?_⟩
  obtain ⟨x, -, hx⟩ := List.exists_of_findSome?_eq_some hp
  cases hk : x.tgt with
  | bank k => simp [hk] at hx
  | mem q =>
    simp only [hk, Option.ite_none_right_eq_some, Option.some.injEq] at hx
    exact hx.2 ▸ hx.1

theorem memStored_eq_none {line : Nat} (h : line ∉ putLines ps) (j : Nat) : memStored ps line j = none := by
  have hnone : ∀ x ∈ ps, ∀ p, x.tgt = .mem p → lineOf p.loc ≠ line := fun x hx p hp e =>
    h (List.mem_dedup.2 (List.mem_filterMap.2 ⟨x, hx, by simp [hp, e]⟩))
  unfold memStored
  rw [List.getLast?_eq_none_iff, List.filterMap_eq_nil_iff]
  intro x hx
  cases hk : x.tgt with
  | bank k => rfl
  | mem p => simp [hnone x hx p hk]

/-- The puts to all lines, one line after another. -/
theorem State.Sending.lines (f : Fields) (forced : Bool) (h : s.m.linesOnce = true) (ls : List Nat) (hnd : ls.Nodup) (hin : ∀ line ∈ ls, line ∈ putLines ps) :
    ∃ new, s.Sending op ps ls (ls.foldl (fun acc line => acc.storeLine f op forced ps line) s) new := by
  induction ls using List.reverseRecOn with
  | nil => exact ⟨[], .start h⟩
  | append_singleton ls line ih =>
    obtain ⟨hls, -, hdisj⟩ := List.nodup_append.1 hnd
    obtain ⟨new, hs⟩ := ih hls (fun l hl => hin l (List.mem_append_left _ hl))
    obtain ⟨p, hp, hline⟩ := placeIn_of_mem (hin line (by simp))
    rw [List.foldl_append]
    exact hs.storeLine f forced hp hline (fun hmem => hdisj line hmem line (by simp) rfl)

/-- A store of puts has been issued, whatever translations entered the TLBs before it. -/
theorem State.stores_of_storePuts (c : Ctx) (s : State) (forced : Bool) (vas : List W64) (ps : List Put) (h : s.m.linesOnce = true) :
    ∃ new, c.Stores s ((s.touchAll vas).storePuts c.f c.id forced ps) ps new ∧
      OnlyMemory s ((s.touchAll vas).storePuts c.f c.id forced ps) ∧ ((s.touchAll vas).storePuts c.f c.id forced ps).w = s.w := by
  obtain ⟨tlb, htouch⟩ := s.touchAll_eq vas
  rw [htouch, State.storePuts]
  have honce : (({ s.m with tlb := tlb } : MemSys).bankWrites (putBank ps)).linesOnce = true := by
    rw [MemSys.bankWrites_eq]
    exact h
  have hwrites := ({ s.m with tlb := tlb } : MemSys).bankWrites_eq (putBank ps)
  have hbank (q : Nat) := ({ s.m with tlb := tlb } : MemSys).bankGet_bankWrites (putBank ps) q
  dsimp only
  generalize ({ s.m with tlb := tlb } : MemSys).bankWrites (putBank ps) = m at honce hwrites hbank ⊢
  obtain ⟨new, hs⟩ := State.Sending.lines (s := { s with m := m }) (op := c.id) c.f forced honce (putLines ps) (List.nodup_dedup _) (fun _ hl => hl)
  have hm := hs.same
  generalize (putLines ps).foldl _ _ = t at hs hm ⊢
  have hfind (cl line : Nat) : m.l1Find cl line = s.m.l1Find cl line := by rw [hwrites]; rfl
  refine ⟨new, ⟨?_, hs.ops, fun q => ?_, fun line j hj => ?_, fun cl line hout => ?_⟩, ?_, hs.warp⟩
  · rw [hm, hwrites]
  · rw [← lastAt_putBank]
    have : t.m.bankGet q = m.bankGet q := by rw [hm]; rfl
    rw [this, hbank]
    rfl
  · refine (hs.bytes line j hj).trans ?_
    congr 1
    · split
      · rfl
      · next hnot => exact (memStored_eq_none hnot j).symm
    · rw [State.newest_eq, State.newest_eq]
      simp [State.ownByte, hfind]
  · rw [← hfind]
    refine hs.kept cl line (hout.imp_right fun hno hmem => ?_)
    obtain ⟨x, hx, hl⟩ := List.mem_filterMap.1 (List.mem_dedup.1 hmem)
    cases hk : x.tgt with
    | bank k => simp [hk] at hl
    | mem p => simp only [hk, Option.some.injEq] at hl; exact hno x hx p hk hl
  · unfold OnlyMemory
    rw [hm]

end Sys2Proof.Machine
end

section
/-!
Where accesses go, with the fault that is raised where some are bad (15 R329); and a load of pieces (06 R174, R175; 07 R205): the bytes that it has at
once, and the messages that ask for the rest.
-/
namespace Sys2Proof.Machine

/-! Bad accesses. -/

/-- The worse of a fault found so far and one more. -/
def worseOf (b : Option (Nat × TErr × W64)) (f : Nat × TErr × W64) : Option (Nat × TErr × W64) :=
  match b with
  | none => some f
  | some g => if faultRank f.2.1.code.toNat < faultRank g.2.1.code.toNat then some f else b

/-- The first fault of a list in the order of 15 R329, in its lowest lane. -/
structure FirstFault (fs : List (Nat × TErr × W64)) (f : Nat × TErr × W64) : Prop where
  mem : f ∈ fs
  least : ∀ f' ∈ fs, faultRank f.2.1.code.toNat ≤ faultRank f'.2.1.code.toNat ∧ (faultRank f.2.1.code.toNat = faultRank f'.2.1.code.toNat → f.1 ≤ f'.1)

theorem foldl_worseOf (fs : List (Nat × TErr × W64)) (hne : fs ≠ []) (hs : fs.Pairwise (fun a b => a.1 < b.1)) :
    ∃ f, fs.foldl worseOf none = some f ∧ FirstFault fs f := by
  induction fs using List.reverseRecOn with
  | nil => exact absurd rfl hne
  | append_singleton fs g ih =>
    rw [List.foldl_append, List.foldl_cons, List.foldl_nil]
    obtain ⟨hfs, -, hlast⟩ := List.pairwise_append.1 hs
    by_cases hnil : fs = []
    · subst hnil
      exact ⟨g, rfl, by simp, by simp⟩
    · obtain ⟨f, hf, hmem, hleast⟩ := ih hnil hfs
      rw [hf, worseOf]
      split
      · next hlt =>
        refine ⟨g, rfl, by simp, fun f' hf' => ?_⟩
        rcases List.mem_append.1 hf' with hf' | hf'
        · have := (hleast f' hf').1
          omega
        · rw [List.mem_singleton.1 hf']
          simp
      · next hge =>
        refine ⟨f, rfl, List.mem_append_left _ hmem, fun f' hf' => ?_⟩
        rcases List.mem_append.1 hf' with hf' | hf'
        · exact hleast f' hf'
        · rw [List.mem_singleton.1 hf']
          have := hlast f hmem g (by simp)
          omega

/-- The accesses that fail, with their lanes and addresses, and those that do not. -/
def State.failures (s : State) (n : Nat) (need : Need) (eas : List (Nat × W64)) : List (Nat × TErr × W64) :=
  eas.filterMap (fun e => match s.aim n need e.2 with | .error x => some (e.1, x, e.2) | .ok _ => none)
def State.successes (s : State) (n : Nat) (need : Need) (eas : List (Nat × W64)) : List Aim :=
  eas.filterMap (fun e => match s.aim n need e.2 with | .ok g => some ⟨e.1, e.2, g⟩ | .error _ => none)

theorem State.mem_failures {s : State} {n : Nat} {need : Need} {eas : List (Nat × W64)} {f : Nat × TErr × W64} :
    f ∈ s.failures n need eas ↔ (f.1, f.2.2) ∈ eas ∧ s.aim n need f.2.2 = .error f.2.1 := by
  simp only [State.failures, List.mem_filterMap]
  constructor
  · rintro ⟨e, he, h⟩
    split at h
    · next x hx => cases h; exact ⟨he, hx⟩
    · cases h
  · rintro ⟨he, h⟩
    exact ⟨_, he, by simp only [h]⟩

theorem State.failures_pairwise (s : State) (n : Nat) (need : Need) {eas : List (Nat × W64)} (h : eas.Pairwise (fun a b => a.1 < b.1)) :
    (s.failures n need eas).Pairwise (fun a b => a.1 < b.1) := by
  refine List.Pairwise.filterMap _ (fun a a' hlt b hb b' hb' => ?_) h
  split at hb <;> split at hb' <;> cases hb <;> cases hb'
  exact hlt

theorem Ctx.aims_eq (c : Ctx) (s : State) (n : Nat) (need : Need) (acc : Nat) (eas : List (Nat × W64)) :
    c.aims s n need acc eas = (c.worst acc (s.failures n need eas)).elim (.ok (s.successes n need eas)) .error := by
  unfold Ctx.aims State.failures State.successes
  dsimp only
  rw [List.filterMap_map, List.filterMap_map]
  simp only [Function.comp_def]
  cases c.worst acc _ <;> rfl

/-- Accesses that are all good go where their addresses say. -/
theorem Ctx.aims_of_good (c : Ctx) (s : State) (n : Nat) (need : Need) (acc : Nat) (ls : List Nat) (va : Nat → W64) (a : Nat → Target)
    (h : ∀ l ∈ ls, s.aim n need (va l) = .ok (a l)) :
    c.aims s n need acc (ls.map (fun l => (l, va l))) = .ok (ls.map (fun l => ⟨l, va l, a l⟩)) := by
  have hfail : s.failures n need (ls.map (fun l => (l, va l))) = [] := by
    refine List.eq_nil_iff_forall_not_mem.2 (fun f hf => ?_)
    obtain ⟨hmem, herr⟩ := State.mem_failures.1 hf
    obtain ⟨l, hl, he⟩ := List.mem_map.1 hmem
    obtain ⟨-, hva⟩ := Prod.mk.inj he
    rw [← hva, h l hl] at herr
    cases herr
  have hgood : s.successes n need (ls.map (fun l => (l, va l))) = ls.map (fun l => ⟨l, va l, a l⟩) := by
    rw [State.successes, List.filterMap_map, ← List.filterMap_eq_map]
    exact List.filterMap_congr (fun l hl => by simp only [Function.comp_apply, h l hl])
  rw [Ctx.aims_eq, hfail, hgood]
  rfl

/-- Where an access is bad, the fault is the first in the order of 15 R329, in its lowest lane. -/
theorem Ctx.aims_of_bad (c : Ctx) (s : State) (n : Nat) (need : Need) (acc : Nat) (ls : List Nat) (va : Nat → W64) (hs : ls.Pairwise (· < ·))
    (h32 : ∀ l ∈ ls, l < 32) (hbad : ∃ l ∈ ls, ∃ e, s.aim n need (va l) = .error e) :
    ∃ x l e, c.aims s n need acc (ls.map (fun l => (l, va l))) = .error x ∧ l ∈ ls ∧ s.aim n need (va l) = .error e ∧
      x.code = e.code ∧ x.cause = e.cause ∧ x.addr = va l ∧ x.lane.toNat = l ∧ x.offset = c.p ∧
      ∀ l' ∈ ls, ∀ e', s.aim n need (va l') = .error e' →
        faultRank e.code.toNat ≤ faultRank e'.code.toNat ∧ (faultRank e.code.toNat = faultRank e'.code.toNat → l ≤ l') := by
  have hpair : (ls.map (fun l => (l, va l))).Pairwise (fun a b => a.1 < b.1) := List.pairwise_map.2 hs
  have hmem {l : Nat} {e : TErr} (hl : l ∈ ls) (he : s.aim n need (va l) = .error e) : (l, e, va l) ∈ s.failures n need (ls.map (fun l => (l, va l))) :=
    State.mem_failures.2 ⟨List.mem_map_of_mem hl, he⟩
  obtain ⟨l₀, hl₀, e₀, he₀⟩ := hbad
  obtain ⟨⟨l, e, v⟩, hfold, hin, hleast⟩ := foldl_worseOf _ (List.ne_nil_of_mem (hmem hl₀ he₀)) (s.failures_pairwise n need hpair)
  obtain ⟨hea, herr⟩ := State.mem_failures.1 hin
  obtain ⟨k, hk, heq⟩ := List.mem_map.1 hea
  obtain ⟨rfl, rfl⟩ := Prod.mk.inj heq
  have hworst : c.worst acc (s.failures n need (ls.map (fun l => (l, va l)))) = ((s.failures n need (ls.map (fun l => (l, va l)))).foldl worseOf none).map
      (fun f => { c.info f.2.1.code.toNat f.2.1.cause.toNat (ofBits 32 ((s.failures n need (ls.map (fun l => (l, va l)))).map (fun f => f.1))) f.2.2 with
        lane := BitVec.ofNat 5 f.1
        multi := decide (2 ≤ (bitList (ofBits 32 ((s.failures n need (ls.map (fun l => (l, va l)))).map (fun f => f.1)) : Lanes)).length)
        acc := BitVec.ofNat 2 acc }) := rfl
  rw [Ctx.aims_eq, hworst, hfold]
  refine ⟨_, k, e, rfl, hk, herr, ?_, ?_, rfl, ?_, rfl, fun l' hl' e' he' => hleast _ (hmem hl' he')⟩
  · simp [Ctx.info]
  · simp [Ctx.info]
  · have := h32 k hk
    simp only [BitVec.toNat_ofNat]
    omega

/-! Loads. -/

theorem leNat_eq_foldr (bs : List Byte) : bs.foldr (fun b acc => b.toNat + 256 * acc) 0 = leNat bs := by
  induction bs with
  | nil => rfl
  | cons b r ih => rw [List.foldr_cons, ih, leNat]

theorem numOf_eq_leNat (bs : List Byte) : numOf bs = leNat bs := by
  rw [numOf, numAt, List.drop_zero, List.take_length, leNat_eq_foldr]

/-- The values that a piece of a load has at once. -/
def State.answers (s : State) (home : Bool) (x : Aim × Piece) : List (Nat × W32) × List (Nat × W64) :=
  (s.atOnce home x.2.size x.1.tgt).elim ([], []) (fun bs => x.2.vals (leNat bs))

theorem State.atOnce_mem (s : State) (home : Bool) (n : Nat) (q : Phys) :
    s.atOnce home n (.mem q) = if home || !q.l1 || s.w.onStackCore || s.lineBusy (lineOf q.loc) then none else (s.m.l1Find s.w.cl (lineOf q.loc)).bind (fun y =>
      if (List.range n).all (fun i => y.hits s.time (q.loc % 128 + i)) then some (bytesFrom y.data (q.loc % 128) n) else none) := rfl

/-- A piece that is not answered at once is to be asked at its home. -/
theorem State.loadPiece_of_none {s : State} {c : Ctx} {home : Bool} {acc : Loaded} {lane : Nat} {va : W64} {q : Phys} {p : Piece}
    (h : s.atOnce home p.size (.mem q) = none) : s.loadPiece c home acc (⟨lane, va, .mem q⟩, p) = { acc with miss := acc.miss ++ [(q, p)] } := by
  rw [State.atOnce_mem] at h
  simp only [State.loadPiece]
  by_cases hfar : (home || !q.l1 || s.w.onStackCore || s.lineBusy (lineOf q.loc)) = true
  · rw [if_pos hfar]
  · rw [if_neg hfar] at h ⊢
    cases hx : s.m.l1Find s.w.cl (lineOf q.loc) with
    | none => rfl
    | some y =>
      rw [hx, Option.bind_some, ite_eq_right_iff] at h
      exact if_neg (fun hhit => nomatch h hhit)

/-- A piece that is answered at once gives its registers their values. -/
theorem State.loadPiece_of_some {s : State} {c : Ctx} {home : Bool} {acc : Loaded} {lane : Nat} {va : W64} {q : Phys} {p : Piece} {bs : List Byte}
    (h : s.atOnce home p.size (.mem q) = some bs) :
    ∃ k, s.loadPiece c home acc (⟨lane, va, .mem q⟩, p) = { acc with vv := acc.vv ++ (p.vals (leNat bs)).1, sv := acc.sv ++ (p.vals (leNat bs)).2, marks := k } := by
  rw [State.atOnce_mem] at h
  simp only [State.loadPiece]
  by_cases hfar : (home || !q.l1 || s.w.onStackCore || s.lineBusy (lineOf q.loc)) = true
  · rw [if_pos hfar] at h
    cases h
  · rw [if_neg hfar] at h ⊢
    cases hx : s.m.l1Find s.w.cl (lineOf q.loc) with
    | none =>
      rw [hx] at h
      cases h
    | some y =>
      rw [hx, Option.bind_some] at h
      by_cases hhit : (List.range p.size).all (fun i => y.hits s.time (q.loc % 128 + i)) = true
      · rw [if_pos hhit] at h
        cases h
        dsimp only
        rw [if_pos hhit, numOf_eq_leNat]
        exact ⟨_, rfl⟩
      · rw [if_neg hhit] at h
        cases h

/-- One piece is answered at once or is to be asked at its home. -/
theorem State.loadPiece_eq (s : State) (c : Ctx) (home : Bool) (acc : Loaded) (x : Aim × Piece) :
    (s.loadPiece c home acc x).vv = acc.vv ++ (s.answers home x).1 ∧ (s.loadPiece c home acc x).sv = acc.sv ++ (s.answers home x).2 ∧
      (s.loadPiece c home acc x).miss = acc.miss ++ s.unanswered home [(x.1.tgt, x.2)] := by
  obtain ⟨⟨lane, va, tgt⟩, p⟩ := x
  cases tgt with
  | bank k =>
    have hbank : s.atOnce home p.size (.bank k) = some (s.m.bankBytes k p.size) := rfl
    simp only [State.loadPiece, State.answers, hbank, numOf_eq_leNat]
    exact ⟨rfl, rfl, (List.append_nil _).symm⟩
  | mem q =>
    cases h : s.atOnce home p.size (.mem q) with
    | none =>
      rw [State.loadPiece_of_none h]
      simp [State.answers, State.unanswered, h]
    | some bs =>
      obtain ⟨k, hk⟩ := State.loadPiece_of_some (c := c) (acc := acc) (lane := lane) (va := va) h
      rw [hk]
      simp [State.answers, State.unanswered, h]

/-- What a load has at once, and what it must ask for. -/
theorem State.foldl_loadPiece (s : State) (c : Ctx) (home : Bool) (as : List (Aim × Piece)) :
    let got := as.foldl (s.loadPiece c home) {}
    got.vv = as.flatMap (fun x => (s.answers home x).1) ∧ got.sv = as.flatMap (fun x => (s.answers home x).2) ∧
      got.miss = s.unanswered home (as.map (fun x => (x.1.tgt, x.2))) := by
  induction as using List.reverseRecOn with
  | nil => exact ⟨rfl, rfl, rfl⟩
  | append_singleton as x ih =>
    obtain ⟨hv, hs, hm⟩ := ih
    obtain ⟨hv', hs', hm'⟩ := s.loadPiece_eq c home (as.foldl (s.loadPiece c home) {}) x
    simp only [List.foldl_append, List.foldl_cons, List.foldl_nil, hv', hs', hm', hv, hs, hm]
    refine ⟨by simp, by simp, ?_⟩
    rw [List.map_append]
    exact (List.filterMap_append ..).symm

theorem MemSys.lineOfL1_l1Set_class {m : MemSys} {cl line : Nat} {x : L1Line} (hx : m.l1Find cl line = some x) (k : BitVec 2) (cl' line' : Nat) :
    (m.l1Set { x with cls := k }).lineOfL1 cl' line' = m.lineOfL1 cl' line' := by
  obtain ⟨rfl, rfl⟩ := MemSys.l1Find_key hx
  unfold MemSys.lineOfL1
  by_cases h : x.cluster = cl' ∧ x.line = line'
  · obtain ⟨rfl, rfl⟩ := h
    have := m.l1Find_l1Set_same { x with cls := k }
    rw [hx, this]
    rfl
  · rw [MemSys.l1Find_l1Set_other _ _ (by simpa [imp_iff_not_or] using h)]

/-- A load that hits changes the classes of lines and their order of use. -/
theorem State.noteHits_eq (s : State) (f : Fields) (as : List Aim) :
    ∃ l1, s.noteHits f as = { s with m := { s.m with l1 := l1 } } ∧ ∀ cl line, (s.noteHits f as).m.lineOfL1 cl line = s.m.lineOfL1 cl line := by
  unfold State.noteHits
  generalize aimLines as = lines
  induction lines using List.reverseRecOn with
  | nil => exact ⟨s.m.l1, rfl, fun _ _ => rfl⟩
  | append_singleton lines line ih =>
    rw [List.foldl_append, List.foldl_cons, List.foldl_nil]
    obtain ⟨l1, heq, hline⟩ := ih
    generalize lines.foldl _ s = t at heq hline ⊢
    split
    · exact ⟨l1, heq, hline⟩
    · next x hx =>
      refine ⟨((t.m.l1Set { x with cls := clsAfter x.cls f.evict }).l1Touch t.w.cl line).l1, ?_, fun cl' line' => ?_⟩
      · dsimp only
        rw [MemSys.l1Touch_eq, MemSys.l1Set, heq]
      · rw [← hline, ← MemSys.lineOfL1_l1Set_class hx (clsAfter x.cls f.evict)]
        simp only [MemSys.lineOfL1, MemSys.l1Find_l1Touch]

/-- The message that asks for the pieces of a line. -/
def State.Asking (s : State) (c : Ctx) (home : Bool) (xs : List (Phys × Piece)) (g : Msg) : Prop :=
  g.op = c.id ∧ g.warp = s.w.ref ∧ g.cluster = s.w.cl ∧ g.ctx = s.w.ctx ∧
    ∃ p, (xs.find? (fun x => lineOf x.1.loc == g.line)).map Prod.fst = some p ∧ g.key = p.key ∧ g.slice = p.slice ∧
      g.kind = if home then .read ((xs.filter (fun x => lineOf x.1.loc == g.line)).map (fun x => { x.2 with off := x.1.loc % 128 }))
        else .fill ((xs.filter (fun x => lineOf x.1.loc == g.line)).map (fun x => { x.2 with off := x.1.loc % 128 }))
          (p.l1 && !s.w.onStackCore && s.m.hasL1 s.w.cl && levelOf c.f == 0)

/-- The messages of the misses: one for each line. -/
theorem State.sendMisses_eq (s : State) (c : Ctx) (home : Bool) (xs : List (Phys × Piece)) (hid : c.id ≠ 0) :
    ∃ fr new, s.sendMisses c.f c.id home xs = { s with fresh := fr, m := { s.m with msgs := s.m.msgs ++ new } } ∧
      new.map (fun g => g.line) = (xs.map (fun x => lineOf x.1.loc)).dedup ∧ ∀ g ∈ new, s.Asking c home xs g := by
  unfold State.sendMisses
  have hin : ∀ line ∈ (xs.map (fun x => lineOf x.1.loc)).dedup, ∃ x ∈ xs, lineOf x.1.loc = line := fun line h => List.mem_map.1 (List.mem_dedup.1 h)
  generalize (xs.map (fun x => lineOf x.1.loc)).dedup = lines at hin
  dsimp only
  induction lines using List.reverseRecOn with
  | nil => exact ⟨s.fresh, [], by simp, rfl, by simp⟩
  | append_singleton lines line ih =>
    rw [List.foldl_append, List.foldl_cons, List.foldl_nil]
    obtain ⟨fr, new, heq, hlines, hask⟩ := ih (fun l hl => hin l (List.mem_append_left _ hl))
    rw [heq]
    obtain ⟨x, hx, hl⟩ := hin line (by simp)
    have hhead := (List.head?_filter (p := fun y : Phys × Piece => lineOf y.1.loc == line) (l := xs)).symm
    have hmem : x ∈ xs.filter (fun y => lineOf y.1.loc == line) := List.mem_filter.2 ⟨hx, by simpa using hl⟩
    cases hmine : xs.filter (fun y => lineOf y.1.loc == line) with
    | nil =>
      rw [hmine] at hmem
      cases hmem
    | cons y ys =>
      obtain ⟨p, q⟩ := y
      have hp : lineOf p.loc = line := by
        have : (p, q) ∈ xs.filter (fun y => lineOf y.1.loc == line) := hmine ▸ List.mem_cons_self
        simpa using (List.mem_filter.1 this).2
      rw [hmine] at hhead
      dsimp only [State.post]
      refine ⟨fr + 1, _, by rw [List.append_assoc], ?_, fun g hg => ?_⟩
      · rw [List.map_append, hlines, List.map_cons, List.map_nil, hp]
      · rcases List.mem_append.1 hg with hg | hg
        · exact hask g hg
        · rw [List.mem_singleton.1 hg]
          refine ⟨rfl, if_neg hid, rfl, rfl, p, ?_, rfl, rfl, ?_⟩
          · dsimp only
            rw [hp, hhead]
            rfl
          · dsimp only
            rw [hp, hmine]
            rfl

/-- What a load of pieces leaves: its values, its messages and what is outstanding. -/
structure LoadLeaves (s : State) (c : Ctx) (home : Bool) (as : List (Aim × Piece)) (t : State) (o : Op) (new : List Msg) : Prop where
  only : OnlyMemory s t
  warp : t.w = s.w
  homes : HomesKept s t
  lines : ∀ cl line, t.m.lineOfL1 cl line = s.m.lineOfL1 cl line
  asks : c.Asks s t home (s.unanswered home (as.map (fun x => (x.1.tgt, x.2)))) new
  op : o.id = c.id ∧ o.slot = slotOf c.f ∧ o.ready = none ∧ o.parts = new.length
  dests : o.dests = pieceDests (as.map (·.2))
  vvals : o.vvals = as.flatMap (fun x => (s.answers home x).1)
  svals : o.svals = as.flatMap (fun x => (s.answers home x).2)

/-- A load, where no acquire of the warp is outstanding. -/
theorem State.load_eq (s : State) (c : Ctx) (acq home : Bool) (as : List (Aim × Piece)) (hacq : s.w.acquiring = false) (hid : c.id ≠ 0) :
    ∃ t o new, s.load c acq home as = .ok { st := t, op := some o } ∧ LoadLeaves s c home as t o new := by
  obtain ⟨hvv, hsv, hmiss⟩ := s.foldl_loadPiece c home as
  obtain ⟨tlb, htouch⟩ := s.touchAll_eq (as.map (·.1.va))
  obtain ⟨l1, hnote, hline⟩ := ({ s with m := { s.m with tlb := tlb } } : State).noteHits_eq c.f (as.map (·.1))
  obtain ⟨fr, new, hsend, hlines, hask⟩ := ({ s with m := { s.m with tlb := tlb, l1 := l1 } } : State).sendMisses_eq c home
    (s.unanswered home (as.map (fun x => (x.1.tgt, x.2)))) hid
  rw [hnote] at hline
  refine ⟨_, _, new, by rw [State.load, if_neg (by simp [hacq])], ?_⟩
  simp only [htouch, hnote, hmiss, hsend, hvv, hsv]
  refine ⟨rfl, rfl, rfl, hline, ⟨rfl, hlines, hask⟩, ⟨rfl, rfl, rfl, ?_⟩, rfl, rfl, rfl⟩
  rw [← List.length_map (fun g : Msg => g.line), hlines]

end Sys2Proof.Machine
end

section
/-!
The range of SPILL and FILL (06 R184, R185): the accesses of its registers, the bytes that a SPILL stores, and the registers, lanes and values of a FILL.
-/
namespace Sys2Proof.Machine

/-! The accesses of a range. -/

/-- The size of an access, its lanes, and its address: register j in lane l. -/
def spanSize (scalar : Bool) : Nat := if scalar then 8 else 4
def spanLanes (scalar : Bool) (c : Ctx) : List Nat := if scalar then [lowLane c.g] else bitList c.g
def spanVa (base : W64) (scalar : Bool) (j l : Nat) : W64 :=
  base + BitVec.ofNat 64 ((if scalar then 8 else 128) * j) + BitVec.ofNat 64 (if scalar then 0 else 4 * l)

/-- Registers with the lanes of their accesses. -/
def spanAll (scalar : Bool) (c : Ctx) (js : List Nat) : List (Nat × Nat) := js.flatMap (fun j => (spanLanes scalar c).map (fun l => (j, l)))

theorem mem_spanAll {scalar : Bool} {c : Ctx} {js : List Nat} {p : Nat × Nat} : p ∈ spanAll scalar c js ↔ p.1 ∈ js ∧ p.2 ∈ spanLanes scalar c := by
  obtain ⟨j, l⟩ := p
  simp only [spanAll, List.mem_flatMap, List.mem_map, Prod.mk.injEq]
  constructor
  · rintro ⟨j', hj, l', hl, rfl, rfl⟩
    exact ⟨hj, hl⟩
  · rintro ⟨hj, hl⟩
    exact ⟨j, hj, l, hl, rfl, rfl⟩

theorem spanLanes_lt {scalar : Bool} {c : Ctx} (hg : c.g ≠ 0) {l : Nat} (h : l ∈ spanLanes scalar c) : l < 32 := by
  cases scalar with
  | false => exact bitList_lt h
  | true => exact List.mem_singleton.1 h ▸ bitList_lt (lowLane_mem hg)

theorem spanLanes_ne_nil {c : Ctx} (scalar : Bool) (hg : c.g ≠ 0) : spanLanes scalar c ≠ [] := by
  cases scalar with
  | false => exact List.ne_nil_of_mem (lowLane_mem hg)
  | true => exact List.cons_ne_nil _ _

theorem spanLanes_pairwise (scalar : Bool) (c : Ctx) : (spanLanes scalar c).Pairwise (· < ·) := by
  cases scalar with
  | false => exact List.Pairwise.filter _ List.pairwise_lt_range
  | true => exact List.pairwise_singleton _ _

section
variable {f : Fields} {scalar : Bool} {d : Nat}

theorem rangeScalar_eq (hd : f.d = if scalar then .s d else .v d) : rangeScalar f = scalar := by
  cases scalar <;> simp [rangeScalar, hd]
theorem rangeFirst_eq (hd : f.d = if scalar then .s d else .v d) : rangeFirst f = d := by
  cases scalar <;> simp [rangeFirst, hd]
theorem rangeStep_eq (hd : f.d = if scalar then .s d else .v d) : rangeStep f = if scalar then 8 else 128 := by
  rw [rangeStep, rangeScalar_eq hd]

theorem regAims_eq (hd : f.d = if scalar then .s d else .v d) (c : Ctx) (s : State) (need : Need) (acc j : Nat) :
    regAims f c s need acc j = c.aims s (spanSize scalar) need acc ((spanLanes scalar c).map (fun l => (l, spanVa (s.rangeBase f) scalar j l))) := by
  unfold regAims spanVa
  rw [rangeScalar_eq hd, rangeStep_eq hd]
  cases scalar <;> simp [spanSize, spanLanes]

theorem rangeTodo_eq (c : Ctx) (s : State) : rangeTodo f c s = (List.range (f.subBits 5 0 + 1)).drop (s.w.progress c.opc) := by
  unfold rangeTodo
  generalize f.subBits 5 0 + 1 = m
  generalize s.w.progress c.opc = k
  induction m with
  | zero => simp
  | succ m ih =>
    rw [List.range_succ, List.filter_append, ih]
    by_cases h : k ≤ m
    · rw [List.drop_append_of_le_length (by simpa using h)]
      simp [h]
    · rw [List.drop_eq_nil_of_le (by simp; omega), List.drop_eq_nil_of_le (by simp; omega)]
      simp [h]

/-- The registers of a range up to one of them, and the rest. -/
theorem drop_range_split {k j m : Nat} (hk : k ≤ j) (hj : j < m) : ∃ r, (List.range m).drop k = (List.range j).drop k ++ j :: r := by
  obtain ⟨n, rfl⟩ := Nat.exists_eq_add_of_lt hj
  refine ⟨(List.range n).map (fun x => j + (x + 1)), ?_⟩
  rw [show j + n + 1 = j + (n + 1) by omega, List.range_add, List.drop_append_of_le_length (by simpa using hk), List.range_succ_eq_map, List.map_cons, List.map_map]
  rfl

/-- The accesses of registers that are all good. -/
def spanAims (base : W64) (scalar : Bool) (c : Ctx) (a : Nat → Nat → Target) (js : List Nat) : List (Nat × List Aim) :=
  js.map (fun j => (j, (spanLanes scalar c).map (fun l => ⟨l, spanVa base scalar j l, a j l⟩)))

/-- Every access of the registers is good. -/
def State.SpanGood (s : State) (c : Ctx) (scalar : Bool) (base : W64) (need : Need) (a : Nat → Nat → Target) (js : List Nat) : Prop :=
  ∀ j ∈ js, ∀ l ∈ spanLanes scalar c, s.aim (spanSize scalar) need (spanVa base scalar j l) = .ok (a j l)

theorem rangeAims_of_good (hd : f.d = if scalar then .s d else .v d) {c : Ctx} {s : State} {need : Need} (acc : Nat) {a : Nat → Nat → Target} {js : List Nat}
    (h : s.SpanGood c scalar (s.rangeBase f) need a js) (rest : List Nat) :
    rangeAims f c s need acc (js ++ rest) =
      (spanAims (s.rangeBase f) scalar c a js ++ (rangeAims f c s need acc rest).1, (rangeAims f c s need acc rest).2) := by
  induction js with
  | nil => rfl
  | cons j r ih =>
    rw [List.cons_append, rangeAims, regAims_eq hd, Ctx.aims_of_good c s _ need acc _ _ _ (h j List.mem_cons_self)]
    dsimp only
    rw [ih (fun k hk => h k (List.mem_cons_of_mem _ hk))]
    rfl

theorem flatMap_spanAims {γ : Type} (base : W64) (c : Ctx) (a : Nat → Nat → Target) (js : List Nat) (k : Nat → Aim → γ) :
    (spanAims base scalar c a js).flatMap (fun x => x.2.map (k x.1)) = (spanAll scalar c js).map (fun p => k p.1 ⟨p.2, spanVa base scalar p.1 p.2, a p.1 p.2⟩) := by
  rw [spanAims, List.flatMap_map, spanAll, List.map_flatMap]
  simp only [List.map_map, Function.comp_def]

/-! The bytes of a SPILL. -/

theorem bytesOf_eq_leBytes (n x : Nat) : bytesOf n x = leBytes n x := by
  induction n generalizing x with
  | zero => rfl
  | succ n ih =>
    rw [leBytes, ← ih, bytesOf, bytesOf, List.range_succ_eq_map, List.map_cons, List.map_map]
    simp only [Nat.mul_zero, Nat.pow_zero, Nat.div_one, Function.comp_def, List.cons.injEq, true_and]
    refine List.map_congr_left (fun i _ => ?_)
    rw [Nat.div_div_eq_div_mul, Nat.succ_eq_add_one, Nat.mul_add, Nat.pow_add, Nat.mul_comm]

/-- The puts of registers, read from the register file. -/
def spanPuts (s : State) (scalar : Bool) (d : Nat) (a : Nat → Nat → Target) (all : List (Nat × Nat)) : List Put :=
  all.map (fun p => ⟨a p.1 p.2, if scalar then leBytes 8 (s.w.s.get (d + p.1)).toNat else leBytes 4 (s.w.v.get ((d + p.1) * 32 + p.2)).toNat⟩)

theorem spillPuts_eq (hd : f.d = if scalar then .s d else .v d) (c : Ctx) (s : State) (base : W64) (a : Nat → Nat → Target) {js : List Nat}
    (hset : ∀ j ∈ js, s.w.settled ((if scalar then 640 else 0) + d + j) = true) :
    (spanAims base scalar c a js).flatMap (spillPuts f s) = spanPuts s scalar d a (spanAll scalar c js) := by
  unfold spillPuts
  rw [rangeScalar_eq hd, rangeFirst_eq hd]
  refine (flatMap_spanAims base c a js (fun j (x : Aim) => (⟨x.tgt, if scalar then bytesOf 8 (s.w.readS s.tick (d + j)).toNat else
    bytesOf 4 (s.w.readV s.tick (d + j) x.lane).toNat⟩ : Put))).trans (List.map_congr_left (fun p hp => ?_))
  have hsettled := hset p.1 (mem_spanAll.1 hp).1
  cases scalar with
  | false =>
    rw [if_neg Bool.false_ne_true, Nat.zero_add] at hsettled
    simp [bytesOf_eq_leBytes, Warp.readV, Warp.early_of_settled _ hsettled]
  | true =>
    rw [if_pos rfl, Nat.add_assoc] at hsettled
    simp [bytesOf_eq_leBytes, Warp.readS, Warp.early_of_settled _ hsettled]

/-! The pieces of a FILL. -/

/-- The piece that fills register p.1 of the range in lane p.2. -/
def spanPiece (base : W64) (scalar : Bool) (d : Nat) (p : Nat × Nat) : Piece :=
  { lanes := if scalar then BitVec.allOnes 32 else BitVec.ofNat 32 (2 ^ p.2), off := 0, size := spanSize scalar, reg := d + p.1, scalar := scalar, sext := false
    va := spanVa base scalar p.1 p.2 }

theorem fillPieces_eq (hd : f.d = if scalar then .s d else .v d) (c : Ctx) (base : W64) (a : Nat → Nat → Target) (js : List Nat) :
    (spanAims base scalar c a js).flatMap (fun x => x.2.map (fun y => (y, fillPiece f (x.1, y)))) =
      (spanAll scalar c js).map (fun p => (⟨p.2, spanVa base scalar p.1 p.2, a p.1 p.2⟩, spanPiece base scalar d p)) := by
  refine (flatMap_spanAims base c a js (fun j (y : Aim) => (y, fillPiece f (j, y)))).trans (List.map_congr_left (fun p _ => ?_))
  unfold fillPiece
  rw [rangeScalar_eq hd, rangeFirst_eq hd]
  rfl

/-- The code of register j of a range. -/
def spanCode (scalar : Bool) (d j : Nat) : Nat := (if scalar then 640 else 0) + (d + j)

theorem bitList_lane : ∀ l < 32, bitList (BitVec.ofNat 32 (2 ^ l)) = [l] := by decide

theorem spanPiece_lanes_ne (base : W64) {p : Nat × Nat} (hp : p.2 < 32) : (spanPiece base scalar d p).lanes ≠ 0 := by
  cases scalar with
  | true => exact (by decide : BitVec.allOnes 32 ≠ 0)
  | false =>
    intro h
    have hl := bitList_lane p.2 hp
    rw [show BitVec.ofNat 32 (2 ^ p.2) = 0 from h] at hl
    cases hl

theorem spanPiece_regs (base : W64) (p : Nat × Nat) : (spanPiece base scalar d p).regs = [spanCode scalar d p.1] := by
  cases scalar <;> simp [spanPiece, Piece.regs, spanSize, spanCode]

theorem spanPiece_vals (base : W64) {p : Nat × Nat} (hp : p.2 < 32) (n : Nat) :
    (spanPiece base scalar d p).vals n =
      if scalar then ([], [(d + p.1, BitVec.ofNat 64 n)]) else ([((d + p.1) * 32 + p.2, BitVec.ofNat 32 n)], []) := by
  have hne := spanPiece_lanes_ne (scalar := scalar) (d := d) base hp
  cases scalar with
  | true =>
    rw [Piece.vals, if_neg hne]
    simp [spanPiece, spanSize]
  | false =>
    rw [Piece.vals, if_neg hne]
    simp only [spanPiece, Bool.false_eq_true, if_false]
    rw [bitList_lane p.2 hp]
    simp [spanSize]

theorem dedup_block {α : Type} [DecidableEq α] {y : α} {tail : List α} (h : y ∉ tail) (l : Nat) (ls : List Nat) :
    ((l :: ls).map (fun _ => y) ++ tail).dedup = y :: tail.dedup := by
  induction ls generalizing l with
  | nil => exact List.dedup_cons_of_notMem h
  | cons k ls ih => rw [List.map_cons, List.cons_append, List.dedup_cons_of_mem (by simp), ih k]

/-- Blocks of one element each, of different elements, without repetitions. -/
theorem dedup_flatMap_const {α : Type} [DecidableEq α] (ls : List Nat) (hls : ls ≠ []) (code : Nat → α) (hcode : Function.Injective code) {js : List Nat} (hjs : js.Nodup) :
    (js.flatMap (fun j => ls.map (fun _ => code j))).dedup = js.map code := by
  obtain ⟨l, ls, rfl⟩ := List.exists_cons_of_ne_nil hls
  induction js with
  | nil => rfl
  | cons j r ih =>
    obtain ⟨hj, hr⟩ := List.nodup_cons.1 hjs
    have hout : code j ∉ r.flatMap (fun j => (l :: ls).map (fun _ => code j)) := by
      simp only [List.mem_flatMap, List.mem_map, not_exists, not_and]
      exact fun k hk _ _ he => hj (hcode he ▸ hk)
    rw [List.flatMap_cons, List.map_cons (f := code), dedup_block hout, ih hr]

/-- The lanes that pieces give to a register. -/
theorem getLsbD_foldl_lanes (ps : List Piece) (r : Nat) (z : Lanes) (k : Nat) :
    (ps.foldl (fun acc p => if p.regs.contains r then acc ||| p.lanes else acc) z).getLsbD k =
      (z.getLsbD k || ps.any (fun p => p.regs.contains r && p.lanes.getLsbD k)) := by
  induction ps generalizing z with
  | nil => simp
  | cons p ps ih =>
    rw [List.foldl_cons, ih, List.any_cons]
    cases h : p.regs.contains r <;> simp [Bool.or_assoc]

theorem getLsbD_lanesOf (ps : List Piece) (r k : Nat) :
    (ps.foldl (fun acc (p : Piece) => if p.regs.contains r then acc ||| p.lanes else acc) (0 : Lanes)).getLsbD k = ps.any (fun p => p.regs.contains r && p.lanes.getLsbD k) := by
  rw [getLsbD_foldl_lanes, show (0 : Lanes).getLsbD k = false from BitVec.getLsbD_zero, Bool.false_or]

/-- The registers and lanes of a FILL. -/
theorem pieceDests_span (base : W64) {c : Ctx} (hg : c.g ≠ 0) {js : List Nat} (hjs : js.Nodup) :
    pieceDests ((spanAll scalar c js).map (spanPiece base scalar d)) =
      js.map (fun j => if scalar then (640 + d + j, BitVec.allOnes 32) else (d + j, c.g)) := by
  have hcode : Function.Injective (spanCode scalar d) := fun x y h => by unfold spanCode at h; omega
  have hregs : ((spanAll scalar c js).map (spanPiece base scalar d)).flatMap (fun p => if p.lanes = 0 then [] else p.regs) =
      js.flatMap (fun j => (spanLanes scalar c).map (fun _ => spanCode scalar d j)) := by
    rw [List.flatMap_map, spanAll, List.flatMap_assoc]
    refine List.flatMap_congr (fun j _ => ?_)
    rw [List.flatMap_map, ← List.flatMap_pure_eq_map]
    refine List.flatMap_congr (fun l hl => ?_)
    rw [if_neg (spanPiece_lanes_ne base (spanLanes_lt hg hl)), spanPiece_regs]
    rfl
  unfold pieceDests
  dsimp only
  rw [hregs, dedup_flatMap_const _ (spanLanes_ne_nil scalar hg) _ hcode hjs, List.map_map]
  refine List.map_congr_left (fun j hj => ?_)
  have hlanes : ((spanAll scalar c js).map (spanPiece base scalar d)).foldl (fun acc p => if p.regs.contains (spanCode scalar d j) then acc ||| p.lanes else acc) 0 =
      if scalar then BitVec.allOnes 32 else c.g := by
    ext k hk
    simp only [← BitVec.getLsbD_eq_getElem]
    rw [getLsbD_lanesOf, Bool.eq_iff_iff]
    simp only [List.any_map, List.any_eq_true, Function.comp_apply, spanPiece_regs, List.contains_eq_mem, List.mem_singleton,
      Bool.and_eq_true, decide_eq_true_eq, mem_spanAll]
    cases scalar with
    | true =>
      simp only [spanPiece, if_true, BitVec.getLsbD_allOnes, hk, decide_true, and_true, iff_true]
      exact ⟨(j, lowLane c.g), ⟨hj, List.mem_singleton_self _⟩, rfl⟩
    | false =>
      simp only [spanPiece, Bool.false_eq_true, if_false, BitVec.getLsbD_ofNat, hk, decide_true, Bool.true_and, Nat.testBit_two_pow, decide_eq_true_eq, spanLanes, mem_bitList]
      constructor
      · rintro ⟨⟨i, l⟩, ⟨-, hl⟩, -, rfl⟩
        exact hl
      · exact fun hl => ⟨(j, k), ⟨hj, hl⟩, rfl, rfl⟩
  rw [Function.comp_apply, hlanes]
  cases scalar <;> simp [spanCode, Nat.add_assoc]

/-- Where keys are different, a key has the value of its element. -/
theorem find?_flatMap_key {α β : Type} (all : List β) (key : β → Nat) (g : β → Option α) (hinj : ∀ p ∈ all, ∀ q ∈ all, key q = key p → q = p) {p : β} (hp : p ∈ all)
    {v : α} (hv : g p = some v) :
    ((all.flatMap (fun p => (g p).elim [] (fun v => [(key p, v)]))).find? (fun q => q.1 == key p)).map Prod.snd = some v := by
  have hmem : (key p, v) ∈ all.flatMap (fun p => (g p).elim [] (fun v => [(key p, v)])) :=
    List.mem_flatMap.2 ⟨p, hp, by rw [hv]; exact List.mem_singleton_self _⟩
  cases h : (all.flatMap (fun p => (g p).elim [] (fun v => [(key p, v)]))).find? (fun q => q.1 == key p) with
  | none => exact absurd (List.find?_eq_none.1 h _ hmem) (by simp)
  | some x =>
    obtain ⟨q, hq, hx⟩ := List.mem_flatMap.1 (List.mem_of_find?_eq_some h)
    have hkey : x.1 = key p := by simpa using List.find?_some h
    cases hg : g q with
    | none =>
      rw [hg] at hx
      cases hx
    | some y =>
      rw [hg] at hx
      cases List.mem_singleton.1 hx
      rw [hinj p hp q hq hkey, hv] at hg
      exact hg.symm

/-- The key of a vector register of the range in a lane. -/
def spanKey (d : Nat) (p : Nat × Nat) : Nat := (d + p.1) * 32 + p.2

theorem spanKey_inj {d : Nat} {p q : Nat × Nat} (hp : p.2 < 32) (hq : q.2 < 32) (h : spanKey d q = spanKey d p) : q = p := by
  unfold spanKey at h
  exact Prod.ext (by omega) (by omega)

/-- The answers that a FILL has at once, by register and lane. -/
theorem answers_span (s : State) (base : W64) (a : Nat → Nat → Target) {p : Nat × Nat} (hp : p.2 < 32) :
    s.answers false (⟨p.2, spanVa base scalar p.1 p.2, a p.1 p.2⟩, spanPiece base scalar d p) =
      (s.atOnce false (spanSize scalar) (a p.1 p.2)).elim ([], []) (fun bs =>
        if scalar then ([], [(d + p.1, BitVec.ofNat 64 (leNat bs))]) else ([((d + p.1) * 32 + p.2, BitVec.ofNat 32 (leNat bs))], [])) :=
  congrArg _ (funext fun _ => spanPiece_vals base hp _)

/-- The values that a FILL has at once. -/
theorem span_values (s : State) (base : W64) {c : Ctx} (hg : c.g ≠ 0) (a : Nat → Nat → Target) {js : List Nat} {p : Nat × Nat} (hp : p ∈ spanAll scalar c js)
    {bs : List Byte} (hbs : s.atOnce false (spanSize scalar) (a p.1 p.2) = some bs) :
    let as : List (Aim × Piece) := (spanAll scalar c js).map (fun p => (⟨p.2, spanVa base scalar p.1 p.2, a p.1 p.2⟩, spanPiece base scalar d p))
    if scalar then ((as.flatMap (fun x => (s.answers false x).2)).find? (fun q => q.1 == d + p.1)).map Prod.snd = some (BitVec.ofNat 64 (leNat bs))
    else ((as.flatMap (fun x => (s.answers false x).1)).find? (fun q => q.1 == (d + p.1) * 32 + p.2)).map Prod.snd = some (BitVec.ofNat 32 (leNat bs)) := by
  have hlt {q : Nat × Nat} (hq : q ∈ spanAll scalar c js) : q.2 < 32 := spanLanes_lt hg (mem_spanAll.1 hq).2
  intro as
  rw [List.flatMap_map, List.flatMap_map]
  cases scalar with
  | true =>
    have hsame : (spanAll true c js).flatMap (fun p => (s.answers false (⟨p.2, spanVa base true p.1 p.2, a p.1 p.2⟩, spanPiece base true d p)).2) =
        (spanAll true c js).flatMap (fun p => ((s.atOnce false (spanSize true) (a p.1 p.2)).map (fun bs => BitVec.ofNat 64 (leNat bs))).elim [] (fun v => [(d + p.1, v)])) :=
      List.flatMap_congr (fun q hq => by rw [answers_span s base a (hlt hq)]; cases s.atOnce false (spanSize true) (a q.1 q.2) <;> rfl)
    rw [if_pos rfl, hsame]
    refine find?_flatMap_key _ (fun p => d + p.1) (fun p => (s.atOnce false (spanSize true) (a p.1 p.2)).map (fun bs => BitVec.ofNat 64 (leNat bs)))
      (fun p hp q hq hk => Prod.ext (Nat.add_left_cancel hk) ?_) hp (congrArg (Option.map _) hbs)
    exact (List.mem_singleton.1 (mem_spanAll.1 hq).2).trans (List.mem_singleton.1 (mem_spanAll.1 hp).2).symm
  | false =>
    have hsame : (spanAll false c js).flatMap (fun p => (s.answers false (⟨p.2, spanVa base false p.1 p.2, a p.1 p.2⟩, spanPiece base false d p)).1) =
        (spanAll false c js).flatMap (fun p =>
          ((s.atOnce false (spanSize false) (a p.1 p.2)).map (fun bs => BitVec.ofNat 32 (leNat bs))).elim [] (fun v => [(spanKey d p, v)])) :=
      List.flatMap_congr (fun q hq => by rw [answers_span s base a (hlt hq)]; cases s.atOnce false (spanSize false) (a q.1 q.2) <;> rfl)
    rw [if_neg Bool.false_ne_true, hsame]
    exact find?_flatMap_key _ (spanKey d) (fun p => (s.atOnce false (spanSize false) (a p.1 p.2)).map (fun bs => BitVec.ofNat 32 (leNat bs)))
      (fun p hp q hq hk => spanKey_inj (hlt hp) (hlt hq) hk) hp (congrArg (Option.map _) hbs)

end

end Sys2Proof.Machine
end

section
/-!
O25: SPILL and FILL (06 R184, R185; 01 R35), the registers that are transferred and what is left where one faults.
-/
namespace Sys2Proof.Machine

/-! The two instructions, as one. -/

def spanEff (fill : Bool) (f : Fields) : Ctx → State → Eff := if fill then fillEff f else spillEff f
def spanNeed (fill : Bool) : Need := if fill then .read else .write
def spanAcc (fill : Bool) : Nat := if fill then 0 else 1
def spanInstr (fill : Bool) (f : Fields) : Instr := if fill then .fill f else .spill f

theorem exec_span (fill : Bool) (f : Fields) (s : State) :
    exec (spanInstr fill f) s = .next (runWarp (spanInstr fill f) { lat := .later } (spanEff fill f) s) := by
  cases fill <;> rfl

theorem ctxOf_span (fill : Bool) (f : Fields) (s : State) : (s.ctxOf (spanInstr fill f)).f = f ∧ (s.ctxOf (spanInstr fill f)).id ≠ 0 := by
  cases fill <;> exact ⟨rfl, Nat.succ_ne_zero _⟩

/-- Registers of a range have been transferred: stored as a SPILL stores them, or loaded as a FILL loads them, with what is then outstanding. -/
def State.SpanMoved (s : State) (c : Ctx) (fill scalar : Bool) (d : Nat) (base : W64) (a : Nat → Nat → Target) (js : List Nat) (t : State) (op : Option Op)
    (new : List Msg) : Prop :=
  if fill then
    HomesKept s t ∧ (∀ cl line, t.m.lineOfL1 cl line = s.m.lineOfL1 cl line) ∧
      c.Asks s t false (s.unanswered false ((spanAll scalar c js).map (fun p => (a p.1 p.2, spanPiece base scalar d p)))) new ∧
      ∃ o, op = some o ∧ o.id = c.id ∧ o.parts = new.length ∧ o.ready = none ∧
        o.dests = js.map (fun j => if scalar then (640 + d + j, BitVec.allOnes 32) else (d + j, c.g)) ∧
        ∀ p ∈ spanAll scalar c js, ∀ bs, s.atOnce false (spanSize scalar) (a p.1 p.2) = some bs →
          if scalar then (o.svals.find? (fun q => q.1 == d + p.1)).map Prod.snd = some (BitVec.ofNat 64 (leNat bs))
          else (o.vvals.find? (fun q => q.1 == (d + p.1) * 32 + p.2)).map Prod.snd = some (BitVec.ofNat 32 (leNat bs))
  else c.Stores s t (spanPuts s scalar d a (spanAll scalar c js)) new

/-- What a transfer leaves before its end: only the memory system has changed. -/
structure SpanLeaves (s : State) (c : Ctx) (fill scalar : Bool) (d : Nat) (base : W64) (a : Nat → Nat → Target) (js : List Nat) (t : State) (op : Option Op)
    (new : List Msg) : Prop where
  only : OnlyMemory s t
  warp : t.w = s.w
  moved : s.SpanMoved c fill scalar d base a js t op new
  slot : fill = true → ∃ o, op = some o ∧ o.slot = slotOf c.f

section
variable {f : Fields} {scalar : Bool} {d : Nat} {c : Ctx} {s : State} {a : Nat → Nat → Target} {js rest : List Nat}

/-- A SPILL that stores the registers js and is then done, or stopped by the next. -/
theorem spillEff_eq (hd : f.d = if scalar then .s d else .v d) (hacq : s.w.acquiring = false) (honce : s.m.linesOnce = true)
    (halign : (s.rangeBase f).toNat % rangeStep f = 0) (htodo : rangeTodo f c s = js ++ rest) (hrest : (rangeAims f c s .write 1 rest).1 = [])
    (hgood : s.SpanGood c scalar (s.rangeBase f) .write a js)
    (hbusy : ∀ j ∈ js, ∀ l ∈ spanLanes scalar c, ∀ q, a j l = .mem q → s.lineBusy (lineOf q.loc) = false)
    (hset : ∀ j ∈ js, s.w.settled ((if scalar then 640 else 0) + d + j) = true) :
    ∃ t op op' new, SpanLeaves s c false scalar d (s.rangeBase f) a js t op new ∧ spillEff f c s =
      (rangeAims f c s .write 1 rest).2.elim (.ok { st := t.updW (fun w => w.setResume 0), op := op' }) (fun p => stopAt c { st := t, op := op } p.1 p.2) := by
  have hmis : rangeMisaligned f c s 1 = none := if_neg (fun h => h halign)
  have hputs := spillPuts_eq hd c s (s.rangeBase f) a hset
  have hfree : (putLines (spanPuts s scalar d a (spanAll scalar c js))).any s.lineBusy = false := by
    rw [List.any_eq_false]
    intro line hline
    obtain ⟨p, -, rfl⟩ := placeIn_of_mem hline
    obtain ⟨x, hx, hxl⟩ := List.mem_filterMap.1 (List.mem_dedup.1 hline)
    obtain ⟨q, hq, rfl⟩ := List.mem_map.1 hx
    obtain ⟨hj, hl⟩ := mem_spanAll.1 hq
    cases ha : a q.1 q.2 with
    | bank k => simp [ha] at hxl
    | mem r =>
      simp only [ha, Option.some.injEq] at hxl
      rw [← hxl, hbusy _ hj _ hl r ha]
      exact Bool.false_ne_true
  unfold spillEff
  rw [hmis, htodo, rangeAims_of_good hd 1 hgood, hrest, List.append_nil]
  dsimp only
  rw [hputs, State.store, hacq, hfree]
  generalize (spanAims (s.rangeBase f) scalar c a js).flatMap (fun x => (x.2.take 1).map (·.va)) = vas
  obtain ⟨new, hstores, honly, hw⟩ := s.stores_of_storePuts c false vas (spanPuts s scalar d a (spanAll scalar c js)) honce
  generalize (s.touchAll vas).storePuts c.f c.id false (spanPuts s scalar d a (spanAll scalar c js)) = t at hstores honly hw ⊢
  cases (rangeAims f c s .write 1 rest).2 with
  | none => exact ⟨t, none, _, new, ⟨honly, hw, hstores, nofun⟩, rfl⟩
  | some p => exact ⟨t, _, none, new, ⟨honly, hw, hstores, nofun⟩, rfl⟩

/-- A FILL that loads the registers js and is then done, or stopped by the next. -/
theorem fillEff_eq (hd : f.d = if scalar then .s d else .v d) (hg : c.g ≠ 0) (hid : c.id ≠ 0) (hjs : js.Nodup) (hacq : s.w.acquiring = false)
    (halign : (s.rangeBase f).toNat % rangeStep f = 0) (htodo : rangeTodo f c s = js ++ rest) (hrest : (rangeAims f c s .read 0 rest).1 = [])
    (hgood : s.SpanGood c scalar (s.rangeBase f) .read a js) :
    ∃ t op new, SpanLeaves s c true scalar d (s.rangeBase f) a js t op new ∧ fillEff f c s =
      (rangeAims f c s .read 0 rest).2.elim (.ok { st := t.updW (fun w => w.setResume 0), op := op }) (fun p => stopAt c { st := t, op := op } p.1 p.2) := by
  have hmis : rangeMisaligned f c s 0 = none := if_neg (fun h => h halign)
  unfold fillEff
  rw [hmis, htodo, rangeAims_of_good hd 0 hgood, hrest, List.append_nil]
  dsimp only
  rw [fillPieces_eq hd]
  obtain ⟨t, o, new, heq, honly, hw, hhomes, hlines, hasks, ⟨hoid, hslot, hready, hparts⟩, hdests, hvv, hsv⟩ := s.load_eq c false false
    ((spanAll scalar c js).map (fun p => (⟨p.2, spanVa (s.rangeBase f) scalar p.1 p.2, a p.1 p.2⟩, spanPiece (s.rangeBase f) scalar d p))) hacq hid
  rw [heq]
  rw [List.map_map] at hasks hdests
  refine ⟨t, some o, new, ⟨honly, hw, ⟨hhomes, hlines, hasks, o, rfl, hoid, hparts, hready, ?_, fun p hp bs hbs => ?_⟩, fun _ => ⟨o, rfl, hslot⟩⟩, ?_⟩
  · rw [hdests, ← pieceDests_span (s.rangeBase f) hg hjs]
    rfl
  · rw [hvv, hsv]
    exact span_values s (s.rangeBase f) hg a hp hbs
  · cases (rangeAims f c s .read 0 rest).2 <;> rfl

/-- Either of them. -/
theorem spanEff_eq (fill : Bool) (hd : f.d = if scalar then .s d else .v d) (hg : c.g ≠ 0) (hid : c.id ≠ 0) (hjs : js.Nodup) (hacq : s.w.acquiring = false)
    (honce : s.m.linesOnce = true) (halign : (s.rangeBase f).toNat % rangeStep f = 0) (htodo : rangeTodo f c s = js ++ rest)
    (hrest : (rangeAims f c s (spanNeed fill) (spanAcc fill) rest).1 = [])
    (hgood : s.SpanGood c scalar (s.rangeBase f) (spanNeed fill) a js)
    (hbusy : fill = false → ∀ j ∈ js, ∀ l ∈ spanLanes scalar c, ∀ q, a j l = .mem q → s.lineBusy (lineOf q.loc) = false)
    (hset : fill = false → ∀ j ∈ js, s.w.settled ((if scalar then 640 else 0) + d + j) = true) :
    ∃ t op op' new, SpanLeaves s c fill scalar d (s.rangeBase f) a js t op new ∧ (fill = true → op' = op) ∧ spanEff fill f c s =
      (rangeAims f c s (spanNeed fill) (spanAcc fill) rest).2.elim (.ok { st := t.updW (fun w => w.setResume 0), op := op' })
        (fun p => stopAt c { st := t, op := op } p.1 p.2) := by
  cases fill with
  | false =>
    obtain ⟨t, op, op', new, hleaves, heq⟩ := spillEff_eq hd hacq honce halign htodo hrest hgood (hbusy rfl) (hset rfl)
    exact ⟨t, op, op', new, hleaves, nofun, heq⟩
  | true =>
    obtain ⟨t, op, new, hleaves, heq⟩ := fillEff_eq hd hg hid hjs hacq halign htodo hrest hgood
    exact ⟨t, op, op, new, hleaves, fun _ => rfl, heq⟩

theorem spanEff_misaligned (fill : Bool) (h : (s.rangeBase f).toNat % rangeStep f ≠ 0) :
    spanEff fill f c s = .fault { c.info 0x09 0 c.g (s.rangeBase f) with acc := BitVec.ofNat 2 (spanAcc fill) } (fun s => s) := by
  cases fill with
  | false => simp only [spanEff, Bool.false_eq_true, if_false, spillEff, rangeMisaligned, if_pos h]; rfl
  | true => simp only [spanEff, if_true, fillEff, rangeMisaligned, if_pos h]; rfl

end

/-! The two ends of a transfer. -/

theorem OnlyMemory.trans {s t u : State} (h : OnlyMemory s t) (k : OnlyMemory t u) : OnlyMemory s u := by
  unfold OnlyMemory at *
  rw [k, h]

/-- The end of an instruction that leaves an operation and no value. -/
theorem State.finish_op_went {s u : State} (i : Instr) (op : Option Op) (hl : u.w.lpc = s.w.lpc) (hc : u.w.cycle = s.w.cycle) :
    let t := (s.ctxOf i).finish .later { st := u, op := op }
    (s.ctxOf i).Went s t ∧ OnlyMemory u t ∧ t.m = u.m ∧ WarpKept u t ∧ ∀ o, op = some o → t.w.ops.getLast? = some o := by
  obtain ⟨opc, f, h⟩ : ∃ opc f, s.ctxOf i = s.issueAt opc f := by unfold State.ctxOf; split <;> exact ⟨_, _, rfl⟩
  rw [h]
  obtain ⟨o, m, a, b, sb, heq, hlast⟩ := (s.issueAt opc f).finish_eq .later { st := u, op := op }
  rw [heq]
  refine ⟨⟨fun l _ => ?_, ?_⟩, rfl, rfl, rfl, hlast⟩
  · have hadv := Warp.advance_both u.w (s.issueAt opc f).x (s.issueAt opc f).g (s.issueAt opc f).len (s.issueAt opc f).p (fun _ => State.issueAt_sub)
      (fun k hx => (congrArg (·.get k) hl).trans (State.issueAt_lpc hx)) l
    rw [hl] at hadv
    exact hadv
  · exact congrArg (· + max 1 (s.issueAt opc f).f.stall.toNat) hc

/-- Where a fault stops a transfer, what is done stays, the progress is recorded, and what is under way goes on without its slot. -/
theorem stopAt_eq (c : Ctx) (t : State) (op : Option Op) (j : Nat) (x : FaultInfo) :
    ∃ g, stopAt c { st := t, op := op } j x = .fault x g ∧ ∀ s : State, ∃ o m a b, g s =
      { t with fresh := t.fresh + 1, w := { t.w with csr := { t.w.csr with resume := resumeWord c.opc j }, ops := o, marks := m, arr := a, absent := b } } ∧
        ∀ q, op = some q → o.getLast? = some { q with slot := none } := by
  refine ⟨_, rfl, fun s => ?_⟩
  cases op with
  | none => exact ⟨_, _, _, _, rfl, nofun⟩
  | some q =>
    obtain ⟨o, m, a, b, heq⟩ := Warp.noteWrites_eq q.dests { (t.w.setResume (resumeWord c.opc j)) with arr := s.w.arr }
    refine ⟨_, _, _, _, by dsimp only; rw [heq]; rfl, ?_⟩
    rintro q' ⟨⟩
    exact List.getLast?_concat

theorem State.SpanMoved.congr {s t t' : State} {c : Ctx} {fill scalar : Bool} {d : Nat} {base : W64} {a : Nat → Nat → Target} {js : List Nat} {op : Option Op}
    {new : List Msg} (h : s.SpanMoved c fill scalar d base a js t op new) (hm : t'.m = t.m) : s.SpanMoved c fill scalar d base a js t' op new := by
  unfold State.SpanMoved HomesKept Ctx.Asks Ctx.Stores at *
  rw [hm]
  exact h

/-! The premises of the statement. -/

theorem progress_eq (w : Warp) (opc : Nat) :
    w.progress opc = if fieldOf w.csr.resume 31 31 = 1 ∧ fieldOf w.csr.resume 15 8 = opc then fieldOf w.csr.resume 6 0 else 0 := by
  have hvalid : w.csr.resume.getLsbD 31 = true ↔ fieldOf w.csr.resume 31 31 = 1 := by
    have hbit := testBit_fieldOf w.csr.resume 31 31 0
    have hlt : fieldOf w.csr.resume 31 31 < 2 := Nat.mod_lt _ (by decide)
    rw [Nat.testBit_zero] at hbit
    simp only [show (0 : Nat) < 31 + 1 - 31 by decide, decide_true, Bool.true_and, Nat.add_zero] at hbit
    rw [← hbit, decide_eq_true_eq]
    omega
  unfold Warp.progress
  simp only [hvalid]

/-- A SPILL reads the registers of its range. -/
theorem settled_of_spill {f : Fields} {scalar : Bool} {d : Nat} {s : State} (hd : f.d = if scalar then .s d else .v d) (h : s.clear (.spill f) = true) {j : Nat}
    (hj : j < f.subBits 5 0 + 1) : s.w.settled ((if scalar then 640 else 0) + d + j) = true := by
  have hsettle := (State.clear_facts (i := .spill f) (f := f) rfl h).settle
  refine List.all_eq_true.1 hsettle _ (List.mem_append_right _ ?_)
  have hreg : (if scalar then 640 else 0) + d + j ∈ regsOf (.range (f.subBits 5 0 + 1)) f.d := by
    rw [hd]
    cases scalar with
    | false => exact List.mem_map.2 ⟨j, List.mem_range.2 hj, by simp⟩
    | true => exact List.mem_map.2 ⟨j, List.mem_range.2 hj, rfl⟩
  simp only [readsOf, regsWhere, List.append_assoc]
  exact List.mem_append_left _ hreg

theorem State.rangeBase_consumed (s : State) (i : Instr) (f : Fields) : (s.consumed i).rangeBase f = s.rangeBase f := by
  simp [State.rangeBase]

theorem State.aim_consumed (s : State) (i : Instr) (n : Nat) (need : Need) (va : W64) : (s.consumed i).aim n need va = s.aim n need va := by
  obtain ⟨a, h⟩ := s.consumed_eq i
  rw [h]
  rfl

/-- The operation that a transfer leaves becomes the last of the warp's. -/
theorem State.SpanMoved.last {s t : State} {c : Ctx} {fill scalar : Bool} {d : Nat} {base : W64} {a : Nat → Nat → Target} {js : List Nat} {op : Option Op}
    {new : List Msg} (h : s.SpanMoved c fill scalar d base a js t op new) {slot : Op → Option Nat}
    (hlast : fill = true → ∀ o, op = some o → t.w.ops.getLast? = some { o with slot := slot o }) :
    s.SpanMoved c fill scalar d base a js t t.w.ops.getLast? new := by
  cases fill with
  | false => exact h
  | true =>
    obtain ⟨hhomes, hlines, hasks, o, ho, hrest⟩ := h
    exact ⟨hhomes, hlines, hasks, _, hlast rfl o ho, hrest⟩

section
variable {fill scalar : Bool} {f : Fields} {s : State} {d : Nat} {a : Nat → Nat → Target}

theorem span_lanes_ne (hclear : s.clear (spanInstr fill f) = true) : (s.ctxOf (spanInstr fill f)).g ≠ 0 := by
  cases fill with
  | false => exact (State.clear_facts (i := .spill f) (f := f) rfl hclear).lanes
  | true => exact (State.clear_facts (i := .fill f) (f := f) rfl hclear).lanes

/-- Where RESUME says that the transfer starts. -/
def spanStart (s : State) (c : Ctx) : Nat :=
  if fieldOf s.w.csr.resume 31 31 = 1 ∧ fieldOf s.w.csr.resume 15 8 = c.opc then fieldOf s.w.csr.resume 6 0 else 0

/-- A base that is not aligned. -/
theorem span_misaligned (hclear : s.clear (spanInstr fill f) = true) (h : (s.rangeBase f).toNat % rangeStep f ≠ 0) :
    exec (spanInstr fill f) s = .next (s.raise { (s.ctxOf (spanInstr fill f)).info 0x09 0 (s.ctxOf (spanInstr fill f)).g (s.rangeBase f) with
      acc := if fill then 0 else 1 }) := by
  have heff := spanEff_misaligned (c := s.ctxOf (spanInstr fill f)) (s := s.consumed (spanInstr fill f)) (f := f) fill (by rw [State.rangeBase_consumed]; exact h)
  rw [exec_span, runWarp_of_fault hclear heff (by decide : (0x09 : BitVec 8) ≠ 0), State.rangeBase_consumed]
  cases fill <;> rfl

/-- The effect of a transfer of the registers js, which ends with the last of the range or is stopped by the next. -/
theorem span_transfer (hclear : s.clear (spanInstr fill f) = true) (hacq : s.w.acquiring = false) (honce : s.m.linesOnce = true)
    (hd : f.d = if scalar then .s d else .v d) (halign : (s.rangeBase f).toNat % rangeStep f = 0) {js rest : List Nat}
    (htodo : (List.range (f.subBits 5 0 + 1)).drop (spanStart s (s.ctxOf (spanInstr fill f))) = js ++ rest)
    (hgood : s.SpanGood (s.ctxOf (spanInstr fill f)) scalar (s.rangeBase f) (spanNeed fill) a js)
    (hbusy : fill = false → ∀ j ∈ js, ∀ l ∈ spanLanes scalar (s.ctxOf (spanInstr fill f)), ∀ q, a j l = .mem q → s.lineBusy (lineOf q.loc) = false)
    (hrest : (rangeAims f (s.ctxOf (spanInstr fill f)) (s.consumed (spanInstr fill f)) (spanNeed fill) (spanAcc fill) rest).1 = []) :
    ∃ t op op' new, OnlyMemory s t ∧ (∃ b, t.w = { s.w with arr := b }) ∧
      s.SpanMoved (s.ctxOf (spanInstr fill f)) fill scalar d (s.rangeBase f) a js t op new ∧
      (fill = true → ∃ o, op = some o ∧ o.slot = slotOf (s.ctxOf (spanInstr fill f)).f) ∧ (fill = true → op' = op) ∧
      spanEff fill f (s.ctxOf (spanInstr fill f)) (s.consumed (spanInstr fill f)) =
        (rangeAims f (s.ctxOf (spanInstr fill f)) (s.consumed (spanInstr fill f)) (spanNeed fill) (spanAcc fill) rest).2.elim
          (.ok { st := t.updW (fun w => w.setResume 0), op := op' }) (fun p => stopAt (s.ctxOf (spanInstr fill f)) { st := t, op := op } p.1 p.2) := by
  have hg := span_lanes_ne hclear
  have hsub {j : Nat} (hj : j ∈ js) : j < f.subBits 5 0 + 1 :=
    List.mem_range.1 (List.mem_of_mem_drop (htodo ▸ List.mem_append_left rest hj))
  have hjs : js.Nodup := (List.nodup_append.1 (htodo ▸ List.nodup_range.sublist (List.drop_sublist _ _))).1
  have hset : fill = false → ∀ j ∈ js, s.w.settled ((if scalar then 640 else 0) + d + j) = true := by
    rintro rfl j hj
    exact settled_of_spill hd hclear (hsub hj)
  obtain ⟨-, hid⟩ := ctxOf_span fill f s
  generalize s.ctxOf (spanInstr fill f) = c at *
  have hbase := s.rangeBase_consumed (spanInstr fill f) f
  have haim := s.aim_consumed (spanInstr fill f)
  obtain ⟨b, hs'⟩ := s.consumed_eq (spanInstr fill f)
  generalize s.consumed (spanInstr fill f) = s' at *
  have htodo' : rangeTodo f c s' = js ++ rest := by
    rw [rangeTodo_eq, progress_eq, ← htodo, hs']
    rfl
  obtain ⟨t, op, op', new, ⟨honly, hw, hmoved, hslot⟩, hop, heff⟩ := spanEff_eq (s := s') (a := a) fill hd hg hid hjs (by rw [hs']; exact hacq) (by rw [hs']; exact honce)
    (by rw [hbase]; exact halign) htodo' hrest (fun j hj l hl => by rw [haim, hbase]; exact hgood j hj l hl) (by rw [hs']; exact hbusy) (by rw [hs']; exact hset)
  refine ⟨t, op, op', new, ?_, ⟨b, by rw [hw, hs']⟩, ?_, hslot, hop, heff⟩
  · rw [hs'] at honly
    exact honly
  · rw [hbase, hs'] at hmoved
    exact hmoved

/-- A transfer of the whole range, from where RESUME says. -/
theorem span_whole (hclear : s.clear (spanInstr fill f) = true) (hacq : s.w.acquiring = false) (honce : s.m.linesOnce = true)
    (hd : f.d = if scalar then .s d else .v d) (halign : (s.rangeBase f).toNat % rangeStep f = 0) {js : List Nat}
    (htodo : (List.range (f.subBits 5 0 + 1)).drop (spanStart s (s.ctxOf (spanInstr fill f))) = js)
    (hgood : s.SpanGood (s.ctxOf (spanInstr fill f)) scalar (s.rangeBase f) (spanNeed fill) a js)
    (hbusy : fill = false → ∀ j ∈ js, ∀ l ∈ spanLanes scalar (s.ctxOf (spanInstr fill f)), ∀ q, a j l = .mem q → s.lineBusy (lineOf q.loc) = false) :
    ∃ t new, exec (spanInstr fill f) s = .next t ∧ (s.ctxOf (spanInstr fill f)).Went s t ∧ OnlyMemory s t ∧
      WarpKept (s.updW (fun w => { w with csr := { w.csr with resume := 0 } })) t ∧
      s.SpanMoved (s.ctxOf (spanInstr fill f)) fill scalar d (s.rangeBase f) a js t t.w.ops.getLast? new ∧ (fill = true → ∃ o, t.w.ops.getLast? = some o ∧ o.slot = slotOf f) := by
  obtain ⟨u, op, op', new, honly, ⟨b, hw⟩, hmoved, hslot, hop, heff⟩ := span_transfer hclear hacq honce hd halign (rest := []) (by rw [htodo, List.append_nil]) hgood hbusy rfl
  have hrun := runWarp_of_ok (pl := { lat := .later }) hclear (heff.trans rfl)
  obtain ⟨hwent, hfin, hm, hkept, hlast⟩ := State.finish_op_went (s := s) (u := u.updW (fun w => w.setResume 0)) (spanInstr fill f) op'
    (by rw [State.updW, hw]; rfl) (by rw [State.updW, hw]; rfl)
  refine ⟨_, new, by rw [exec_span, hrun], hwent, honly.trans (OnlyMemory.trans (t := u.updW (fun w => w.setResume 0)) rfl hfin), ?_, ?_, ?_⟩
  · unfold WarpKept at hkept ⊢
    rw [hkept, State.updW, hw]
    rfl
  · exact (hmoved.congr hm).last (slot := Op.slot) (fun hf o ho => hlast o ((hop hf).trans ho))
  · rintro rfl
    obtain ⟨o, ho, ho'⟩ := hslot rfl
    exact ⟨o, hlast o ((hop rfl).trans ho), by rw [ho', (ctxOf_span true f s).1]⟩

/-- A transfer that the register j stops. -/
theorem span_stopped (hclear : s.clear (spanInstr fill f) = true) (hacq : s.w.acquiring = false) (honce : s.m.linesOnce = true)
    (hd : f.d = if scalar then .s d else .v d) (halign : (s.rangeBase f).toNat % rangeStep f = 0) {j : Nat} {js : List Nat}
    (hjs : (List.range j).drop (spanStart s (s.ctxOf (spanInstr fill f))) = js)
    (hj : spanStart s (s.ctxOf (spanInstr fill f)) ≤ j) (hm : j < f.subBits 5 0 + 1)
    (hgood : s.SpanGood (s.ctxOf (spanInstr fill f)) scalar (s.rangeBase f) (spanNeed fill) a js)
    (hbusy : fill = false → ∀ j ∈ js, ∀ l ∈ spanLanes scalar (s.ctxOf (spanInstr fill f)), ∀ q, a j l = .mem q → s.lineBusy (lineOf q.loc) = false)
    (hbad : ∃ l ∈ spanLanes scalar (s.ctxOf (spanInstr fill f)), ∃ e, s.aim (spanSize scalar) (spanNeed fill) (spanVa (s.rangeBase f) scalar j l) = .error e)
    (hwait : ∀ l ∈ spanLanes scalar (s.ctxOf (spanInstr fill f)), ∀ e,
      s.aim (spanSize scalar) (spanNeed fill) (spanVa (s.rangeBase f) scalar j l) = .error e → e.code ≠ 0) :
    ∃ (u : State) (new : List Msg) (x : FaultInfo), exec (spanInstr fill f) s = .next (u.raise x) ∧ OnlyMemory s u ∧ u.w.lpc = s.w.lpc ∧ u.w.cycle = s.w.cycle ∧
      u.w.sb = s.w.sb ∧
      WarpKept (s.updW (fun w => { w with csr := { w.csr with resume := resumeWord (s.ctxOf (spanInstr fill f)).opc j } })) u ∧
      s.SpanMoved (s.ctxOf (spanInstr fill f)) fill scalar d (s.rangeBase f) a js u u.w.ops.getLast? new ∧
      (fill = true → ∃ o, u.w.ops.getLast? = some o ∧ o.slot = none) ∧ x.offset = (s.ctxOf (spanInstr fill f)).p ∧
      ∃ l ∈ spanLanes scalar (s.ctxOf (spanInstr fill f)), ∃ e, s.aim (spanSize scalar) (spanNeed fill) (spanVa (s.rangeBase f) scalar j l) = .error e ∧
        x.code = e.code ∧ x.cause = e.cause ∧ x.addr = spanVa (s.rangeBase f) scalar j l ∧ x.lane.toNat = l ∧
        ∀ l' ∈ spanLanes scalar (s.ctxOf (spanInstr fill f)), ∀ e', s.aim (spanSize scalar) (spanNeed fill) (spanVa (s.rangeBase f) scalar j l') = .error e' →
          faultRank e.code.toNat ≤ faultRank e'.code.toNat ∧ (faultRank e.code.toNat = faultRank e'.code.toNat → l ≤ l') := by
  obtain ⟨rest, hrest⟩ := drop_range_split hj hm
  have hg := span_lanes_ne hclear
  have haim := s.aim_consumed (spanInstr fill f)
  obtain ⟨x, l, e, haims, hl, he, hcode, hcause, haddr, hlane, hoffset, hfirst⟩ := Ctx.aims_of_bad (s.ctxOf (spanInstr fill f)) (s.consumed (spanInstr fill f))
    (spanSize scalar) (spanNeed fill) (spanAcc fill) (spanLanes scalar (s.ctxOf (spanInstr fill f))) (spanVa (s.rangeBase f) scalar j)
    (spanLanes_pairwise _ _) (fun _ => spanLanes_lt hg) (by simpa only [haim] using hbad)
  simp only [haim] at he hfirst
  have hstop : rangeAims f (s.ctxOf (spanInstr fill f)) (s.consumed (spanInstr fill f)) (spanNeed fill) (spanAcc fill) (j :: rest) = ([], some (j, x)) := by
    rw [rangeAims, regAims_eq hd, State.rangeBase_consumed, haims]
  obtain ⟨t, op, op', new, honly, ⟨b, hw⟩, hmoved, hslot, -, heff⟩ := span_transfer hclear hacq honce hd halign (by rw [hrest, hjs]) hgood hbusy (by rw [hstop])
  obtain ⟨g, hstopped, hg'⟩ := stopAt_eq (s.ctxOf (spanInstr fill f)) t op j x
  obtain ⟨o, m, arr, ab, hgs, hlast⟩ := hg' s
  rw [hstop] at heff
  have hrun := runWarp_of_fault (pl := { lat := .later }) hclear (heff.trans hstopped) (by rw [hcode]; exact hwait l hl e he)
  refine ⟨g s, new, x, by rw [exec_span, hrun], ?_, by rw [hgs, hw], by rw [hgs, hw], by rw [hgs, hw], by rw [hgs, hw]; rfl, ?_, ?_, hoffset,
    l, hl, e, he, hcode, hcause, haddr, hlane, hfirst⟩
  · rw [hgs]
    exact honly.trans rfl
  · exact (hmoved.congr (t' := g s) (by rw [hgs])).last (slot := fun _ => none) (fun _ q hq => by rw [hgs]; exact hlast q hq)
  · rintro rfl
    obtain ⟨q, hq, -⟩ := hslot rfl
    exact ⟨_, by rw [hgs]; exact hlast q hq, rfl⟩

end

/-- Settles O25: the effect of either instruction is a store or a load of the registers that it reaches, then its end or the fault that stops it. -/
theorem spillFill : Obligations.SpillFill := by
  intro fill scalar f s d a i c m base size need va ls done piece good moved hclear hacq honce hd
  have hstep : (if scalar then 8 else 128) = rangeStep f := (rangeStep_eq hd).symm
  rw [hstep]
  refine ⟨fun h => span_misaligned hclear h, fun halign hgood => ?_, fun j halign hdone hj hgood hbad hwait => ?_⟩
  · exact span_whole hclear hacq honce hd halign rfl (fun j hj l hl => (hgood j hj l hl).1) (fun hf j hj l hl => (hgood j hj l hl).2 hf)
  · exact span_stopped hclear hacq honce hd halign rfl hdone hj (fun k hk l hl => (hgood k hk l hl).1) (fun hf k hk l hl => (hgood k hk l hl).2 hf) hbad hwait

end Sys2Proof.Machine
end

section
/-!
Exact arithmetic and rounding to an integer (02 R48, R50-R52): sums and products of finite values, and m * 2^-sh rounded in each mode.
-/
namespace Sys2Proof.Machine

/-! Rounding to an integer (02 R50). -/

/-- Whether a quotient q with remainder r of a division by d is rounded up. -/
def roundsUp (rm : Rm) (neg : Bool) (q r d : Nat) : Bool :=
  match rm with
  | .rne => decide (d < 2 * r) || (2 * r == d && q % 2 == 1)
  | .rtz => false
  | .rup => !neg && r != 0
  | .rdn => neg && r != 0
  | .rna => decide (d ≤ 2 * r)

/-- The model's rounding, whose shift stops past the highest bit of m. -/
theorem roundShift_cut (rm : Rm) (neg : Bool) (m sh : Nat) :
    roundShift rm neg m sh =
      let d := 2 ^ min sh (Nat.log2 m + 3)
      (m / d + (roundsUp rm neg (m / d) (m % d) d).toNat, m % d != 0) := by
  have hadd : ∀ (up : Bool) (q : Nat), (if up = true then q + 1 else q) = q + up.toNat := by
    rintro (_ | _) q <;> rfl
  have h : roundShift rm neg m sh =
      let d := 2 ^ min sh (Nat.log2 m + 3)
      (if roundsUp rm neg (m / d) (m % d) d = true then m / d + 1 else m / d, m % d != 0) := by cases rm <;> rfl
  simp only [h, hadd]

/-- A magnitude is rounded as its quotient and remainder by 2^sh say: past the highest bit both are 0 and m, and m is less than a half. -/
theorem roundShift_eq (rm : Rm) (neg : Bool) (m sh : Nat) :
    roundShift rm neg m sh = (m / 2 ^ sh + (roundsUp rm neg (m / 2 ^ sh) (m % 2 ^ sh) (2 ^ sh)).toNat, m % 2 ^ sh != 0) := by
  rw [roundShift_cut]
  rcases Nat.lt_or_ge (Nat.log2 m + 3) sh with h | h
  · have hm : 4 * m < 2 ^ (Nat.log2 m + 3) := by
      have hlog : m < 2 ^ (Nat.log2 m + 1) := Nat.lt_log2_self
      rw [show Nat.log2 m + 3 = (Nat.log2 m + 1) + 2 from rfl, Nat.pow_add]
      omega
    have hp : 2 ^ (Nat.log2 m + 3) < 2 ^ sh := Nat.pow_lt_pow_right (by omega) h
    have hup : roundsUp rm neg 0 m (2 ^ (Nat.log2 m + 3)) = roundsUp rm neg 0 m (2 ^ sh) := by
      cases rm <;> simp [roundsUp] <;> omega
    simp only [Nat.min_eq_right h.le, Nat.mod_eq_of_lt (by omega : m < 2 ^ (Nat.log2 m + 3)), Nat.mod_eq_of_lt (by omega : m < 2 ^ sh),
      Nat.div_eq_of_lt (by omega : m < 2 ^ (Nat.log2 m + 3)), Nat.div_eq_of_lt (by omega : m < 2 ^ sh), hup]
  · simp only [Nat.min_eq_left h]

theorem roundsUp_of_exact {rm : Rm} {neg : Bool} {q d : Nat} (hd : 0 < d) : roundsUp rm neg q 0 d = false := by
  cases rm <;> simp [roundsUp] <;> omega

/-- The two roundings toward an end are the floor and the ceiling (02 R50). -/
theorem ceilDiv_eq (m : Nat) {d : Nat} (hd : 0 < d) : (m + d - 1) / d = m / d + (m % d != 0).toNat := by
  have hm := Nat.div_add_mod m d
  rcases Nat.eq_zero_or_pos (m % d) with hr | hr
  · rw [hr, Nat.add_zero] at hm
    simp only [hr, bne_self_eq_false, Bool.toNat_false, Nat.add_zero]
    rw [Nat.div_eq_of_lt_le] <;> nlinarith [Nat.sub_add_cancel (show 1 ≤ m + d by omega)]
  · have hlt := Nat.mod_lt m hd
    rw [show (m % d != 0) = true by simpa using hr.ne']
    rw [Nat.div_eq_of_lt_le] <;> simp only [Bool.toNat_true] <;> nlinarith [Nat.sub_add_cancel (show 1 ≤ m + d by omega)]

/-- How far a rounded quotient lies from the exact one. -/
theorem rounded_sub_exact (m : Nat) {d : Nat} (hd : 0 < d) (up : Bool) :
    ((m / d + up.toNat : Nat) : ℚ) - (m : ℚ) / d = up.toNat - (m % d : Nat) / (d : ℚ) := by
  have hm : (m : ℚ) = d * (m / d : Nat) + (m % d : Nat) := by exact_mod_cast (Nat.div_add_mod m d).symm
  have hd' : (d : ℚ) ≠ 0 := by exact_mod_cast hd.ne'
  push_cast
  field_simp
  linarith

/-- To the nearest: within a half, and at a half away from zero (RNA) or to an even result (RNE) (02 R50). -/
theorem rounded_near {rm : Rm} (hrm : rm = .rne ∨ rm = .rna) (neg : Bool) (m : Nat) {d : Nat} (hd : 0 < d) :
    let up := roundsUp rm neg (m / d) (m % d) d
    let z : ℚ := ((m / d + up.toNat : Nat) : ℚ) - (m : ℚ) / d
    |z| ≤ 1 / 2 ∧ (|z| = 1 / 2 → if rm = .rne then (m / d + up.toNat) % 2 = 0 else 0 < z) := by
  intro up z
  have hz : z = up.toNat - (m % d : Nat) / (d : ℚ) := rounded_sub_exact m hd up
  generalize hf : (m % d : Nat) / (d : ℚ) = f at hz
  have hd' : (0 : ℚ) < d := by exact_mod_cast hd
  have hfd : 2 * f * d = (2 * (m % d) : Nat) := by
    rw [← hf]
    push_cast
    field_simp
  have hlo : 0 ≤ f := hf ▸ by positivity
  have hhi : f < 1 := hf ▸ (div_lt_one hd').mpr (by exact_mod_cast Nat.mod_lt m hd)
  have hge : d ≤ 2 * (m % d) ↔ 1 / 2 ≤ f := by
    rw [← Nat.cast_le (α := ℚ), ← hfd]
    constructor <;> intro h <;> nlinarith
  have hle : 2 * (m % d) ≤ d ↔ f ≤ 1 / 2 := by
    rw [← Nat.cast_le (α := ℚ), ← hfd]
    constructor <;> intro h <;> nlinarith
  cases hup : up with
  | true =>
    have h : 1 / 2 ≤ f := hge.mp (by rcases hrm with rfl | rfl <;> simp [up, roundsUp] at hup <;> omega)
    simp only [hup, Bool.toNat_true, Nat.cast_one] at hz ⊢
    have hz0 : 0 < z := by linarith
    refine ⟨by rw [abs_of_pos hz0]; linarith, fun he => ?_⟩
    rcases hrm with rfl | rfl
    · have hf2 : f = 1 / 2 := by rw [abs_of_pos hz0] at he; linarith
      have := hle.mpr hf2.le
      simp only [up, roundsUp, Bool.or_eq_true, Bool.and_eq_true, decide_eq_true_eq, beq_iff_eq] at hup
      rw [if_pos rfl]
      omega
    · exact hz0
  | false =>
    have h : f ≤ 1 / 2 := hle.mp (by rcases hrm with rfl | rfl <;> simp [up, roundsUp] at hup <;> omega)
    simp only [hup, Bool.toNat_false, Nat.cast_zero, zero_sub] at hz ⊢
    rw [hz, abs_neg, abs_of_nonneg hlo]
    refine ⟨h, fun he => ?_⟩
    have := hge.mpr he.ge
    have := hle.mpr h
    rcases hrm with rfl | rfl <;> simp [up, roundsUp] at hup ⊢ <;> omega

/-- The modes of 02 R50: what an integer rounding gives, and whether it cut anything off. -/
theorem roundShift_spec (rm : Rm) (neg : Bool) (m sh : Nat) :
    let r := roundShift rm neg m sh
    let x : ℚ := (m : ℚ) / 2 ^ sh
    (r.2 = true ↔ m % 2 ^ sh ≠ 0) ∧ (r.2 = false → (r.1 : ℚ) = x) ∧
    match rm with
    | .rtz => r.1 = m / 2 ^ sh
    | .rup => r.1 = if neg then m / 2 ^ sh else (m + 2 ^ sh - 1) / 2 ^ sh
    | .rdn => r.1 = if neg then (m + 2 ^ sh - 1) / 2 ^ sh else m / 2 ^ sh
    | .rne => |(r.1 : ℚ) - x| ≤ 1 / 2 ∧ (|(r.1 : ℚ) - x| = 1 / 2 → r.1 % 2 = 0)
    | .rna => |(r.1 : ℚ) - x| ≤ 1 / 2 ∧ (|(r.1 : ℚ) - x| = 1 / 2 → x < r.1) := by
  have hd : 0 < 2 ^ sh := Nat.two_pow_pos sh
  rw [roundShift_eq]
  intro r x
  have hx : x = (m : ℚ) / (2 ^ sh : Nat) := by simp [x]
  refine ⟨by simp [r], fun h => ?_, ?_⟩
  · have h0 : m % 2 ^ sh = 0 := by simpa [r] using h
    have := rounded_sub_exact m hd false
    simp only [h0, Bool.toNat_false, Nat.cast_zero, zero_div, sub_zero, Nat.add_zero] at this
    simp only [r, h0, roundsUp_of_exact hd, Bool.toNat_false, Nat.add_zero, hx]
    linarith
  · cases rm with
    | rtz => rfl
    | rup => cases neg <;> simp [r, roundsUp, ceilDiv_eq m hd]
    | rdn => cases neg <;> simp [r, roundsUp, ceilDiv_eq m hd]
    | rne =>
      rw [hx]
      simpa [r] using rounded_near (.inl rfl) neg m hd
    | rna =>
      rw [hx]
      simpa [r] using rounded_near (.inr rfl) neg m hd

/-! Sums and products (02 R48). -/

theorem Val.rat_zero (neg : Bool) (e : Int) : (Val.fin neg 0 e).rat = 0 := by simp [Val.rat]

/-- A signed magnitude in units of 2^q. -/
theorem signedAt_rat (neg : Bool) (m : Nat) {e q : Int} (h : q ≤ e) : (signedAt neg m e q : ℚ) * 2 ^ q = (Val.fin neg m e).rat := by
  have hp : (2 : ℚ) ^ (e - q).toNat * 2 ^ q = 2 ^ e := by
    rw [← zpow_natCast, Int.toNat_of_nonneg (by omega), ← zpow_add₀ two_ne_zero, sub_add_cancel]
  cases neg <;> simp [signedAt, Val.rat, mul_assoc, hp]

/-- The least exponent is at most that of each nonzero term. -/
theorem minExp_le {ts : List Val} {neg : Bool} {m : Nat} {e : Int} (h : Val.fin neg (m + 1) e ∈ ts) : (minExp ts).getD 0 ≤ e ∧ (minExp ts).isSome = true := by
  induction ts with
  | nil => cases h
  | cons x r ih =>
    rcases List.mem_cons.mp h with rfl | h
    · cases hr : minExp r <;> simp [minExp, hr]
    · obtain ⟨h1, h2⟩ := ih h
      obtain ⟨q, hq⟩ := Option.isSome_iff_exists.mp h2
      rw [hq] at h1
      match x with
      | .fin _ (_ + 1) d =>
        simp only [minExp, hq, Option.getD_some, Option.isSome_some, and_true]
        exact (min_le_right _ _).trans h1
      | .fin _ 0 _ => simpa [minExp, hq] using h1
      | .inf _ => simpa [minExp, hq] using h1
      | .nan .. => simpa [minExp, hq] using h1

/-- A term of a sum in units of 2^q. -/
def Val.unitsAt (q : Int) : Val → Int
  | .fin n (m + 1) e => signedAt n (m + 1) e q
  | .fin _ 0 _ => 0
  | .nan .. => 0
  | .inf _ => 0

theorem sumAt_eq (q : Int) (ts : List Val) : sumAt q ts = (ts.map (Val.unitsAt q)).sum := by
  rw [List.sum_eq_foldl, List.foldl_map]
  unfold sumAt
  congr
  funext acc t
  match t with
  | .fin _ (_ + 1) _ => rfl
  | .fin _ 0 _ => exact (Int.add_zero acc).symm
  | .nan .. => exact (Int.add_zero acc).symm
  | .inf _ => exact (Int.add_zero acc).symm

/-- The sum of finite terms in units of a power that divides them all. -/
theorem sumAt_rat {q : Int} {ts : List Val} (hq : ∀ n m e, Val.fin n (m + 1) e ∈ ts → q ≤ e) (hfin : ∀ x ∈ ts, x.isFinite = true) :
    (sumAt q ts : ℚ) * 2 ^ q = (ts.map Val.rat).sum := by
  have hterm : ∀ x ∈ ts, (x.unitsAt q : ℚ) * 2 ^ q = x.rat := by
    intro x hx
    match x with
    | .fin n 0 e => simp [Val.unitsAt, Val.rat_zero]
    | .fin n (m + 1) e => exact signedAt_rat n (m + 1) (hq n m e hx)
    | .nan .. => exact absurd (hfin _ hx) Bool.false_ne_true
    | .inf _ => exact absurd (hfin _ hx) Bool.false_ne_true
  rw [sumAt_eq, ← List.map_congr_left hterm, List.sum_map_mul_right, Int.cast_list_sum, List.map_map]
  rfl

theorem natAbs_rat (z q : Int) : (Val.fin (decide (z < 0)) z.natAbs q).rat = (z : ℚ) * 2 ^ q := by
  rcases lt_or_ge z 0 with h | h
  · have : (z.natAbs : ℚ) = -z := by rw [Nat.cast_natAbs, abs_of_neg h]; push_cast; rfl
    simp [Val.rat, h, this]
  · have : (z.natAbs : ℚ) = z := by rw [Nat.cast_natAbs, abs_of_nonneg h]
    simp [Val.rat, not_lt.mpr h, this]

theorem Val.not_special {x : Val} (h : x.isFinite = true) : x.isNan = false ∧ x.isSig = false ∧ x.isInf = false ∧ ∀ n, x ≠ .inf n := by
  cases x <;> simp_all [Val.isFinite, Val.isNan, Val.isSig, Val.isInf]

/-- Sums of finite values are exact and raise nothing. -/
theorem sumVals_finite (rm : Rm) {ts : List Val} (h : ∀ x ∈ ts, x.isFinite = true) :
    (sumVals rm ts).1.isFinite = true ∧ (sumVals rm ts).1.rat = (ts.map Val.rat).sum ∧ (sumVals rm ts).2 = 0 := by
  have hnan : ts.any Val.isNan = false := by simpa using fun x hx => (Val.not_special (h x hx)).1
  have hinf : ts.any Val.isInf = false := by simpa using fun x hx => (Val.not_special (h x hx)).2.2.1
  have hone : ∀ n, ts.any (· == Val.inf n) = false := fun n => by
    simpa using fun x hx => (Val.not_special (h x hx)).2.2.2 n
  have hsum := sumAt_rat (q := (minExp ts).getD 0) (fun n m e hm => (minExp_le hm).1) h
  simp only [sumVals, hnan, hinf, hone, Bool.and_self, Bool.or_self, Bool.false_eq_true, if_false]
  split
  · next h0 =>
    rw [h0, Int.cast_zero, zero_mul] at hsum
    exact ⟨rfl, by rw [Val.rat_zero, hsum], rfl⟩
  · exact ⟨rfl, by rw [natAbs_rat, hsum], rfl⟩

/-- So are products. -/
theorem mulVals_finite {a b : Val} (ha : a.isFinite = true) (hb : b.isFinite = true) :
    (mulVals a b).1.isFinite = true ∧ (mulVals a b).1.rat = a.rat * b.rat ∧ (mulVals a b).2 = 0 := by
  match a, b with
  | .fin n m e, .fin k l g =>
    refine ⟨by simp [mulVals, Val.isNan, Val.isInf, Val.isFinite], ?_, by simp [mulVals, Val.isNan, Val.isInf]⟩
    have hp : (2 : ℚ) ^ (e + g) = 2 ^ e * 2 ^ g := zpow_add₀ two_ne_zero e g
    cases n <;> cases k <;> simp [mulVals, Val.rat, Val.neg?, Val.isNan, Val.isInf, hp] <;> ring

theorem addF_finite (t : Flt) (md : FpMode) {a b : Val} (ha : a.isFinite = true) (hb : b.isFinite = true) :
    addF t md a b = fround t md (sumVals md.rm [a, b]).1 := by
  have h : (sumVals md.rm [a, b]).2 = 0 := (sumVals_finite md.rm (by simp [ha, hb])).2.2
  simp [addF, h]

theorem mulF_finite (t : Flt) (md : FpMode) {a b : Val} (ha : a.isFinite = true) (hb : b.isFinite = true) :
    mulF t md a b = fround t md (mulVals a b).1 := by
  simp [mulF, (mulVals_finite ha hb).2.2]

theorem fmaF_finite (t : Flt) (md : FpMode) {a b c : Val} (ha : a.isFinite = true) (hb : b.isFinite = true) (hc : c.isFinite = true) :
    fmaF t md a b c = fround t md (sumVals md.rm [(mulVals a b).1, c]).1 := by
  obtain ⟨hp, -, hf⟩ := mulVals_finite ha hb
  have h : (sumVals md.rm [(mulVals a b).1, c]).2 = 0 := (sumVals_finite md.rm (by simp [hp, hc])).2.2
  simp [fmaF, hf, h]

end Sys2Proof.Machine
end

section
/-!
Rounding into a format (02 R46-R51): a code's magnitude grows with the code, and what a rounded value's code stands for.
-/
namespace Sys2Proof.Machine

/-- The magnitude that a code below the sign bit stands for, were no exponent code special. -/
def Flt.mag (t : Flt) (c : Nat) : ℚ :=
  if c / 2 ^ t.mb = 0 then (c % 2 ^ t.mb : Nat) * 2 ^ (t.emin - t.mb) else ((2 ^ t.mb + c % 2 ^ t.mb : Nat) : ℚ) * 2 ^ (((c / 2 ^ t.mb : Nat) : Int) - t.bias - t.mb)

/-- A significand r of at most one bit more than the format has, in the k-th binade: the code carries into the next. -/
theorem Flt.mag_eq (t : Flt) {k r : Nat} (hr : r ≤ 2 ^ (t.mb + 1)) (hk : k = 0 ∨ 2 ^ t.mb ≤ r) : t.mag (k * 2 ^ t.mb + r) = r * 2 ^ (t.emin - t.mb + k) := by
  have hpos : 0 < 2 ^ t.mb := Nat.two_pow_pos _
  rw [Nat.pow_succ] at hr
  have hdiv : (k * 2 ^ t.mb + r) / 2 ^ t.mb = k + r / 2 ^ t.mb := by rw [Nat.add_comm, Nat.add_mul_div_right _ _ hpos, Nat.add_comm]
  have hmod : (k * 2 ^ t.mb + r) % 2 ^ t.mb = r % 2 ^ t.mb := Nat.mul_add_mod' ..
  rw [Flt.mag, hdiv, hmod]
  rcases Nat.lt_or_ge r (2 ^ t.mb) with h | h
  · obtain rfl : k = 0 := by omega
    simp [Nat.div_eq_of_lt h, Nat.mod_eq_of_lt h]
  · rcases Nat.lt_or_ge r (2 ^ t.mb * 2) with h2 | h2
    · have hq : r / 2 ^ t.mb = 1 := Nat.div_eq_of_lt_le (by omega) (by omega)
      have hm : 2 ^ t.mb + r % 2 ^ t.mb = r := by
        have := Nat.div_add_mod r (2 ^ t.mb)
        rw [hq] at this
        omega
      rw [hq, hm, if_neg (by omega), Flt.emin]
      congr 2
      push_cast
      ring
    · obtain rfl : r = 2 ^ t.mb * 2 := by omega
      rw [Nat.mul_mod_right, Nat.mul_div_cancel_left _ hpos, if_neg (by omega), Flt.emin,
        show ((k + 2 : Nat) : Int) - t.bias - t.mb = 1 + (1 - (t.bias : Int) - t.mb + k) by push_cast; ring, zpow_add₀ two_ne_zero]
      push_cast
      ring

/-- Codes are ordered as their magnitudes are. -/
theorem Flt.mag_strictMono (t : Flt) : StrictMono t.mag := by
  refine strictMono_nat_of_lt_succ fun c => ?_
  have hpos : 0 < 2 ^ t.mb := Nat.two_pow_pos _
  have hm := Nat.mod_lt c hpos
  have hc := Nat.div_add_mod' c (2 ^ t.mb)
  obtain ⟨k, r, hk, hr, rfl⟩ : ∃ k r, (k = 0 ∨ 2 ^ t.mb ≤ r) ∧ r < 2 ^ (t.mb + 1) ∧ c = k * 2 ^ t.mb + r := by
    rcases Nat.eq_zero_or_pos (c / 2 ^ t.mb) with h | h
    · exact ⟨0, c % 2 ^ t.mb, .inl rfl, by rw [Nat.pow_succ]; omega, by rw [h] at hc; omega⟩
    · refine ⟨c / 2 ^ t.mb - 1, 2 ^ t.mb + c % 2 ^ t.mb, .inr (by omega), by rw [Nat.pow_succ]; omega, ?_⟩
      rw [Nat.sub_one_mul]
      have : 2 ^ t.mb ≤ c / 2 ^ t.mb * 2 ^ t.mb := Nat.le_mul_of_pos_left _ h
      omega
  rw [Nat.add_assoc, t.mag_eq hr.le hk, t.mag_eq hr (hk.imp_right (by omega))]
  push_cast
  have : (0 : ℚ) < 2 ^ (t.emin - t.mb + k) := by positivity
  linarith

theorem Flt.signBit_eq (t : Flt) : t.signBit = 2 ^ t.eb * 2 ^ t.mb := Nat.pow_add ..

theorem Flt.infCode_lt (t : Flt) : t.infCode < t.signBit := by
  rw [t.signBit_eq]
  exact Nat.mul_lt_mul_of_pos_right (by have := Nat.two_pow_pos t.eb; omega) (Nat.two_pow_pos _)

theorem Flt.maxCode_lt (t : Flt) : t.maxCode < t.signBit := by
  have hpos : 0 < t.signBit := Nat.two_pow_pos _
  have := t.infCode_lt
  unfold Flt.maxCode
  split <;> omega

/-- The exponent and the mantissa of a code up to the largest finite one are none of those that stand for no number. -/
theorem Flt.finite_fields (t : Flt) (he : 0 < t.eb) {c : Nat} (hc : c ≤ t.maxCode) :
    if t.topNormal then ¬ (c / 2 ^ t.mb = 2 ^ t.eb - 1 ∧ c % 2 ^ t.mb = 2 ^ t.mb - 1) else c / 2 ^ t.mb < 2 ^ t.eb - 1 := by
  have hm : 0 < 2 ^ t.mb := Nat.two_pow_pos _
  have he2 : 1 < 2 ^ t.eb := Nat.one_lt_two_pow he.ne'
  split
  · next ht =>
    rintro ⟨hq, hr⟩
    have hdiv := Nat.div_add_mod' c (2 ^ t.mb)
    rw [hq, hr, Nat.sub_one_mul] at hdiv
    rw [Flt.maxCode, if_pos ht, t.signBit_eq] at hc
    have : 2 ^ t.mb * 2 ≤ 2 ^ t.eb * 2 ^ t.mb := by rw [Nat.mul_comm]; exact Nat.mul_le_mul_right _ he2
    omega
  · next ht =>
    rw [Flt.maxCode, if_neg ht, Flt.infCode] at hc
    have : 0 < (2 ^ t.eb - 1) * 2 ^ t.mb := Nat.mul_pos (by omega) hm
    exact Nat.div_lt_of_lt_mul (by rw [Nat.mul_comm]; omega)

/-- The fields of a code with a sign. -/
theorem Flt.signed_fields (t : Flt) (neg : Bool) {c : Nat} (hc : c < t.signBit) :
    t.signed neg c / t.signBit % 2 = neg.toNat ∧ t.signed neg c / 2 ^ t.mb % 2 ^ t.eb = c / 2 ^ t.mb ∧ t.signed neg c % 2 ^ t.mb = c % 2 ^ t.mb := by
  have hm : 0 < 2 ^ t.mb := Nat.two_pow_pos _
  have hs : 0 < t.signBit := Nat.two_pow_pos _
  have hq : c / 2 ^ t.mb < 2 ^ t.eb := Nat.div_lt_of_lt_mul (by rw [Nat.mul_comm, ← t.signBit_eq]; exact hc)
  cases neg with
  | false =>
    simp only [Flt.signed, Bool.false_eq_true, if_false, Bool.toNat_false, and_true]
    exact ⟨by rw [Nat.div_eq_of_lt hc], Nat.mod_eq_of_lt hq⟩
  | true =>
    simp only [Flt.signed, if_true, Bool.toNat_true]
    refine ⟨by rw [Nat.add_div_left _ hs, Nat.div_eq_of_lt hc], ?_, ?_⟩
    · rw [t.signBit_eq, Nat.add_comm, Nat.add_mul_div_right _ _ hm, Nat.add_mod_right, Nat.mod_eq_of_lt hq]
    · rw [t.signBit_eq, Nat.mul_add_mod']

/-- A code up to the largest finite one, with a sign, is a finite value: its magnitude with that sign. -/
theorem Flt.val_signed (t : Flt) (he : 0 < t.eb) (neg : Bool) {c : Nat} (hc : c ≤ t.maxCode) :
    (t.val (t.signed neg c)).isFinite = true ∧ (t.val (t.signed neg c)).rat = (if neg then -1 else 1) * t.mag c := by
  obtain ⟨h1, h2, h3⟩ := t.signed_fields neg (hc.trans_lt t.maxCode_lt)
  have hn : (neg.toNat == 1) = neg := by cases neg <;> rfl
  have hval : t.val (t.signed neg c) =
      if c / 2 ^ t.mb = 0 then .fin neg (c % 2 ^ t.mb) (t.emin - t.mb)
      else .fin neg (2 ^ t.mb + c % 2 ^ t.mb) (((c / 2 ^ t.mb : Nat) : Int) - t.bias - t.mb) := by
    have hf := t.finite_fields he hc
    simp only [Flt.val, h1, h2, h3, hn]
    split at hf
    · next ht => rw [if_pos ht, if_neg hf]
    · next ht => rw [if_neg ht, if_neg hf.ne]
  rw [hval, Flt.mag]
  split <;> exact ⟨rfl, by rw [Val.rat, mul_assoc]⟩

/-- Rounding to a multiple of 2^q, where q leaves b bits below the leading one: at most one bit more comes out, and at least the leading bit. -/
theorem roundTo_bounds (rm : Rm) (neg : Bool) {m : Nat} (hm : m ≠ 0) (e : Int) {q : Int} {b : Nat} (h : topExp m e - b ≤ q) :
    (roundTo rm neg m e q).1 ≤ 2 ^ (b + 1) ∧ (topExp m e - b = q → 2 ^ b ≤ (roundTo rm neg m e q).1) := by
  have hlt : m < 2 ^ (Nat.log2 m + 1) := Nat.lt_log2_self
  have hle : 2 ^ Nat.log2 m ≤ m := Nat.log2_self_le hm
  unfold topExp at h ⊢
  unfold roundTo
  split
  · next hq =>
    obtain ⟨d, hd⟩ : ∃ d : Nat, e - q = d := ⟨(e - q).toNat, by omega⟩
    rw [hd, Int.toNat_natCast]
    refine ⟨?_, fun hb => ?_⟩
    · calc m * 2 ^ d ≤ 2 ^ (Nat.log2 m + 1) * 2 ^ d := Nat.mul_le_mul_right _ hlt.le
        _ = 2 ^ (Nat.log2 m + 1 + d) := (Nat.pow_add ..).symm
        _ ≤ 2 ^ (b + 1) := Nat.pow_le_pow_right (by omega) (by omega)
    · calc 2 ^ b = 2 ^ Nat.log2 m * 2 ^ d := by rw [← Nat.pow_add]; congr 1; omega
        _ ≤ m * 2 ^ d := Nat.mul_le_mul_right _ hle
  · next hq =>
    obtain ⟨d, hd⟩ : ∃ d : Nat, q - e = d := ⟨(q - e).toNat, by omega⟩
    rw [hd, Int.toNat_natCast, roundShift_eq]
    refine ⟨?_, fun hb => ?_⟩
    · have hquot : m / 2 ^ d < 2 ^ (b + 1) := by
        refine Nat.div_lt_of_lt_mul (hlt.trans_le ?_)
        rw [← Nat.pow_add]
        exact Nat.pow_le_pow_right (by omega) (by omega)
      have := Bool.toNat_le (roundsUp rm neg (m / 2 ^ d) (m % 2 ^ d) (2 ^ d))
      dsimp only
      omega
    · have hquot : 2 ^ b ≤ m / 2 ^ d := by
        rw [Nat.le_div_iff_mul_le (Nat.two_pow_pos d), ← Nat.pow_add, show b + d = Nat.log2 m by omega]
        exact hle
      dsimp only
      omega

/-- The power of two whose multiples a format has about a magnitude. -/
def Flt.unit (t : Flt) (m : Nat) (e : Int) : Int := max (topExp m e) t.emin - t.mb

theorem Flt.roundCode_eq (t : Flt) (rm : Rm) (neg : Bool) (m : Nat) (e : Int) :
    t.roundCode rm neg m e =
      ((t.unit m e + t.mb - t.emin).toNat * 2 ^ t.mb + (roundTo rm neg m e (t.unit m e)).1, (roundTo rm neg m e (t.unit m e)).2) := rfl

/-- The code that a magnitude is rounded to stands for the multiple of the unit that it is rounded to. -/
theorem Flt.mag_roundCode (t : Flt) (rm : Rm) (neg : Bool) {m : Nat} (hm : m ≠ 0) (e : Int) :
    t.mag (t.roundCode rm neg m e).1 = (roundTo rm neg m e (t.unit m e)).1 * 2 ^ t.unit m e := by
  obtain ⟨hhi, hlo⟩ := roundTo_bounds rm neg hm e (b := t.mb) (q := t.unit m e) (by unfold Flt.unit; omega)
  rw [t.roundCode_eq, t.mag_eq hhi]
  · congr 2
    unfold Flt.unit
    omega
  · by_cases ht : t.emin ≤ topExp m e
    · exact .inr (hlo (by unfold Flt.unit; omega))
    · exact .inl (by unfold Flt.unit; omega)

/-- A magnitude beyond the format's exponents is rounded beyond its codes. -/
theorem Flt.roundCode_beyond (t : Flt) (rm : Rm) (neg : Bool) {m : Nat} {e : Int} (h : ((2 ^ t.eb : Nat) : Int) < topExp m e) :
    t.maxCode < (t.roundCode rm neg m e).1 := by
  have hmin : t.emin ≤ 1 := by unfold Flt.emin; omega
  have hmax := t.maxCode_lt
  have hk : 2 ^ t.eb ≤ (t.unit m e + t.mb - t.emin).toNat := by unfold Flt.unit; omega
  have := Nat.mul_le_mul_right (2 ^ t.mb) hk
  rw [t.signBit_eq] at hmax
  rw [t.roundCode_eq]
  dsimp only
  omega

/-- A result of a format that flushes nothing: the code that it is rounded to where the format has it, with NX, and UF where it is tiny; else the overflow of its mode
(02 R48, R51). -/
theorem fround_fin (t : Flt) {md : FpMode} (hf : md.flushOut = false) (neg : Bool) {m : Nat} (hm : m ≠ 0) (e : Int) :
    fround t md (.fin neg m e) =
      let c := t.roundCode md.rm neg m e
      if t.maxCode < c.1 then (t.overflow md.rm neg, flOF ||| flNX)
      else (t.signed neg c.1, if c.2 then (if t.tiny md.rm neg m e then flUF ||| flNX else flNX) else 0) := by
  obtain ⟨k, rfl⟩ := Nat.exists_eq_succ_of_ne_zero hm
  simp only [fround, hf, Bool.false_and, Bool.false_eq_true, if_false, Nat.succ_eq_add_one]
  split
  · next h => rw [if_pos (t.roundCode_beyond md.rm neg h)]
  · rfl

/-- The flags of a result that the format reaches: NX says whether anything was cut off, and nothing overflows. -/
theorem reached_flags (nx tiny : Bool) :
    let fl : BitVec 5 := if nx then (if tiny then flUF ||| flNX else flNX) else 0
    (fl &&& flNX = if nx then flNX else 0) ∧ fl &&& flOF = 0 := by
  cases nx <;> cases tiny <;> decide

/-- A finite result in a format that flushes nothing: the multiple of the unit that it is rounded to, where that is no more than the largest magnitude. -/
theorem fround_reached (t : Flt) (he : 0 < t.eb) {md : FpMode} (hf : md.flushOut = false) (neg : Bool) {m : Nat} (hm : m ≠ 0) (e : Int) :
    let r := roundTo md.rm neg m e (t.unit m e)
    let y := fround t md (.fin neg m e)
    (r.1 : ℚ) * 2 ^ t.unit m e ≤ (t.val t.maxCode).rat →
      (t.val y.1).isFinite = true ∧ (t.val y.1).rat = (if neg then -1 else 1) * (r.1 : ℚ) * 2 ^ t.unit m e ∧ (y.2 &&& flNX = if r.2 then flNX else 0) ∧ y.2 &&& flOF = 0 := by
  intro r y h
  have hmax : (t.val t.maxCode).rat = t.mag t.maxCode := by simpa [Flt.signed] using (t.val_signed he false le_rfl).2
  rw [hmax, ← t.mag_roundCode md.rm neg hm e, t.mag_strictMono.le_iff_le] at h
  have hy : y = _ := (fround_fin t hf neg hm e).trans (if_neg (not_lt.mpr h))
  obtain ⟨h1, h2⟩ := t.val_signed he neg h
  rw [hy]
  refine ⟨h1, by rw [h2, t.mag_roundCode md.rm neg hm e, mul_assoc], ?_⟩
  rw [t.roundCode_eq]
  exact reached_flags _ _

/-- Whether a mode rounds a magnitude of a sign away from zero where the format ends (02 R48). -/
def Rm.away (rm : Rm) (neg : Bool) : Bool :=
  match rm with
  | .rne => true
  | .rna => true
  | .rtz => false
  | .rup => !neg
  | .rdn => neg

theorem Flt.overflow_eq (t : Flt) (htop : t.topNormal = false) (rm : Rm) (neg : Bool) :
    t.overflow rm neg = t.signed neg (if rm.away neg then t.infCode else t.maxCode) := by
  cases rm <;> cases neg <;> simp [Flt.overflow, htop, Rm.away]

/-- Beyond the largest magnitude: infinity in the modes that round away from zero there, else the largest finite value (02 R48). -/
theorem fround_overflow (t : Flt) (he : 0 < t.eb) (htop : t.topNormal = false) {md : FpMode} (hf : md.flushOut = false) (neg : Bool) {m : Nat} (hm : m ≠ 0) (e : Int)
    (h : (t.val t.maxCode).rat < ((roundTo md.rm neg m e (t.unit m e)).1 : ℚ) * 2 ^ t.unit m e) :
    fround t md (.fin neg m e) = (t.signed neg (if md.rm.away neg then t.infCode else t.maxCode), flOF ||| flNX) := by
  have hmax : (t.val t.maxCode).rat = t.mag t.maxCode := by simpa [Flt.signed] using (t.val_signed he false le_rfl).2
  rw [hmax, ← t.mag_roundCode md.rm neg hm e, t.mag_strictMono.lt_iff_lt] at h
  rw [fround_fin t hf neg hm e, if_pos h, t.overflow_eq htop]

theorem Flt.nanCode_lt (t : Flt) (hmb : 0 < t.mb) : t.nanCode < t.signBit := by
  have hpos : 0 < t.signBit := Nat.two_pow_pos _
  unfold Flt.nanCode
  split
  · omega
  · have h1 : 2 ^ (t.mb - 1) < 2 ^ t.mb := Nat.pow_lt_pow_right (by omega) (by omega)
    have h2 : 1 * 2 ^ t.mb ≤ 2 ^ t.eb * 2 ^ t.mb := Nat.mul_le_mul_right _ Nat.one_le_two_pow
    rw [Flt.infCode, t.signBit_eq, Nat.sub_mul]
    omega

theorem Flt.signed_lt (t : Flt) (neg : Bool) {c : Nat} (hc : c < t.signBit) : t.signed neg c < 2 * t.signBit := by
  unfold Flt.signed
  split <;> omega

theorem Flt.overflow_lt (t : Flt) (rm : Rm) (neg : Bool) : t.overflow rm neg < 2 * t.signBit := by
  cases htop : t.topNormal with
  | true => simpa [Flt.overflow, htop] using t.signed_lt neg t.maxCode_lt
  | false =>
    rw [t.overflow_eq htop]
    exact t.signed_lt neg (by split <;> [exact t.infCode_lt; exact t.maxCode_lt])

/-- Every result is a code of the format. -/
theorem fround_lt (t : Flt) (hmb : 0 < t.mb) (md : FpMode) (x : Val) : (fround t md x).1 < 2 * t.signBit := by
  have hzero : (0 : Nat) < t.signBit := Nat.two_pow_pos _
  match x with
  | .nan neg sig => exact t.signed_lt neg (t.nanCode_lt hmb)
  | .inf neg =>
    simp only [fround]
    split <;> [exact t.signed_lt neg (t.nanCode_lt hmb); exact t.signed_lt neg t.infCode_lt]
  | .fin neg 0 _ => exact t.signed_lt neg hzero
  | .fin neg (m + 1) e =>
    unfold fround
    dsimp only
    split
    · exact t.overflow_lt _ _
    · split
      · exact t.signed_lt neg hzero
      · split
        · exact t.overflow_lt _ _
        · next h => exact t.signed_lt neg ((not_lt.mp h).trans_lt t.maxCode_lt)

end Sys2Proof.Machine
end

section
/-!
Instructions that write one value a lane with flags (05 R141, R143): what each floating instruction's effect is, and what is left when it completes.
-/
namespace Sys2Proof.Machine

/-! Reads of the state in which an effect acts. -/

@[simp] theorem State.readW_consumed (s : State) (i : Instr) (w64 : Bool) (o : Opnd) (l : Nat) : (s.consumed i).readW w64 o l = s.readW w64 o l := by
  simp [State.readW]

@[simp] theorem State.modeOf_consumed (s : State) (i : Instr) (f : Fields) : (s.consumed i).modeOf f = s.modeOf f := by
  obtain ⟨a, h⟩ := s.consumed_eq i
  rw [h]
  rfl

@[simp] theorem State.readF_consumed (s : State) (i : Instr) (t : Flt) (md : FpMode) (o : Opnd) (l : Nat) : (s.consumed i).readF t md o l = s.readF t md o l := by
  simp [State.readF]

@[simp] theorem State.readHalf_consumed (s : State) (i : Instr) (t : Flt) (md : FpMode) (o : Opnd) (l : Nat) :
    (s.consumed i).readHalf t md o l = s.readHalf t md o l := by
  funext h
  simp [State.readHalf]

/-! One value a lane, with flags. -/

/-- Flags of none are no change. -/
theorem Eff.flags_zero (e : Eff) : e.flags 0 = e := by
  cases e with
  | ok r =>
    have h : r.st.updW (fun w => w.orFlags 0) = r.st := by simp [State.updW, Warp.orFlags]
    simp only [Eff.flags, Eff.andThen, h]
  | hold _ => rfl
  | fault _ _ => rfl

/-- The flags of some lanes joined. -/
def laneFlags (ls : Lanes) (fl : Nat → BitVec 5) : BitVec 5 := (bitList ls).foldl (fun acc l => acc ||| fl l) 0

theorem Ctx.lanesF_eq (c : Ctx) (s : State) (h : Nat → Nat × BitVec 5) :
    c.lanesF s h = (c.lanesW false false s (fun l => (BitVec.ofNat 32 (h l).1).setWidth 64)).flags (laneFlags c.g (fun l => (h l).2)) := by
  simp [Ctx.lanesF, Ctx.lanesW, Ctx.lanes32, joinFlags, laneFlags, List.foldl_map, List.map_map, Function.comp_def]

/-- The effect of an instruction, where it acts with nothing in its way, is to write the values of a form and add its flags. -/
def LaneForm.IsEffect (r : LaneForm) (i : Instr) (eff : Ctx → State → Eff) (s : State) : Prop :=
  eff (s.ctxOf i) (s.consumed i) = ((s.ctxOf i).lanesW r.wide r.signed (s.consumed i) (r.val (s.ctxOf i) s)).flags (r.flags (s.ctxOf i) s)

/-- An instruction with such an effect completes as its form says. -/
theorem LaneForm.done_of_effect {r : LaneForm} {i : Instr} {ent : OpEntry} {f : Fields} {eff : Ctx → State → Eff} {s : State} (pl : Plan)
    (he : opEntry i = some (ent, f)) (hd : r.dest = f.d) (heff : r.IsEffect i eff s) (h : s.clear i = true) (ha : r.agrees i s = true) :
    r.Done i s (runWarp i pl eff s) := by
  have hrun : runWarp i pl eff s = runWarp i pl (fun c s' => (c.lanesW r.wide r.signed s' (r.val c s)).flags (r.flags c s)) s := by
    unfold LaneForm.IsEffect at heff
    rw [State.ctxOf_eq he] at heff
    rw [runWarp_clear pl _ he h, runWarp_clear pl _ he h, heff]
  unfold LaneForm.agrees at ha
  unfold LaneForm.Done
  rw [hd] at ha ⊢
  rw [hrun]
  exact runWarp_lanesFl pl r.wide r.signed (fun c _ => r.val c s) (fun c _ => r.flags c s) he h rfl rfl ha

/-- A floating result a lane (05 R141, R143). -/
theorem LaneForm.flt_isEffect {f : Fields} {h : FpMode → State → Nat → Nat × BitVec 5} {i : Instr} {eff : Ctx → State → Eff} {s : State}
    (heff : eff (s.ctxOf i) (s.consumed i) = (s.ctxOf i).lanesF (s.consumed i) (h (s.modeOf f) s)) : (LaneForm.flt f h).IsEffect i eff s :=
  heff.trans (Ctx.lanesF_eq ..)

/-! Comparisons (05 R147). -/

/-- The word that a comparison leaves in its bit form: one bit of the old one is the result. -/
def withBit (old : W64) (bit : Nat) (b : Bool) : W64 := if b then old ||| ((1 : W64) <<< bit) else old &&& ~~~((1 : W64) <<< bit)

theorem getLsbD_withBit (old : W64) (bit : Nat) (b : Bool) {i : Nat} (hi : i < 64) : (withBit old bit b).getLsbD i = if i = bit then b else old.getLsbD i := by
  have hone : ((1 : W64) <<< bit).getLsbD i = decide (i = bit) := by
    rw [show (1 : W64) <<< bit = BitVec.twoPow 64 bit from rfl, BitVec.getLsbD_twoPow]
    rw [Bool.eq_iff_iff]
    simp only [Bool.and_eq_true, decide_eq_true_eq]
    omega
  unfold withBit
  cases b with
  | false =>
    rw [if_neg Bool.false_ne_true, BitVec.getLsbD_and, BitVec.getLsbD_not, hone, decide_eq_true hi]
    by_cases h : i = bit <;> simp only [h, decide_true, decide_false, if_true, if_false, Bool.not_true, Bool.not_false, Bool.and_false, Bool.and_true]
  | true =>
    rw [if_pos rfl, BitVec.getLsbD_or, hone]
    by_cases h : i = bit <;> simp only [h, decide_true, decide_false, if_true, if_false, Bool.or_true, Bool.or_false]

theorem testBit_toNat_zero (b : Bool) : b.toNat.testBit 0 = b := by cases b <;> rfl

theorem setField_eq_withBit (x : W64) {bit : Nat} (h : bit < 64) (b : Bool) : setField x bit bit b.toNat = withBit x bit b := by
  refine BitVec.eq_of_getLsbD_eq fun i hi => ?_
  rw [getLsbD_setField x _ h le_rfl, getLsbD_withBit x bit b hi]
  by_cases he : i = bit
  · rw [if_pos ⟨he.ge, he.le⟩, if_pos he, he, Nat.sub_self, testBit_toNat_zero]
  · rw [if_neg (by omega), if_neg he]

theorem setField_eq_withBit_low (x : W32) {bit : Nat} (h : bit < 32) (b : Bool) : setField x bit bit b.toNat = (withBit (x.setWidth 64) bit b).setWidth 32 := by
  refine BitVec.eq_of_getLsbD_eq fun i hi => ?_
  rw [getLsbD_setField x _ h le_rfl, BitVec.getLsbD_setWidth, getLsbD_withBit _ bit b (by omega), BitVec.getLsbD_setWidth]
  by_cases he : i = bit
  · rw [if_pos ⟨he.ge, he.le⟩, if_pos he, he, Nat.sub_self, testBit_toNat_zero, decide_eq_true h, Bool.true_and]
  · rw [if_neg (by omega), if_neg he]
    simp [hi, show i < 64 by omega]

/-- A bit that the word has says what was put there. -/
theorem withBit_inj {x : W64} {bit : Nat} (h : bit < 64) {a b : Bool} (he : withBit x bit a = withBit x bit b) : a = b := by
  have := congrArg (fun w : W64 => w.getLsbD bit) he
  simpa [getLsbD_withBit x bit _ h] using this

/-- A destination that is a scalar. -/
def isScalar : Opnd → Bool
  | .s _ => true
  | .v _ => false
  | .sp _ => false

/-- The value of a lane of a comparison (04 R129; 05 R147): all ones or zeros, or the destination with one bit replaced. -/
def compareVal (f : Fields) (full : Bool) (bit : Nat) (s : State) (l : Nat) (b : Bool) : W64 :=
  if full then (if b then (if (isScalar f.d) then BitVec.allOnes 64 else 0xFFFFFFFF) else 0) else withBit (s.readW (isScalar f.d) f.d l) bit b

theorem compareVal_inj {f : Fields} {full : Bool} {bit : Nat} {s : State} {l k : Nat} {d : Nat} (hd : f.d = .s d) (h : bit < 64) {a b : Bool}
    (he : compareVal f full bit s l a = compareVal f full bit s k b) : a = b := by
  have hold : s.readW (isScalar f.d) f.d l = s.readW (isScalar f.d) f.d k := by rw [hd]; rfl
  cases full with
  | true => cases a <;> cases b <;> simp_all [compareVal, isScalar]
  | false =>
    simp only [compareVal, Bool.false_eq_true, if_false, hold] at he
    exact withBit_inj h he

/-- A comparison writes its form's values, where the lanes of a scalar destination agree. -/
theorem cmpResult_eq {c : Ctx} {s : State} {full : Bool} {bit : Nat} {test : Nat → Bool} (hbit : bit < 32) (hg : c.g ≠ 0)
    (ha : c.agrees c.f.d (isScalar c.f.d) (fun l => compareVal c.f full bit s l (test l)) = true) :
    cmpResult c s full bit test = c.lanesW (isScalar c.f.d) false s (fun l => compareVal c.f full bit s l (test l)) := by
  cases hd : c.f.d with
  | sp x => cases full <;> simp [cmpResult, hd, isScalar, Ctx.lanesW, Ctx.lanes32, Ctx.put32, Ctx.putTo]
  | v d =>
    have hval : ∀ l, (compareVal c.f full bit s l (test l)).setWidth 32 =
        if full then (if test l then BitVec.allOnes 32 else 0) else setField (s.w.readV s.tick d l) bit bit (test l).toNat := by
      intro l
      cases full with
      | true => cases test l <;> simp [compareVal, hd, isScalar]
      | false => simpa [compareVal, hd, isScalar, State.readW, State.read32] using (setField_eq_withBit_low (s.w.readV s.tick d l) hbit (test l)).symm
    cases full <;> simp [cmpResult, hd, isScalar, Ctx.lanesW, Ctx.lanes32, Ctx.put32, Ctx.putTo, hval, Function.comp_def]
  | s d =>
    simp only [Ctx.agrees, hd, isScalar, if_true, List.all_eq_true, beq_iff_eq] at ha
    have hsame : ∀ l ∈ bitList c.g, test l = test (lowLane c.g) := fun l hl => compareVal_inj hd (by omega) (ha l hl)
    have htest := agree_map (bitList c.g) (lowLane c.g) test (bitList_ne_nil hg) hsame
    have hvals := agree_map (bitList c.g) (lowLane c.g) _ (bitList_ne_nil hg) ha
    have hval : compareVal c.f full bit s (lowLane c.g) (test (lowLane c.g)) =
        if full then (if test (lowLane c.g) then BitVec.allOnes 64 else 0) else setField (s.w.readS s.tick d) bit bit (test (lowLane c.g)).toNat := by
      cases full with
      | true => simp [compareVal, hd, isScalar]
      | false => simpa [compareVal, hd, isScalar, State.readW, State.read64] using (setField_eq_withBit (s.w.readS s.tick d) (by omega : bit < 64) (test (lowLane c.g))).symm
    rw [hval] at hvals
    cases full <;> simp [cmpResult, hd, isScalar, Ctx.lanesW, Ctx.lanes64, Ctx.put64, htest, hvals, Function.comp_def]

/-! Packing (05 R156, R157). -/

/-- A half of a word replaced (05 R156). -/
theorem setField_half (x : W32) {k v : Nat} (hk : k ≤ 1) (hv : v < 65536) :
    (setField x (16 * k + 15) (16 * k) v).toNat = if k = 1 then x.toNat % 65536 + v * 65536 else x.toNat / 65536 * 65536 + v := by
  refine Nat.eq_of_testBit_eq fun j => ?_
  rw [BitVec.testBit_toNat, getLsbD_setField x v (by omega) (by omega)]
  have hzero : ∀ n, 16 ≤ n → v.testBit n = false := fun n h => Nat.testBit_lt_two_pow (hv.trans_le (Nat.pow_le_pow_right (by decide : 0 < 2) h))
  obtain rfl | rfl : k = 0 ∨ k = 1 := by omega
  · rw [if_neg (show ¬ 0 = 1 by decide), show x.toNat / 65536 * 65536 + v = 2 ^ 16 * (x.toNat / 2 ^ 16) + v by omega,
      Nat.testBit_two_pow_mul_add _ hv, Nat.testBit_div_two_pow]
    by_cases h : j < 16
    · simp [h, show j ≤ 15 by omega]
    · simp [h, show ¬ j ≤ 15 by omega, show j - 16 + 16 = j by omega, BitVec.getLsbD]
  · rw [if_pos rfl, show x.toNat % 65536 + v * 65536 = 2 ^ 16 * v + x.toNat % 2 ^ 16 by omega,
      Nat.testBit_two_pow_mul_add _ (Nat.mod_lt _ (by decide)), Nat.testBit_mod_two_pow]
    by_cases h : j < 16
    · simp [h, show ¬ 16 ≤ j by omega, BitVec.getLsbD]
    · by_cases h2 : j ≤ 31
      · simp [h, h2, show 16 ≤ j by omega]
      · simp [h, h2, hzero (j - 16) (by omega), x.getLsbD_of_ge j (by omega)]

/-- A code of PACK is a byte. -/
theorem packCode_lt {t : Flt} (ht : t = e4m3 ∨ t = e5m2) (md : FpMode) (k : Nat) (x : Val) : (packCode t md k x).1 < 256 := by
  have hround : ∀ y, (fround t md y).1 < 256 := by
    intro y
    have := fround_lt t (by rcases ht with rfl | rfl <;> decide) md y
    rcases ht with rfl | rfl <;> exact this
  unfold packCode
  split
  · rcases ht with rfl | rfl <;> decide
  · exact hround _

theorem nestCode_lt (x : Val) : nestCode 1 x < 16 := by
  have hmin : ∀ a : Nat, min a (2 ^ 3 - 1) < 8 := fun a => by omega
  match x with
  | .fin neg m e =>
    simp only [nestCode]
    have : (if m = 0 then 0 else min ((nestFlt 1).roundCode .rne neg m e).1 (2 ^ (1 + 2) - 1)) < 8 := by split <;> omega
    split <;> omega
  | .nan .. => exact Nat.zero_lt_succ _
  | .inf _ => exact Nat.zero_lt_succ _

theorem scaleByte_lt (e : Int) : scaleByte e < 256 := by
  unfold scaleByte
  split
  · omega
  · exact (Config.overScale _).isLt

theorem ite_lt {p : Prop} [Decidable p] {a b n : Nat} (ha : a < n) (hb : b < n) : (if p then a else b) < n := by split <;> assumption

/-- The parts of an N4 block are bytes and nibbles (02 R55, R57). -/
theorem quantiseN4_lt (xs : List Val) : (quantiseN4 xs).1 < 256 ∧ (quantiseN4 xs).2.1 < 256 ∧ ∀ k ∈ (quantiseN4 xs).2.2, k < 16 := by
  have hspecial : ∀ x, froundPlain e4m3 x < 256 := fun x => fround_lt e4m3 (by decide) _ x
  unfold quantiseN4
  by_cases h : (xs.any fun x => x.isNan || x.isInf) = true
  · rw [if_pos h]
    refine ⟨(by decide : 0xFF < 256), (by decide : 0 < 256), fun k hk => ?_⟩
    obtain ⟨x, -, rfl⟩ := List.mem_map.mp hk
    decide
  · rw [if_neg h]
    refine ⟨scaleByte_lt _, ite_lt (hspecial _) (by decide), fun k hk => ?_⟩
    obtain ⟨i, -, rfl⟩ := List.mem_map.mp hk
    exact ite_lt (by decide) (ite_lt (by decide) (nestCode_lt _))

/-- The bytes of an N4 block are bytes. -/
theorem n4Bytes_lt (xs : List Val) : ∀ b ∈ n4Bytes (quantiseN4 xs), b < 256 := by
  obtain ⟨hscale, hspecial, hcodes⟩ := quantiseN4_lt xs
  have hcode : ∀ k, (quantiseN4 xs).2.2.getD k 0 < 16 := by
    intro k
    rw [List.getD_eq_getElem?_getD]
    rcases hk : (quantiseN4 xs).2.2[k]? with _ | v
    · decide
    · exact hcodes v (List.mem_of_getElem? hk)
  intro b hb
  simp only [n4Bytes, List.mem_append, List.mem_map, List.mem_cons, List.not_mem_nil, or_false] at hb
  rcases hb with ⟨i, -, rfl⟩ | rfl | rfl
  · have := hcode (2 * i)
    have := hcode (2 * i + 1)
    omega
  · exact hscale
  · exact hspecial

theorem n4Bytes_length (q : Nat × Nat × List Nat) : (n4Bytes q).length = 18 := by simp [n4Bytes]

theorem take_drop_eq_range (xs : List Byte) {n k : Nat} (h : n + k ≤ xs.length) : (xs.drop n).take k = (List.range k).map (fun i => xs.getD (n + i) 0) := by
  refine List.ext_getElem (by simp; omega) fun i hi _ => ?_
  simp only [List.length_take, List.length_drop] at hi
  simp [List.getD_eq_getElem?_getD, List.getElem?_eq_getElem (show n + i < xs.length by omega)]

/-- The number of a run of bytes from their values. -/
theorem leNat_map_range (g : Nat → Byte) (h : Nat → Nat) (hg : ∀ i, (g i).toNat = h i) (k : Nat) :
    leNat ((List.range k).map g) = (List.range k).foldl (fun acc i => acc + h i * 256 ^ i) 0 := by
  induction k with
  | zero => rfl
  | succ k ih =>
    have happend : ∀ (as : List Byte) (b : Byte), leNat (as ++ [b]) = leNat as + b.toNat * 256 ^ as.length := by
      intro as b
      induction as with
      | nil => simp [leNat]
      | cons a as ih => simp only [List.cons_append, leNat, ih, List.length_cons]; ring
    rw [List.range_succ, List.map_append, List.map_singleton, happend, ih, List.foldl_append, List.length_map, List.length_range, hg]
    rfl

/-- The word of a lane of PACK.N4 (05 R157) is four bytes of the block. -/
theorem n4Word_eq {bs : List Nat} (hlen : bs.length = 18) (hlt : ∀ b ∈ bs, b < 256) (l : Nat) :
    (if l < 4 then BitVec.ofNat 32 ((List.range 4).foldl (fun acc i => acc + bs.getD (4 * l + i) 0 * 256 ^ i) 0)
      else if l = 4 then BitVec.ofNat 32 (bs.getD 16 0 + 256 * bs.getD 17 0) else 0) =
    (BitVec.ofNat 64 (leNat (((bs.map (BitVec.ofNat 8)).drop (4 * l)).take 4))).setWidth 32 := by
  have hbyte : ∀ k, ((bs.map (BitVec.ofNat 8)).getD k 0).toNat = bs.getD k 0 := by
    intro k
    rw [List.getD_eq_getElem?_getD, List.getD_eq_getElem?_getD, List.getElem?_map]
    rcases hk : bs[k]? with _ | v
    · rfl
    · exact Nat.mod_eq_of_lt (hlt v (List.mem_of_getElem? hk))
  have hlen' : (bs.map (BitVec.ofNat 8)).length = 18 := by rw [List.length_map, hlen]
  have hwidth : ∀ n, (BitVec.ofNat 64 n).setWidth 32 = BitVec.ofNat 32 n := fun n => BitVec.setWidth_ofNat_of_le (by decide) n
  rw [hwidth]
  rcases lt_trichotomy l 4 with h | rfl | h
  · rw [if_pos h, take_drop_eq_range _ (by omega), leNat_map_range _ _ (fun i => hbyte (4 * l + i))]
  · rw [if_neg (by omega), if_pos rfl, List.take_of_length_le (by simp [hlen]), ← List.take_of_length_le (l := List.drop _ _) (i := 2) (by simp [hlen]),
      take_drop_eq_range _ (by omega), leNat_map_range _ _ (fun i => hbyte (4 * 4 + i))]
    simp [List.range_succ, Nat.mul_comm]
  · rw [if_neg (by omega), if_neg (by omega), List.drop_eq_nil_of_le (by omega)]
    rfl

end Sys2Proof.Machine
end

section
/-!
The floating instructions (05 R145-R158): each one's effect is its form's, and the arithmetic of 02 R48-R52 of the statement.
-/
namespace Sys2Proof.Machine

/-- PACK of two FP8 codes writes its form's value (05 R156). -/
theorem packFp8_value (f : Fields) (t : Flt) (ht : t = e4m3 ∨ t = e5m2) (md : FpMode) (s : State) (l n : Nat) (x y : Val) :
    (setField (s.read32 f.d l) (16 * f.modBits 7 7 + 15) (16 * f.modBits 7 7) ((packCode t md n y).1 * 256 + (packCode t md n x).1)).toNat =
    if f.modBits 7 7 = 1 then (s.read32 f.d l).toNat % 65536 + ((packCode t md n y).1 % 256 * 256 + (packCode t md n x).1) * 65536
    else (s.read32 f.d l).toNat / 65536 * 65536 + ((packCode t md n y).1 % 256 * 256 + (packCode t md n x).1) := by
  have hx := packCode_lt ht md n x
  have hy := packCode_lt ht md n y
  have hk : f.modBits 7 7 ≤ 1 := Nat.le_of_lt_succ (Nat.mod_lt _ (by decide))
  rw [setField_half _ hk (by omega), Nat.mod_eq_of_lt hy]

/-- The values that PACK.N4 makes a block of (05 R157). -/
def n4Inputs (f : Fields) (c : Ctx) (s : State) : List Val :=
  (List.range 32).map (fun m => if c.g.getLsbD m then f32.val (s.read32 f.a m).toNat else .fin false 0 0)

/-- The word of a lane of PACK.N4. -/
def n4Word (xs : List Val) (l : Nat) : W64 := BitVec.ofNat 64 (leNat ((((n4Bytes (quantiseN4 xs)).map (BitVec.ofNat 8)).drop (4 * l)).take 4))

theorem lanesW_n4Word (xs : List Val) (c : Ctx) (s : State) :
    c.lanesW false false s (n4Word xs) = c.lanes32 false s (fun l =>
      if l < 4 then BitVec.ofNat 32 ((List.range 4).foldl (fun acc i => acc + (n4Bytes (quantiseN4 xs)).getD (4 * l + i) 0 * 256 ^ i) 0)
      else if l = 4 then BitVec.ofNat 32 ((n4Bytes (quantiseN4 xs)).getD 16 0 + 256 * (n4Bytes (quantiseN4 xs)).getD 17 0) else 0) := by
  rw [Ctx.lanesW, if_neg Bool.false_ne_true]
  exact congrArg (c.lanes32 false s) (funext fun l => (n4Word_eq (n4Bytes_length _) (n4Bytes_lt _) l).symm)

/-- PACK.N4 writes those words. -/
theorem packN4_eq (f : Fields) (c : Ctx) (s : State) : packN4 f c s = c.lanesW false false s (n4Word (n4Inputs f c s)) :=
  (lanesW_n4Word _ c s).symm

@[simp] theorem n4Inputs_consumed (f : Fields) (c : Ctx) (s : State) (i : Instr) : n4Inputs f c (s.consumed i) = n4Inputs f c s := by simp [n4Inputs]

/-- The same for a comparison that issues, which reads the state that it finds (05 R147). -/
theorem cmpResult_consumed {s : State} {i : Instr} {f : Fields} {full : Bool} {bit : Nat} {test : Nat → Bool} (hg : (s.ctxOf i).g ≠ 0) (hf : (s.ctxOf i).f = f)
    (hbit : bit < 32) (ha : (s.ctxOf i).agrees f.d (isScalar f.d) (fun l => compareVal f full bit s l (test l)) = true) :
    cmpResult (s.ctxOf i) (s.consumed i) full bit test = (s.ctxOf i).lanesW (isScalar f.d) false (s.consumed i) (fun l => compareVal f full bit s l (test l)) := by
  subst hf
  have hval : compareVal (s.ctxOf i).f full bit (s.consumed i) = compareVal (s.ctxOf i).f full bit s := by
    funext l b
    simp [compareVal]
  rw [← hval] at ha ⊢
  exact cmpResult_eq hbit hg ha

/-- Every floating instruction has the effect of its form. -/
theorem floatForm_effect {i : Instr} {r : LaneForm} (h : floatForm i = some r) (s : State) (hc : s.clear i = true) (ha : r.agrees i s = true) :
    ∃ ent f pl eff, opEntry i = some (ent, f) ∧ r.dest = f.d ∧ exec i s = nextOf (runWarp i pl eff s) ∧ r.IsEffect i eff s := by
  unfold floatForm at h
  split at h
  case h_7 f =>
    obtain ⟨⟩ := h
    refine ⟨_, f, _, _, rfl, rfl, rfl, ?_⟩
    have hcmp := cmpResult_consumed (i := .fcmp f) (State.clear_facts rfl hc).lanes rfl (Nat.mod_lt _ (by decide)) ha
    simp only [LaneForm.IsEffect, State.modeOf_consumed, State.readF_consumed]
    exact congrArg (Eff.flags · _) hcmp
  case h_11 f =>
    cases h
    refine ⟨_, f, _, _, rfl, rfl, rfl, ?_⟩
    simp [LaneForm.IsEffect]
  case h_24 f =>
    dsimp only at h
    by_cases hsub : f.sub = 2
    · rw [if_pos hsub] at h
      cases h
      refine ⟨_, f, _, _, rfl, rfl, rfl, ?_⟩
      rw [LaneForm.IsEffect, Eff.flags_zero, if_pos hsub, packN4_eq, n4Inputs_consumed]
      rfl
    · rw [if_neg hsub] at h
      cases h
      refine ⟨_, f, _, _, rfl, rfl, rfl, LaneForm.flt_isEffect ?_⟩
      rw [if_neg hsub, packFp8]
      have ht : (if f.sub = 0 then e4m3 else e5m2) = e4m3 ∨ (if f.sub = 0 then e4m3 else e5m2) = e5m2 := by split <;> simp
      simp only [packFp8_value f _ ht]
      simp
  case h_26 => cases h
  all_goals
    cases h
    exact ⟨_, _, _, _, rfl, rfl, rfl, LaneForm.flt_isEffect (by simp [binF, specEff, pairEff])⟩

/-- The formats of the statement have exponents, and only E4M3 keeps its top exponent for numbers (02 R45, R46). -/
theorem Flt.named_facts {t : Flt} (ht : t = f32 ∨ t = f16 ∨ t = bf16 ∨ t = e5m2 ∨ t = e4m3) : 0 < t.eb ∧ (t ≠ e4m3 → t.topNormal = false) := by
  rcases ht with rfl | rfl | rfl | rfl | rfl
  · exact ⟨by decide, fun _ => rfl⟩
  · exact ⟨by decide, fun _ => rfl⟩
  · exact ⟨by decide, fun _ => rfl⟩
  · exact ⟨by decide, fun _ => rfl⟩
  · exact ⟨by decide, fun h => absurd rfl h⟩

/-- A floating instruction completes with the values and the flags of its form. -/
theorem floatForm_done {i : Instr} {r : LaneForm} {s : State} (h : floatForm i = some r) (hc : s.clear i = true) (ha : r.agrees i s = true) :
    ∃ t, exec i s = .next t ∧ r.Done i s t := by
  obtain ⟨ent, f, pl, eff, he, hd, hx, heff⟩ := floatForm_effect h s hc ha
  exact ⟨_, hx, LaneForm.done_of_effect pl he hd heff hc ha⟩

/-- Settles O12: each instruction through its form's effect, the five modes through the quotient that a shift cuts off, a format's result through the
magnitude of its codes. -/
theorem floatResults : Obligations.FloatResults := by
  refine ⟨fun i r s h hc ha => floatForm_done h hc ha, roundShift_spec, ?_, fun rm _ h => sumVals_finite rm h, fun _ _ ha hb => mulVals_finite ha hb, ?_⟩
  · intro t md neg m e ht hflush hm
    obtain ⟨heb, htop⟩ := Flt.named_facts ht
    exact ⟨fround_reached t heb hflush neg hm e, fun hlt hne => fround_overflow t heb (htop hne) hflush neg hm e hlt⟩
  · intro t md a b c ha hb hc
    exact ⟨addF_finite t md ha hb, mulF_finite t md ha hb, fmaF_finite t md ha hb hc⟩

end Sys2Proof.Machine
end

section
/-!
A matrix stream's oldest entry (12 R285-R289; 02 R70): what its completion does to the accumulators, and the sum of products that it adds.
-/
namespace Sys2Proof.Machine

/-! The sum of products (02 R70). -/

theorem Val.unitsAt_zero (neg : Bool) (m : Nat) : (Val.fin neg m 0).unitsAt 0 = if neg then -(m : Int) else m := by
  cases m <;> simp [Val.unitsAt, signedAt]

theorem mulVals_intVal (x y : Int) : (mulVals (intVal x) (intVal y)).1.unitsAt 0 = x * y := by
  have hval : (mulVals (intVal x) (intVal y)).1 = .fin (decide (x < 0) != decide (y < 0)) (x.natAbs * y.natAbs) 0 := by
    simp [mulVals, intVal, Val.isNan, Val.isInf, Val.neg?]
  rw [hval, Val.unitsAt_zero, Nat.cast_mul, Int.natCast_natAbs, Int.natCast_natAbs]
  rcases lt_or_ge x 0 with hx | hx <;> rcases lt_or_ge y 0 with hy | hy <;>
    simp [hx, hy, not_lt.mpr, abs_of_neg, abs_of_nonneg]

/-- Of integers the sum of products wraps. -/
theorem mmaElt_int (init : W32) (xs ys : List Int) :
    mmaElt true init (xs.map intVal) (ys.map intVal) = init + BitVec.ofInt 32 ((xs.zip ys).map (fun p => p.1 * p.2)).sum := by
  simp only [mmaElt, if_true, sumAt_eq, List.zip_map, List.map_map]
  have hterm : ∀ p : Int × Int, (Val.unitsAt 0 ∘ (fun p => (mulVals p.1 p.2).1) ∘ Prod.map intVal intVal) p = p.1 * p.2 := fun p => mulVals_intVal p.1 p.2
  rw [List.map_congr_left fun p _ => hterm p]

/-- Of finite values it is exact before it is rounded. -/
theorem mmaElt_finite (init : W32) (xs ys : List Val) (hi : (f32.val init.toNat).isFinite = true) (hv : ∀ x ∈ xs ++ ys, x.isFinite = true) :
    ∃ x : Val, x.isFinite = true ∧ x.rat = (f32.val init.toNat).rat + ((xs.zip ys).map (fun p => p.1.rat * p.2.rat)).sum ∧
      mmaElt false init xs ys = BitVec.ofNat 32 (froundPlain f32 x) := by
  have hmul : ∀ p ∈ xs.zip ys, (mulVals p.1 p.2).1.isFinite = true ∧ (mulVals p.1 p.2).1.rat = p.1.rat * p.2.rat := by
    intro p hp
    obtain ⟨hx, hy⟩ := List.of_mem_zip hp
    obtain ⟨hfin, hrat, -⟩ := mulVals_finite (hv p.1 (by simp [hx])) (hv p.2 (by simp [hy]))
    exact ⟨hfin, hrat⟩
  have hall : ∀ x ∈ f32.val init.toNat :: (xs.zip ys).map (fun p => (mulVals p.1 p.2).1), x.isFinite = true := by
    simpa [hi] using fun x a b hp hx => hx ▸ (hmul (a, b) hp).1
  obtain ⟨hfin, hrat, -⟩ := sumVals_finite .rne hall
  refine ⟨_, hfin, ?_, rfl⟩
  rw [hrat, List.map_cons, List.sum_cons, List.map_map]
  exact congrArg _ (congrArg List.sum (List.map_congr_left fun p hp => (hmul p hp).2))

/-! Elements of an accumulator. -/

theorem accKey_inj {tile r c r' c' : Nat} (hc : c < 64) (hc' : c' < 64) (h : accKey tile r c = accKey tile r' c') : r = r' ∧ c = c' := by
  unfold accKey at h
  omega

theorem State.raced_false (s : State) (w : Warp) (tile : Nat) (vals : List (Nat × W32)) : s.raced w false tile vals = vals := rfl

/-- Unordered elements are those that the instruction names. -/
theorem State.raced_keys (s : State) (w : Warp) (racy : Bool) (tile : Nat) (vals : List (Nat × W32)) :
    (s.raced w racy tile vals).map Prod.fst = vals.map Prod.fst := by
  cases racy with
  | false => rfl
  | true => simp [State.raced, Function.comp_def]

/-- An accumulator after writes of elements, some of them unordered. -/
theorem get_setMany_raced_other (s : State) (w : Warp) (racy : Bool) (tile : Nat) {vals : List (Nat × W32)} {q : Nat} (h : ∀ p ∈ vals, q ≠ p.1) (m : Store 32) :
    (m.setMany (s.raced w racy tile vals)).get q = m.get q := by
  refine Store.get_setMany_of_notMem m ?_
  rw [State.raced_keys]
  simpa using fun x hx => (h (q, x) hx rfl)

/-! The completion of an entry. -/

/-- Delivering keeps the streams, the lanes' addresses, the control registers and the accumulators. -/
theorem Warp.deliver_kept (w : Warp) (k : Nat) : (w.deliver k).streams = w.streams ∧ (w.deliver k).lpc = w.lpc ∧ (w.deliver k).csr = w.csr ∧
    (w.deliver k).acc = w.acc ∧ (w.deliver k).accPoison = w.accPoison := by
  cases h : w.findOp k with
  | none =>
    have hd : w.deliver k = w := by
      unfold Warp.findOp at h
      unfold Warp.deliver
      rw [h]
    simp only [hd, and_self]
  | some o =>
    obtain ⟨ms, ab, hd⟩ := Warp.deliver_of_find h
    rw [hd]
    simp

/-- Delivering writes the vector values that the operation still owns. -/
theorem Warp.deliver_v {w : Warp} {o : Op} {k : Nat} (h : w.findOp k = some o) : (w.deliver k).v = w.v.setMany o.vectorsOwned := by
  obtain ⟨ms, ab, hd⟩ := Warp.deliver_of_find h
  rw [hd, Warp.slotDown_v]

theorem State.streamAct_eq (s : State) (w : Warp) (e : MEntry) : ∃ acc ap ops, s.streamAct w e = { w with acc := acc, accPoison := ap, ops := ops } := by
  unfold State.streamAct
  split <;> exact ⟨_, _, _, rfl⟩

/-- The focus warp once an entry of a stream of it has completed. -/
def State.completed (s : State) (e : MEntry) : Warp :=
  let w := s.streamAct { s.w with streams := s.w.streams.eraseP (fun x => x.stream == e.stream) } e
  if e.last then w.deliver e.op else w

theorem exec_rowBlockCompletion_held {s : State} {e : MEntry} (hl : s.w.live = true) (hf : s.w.streams.find? (fun x => x.stream == e.stream) = some e)
    (hh : s.entryHeld s.w e.body = true) : exec (.rowBlockCompletion s.w.id e.stream) s = .next s := by
  change execRowBlockCompletion s.w.id e.stream s = _
  simp only [execRowBlockCompletion, State.findWarp_self hl, hf, hh, if_true]

theorem exec_rowBlockCompletion {s : State} {e : MEntry} (hl : s.w.live = true) (hf : s.w.streams.find? (fun x => x.stream == e.stream) = some e)
    (hh : s.entryHeld s.w e.body = false) : exec (.rowBlockCompletion s.w.id e.stream) s = .next (s.updW (fun _ => s.completed e)) := by
  change execRowBlockCompletion s.w.id e.stream s = _
  simp only [execRowBlockCompletion, State.findWarp_self hl, hf, hh, State.updWarp_self hl, Bool.false_eq_true, if_false]
  rfl

/-- The stream that an entry has left is not what it works on. -/
theorem State.streamAct_streams (s : State) (w : Warp) (e : MEntry) (x : List MEntry) :
    s.streamAct { w with streams := x } e = { s.streamAct w e with streams := x } := by
  unfold State.streamAct
  cases e.body <;> rfl

/-- An entry's completion takes it out of its stream, leaves the lanes and the control registers, and does to the accumulators what its body does. -/
theorem State.completed_frame (s : State) (e : MEntry) :
    (s.completed e).streams = s.w.streams.eraseP (fun x => x.stream == e.stream) ∧ (s.completed e).lpc = s.w.lpc ∧ (s.completed e).csr = s.w.csr ∧
      (s.completed e).acc = (s.streamAct s.w e).acc ∧ (s.completed e).accPoison = (s.streamAct s.w e).accPoison := by
  obtain ⟨acc, ap, ops, ha⟩ := s.streamAct_eq s.w e
  unfold State.completed
  rw [State.streamAct_streams]
  dsimp only
  split
  · obtain ⟨hstreams, hlpc, hcsr, hacc, hpoison⟩ :=
      Warp.deliver_kept { s.streamAct s.w e with streams := s.w.streams.eraseP (fun x => x.stream == e.stream) } e.op
    exact ⟨hstreams, hlpc.trans (by rw [ha]), hcsr.trans (by rw [ha]), hacc, hpoison⟩
  · exact ⟨rfl, by rw [ha], by rw [ha], rfl, rfl⟩

/-! What each entry does. -/

/-- The elements that a row block writes (12 R285). -/
def State.blockCells (s : State) (w : Warp) (num : Nat) (m : MmaArgs) (j : Nat) : List (Nat × W32) :=
  ((List.range 8).map (8 * j + ·)).flatMap (fun r => (List.range 64).map (fun c =>
    (accKey m.tile r c, mmaElt (m.ta == 5) (if m.z then 0 else w.acc.get (accKey m.tile r c)) (s.kRow w num m (mmaType m.ta) m.aTile r).1
      (s.kRow w num m (mmaType m.tb) m.bTile c).1)))

/-- B of a row block has a poisoned byte or row, and so has row r of A (12 R287). -/
def State.poisonB (s : State) (w : Warp) (num : Nat) (m : MmaArgs) : Prop :=
  (∃ r < 64, (s.kRow w num m (mmaType m.tb) m.bTile r).2 = true) ∨ ∃ x < m.tiles, s.operandPoison w num m.pages (mmaType m.tb) (m.bTile x) ≠ 0
def State.poisonA (s : State) (w : Warp) (num : Nat) (m : MmaArgs) (r : Nat) : Prop :=
  (s.kRow w num m (mmaType m.ta) m.aTile r).2 = true ∨ ∃ x < m.tiles, (s.operandPoison w num m.pages (mmaType m.ta) (m.aTile x)).getLsbD r = true

theorem mem_blockCells {s : State} {w : Warp} {num : Nat} {m : MmaArgs} {j : Nat} {p : Nat × W32} :
    p ∈ s.blockCells w num m j ↔ ∃ r c, 8 * j ≤ r ∧ r < 8 * j + 8 ∧ c < 64 ∧ p = (accKey m.tile r c,
      mmaElt (m.ta == 5) (if m.z then 0 else w.acc.get (accKey m.tile r c)) (s.kRow w num m (mmaType m.ta) m.aTile r).1 (s.kRow w num m (mmaType m.tb) m.bTile c).1) := by
  simp only [State.blockCells, List.mem_flatMap, List.mem_map, List.mem_range]
  constructor
  · rintro ⟨_, ⟨i, hi, rfl⟩, c, hc, rfl⟩
    exact ⟨_, c, by omega, by omega, hc, rfl⟩
  · rintro ⟨r, c, h1, h2, hc, rfl⟩
    exact ⟨r, ⟨r - 8 * j, by omega, by omega⟩, c, hc, rfl⟩

/-- The elements are those that the model computes row by row. -/
theorem State.blockCells_eq (s : State) (w : Warp) (num : Nat) (m : MmaArgs) (j : Nat) :
    ((List.range 8).map (fun i => (8 * j + i, s.kRow w num m (mmaType m.ta) m.aTile (8 * j + i)))).flatMap (fun r => (List.range 64).map (fun c =>
      (accKey m.tile r.1 c, mmaElt (m.ta == 5) (if m.z then 0 else w.acc.get (accKey m.tile r.1 c)) r.2.1
        (((List.range 64).map (s.kRow w num m (mmaType m.tb) m.bTile)).getD c ([], false)).1))) = s.blockCells w num m j := by
  unfold State.blockCells
  rw [List.flatMap_map, List.flatMap_map]
  refine List.flatMap_congr fun i _ => List.map_congr_left fun c hc => ?_
  have hrow : ((List.range 64).map (s.kRow w num m (mmaType m.tb) m.bTile)).getD c ([], false) = s.kRow w num m (mmaType m.tb) m.bTile c := by
    simp [List.getD_eq_getElem?_getD, List.mem_range.mp hc]
  rw [hrow]

theorem State.rowBlock_acc (s : State) (w : Warp) (num : Nat) (racy : Bool) (m : MmaArgs) (j : Nat) :
    (s.rowBlock w num racy m j).acc = w.acc.setMany (s.raced w racy m.tile (s.blockCells w num m j)) := by
  rw [← State.blockCells_eq]
  rfl

theorem getLsbD_foldl_orAll (g : Nat → BitVec 64) (n i : Nat) :
    ((List.range n).foldl (fun acc t => acc ||| g t) 0).getLsbD i = true ↔ ∃ t < n, (g t).getLsbD i = true := by
  induction n with
  | zero => simp
  | succ n ih => 
    rw [List.range_succ, List.foldl_append, List.foldl_cons, List.foldl_nil, BitVec.getLsbD_or, Bool.or_eq_true, ih]
    simp only [Nat.lt_succ_iff_lt_or_eq, or_and_right, exists_or, exists_eq_left]

/-- Whether a row block of row r finds it poisoned (12 R287). -/
def State.rowBad (s : State) (w : Warp) (num : Nat) (m : MmaArgs) (r : Nat) : Bool :=
  (((List.range 64).map (s.kRow w num m (mmaType m.tb) m.bTile)).any Prod.snd ||
    (List.range m.tiles).any (fun t => s.operandPoison w num m.pages (mmaType m.tb) (m.bTile t) != 0)) ||
  (s.kRow w num m (mmaType m.ta) m.aTile r).2 ||
  ((List.range m.tiles).foldl (fun acc t => acc ||| s.operandPoison w num m.pages (mmaType m.ta) (m.aTile t)) 0).getLsbD r

theorem State.rowBad_iff (s : State) (w : Warp) (num : Nat) (m : MmaArgs) (r : Nat) : s.rowBad w num m r = true ↔ s.poisonB w num m ∨ s.poisonA w num m r := by
  unfold State.rowBad State.poisonB State.poisonA
  rw [Bool.or_eq_true, Bool.or_eq_true, Bool.or_eq_true, getLsbD_foldl_orAll, or_assoc]
  simp [List.any_eq_true]

theorem filter_rows {α : Type} (j : Nat) (g : Nat → α) (p : Nat → α → Bool) :
    ((((List.range 8).map (fun i => (8 * j + i, g (8 * j + i)))).filter (fun r => p r.1 r.2)).map (·.1)) = ((List.range 8).map (8 * j + ·)).filter (fun r => p r (g r)) := by
  simp [List.filter_map, Function.comp_def]

/-- The rows that a block names, and those of them that it finds poisoned. -/
theorem State.rowBlock_poison_eq (s : State) (w : Warp) (num : Nat) (racy : Bool) (m : MmaArgs) (j : Nat) :
    (s.rowBlock w num racy m j).accPoison = w.accPoison.set m.tile
      ((if m.z then w.accPoison.get m.tile &&& ~~~(ofBits 64 ((List.range 8).map (8 * j + ·))) else w.accPoison.get m.tile) |||
        ofBits 64 (((List.range 8).map (8 * j + ·)).filter (s.rowBad w num m))) := by
  have hmine : (((List.range 8).map (fun i => (8 * j + i, s.kRow w num m (mmaType m.ta) m.aTile (8 * j + i)))).map (·.1)) = (List.range 8).map (8 * j + ·) := by
    simp [Function.comp_def]
  have hbad : _ = ((List.range 8).map (8 * j + ·)).filter (s.rowBad w num m) := filter_rows j (s.kRow w num m (mmaType m.ta) m.aTile) (fun r x =>
    (((List.range 64).map (s.kRow w num m (mmaType m.tb) m.bTile)).any Prod.snd ||
      (List.range m.tiles).any (fun t => s.operandPoison w num m.pages (mmaType m.tb) (m.bTile t) != 0)) || x.2 ||
    ((List.range m.tiles).foldl (fun acc t => acc ||| s.operandPoison w num m.pages (mmaType m.ta) (m.aTile t)) 0).getLsbD r)
  rw [← hbad, ← hmine]
  rfl

theorem State.rowBlock_poison (s : State) (w : Warp) (num : Nat) (racy : Bool) (m : MmaArgs) (j : Nat) {r : Nat} (hr : r < 64) :
    ((s.rowBlock w num racy m j).accPoison.get m.tile).getLsbD r = true ↔
      if 8 * j ≤ r ∧ r < 8 * j + 8 then s.poisonB w num m ∨ s.poisonA w num m r ∨ (m.z = false ∧ (w.accPoison.get m.tile).getLsbD r = true)
      else (w.accPoison.get m.tile).getLsbD r = true := by
  have hmine : ((List.range 8).map (8 * j + ·)).contains r = decide (8 * j ≤ r ∧ r < 8 * j + 8) := by
    rw [Bool.eq_iff_iff, List.contains_iff_mem, decide_eq_true_eq]
    simp only [List.mem_map, List.mem_range]
    exact ⟨fun ⟨i, hi, he⟩ => by omega, fun h => ⟨r - 8 * j, by omega, by omega⟩⟩
  have hbad : (((List.range 8).map (8 * j + ·)).filter (s.rowBad w num m)).contains r = (decide (8 * j ≤ r ∧ r < 8 * j + 8) && s.rowBad w num m r) := by
    rw [← hmine, Bool.eq_iff_iff, Bool.and_eq_true, List.contains_iff_mem, List.contains_iff_mem, List.mem_filter]
  have hkept : (if m.z then w.accPoison.get m.tile &&& ~~~(ofBits 64 ((List.range 8).map (8 * j + ·))) else w.accPoison.get m.tile).getLsbD r =
      ((w.accPoison.get m.tile).getLsbD r && !(m.z && decide (8 * j ≤ r ∧ r < 8 * j + 8))) := by
    cases m.z with
    | false => simp
    | true => rw [if_pos rfl, BitVec.getLsbD_and, BitVec.getLsbD_not, getLsbD_ofBits, hmine, decide_eq_true hr, Bool.true_and, Bool.true_and]
  rw [State.rowBlock_poison_eq, Store.get_set_same, BitVec.getLsbD_or, getLsbD_ofBits, hbad, hkept, decide_eq_true hr, Bool.true_and, Bool.or_eq_true,
    Bool.and_eq_true, Bool.and_eq_true, State.rowBad_iff]
  by_cases h : 8 * j ≤ r ∧ r < 8 * j + 8
  · simp only [h, and_self, decide_true, if_true, Bool.and_true, Bool.not_eq_true']
    tauto
  · simp [h]

/-- A row block gives each element of its rows its sum, and changes no other (12 R285). -/
theorem State.rowBlock_elements (s : State) (w : Warp) (num : Nat) (racy : Bool) (m : MmaArgs) (j : Nat) :
    (racy = false → ∀ r c, 8 * j ≤ r → r < 8 * j + 8 → c < 64 → (s.rowBlock w num racy m j).acc.get (accKey m.tile r c) =
      mmaElt (m.ta == 5) (if m.z then 0 else w.acc.get (accKey m.tile r c)) (s.kRow w num m (mmaType m.ta) m.aTile r).1 (s.kRow w num m (mmaType m.tb) m.bTile c).1) ∧
    ∀ q, (∀ r c, 8 * j ≤ r → r < 8 * j + 8 → c < 64 → q ≠ accKey m.tile r c) → (s.rowBlock w num racy m j).acc.get q = w.acc.get q := by
  rw [State.rowBlock_acc]
  refine ⟨fun hr r c h1 h2 hc => ?_, fun q hq => get_setMany_raced_other s w racy m.tile (fun p hp => ?_) w.acc⟩
  · subst hr
    rw [State.raced_false]
    refine Store.get_setMany_mem _ _ (List.mem_map.mpr ⟨_, mem_blockCells.mpr ⟨r, c, h1, h2, hc, rfl⟩, rfl⟩) fun p hp hk => ?_
    obtain ⟨r', c', -, -, hc', rfl⟩ := mem_blockCells.mp hp
    obtain ⟨rfl, rfl⟩ := accKey_inj hc' hc hk
    rfl
  · obtain ⟨r, c, h1, h2, hc, rfl⟩ := mem_blockCells.mp hp
    exact hq r c h1 h2 hc

/-- MZERO clears its tile and its marks of poison (12 R289). -/
theorem State.zero_elements (s : State) (w : Warp) (e : MEntry) {k : Nat} (hb : e.body = .zero k) :
    (∀ q, (e.racy = false ∨ q / 4096 ≠ k) → (s.streamAct w e).acc.get q = if q / 4096 = k then 0 else w.acc.get q) ∧
    ∀ j, (s.streamAct w e).accPoison.get j = if j = k then 0 else w.accPoison.get j := by
  unfold State.streamAct
  rw [hb]
  refine ⟨fun q hq => ?_, fun j => Store.get_set w.accPoison k j 0⟩
  have hgone : (w.acc.dropRange (k * 4096) ((k + 1) * 4096)).get q = if q / 4096 = k then 0 else w.acc.get q := by
    rw [Store.get_dropRange]
    exact if_congr (by omega) rfl rfl
  dsimp only
  split
  · next hr =>
    have hne : q / 4096 ≠ k := hq.resolve_left (by simp [hr])
    rw [get_setMany_raced_other, hgone]
    intro p hp
    obtain ⟨i, hi, rfl⟩ := List.mem_map.mp hp
    have := List.mem_range.mp hi
    dsimp only
    omega
  · exact hgone

/-- The row of an MLDA or an MSTA that a register holds. -/
theorem streamRows_getD {row n j : Nat} (h : j < n) : (streamRows row n).getD j 0 = (row + j) % 64 := by
  simp [streamRows, List.getD_eq_getElem?_getD, h]

/-- The element that a value of an MSTA goes to (12 R289). -/
def storeKey (k row x : Nat) : Nat := accKey k ((row + x / 64) % 64) (32 * (x / 32 % 2) + x % 32)

theorem storeKey_inj {k row n x y : Nat} (hn : n ≤ 64) (hx : x < 64 * n) (hy : y < 64 * n) (h : storeKey k row x = storeKey k row y) : x = y := by
  obtain ⟨hrow, hcol⟩ := accKey_inj (by omega) (by omega) h
  omega

/-- MSTA stores its values, and changes no other element (12 R289). -/
theorem State.store_elements (s : State) (w : Warp) (e : MEntry) {k row n : Nat} {ls : Lanes} {vals : List (Nat × W32)} (hb : e.body = .store k row n ls vals)
    (hn : n ≤ 64) (hlt : ∀ p ∈ vals, p.1 < 64 * n) (hnd : (vals.map Prod.fst).Nodup) :
    (e.racy = false → ∀ p ∈ vals, (s.streamAct w e).acc.get (storeKey k row p.1) = p.2) ∧
    ∀ q, (∀ p ∈ vals, q ≠ storeKey k row p.1) → (s.streamAct w e).acc.get q = w.acc.get q := by
  have hcells : vals.map (fun p => (accKey k ((streamRows row n).getD (p.1 / 64) 0) (32 * (p.1 / 32 % 2) + p.1 % 32), p.2)) =
      vals.map (fun p => (storeKey k row p.1, p.2)) := by
    refine List.map_congr_left fun p hp => ?_
    rw [streamRows_getD (Nat.div_lt_of_lt_mul (hlt p hp)), storeKey]
  have hacc : (s.streamAct w e).acc = w.acc.setMany (s.raced w e.racy k (vals.map (fun p => (storeKey k row p.1, p.2)))) := by
    rw [← hcells]
    unfold State.streamAct
    rw [hb]
  rw [hacc]
  refine ⟨fun hr p hp => ?_, fun q hq => get_setMany_raced_other s w e.racy k (fun p hp => ?_) w.acc⟩
  · rw [hr, State.raced_false]
    refine Store.get_setMany_mem _ _ (List.mem_map.mpr ⟨_, List.mem_map_of_mem hp, rfl⟩) fun y hy hk => ?_
    obtain ⟨z, hz, rfl⟩ := List.mem_map.mp hy
    rw [List.inj_on_of_nodup_map hnd hz hp (storeKey_inj hn (hlt z hz) (hlt p hp) hk)]
  · obtain ⟨z, hz, rfl⟩ := List.mem_map.mp hp
    exact hq z hz

/-- The values that an MLDA reads, by register and lane (12 R289). -/
def loadVals (w : Warp) (k row n d : Nat) (ls : Lanes) : List (Nat × W32) :=
  (List.range (2 * n)).flatMap (fun i => (bitList ls).map (fun l => ((d + i) * 32 + l, w.acc.get (accKey k ((row + i / 2) % 64) (32 * (i % 2) + l)))))

theorem mem_loadVals {w : Warp} {k row n d : Nat} {ls : Lanes} {p : Nat × W32} :
    p ∈ loadVals w k row n d ls ↔ ∃ i l, i < 2 * n ∧ ls.getLsbD l = true ∧ p = ((d + i) * 32 + l, w.acc.get (accKey k ((row + i / 2) % 64) (32 * (i % 2) + l))) := by
  simp only [loadVals, List.mem_flatMap, List.mem_map, List.mem_range, mem_bitList]
  constructor
  · rintro ⟨i, hi, l, hl, rfl⟩
    exact ⟨i, l, hi, hl, rfl⟩
  · rintro ⟨i, l, hi, hl, rfl⟩
    exact ⟨i, hi, l, hl, rfl⟩

/-- MLDA reads its elements when it completes, in the registers of its operation. -/
theorem State.load_act (s : State) (w : Warp) (e : MEntry) {k row n d : Nat} {ls : Lanes} (hb : e.body = .load k row n d ls) :
    ∃ ms : Op → List Mark, s.streamAct w e = w.updOp e.op (fun o => { o with vvals := s.raced w e.racy k (loadVals w k row n d ls), marks := ms o }) := by
  have hvals : (List.range (2 * n)).flatMap (fun i => (bitList ls).map (fun l =>
      ((d + i) * 32 + l, w.acc.get (accKey k ((streamRows row n).getD (i / 2) 0) (32 * (i % 2) + l))))) = loadVals w k row n d ls := by
    refine List.flatMap_congr fun i hi => ?_
    rw [streamRows_getD (by have := List.mem_range.mp hi; omega)]
  unfold State.streamAct
  rw [hb, ← hvals]
  exact ⟨fun _ => _, rfl⟩

theorem find?_updFirst {α : Type} (p : α → Bool) (g : α → α) (hg : ∀ x, p x = true → p (g x) = true) {xs : List α} {x : α} (h : xs.find? p = some x) :
    (updFirst p g xs).find? p = some (g x) := by
  induction xs with
  | nil => cases h
  | cons y ys ih =>
    by_cases hy : p y = true
    · rw [List.find?_cons_of_pos hy] at h
      obtain rfl := Option.some.inj h
      rw [updFirst, if_pos hy, List.find?_cons_of_pos (hg y hy)]
    · rw [List.find?_cons_of_neg hy] at h
      rw [updFirst, if_neg hy, List.find?_cons_of_neg hy, ih h]

/-- MLDA's registers get the elements of its rows (12 R289). -/
theorem State.load_registers (s : State) (e : MEntry) {k row n d : Nat} {ls : Lanes} {o : Op} (hb : e.body = .load k row n d ls) (hr : e.racy = false)
    (ho : s.w.findOp e.op = some o) (hlast : e.last = true) (hd : o.dests = (List.range (2 * n)).map (fun i => (d + i, ls))) {j l : Nat} (hj : j < 2 * n)
    (hl : ls.getLsbD l = true) : (s.completed e).v.get ((d + j) * 32 + l) = s.w.acc.get (accKey k ((row + j / 2) % 64) (32 * (j % 2) + l)) := by
  have hlane : ∀ x, ls.getLsbD x = true → x < 32 := fun x hx => BitVec.lt_of_getLsbD hx
  obtain ⟨ms, hact⟩ := s.load_act s.w e hb
  have hfind := find?_updFirst (fun x : Op => x.id == e.op) (fun o => { o with vvals := loadVals s.w k row n d ls, marks := ms o }) (fun _ h => h) ho
  have howned : ({ o with vvals := loadVals s.w k row n d ls, marks := ms o } : Op).vectorsOwned = loadVals s.w k row n d ls := by
    refine Op.vectorsOwned_all fun p hp => ?_
    obtain ⟨i, x, hi, hx, rfl⟩ := mem_loadVals.mp hp
    have := hlane x hx
    refine ⟨(d + i, ls), hd ▸ List.mem_map.mpr ⟨i, List.mem_range.mpr hi, rfl⟩, ?_, ?_⟩
    · show d + i = ((d + i) * 32 + x) / 32
      omega
    · rw [show ((d + i) * 32 + x) % 32 = x by omega]
      exact hx
  have hv : (s.completed e).v = s.w.v.setMany (loadVals s.w k row n d ls) := by
    unfold State.completed
    rw [State.streamAct_streams, hact, hr, State.raced_false]
    dsimp only
    rw [if_pos hlast]
    exact (Warp.deliver_v (w := { s.w.updOp e.op (fun o => { o with vvals := loadVals s.w k row n d ls, marks := ms o }) with
      streams := s.w.streams.eraseP (fun x => x.stream == e.stream) }) hfind).trans (congrArg s.w.v.setMany howned)
  rw [hv]
  have := hlane l hl
  refine Store.get_setMany_mem _ _ (List.mem_map.mpr ⟨_, mem_loadVals.mpr ⟨j, l, hj, hl, rfl⟩, rfl⟩) fun p hp hk => ?_
  obtain ⟨i, x, hi, hx, rfl⟩ := mem_loadVals.mp hp
  have := hlane x hx
  obtain ⟨rfl, rfl⟩ : i = j ∧ x = l := by dsimp only at hk; omega
  rfl

/-- Settles O36: the entry that is oldest in its stream, body by body; the sum of products by the exactness of sums and products of finite values. -/
theorem matrixCompletion : Obligations.MatrixCompletion := by
  refine ⟨fun s e hl hf => ⟨exec_rowBlockCompletion_held hl hf, fun hh => ?_⟩, mmaElt_int, mmaElt_finite⟩
  obtain ⟨hstreams, hlpc, hcsr, hacc, hpoison⟩ := s.completed_frame e
  refine ⟨_, exec_rowBlockCompletion hl hf hh, rfl, hstreams, hlpc, hcsr, ?_⟩
  dsimp only [State.updW]
  rw [hacc, hpoison]
  cases hb : e.body with
  | rowBlock m j =>
    have hact : s.streamAct s.w e = s.rowBlock s.w e.op e.racy m j := by simp only [State.streamAct, hb]
    obtain ⟨hin, hout⟩ := s.rowBlock_elements s.w e.op e.racy m j
    rw [hact]
    refine ⟨hin, hout, fun r hr => s.rowBlock_poison s.w e.op e.racy m j hr, fun k hk => ?_⟩
    rw [State.rowBlock_poison_eq, Store.get_set_other _ _ hk]
  | zero k => exact s.zero_elements s.w e hb
  | store k row n ls vals => exact fun hn hlt hnd => s.store_elements s.w e hb hn hlt hnd
  | load k row n d ls =>
    obtain ⟨ms, hact⟩ := s.load_act s.w e hb
    refine ⟨fun q => by rw [hact]; rfl, fun o hr ho hlast hd j l hj hl => ?_⟩
    exact s.load_registers e hb hr ho hlast hd hj hl

end Sys2Proof.Machine
end

section
/-!
COLLECTIVE_START in a state whose L2 lists a line twice (07 R214; 17 R357): what refutes O59. The engine owns the first entry of a destination line L; making
room for a later destination line of the same set evicts another entry of L, which no engine owns, and with it the owned one.
-/
namespace Sys2Proof.Machine

/-! Lists of lines. -/

/-- Replacing the first element that a test accepts, where the front of a list has it, leaves the back. -/
theorem putBy_append {α : Type} {p : α → Bool} {x : α} (y : α) {as : List α} (h : as.find? p = some x) (bs : List α) : putBy p y (as ++ bs) = putBy p y as ++ bs := by
  induction as with
  | nil => cases h
  | cons a as ih =>
    rw [List.cons_append, putBy, putBy]
    by_cases ha : p a = true
    · rw [if_pos ha, if_pos ha, List.cons_append]
    · rw [List.find?_cons_of_neg ha] at h
      rw [if_neg ha, if_neg ha, ih h, List.cons_append]

/-- What an element and its replacement agree on is the same all over the list. -/
theorem map_putBy {α β : Type} {p : α → Bool} {x y : α} {as : List α} (h : as.find? p = some x) (g : α → β) (hg : g y = g x) : (putBy p y as).map g = as.map g := by
  induction as with
  | nil => cases h
  | cons a as ih =>
    rw [putBy]
    by_cases ha : p a = true
    · rw [List.find?_cons_of_pos ha] at h
      obtain rfl := Option.some.inj h
      rw [if_pos ha, List.map_cons, List.map_cons, hg]
    · rw [List.find?_cons_of_neg ha] at h
      rw [if_neg ha, List.map_cons, List.map_cons, ih h]

theorem mem_of_mem_putBy {α : Type} {p : α → Bool} {y z : α} {as : List α} (h : z ∈ putBy p y as) : z = y ∨ z ∈ as := by
  induction as with
  | nil => exact .inl (List.mem_singleton.mp h)
  | cons a as ih =>
    rw [putBy] at h
    split at h
    · exact (List.mem_cons.mp h).imp_right (List.mem_cons_of_mem a)
    · rcases List.mem_cons.mp h with rfl | h
      · exact .inr List.mem_cons_self
      · exact (ih h).imp_right (List.mem_cons_of_mem a)

/-- An entry of least rank exists. -/
theorem firstOf_isSome {α : Type} (rank : α → Nat) {as : List α} (h : as ≠ []) : ∃ x ∈ as, firstOf rank as = some x := by
  obtain ⟨x, hx⟩ := Option.ne_none_iff_exists'.mp (mt List.argmin_eq_none.mp h : as.argmin rank ≠ none)
  have hleast : (!as.any (fun y => decide (rank y < rank x))) = true := by
    simpa using fun y hy => List.le_of_mem_argmin hy hx
  have hsome : (firstOf rank as).isSome = true := List.find?_isSome.mpr ⟨x, List.argmin_mem hx, hleast⟩
  obtain ⟨y, hy⟩ := Option.isSome_iff_exists.mp hsome
  exact ⟨y, List.mem_of_find?_eq_some hy, hy⟩

/-- The lines of the places that are kept, one a line. -/
theorem oneALine_lines (ps : List Phys) : (oneALine ps).map (fun p => lineOf p.loc) = (ps.map (fun p => lineOf p.loc)).dedup := by
  have hfind : ∀ l ∈ (ps.map (fun p => lineOf p.loc)).dedup, (ps.find? (fun p => lineOf p.loc == l)).map (fun p => lineOf p.loc) = some l := by
    intro l hl
    obtain ⟨p, hp, rfl⟩ := List.mem_map.mp (List.mem_dedup.mp hl)
    cases hf : ps.find? (fun x => lineOf x.loc == lineOf p.loc) with
    | none => exact absurd (List.find?_eq_none.mp hf p hp) (by simp)
    | some q => simpa using List.find?_some hf
  rw [oneALine, List.map_filterMap]
  exact (List.filterMap_congr hfind).trans (List.filterMap_some)

theorem mem_of_mem_oneALine {ps : List Phys} {p : Phys} (h : p ∈ oneALine ps) : p ∈ ps := by
  obtain ⟨l, -, hf⟩ := List.mem_filterMap.mp h
  exact List.mem_of_find?_eq_some hf

/-- Two elements of a list stand in one order or the other. -/
theorem split_two {α : Type} {as : List α} {x y : α} (hx : x ∈ as) (hy : y ∈ as) (h : x ≠ y) :
    ∃ a b pre mid post, ((a = x ∧ b = y) ∨ (a = y ∧ b = x)) ∧ as = pre ++ a :: mid ++ b :: post := by
  obtain ⟨u, v, rfl⟩ := List.append_of_mem hx
  rcases List.mem_append.mp hy with hu | hv
  · obtain ⟨u1, u2, rfl⟩ := List.append_of_mem hu
    exact ⟨y, x, u1, u2, v, .inr ⟨rfl, rfl⟩, by simp⟩
  · obtain ⟨v1, v2, rfl⟩ := List.append_of_mem ((List.mem_cons.mp hv).resolve_left h.symm)
    exact ⟨x, y, u, v1, v2, .inl ⟨rfl, rfl⟩, by simp⟩

/-! Taking a line where no L1 holds it (07 R214). -/

theorem State.takeLine_noL1 {s : State} (h : s.m.l1 = []) (id : Nat) (p : Phys) (ctx : Nat) : s.takeLine id p ctx = s.updM (fun m =>
    let m1 := m.l2Room s.time (lineOf p.loc) p.slice
    if hostBase ≤ p.loc || !m1.l2Fits (lineOf p.loc) p.slice then { m with farOwned := m.farOwned ++ [(lineOf p.loc, id)] }
    else m1.l2Set { (m1.l2Line (lineOf p.loc) p.slice ctx p.key 0) with owner := some id }) := by
  unfold State.takeLine
  rw [h]
  rfl

/-- A line that L2 holds is owned there. -/
theorem State.takeLine_present {s : State} (h : s.m.l1 = []) {id : Nat} {p : Phys} {ctx : Nat} {x : L2Line} (hp : p.loc < hostBase)
    (hf : s.m.l2Find (lineOf p.loc) = some x) : s.takeLine id p ctx = s.updM (fun m => m.l2Set { x with owner := some id }) := by
  have hfits : s.m.l2Fits (lineOf p.loc) p.slice = true := by simp [MemSys.l2Fits, hf]
  have hroom : s.m.l2Room s.time (lineOf p.loc) p.slice = s.m := by rw [MemSys.l2Room, if_pos hfits]
  rw [State.takeLine_noL1 h]
  simp [State.updM, hroom, hfits, MemSys.l2Line, hf, Nat.not_le.mpr hp]

theorem MemSys.foldFloors_frame (t : Nat) (xs : List L2Line) (m : MemSys) :
    ∃ fl, xs.foldl (fun acc x => acc.foldFloor t x) m = { m with floors := fl } := by
  induction xs generalizing m with
  | nil => exact ⟨_, rfl⟩
  | cons x xs ih =>
    obtain ⟨fl, h⟩ := ih (m.foldFloor t x)
    exact ⟨fl, h⟩

/-- Forgetting lines leaves the other entries of L2, and the lines owned outside. -/
theorem MemSys.forgetL2_l2 (m : MemSys) (t : Nat) (p : L2Line → Bool) :
    (m.forgetL2 t p).l2 = m.l2.filter (fun x => !p x) ∧ (m.forgetL2 t p).l1 = m.l1 ∧ (m.forgetL2 t p).farOwned = m.farOwned := by
  obtain ⟨fl, h⟩ := MemSys.foldFloors_frame t (m.l2.filter p) m
  unfold MemSys.forgetL2
  dsimp only
  rw [h]
  exact ⟨rfl, rfl, rfl⟩

/-! An L2 that lists a line sixteen times in one slice. -/

/-- An entry of L2 that holds no byte and has no owner. -/
def spareLine (slice line : Nat) : L2Line :=
  { line := line, data := 0, valid := 0, dirty := 0, poison := 0, slice := slice, lambda := 64, leaseD := 0, leaseV := 0, leaseM := 0, cls := 0, ctx := 0
    key := 0, owner := none }

def L2Line.unowned (x : L2Line) : L2Line := { x with owner := none }

/-- All but the last entry: line L in slice k, and other lines in another slice. -/
def crowdedFront (k line : Nat) (rest : List Nat) : List L2Line := List.replicate 15 (spareLine k line) ++ rest.map (spareLine (k + 1))

/-- L2 with those entries, some of them owned, and an unowned entry of line L behind them. -/
structure MemSys.Crowded (m : MemSys) (k line : Nat) (rest : List Nat) : Prop where
  noL1 : m.l1 = []
  noFar : m.farOwned = []
  listed : ∃ as, m.l2 = as ++ [spareLine k line] ∧ as.map L2Line.unowned = crowdedFront k line rest

/-- L2 without line L, and with the other lines. -/
structure MemSys.Lost (m : MemSys) (line : Nat) (rest : List Nat) : Prop where
  noL1 : m.l1 = []
  noFar : m.farOwned = []
  gone : ∀ x ∈ m.l2, x.line ≠ line
  kept : ∀ n ∈ rest, (m.l2Find n).isSome = true

theorem mem_crowdedFront {k line : Nat} {rest : List Nat} {x : L2Line} :
    x ∈ crowdedFront k line rest ↔ x = spareLine k line ∨ ∃ n ∈ rest, x = spareLine (k + 1) n := by
  simp [crowdedFront, eq_comm]

/-- A line of the front is found there. -/
theorem find?_front {k line : Nat} {rest : List Nat} {as : List L2Line} (h : as.map L2Line.unowned = crowdedFront k line rest) {n : Nat}
    (hn : n = line ∨ n ∈ rest) : ∃ x, as.find? (fun x => x.line == n) = some x := by
  have hmem : ∃ j, spareLine j n ∈ crowdedFront k line rest :=
    hn.elim (fun h => ⟨k, mem_crowdedFront.mpr (.inl (h ▸ rfl))⟩) (fun h => ⟨k + 1, mem_crowdedFront.mpr (.inr ⟨n, h, rfl⟩)⟩)
  obtain ⟨j, hj⟩ := hmem
  rw [← h] at hj
  obtain ⟨x, hx, he⟩ := List.mem_map.mp hj
  have hline : x.line = n := congrArg L2Line.line he
  exact Option.isSome_iff_exists.mp (List.find?_isSome.mpr ⟨x, hx, by simp [hline]⟩)

/-- Taking a line of the front leaves such an L2. -/
theorem MemSys.Crowded.takeLine {s : State} {k line : Nat} {rest : List Nat} (h : s.m.Crowded k line rest) {id : Nat} {p : Phys} {ctx : Nat}
    (hp : p.loc < hostBase) (hn : lineOf p.loc = line ∨ lineOf p.loc ∈ rest) : (s.takeLine id p ctx).m.Crowded k line rest := by
  obtain ⟨as, hl2, hfront⟩ := h.listed
  obtain ⟨x, hx⟩ := find?_front hfront hn
  have hline : x.line = lineOf p.loc := by simpa using List.find?_some hx
  have hf : s.m.l2Find (lineOf p.loc) = some x := by rw [MemSys.l2Find, hl2, List.find?_append, hx]; rfl
  have hx' : as.find? (fun y => y.line == x.line) = some x := by rw [hline]; exact hx
  rw [State.takeLine_present h.noL1 hp hf]
  refine ⟨h.noL1, h.noFar, putBy (fun y => y.line == x.line) { x with owner := some id } as, ?_, ?_⟩
  · show putBy (fun y => y.line == x.line) { x with owner := some id } s.m.l2 = _
    rw [hl2]
    exact putBy_append _ hx' _
  · exact (map_putBy (y := { x with owner := some id }) hx' L2Line.unowned rfl).trans hfront

/-- Another line may be listed or change where line L is gone. -/
theorem MemSys.Lost.l2Set {m : MemSys} {line : Nat} {rest : List Nat} (h : m.Lost line rest) {y : L2Line} (hy : y.line ≠ line) : (m.l2Set y).Lost line rest := by
  refine ⟨h.noL1, h.noFar, fun z hz => ?_, fun n hn => ?_⟩
  · rcases mem_of_mem_putBy hz with rfl | hz
    · exact hy
    · exact h.gone z hz
  · show ((putBy (fun z => z.line == y.line) y m.l2).find? (fun z => z.line == n)).isSome = true
    by_cases he : y.line = n
    · rw [← he, find?_putBy_same _ (by simp)]
      rfl
    · rw [find?_putBy_other _ _ (fun z hz => by simpa [of_decide_eq_true hz] using he) (by simpa using he)]
      exact h.kept n hn

theorem MemSys.Lost.takeLine {s : State} {line : Nat} {rest : List Nat} (h : s.m.Lost line rest) (hl : line ∉ rest) {id : Nat} {p : Phys} {ctx : Nat}
    (hp : p.loc < hostBase) (hn : lineOf p.loc ∈ rest) : (s.takeLine id p ctx).m.Lost line rest := by
  obtain ⟨x, hx⟩ := Option.isSome_iff_exists.mp (h.kept _ hn)
  have hline : x.line = lineOf p.loc := by simpa using List.find?_some hx
  rw [State.takeLine_present h.noL1 hp hx]
  exact h.l2Set fun he => hl (he ▸ hline ▸ hn)

/-- In such an L2 the entries of slice k are the sixteen of line L. -/
theorem MemSys.Crowded.slice {m : MemSys} {k line : Nat} {rest : List Nat} (h : m.Crowded k line rest) :
    (∀ x ∈ m.l2, x.slice = k → x.line = line ∧ x.dirty = 0) ∧ (m.l2.filter (fun x => x.slice == k)).length = 16 := by
  obtain ⟨as, hl2, hfront⟩ := h.listed
  constructor
  · intro x hx hs
    rw [hl2] at hx
    rcases List.mem_append.mp hx with hx | hx
    · have hmem : x.unowned ∈ crowdedFront k line rest := hfront ▸ List.mem_map_of_mem hx
      rcases mem_crowdedFront.mp hmem with he | ⟨n, -, he⟩
      · exact ⟨congrArg L2Line.line he, congrArg L2Line.dirty he⟩
      · have : x.slice = k + 1 := congrArg L2Line.slice he
        omega
    · obtain rfl := List.mem_singleton.mp hx
      exact ⟨rfl, rfl⟩
  · have hcount : as.countP (fun x => x.slice == k) = (crowdedFront k line rest).countP (fun x => x.slice == k) := by
      rw [← hfront, List.countP_map]
      rfl
    rw [← List.countP_eq_length_filter, hl2, List.countP_append, hcount, crowdedFront, List.countP_append, List.countP_replicate, List.countP_map]
    simp [spareLine, Function.comp_def]

/-- Once line L is forgotten in such an L2, it is gone and the others are there. -/
theorem MemSys.Crowded.forgotten {m : MemSys} {k line : Nat} {rest : List Nat} (h : m.Crowded k line rest) (hl : line ∉ rest) (t : Nat) :
    (m.forgetL2 t (fun y => y.line == line)).Lost line rest := by
  obtain ⟨hl2', hl1, hfar⟩ := m.forgetL2_l2 t (fun y => y.line == line)
  obtain ⟨as, hl2, hfront⟩ := h.listed
  refine ⟨hl1.trans h.noL1, hfar.trans h.noFar, fun x hx => ?_, fun n hn => ?_⟩
  · rw [hl2'] at hx
    simpa using (List.mem_filter.mp hx).2
  · obtain ⟨x, hx⟩ := find?_front hfront (.inr hn)
    have hline : x.line = n := by simpa using List.find?_some hx
    have hne : n ≠ line := fun he => hl (he ▸ hn)
    rw [MemSys.l2Find, hl2']
    refine List.find?_isSome.mpr ⟨x, List.mem_filter.mpr ⟨?_, by simpa [hline] using hne⟩, by simp [hline]⟩
    rw [hl2]
    exact List.mem_append_left _ (List.mem_of_find?_eq_some hx)

/-- The entries of the set of a line that L2 does not hold, where line L has the set. -/
theorem MemSys.Crowded.row {m : MemSys} {k line n : Nat} {rest : List Nat} (h : m.Crowded k line rest) (hset : Config.l2SetOf line % 1024 = Config.l2SetOf n % 1024) :
    m.l2Row n k = m.l2.filter (fun x => x.slice == k) := by
  refine List.filter_congr fun x hx => ?_
  by_cases hk : x.slice = k
  · rw [(h.slice.1 x hx hk).1, hset]
    simp
  · simp [hk]

/-- Room for such a line is made by forgetting line L. -/
theorem MemSys.Crowded.l2Room {m : MemSys} {k line n : Nat} {rest : List Nat} (h : m.Crowded k line rest) (hne : n ≠ line) (hn : n ∉ rest)
    (hset : Config.l2SetOf line % 1024 = Config.l2SetOf n % 1024) (t : Nat) : m.l2Room t n k = m.forgetL2 t (fun y => y.line == line) := by
  obtain ⟨hslice, hcount⟩ := h.slice
  obtain ⟨as, hl2, hfront⟩ := h.listed
  have hnone : m.l2Find n = none := by
    refine List.find?_eq_none.mpr fun x hx => ?_
    rw [hl2] at hx
    rcases List.mem_append.mp hx with hx | hx
    · have hmem : x.unowned ∈ crowdedFront k line rest := hfront ▸ List.mem_map_of_mem hx
      rcases mem_crowdedFront.mp hmem with he | ⟨j, hj, he⟩
      · simpa [show x.line = line from congrArg L2Line.line he] using hne.symm
      · have : x.line = j := congrArg L2Line.line he
        simpa [this] using fun hjn : j = n => hn (hjn ▸ hj)
    · obtain rfl := List.mem_singleton.mp hx
      simpa [spareLine] using hne.symm
  have hfull : m.l2Fits n k = false := by simp [MemSys.l2Fits, hnone, h.row hset, hcount]
  have hback : spareLine k line ∈ (m.l2Row n k).filter (fun x => x.owner.isNone) := by
    rw [h.row hset, hl2]
    simp [spareLine]
  obtain ⟨x, hx, hfirst⟩ := firstOf_isSome (fun (x : L2Line) => clsRank x.cls + if m.reading x.line then 3 else 0) (List.ne_nil_of_mem hback)
  rw [h.row hset] at hx
  obtain ⟨hx, hk⟩ := List.mem_filter.mp (List.mem_filter.mp hx).1
  obtain ⟨hline, hdirty⟩ := hslice x hx (by simpa using hk)
  have hpush : m.pushLine t x = some m := by rw [MemSys.pushLine, if_pos hdirty]
  unfold MemSys.l2Room
  rw [hfull, if_neg Bool.false_ne_true, hfirst]
  dsimp only
  rw [hpush, hline]
  rfl

/-- Taking a line of the same set and slice evicts the unowned entry behind, and all of line L with it. -/
theorem MemSys.Crowded.takeLine_lost {s : State} {k line : Nat} {rest : List Nat} (h : s.m.Crowded k line rest) (hl : line ∉ rest) {id : Nat} {p : Phys} {ctx : Nat}
    (hp : p.loc < hostBase) (hs : p.slice = k) (hne : lineOf p.loc ≠ line) (hn : lineOf p.loc ∉ rest)
    (hset : Config.l2SetOf line % 1024 = Config.l2SetOf (lineOf p.loc) % 1024) : (s.takeLine id p ctx).m.Lost line rest := by
  have hlost := h.forgotten hl s.time
  have hfits : (s.m.forgetL2 s.time (fun y => y.line == line)).l2Fits (lineOf p.loc) k = true := by
    have hempty : (s.m.forgetL2 s.time (fun y => y.line == line)).l2.filter (fun x => x.slice == k) = [] := by
      rw [(s.m.forgetL2_l2 s.time _).1]
      refine List.filter_eq_nil_iff.mpr fun x hx hk => ?_
      obtain ⟨hx, hgone⟩ := List.mem_filter.mp hx
      exact absurd (h.slice.1 x hx (by simpa using hk)).1 (by simpa using hgone)
    simp [MemSys.l2Fits, hempty]
  have htake : (s.takeLine id p ctx).m = (s.m.forgetL2 s.time (fun y => y.line == line)).l2Set
      { (s.m.forgetL2 s.time (fun y => y.line == line)).l2Line (lineOf p.loc) k ctx p.key 0 with owner := some id } := by
    rw [State.takeLine_noL1 h.noL1, hs]
    simp [State.updM, h.l2Room hne hn hset, hfits, Nat.not_le.mpr hp]
  rw [htake]
  refine hlost.l2Set ?_
  show ((s.m.forgetL2 s.time (fun y => y.line == line)).l2Line (lineOf p.loc) k ctx p.key 0).line ≠ line
  unfold MemSys.l2Line
  cases hf : (s.m.forgetL2 s.time (fun y => y.line == line)).l2Find (lineOf p.loc) with
  | none => exact hne
  | some x => exact hlost.gone x (List.mem_of_find?_eq_some hf)

/-- Lines of the front taken one after the other, and other lines where line L is gone. -/
theorem MemSys.Crowded.takeAll {s : State} {k line : Nat} {rest : List Nat} (h : s.m.Crowded k line rest) (id : Nat) {xs : List Phys}
    (hx : ∀ x ∈ xs, x.loc < hostBase ∧ (lineOf x.loc = line ∨ lineOf x.loc ∈ rest)) :
    (xs.foldl (fun (acc : State) x => acc.takeLine id x 0) s).m.Crowded k line rest := by
  induction xs generalizing s with
  | nil => exact h
  | cons x xs ih =>
    obtain ⟨hloc, hline⟩ := hx x List.mem_cons_self
    exact ih (h.takeLine hloc hline) fun y hy => hx y (List.mem_cons_of_mem x hy)

theorem MemSys.Lost.takeAll {s : State} {line : Nat} {rest : List Nat} (h : s.m.Lost line rest) (hl : line ∉ rest) (id : Nat) {xs : List Phys}
    (hx : ∀ x ∈ xs, x.loc < hostBase ∧ lineOf x.loc ∈ rest) : (xs.foldl (fun (acc : State) x => acc.takeLine id x 0) s).m.Lost line rest := by
  induction xs generalizing s with
  | nil => exact h
  | cons x xs ih =>
    obtain ⟨hloc, hline⟩ := hx x List.mem_cons_self
    exact ih (h.takeLine hl hloc hline) fun y hy => hx y (List.mem_cons_of_mem x hy)

/-- Taking the lines of some places, of which the second is in the set of the first and the others are listed: the first is not owned in the end. -/
theorem MemSys.Crowded.takeLines {s : State} {k : Nat} {rest : List Nat} {pre mid post : List Phys} {p q : Phys} (h : s.m.Crowded k (lineOf p.loc) rest) (id : Nat)
    (hl : lineOf p.loc ∉ rest) (hq : lineOf q.loc ≠ lineOf p.loc) (hn : lineOf q.loc ∉ rest) (hs : q.slice = k)
    (hset : Config.l2SetOf (lineOf p.loc) % 1024 = Config.l2SetOf (lineOf q.loc) % 1024)
    (hloc : ∀ x ∈ pre ++ p :: mid ++ q :: post, x.loc < hostBase) (hrest : ∀ x ∈ pre ++ mid ++ post, lineOf x.loc ∈ rest) :
    ((pre ++ p :: mid ++ q :: post).foldl (fun (acc : State) x => acc.takeLine id x 0) s).m.Lost (lineOf p.loc) rest := by
  rw [List.foldl_append, List.foldl_cons]
  refine MemSys.Lost.takeAll ((h.takeAll id fun x hx => ⟨hloc x (List.mem_append_left _ hx), ?_⟩).takeLine_lost hl (hloc q (by simp)) hs hq hn hset) hl id
    fun x hx => ⟨hloc x (by simp [hx]), hrest x (by simp [hx])⟩
  rcases List.mem_append.mp hx with hx | hx
  · exact .inr (hrest x (by simp [hx]))
  · rcases List.mem_cons.mp hx with rfl | hx
    · exact .inl rfl
    · exact .inr (hrest x (by simp [hx]))

/-! The counterexample: a result of 65,535 FP32 elements at PA 0, in 2,048 lines. -/

/-- A device with a descriptor at PA 0 and its list, of two addresses 0, at PA 64. -/
def ringedState : State :=
  { State.reset with
    m := { MemSys.reset with dram := [(1, 1), (2, 0xFF), (3, 0xFF), (48, 64)] }
    h := { HostIf.reset with boot := .ready, clCfg := 0x10000, clTail := 1 } }

/-- The same with lines in L2. -/
def listedState (ls : List L2Line) : State := ringedState.updM (fun m => { m with l2 := ls })

def descBytes : List Byte := bytesOf 64 (2 ^ 8 + 65535 * 2 ^ 16 + 64 * 2 ^ 384)

theorem ringedState_ring : ringedState.ringEntry 0 0x10000 0 = some descBytes ∧ ringedState.contribAddrs 64 2 = some [0, 0] := by decide +kernel

theorem descBytes_fields : descOk descBytes = true ∧ descBits descBytes 447 384 = 64 ∧ descBits descBytes 15 8 = 1 ∧ descBits descBytes 127 64 = 0 ∧
    descBits descBytes 7 4 = 0 ∧ descBits descBytes 31 16 = 65535 := by decide +kernel

/-- Lines of which no byte is valid do not show in what a home holds. -/
theorem listedState_homeByte {ls : List L2Line} (h : ∀ x ∈ ls, x.valid = 0) (loc key : Nat) : (listedState ls).m.homeByte loc key = ringedState.m.homeByte loc key := by
  have hlow : (listedState ls).m.lowByte loc key = ringedState.m.lowByte loc key := rfl
  have hnone : ringedState.m.homeByte loc key = ringedState.m.lowByte loc key := rfl
  rw [hnone, ← hlow]
  unfold MemSys.homeByte
  split
  · next x hx => rw [h x (List.mem_of_find?_eq_some hx)]; simp
  · rfl

theorem listedState_bareRead {ls : List L2Line} (h : ∀ x ∈ ls, x.valid = 0) (pa n : Nat) : (listedState ls).m.bareRead pa n = ringedState.m.bareRead pa n := by
  unfold MemSys.bareRead MemSys.placeBytes
  simp only [listedState_homeByte h]

theorem listedState_ring {ls : List L2Line} (h : ∀ x ∈ ls, x.valid = 0) :
    (listedState ls).ringEntry 0 0x10000 0 = some descBytes ∧ (listedState ls).contribAddrs 64 2 = some [0, 0] := by
  obtain ⟨hring, hlist⟩ := ringedState_ring
  constructor
  · rw [← hring]
    unfold State.ringEntry
    simp only [listedState_bareRead h, listedState_homeByte h, MemSys.homeBytes]
    rfl
  · rw [← hlist]
    unfold State.contribAddrs
    rw [listedState_bareRead h]

/-- The places of a range of ring 0. -/
def ringPlace (i : Nat) : Phys := { loc := locOf 0 0 i, pa := i, slice := sliceOf 0 0 i, key := 0, isch := 0, sel := 0, tgt := 0, l1 := true }

theorem mapM_some {α β : Type} {f : α → Option β} {g : α → β} {as : List α} (h : ∀ a ∈ as, f a = some (g a)) : as.mapM f = some (as.map g) := by
  induction as with
  | nil => rfl
  | cons a as ih => rw [List.mapM_cons, h a List.mem_cons_self, ih fun b hb => h b (List.mem_cons_of_mem a hb)]; rfl

theorem listedState_places (ls : List L2Line) : (listedState ls).domainPlaces 0 262140 = some ((List.range 262140).map ringPlace) := by
  unfold State.domainPlaces
  dsimp only
  rw [if_pos (show 0 / 2 ^ 52 = (listedState ls).m.devId.toNat from rfl)]
  refine mapM_some fun i hi => ?_
  have := List.mem_range.mp hi
  rw [show 0 % 2 ^ 52 + i = i by omega, barePhys, if_pos (by omega)]
  rfl

theorem ringPlace_loc_eq (i : Nat) : (ringPlace i).loc = i / 256 % 16 * 2 ^ 36 + i / 256 / 16 % 32 * 2 ^ 31 + (i / (256 * 512) * 256 + i % 256) := rfl

/-- The places lie in device memory, and the bytes that begin lines in lines of their own. -/
theorem ringPlace_loc {i : Nat} (h : i < 262140) : (ringPlace i).loc < hostBase := by
  rw [ringPlace_loc_eq, hostBase]
  omega

theorem ringPlace_line (i : Nat) : lineOf (ringPlace (128 * i)).loc = i / 2 % 16 * 2 ^ 29 + i / 32 % 32 * 2 ^ 24 + (i / 1024 * 2 + i % 2) := by
  have h1 : 128 * i / 256 = i / 2 := by omega
  have h2 : 128 * i / 256 / 16 = i / 32 := by omega
  have h3 : 128 * i / (256 * 512) = i / 1024 := by omega
  have h4 : 128 * i % 256 = 128 * (i % 2) := by omega
  rw [lineOf, ringPlace_loc_eq, h2, h1, h3, h4]
  omega

theorem digits_inj {a b c a' b' c' : Nat} (hb : b < 32) (hb' : b' < 32) (hc : c < 4) (hc' : c' < 4)
    (h : a * 2 ^ 29 + b * 2 ^ 24 + c = a' * 2 ^ 29 + b' * 2 ^ 24 + c') : a = a' ∧ b = b' ∧ c = c' := by
  have hlow : c = c' := by omega
  have hmid : b = b' := by omega
  exact ⟨by omega, hmid, hlow⟩

theorem ringPlace_line_inj {i j : Nat} (hi : i < 2048) (hj : j < 2048) (h : lineOf (ringPlace (128 * i)).loc = lineOf (ringPlace (128 * j)).loc) : i = j := by
  rw [ringPlace_line, ringPlace_line] at h
  obtain ⟨hstack, hchannel, hlow⟩ := digits_inj (Nat.mod_lt _ (by decide)) (Nat.mod_lt _ (by decide)) (by omega) (by omega) h
  omega

/-- Two of the first 1,025 lines have one set. -/
theorem ringPlace_collision : ∃ i j, i < 1025 ∧ j < 1025 ∧ i ≠ j ∧
    Config.l2SetOf (lineOf (ringPlace (128 * i)).loc) % 1024 = Config.l2SetOf (lineOf (ringPlace (128 * j)).loc) % 1024 := by
  obtain ⟨i, hi, j, hj, hne, h⟩ := Finset.exists_ne_map_eq_of_card_lt_of_maps_to (s := Finset.range 1025) (t := Finset.range 1024) (by simp)
    (f := fun i => Config.l2SetOf (lineOf (ringPlace (128 * i)).loc) % 1024) (fun i _ => Finset.mem_coe.mpr (Finset.mem_range.mpr (Nat.mod_lt _ (by decide))))
  exact ⟨i, j, Finset.mem_range.mp hi, Finset.mem_range.mp hj, hne, h⟩

/-- The places that the engine takes, one a line, and their lines. -/
def ringPlaces : List Phys := (List.range 262140).map ringPlace

theorem mem_ringPlaces {p : Phys} (h : p ∈ ringPlaces) : ∃ i < 262140, p = ringPlace i := by
  obtain ⟨i, hi, rfl⟩ := List.mem_map.mp h
  exact ⟨i, List.mem_range.mp hi, rfl⟩

theorem oneALine_nodup (ps : List Phys) : ((oneALine ps).map (fun p => lineOf p.loc)).Nodup := by
  rw [oneALine_lines]
  exact List.nodup_dedup _

/-- The lines of some places. -/
def linesOf (ps : List Phys) : List Nat := ps.map (fun p => lineOf p.loc)

/-- Two places that the engine takes one after the other, of different lines of one set. -/
theorem ringPlaces_split : ∃ pre p mid q post, oneALine ringPlaces = pre ++ p :: mid ++ q :: post ∧
    Config.l2SetOf (lineOf p.loc) % 1024 = Config.l2SetOf (lineOf q.loc) % 1024 := by
  have htaken : ∀ i < 1025, ∃ p ∈ oneALine ringPlaces, lineOf p.loc = lineOf (ringPlace (128 * i)).loc := by
    intro i hi
    have hmem : lineOf (ringPlace (128 * i)).loc ∈ (oneALine ringPlaces).map (fun p => lineOf p.loc) := by
      rw [oneALine_lines, List.mem_dedup]
      exact List.mem_map_of_mem (List.mem_map_of_mem (List.mem_range.mpr (by omega)))
    obtain ⟨p, hp, he⟩ := List.mem_map.mp hmem
    exact ⟨p, hp, he⟩
  obtain ⟨i, j, hi, hj, hne, hset⟩ := ringPlace_collision
  obtain ⟨x, hx, hxi⟩ := htaken i hi
  obtain ⟨y, hy, hyj⟩ := htaken j hj
  have hxy : x ≠ y := fun he => hne (ringPlace_line_inj (by omega) (by omega) (hxi.symm.trans (he ▸ hyj)))
  obtain ⟨p, q, pre, mid, post, horder, hsplit⟩ := split_two hx hy hxy
  refine ⟨pre, p, mid, q, post, hsplit, ?_⟩
  rcases horder with ⟨rfl, rfl⟩ | ⟨rfl, rfl⟩
  · rw [hxi, hyj, hset]
  · rw [hxi, hyj, hset]

/-! The collective starts. -/

/-- COLLECTIVE_START of a good descriptor takes the lines of the destination one after the other. -/
theorem exec_collectiveStart {s : State} {bs : List Byte} (hlive : s.h.live = true) (hidle : s.e.coll = none) (hon : s.h.clCfg.getLsbD 16 = true)
    (hnew : s.h.clTail ≠ s.h.clHead) (hring : s.ringEntry s.h.clBase s.h.clCfg s.h.clHead = some bs)
    (hheld : s.m.bareHeld (descBits bs 447 384) (16 * (descBits bs 15 8 + 1)) = false) (hgood : (s.collOf bs).status = none)
    (hfree : ∀ p ∈ s.collOwns (s.collOf bs), s.owned (lineOf p.loc) = false) {t : State} (ht : exec .collectiveStart s = .next t) :
    t.m = ((s.collOwns (s.collOf bs)).foldl (fun (acc : State) p => acc.takeLine (s.collOf bs).id p 0) { s with fresh := s.fresh + 1 }).m := by
  have hany : (s.collOwns (s.collOf bs)).any (fun p => s.owned (lineOf p.loc)) = false := by simpa using hfree
  change execCollectiveStart s = _ at ht
  simp only [execCollectiveStart, hlive, hidle, hon, hring, hheld, hgood, hany, Option.isSome_none, Bool.not_true, Bool.or_self, beq_eq_false_iff_ne.mpr hnew,
    Bool.false_eq_true, if_false] at ht
  cases ht
  rfl

/-- The device whose L2 lists a line sixteen times. -/
def crowdedState (k line : Nat) (rest : List Nat) : State := listedState (crowdedFront k line rest ++ [spareLine k line])

/-- Its entries of L2 hold no byte and have no owner. -/
theorem crowdedState_spare {k line : Nat} {rest : List Nat} {x : L2Line} (h : x ∈ crowdedFront k line rest ++ [spareLine k line]) : x.valid = 0 ∧ x.owner = none := by
  rcases List.mem_append.mp h with h | h
  · rcases mem_crowdedFront.mp h with rfl | ⟨n, -, rfl⟩
    · exact ⟨rfl, rfl⟩
    · exact ⟨rfl, rfl⟩
  · obtain rfl := List.mem_singleton.mp h
    exact ⟨rfl, rfl⟩

theorem crowdedState_ring (k line : Nat) (rest : List Nat) :
    (crowdedState k line rest).ringEntry 0 0x10000 0 = some descBytes ∧ (crowdedState k line rest).contribAddrs 64 2 = some [0, 0] :=
  listedState_ring fun _ hx => (crowdedState_spare hx).1

theorem crowdedState_crowded (k line : Nat) (rest : List Nat) : (crowdedState k line rest).m.Crowded k line rest := by
  refine ⟨rfl, rfl, crowdedFront k line rest, rfl, ?_⟩
  simp [crowdedFront, Function.comp_def, L2Line.unowned, spareLine]

theorem crowdedState_owned (k line : Nat) (rest : List Nat) (n : Nat) : (crowdedState k line rest).owned n = false := by
  have hfind : ((crowdedState k line rest).m.l2Find n).bind (·.owner) = none := by
    cases hf : (crowdedState k line rest).m.l2Find n with
    | none => rfl
    | some x => exact (crowdedState_spare (List.mem_of_find?_eq_some hf)).2
  rw [State.owned, hfind]
  rfl

/-- The collective that it starts: its status, and its destination. -/
theorem crowdedState_coll (k line : Nat) (rest : List Nat) :
    ((crowdedState k line rest).collOf descBytes).status = none ∧ ((crowdedState k line rest).collOf descBytes).dst = 0 ∧
      ((crowdedState k line rest).collOf descBytes).size = 262140 := by
  obtain ⟨hok, hlist, hnpart, hdst, htype, hcount⟩ := descBytes_fields
  have haddrs := (crowdedState_ring k line rest).2
  refine ⟨?_, hdst, ?_⟩
  · simp only [State.collOf, hlist, hnpart, hok, haddrs, Option.isSome_some, Bool.and_self, if_true]
  · simp only [CollRun.size, State.collOf, htype, hcount, collBytes]
    rfl

theorem crowdedState_places (k line : Nat) (rest : List Nat) :
    (crowdedState k line rest).domainPlaces ((crowdedState k line rest).collOf descBytes).dst ((crowdedState k line rest).collOf descBytes).size = some ringPlaces := by
  obtain ⟨-, hdst, hsize⟩ := crowdedState_coll k line rest
  rw [hdst, hsize]
  exact listedState_places _

theorem crowdedState_collOwns (k line : Nat) (rest : List Nat) :
    (crowdedState k line rest).collOwns ((crowdedState k line rest).collOf descBytes) = oneALine ringPlaces := by
  rw [State.collOwns, crowdedState_places, Option.getD_some]

theorem crowdedState_enabled (k line : Nat) (rest : List Nat) :
    (crowdedState k line rest).h.clCfg.getLsbD 16 = true ∧ (crowdedState k line rest).h.clTail ≠ (crowdedState k line rest).h.clHead :=
  ⟨(by decide : (0x10000 : W64).getLsbD 16 = true), (by decide : (1 : W32) ≠ 0)⟩

/-- Once its collective has started, the first of two lines of one set is not owned. -/
theorem crowdedState_start {pre mid post : List Phys} {p q : Phys} (hown : oneALine ringPlaces = pre ++ p :: mid ++ q :: post)
    (hset : Config.l2SetOf (lineOf p.loc) % 1024 = Config.l2SetOf (lineOf q.loc) % 1024) {t : State}
    (ht : exec .collectiveStart (crowdedState q.slice (lineOf p.loc) (linesOf (pre ++ mid ++ post))) = .next t) :
    t.m.Lost (lineOf p.loc) (linesOf (pre ++ mid ++ post)) := by
  have hnd := oneALine_nodup ringPlaces
  rw [hown] at hnd
  have hnodup : (lineOf p.loc :: lineOf q.loc :: linesOf (pre ++ mid ++ post)).Nodup := by
    have hperm : (pre ++ p :: mid ++ q :: post).Perm (p :: q :: (pre ++ mid ++ post)) := by
      refine List.perm_middle.trans ((List.Perm.cons q ?_).trans (List.Perm.swap ..))
      rw [List.append_assoc, List.append_assoc, List.cons_append]
      exact List.perm_middle
    exact hnd.perm (hperm.map fun x => lineOf x.loc)
  obtain ⟨hp, hq⟩ := List.nodup_cons.mp hnodup
  obtain ⟨hq, -⟩ := List.nodup_cons.mp hq
  obtain ⟨hring, hlist⟩ := crowdedState_ring q.slice (lineOf p.loc) (linesOf (pre ++ mid ++ post))
  obtain ⟨hon, hnew⟩ := crowdedState_enabled q.slice (lineOf p.loc) (linesOf (pre ++ mid ++ post))
  rw [exec_collectiveStart rfl rfl hon hnew hring rfl (crowdedState_coll _ _ _).1 (fun x _ => crowdedState_owned _ _ _ _) ht, crowdedState_collOwns, hown]
  refine MemSys.Crowded.takeLines (s := { crowdedState q.slice (lineOf p.loc) (linesOf (pre ++ mid ++ post)) with
      fresh := (crowdedState q.slice (lineOf p.loc) (linesOf (pre ++ mid ++ post))).fresh + 1 }) (crowdedState_crowded _ _ _) _
    (fun h => hp (List.mem_cons_of_mem _ h)) (fun h => hp (h ▸ List.mem_cons_self)) hq rfl hset (fun x hx => ?_) (fun x hx => List.mem_map_of_mem hx)
  obtain ⟨i, hi, rfl⟩ := mem_ringPlaces (mem_of_mem_oneALine (hown ▸ hx))
  exact ringPlace_loc hi

/-- Refutes O59: where L2 lists the line of p sixteen times in the slice of q, whose line has the set of p's, the engine owns the line of p first and loses it when it
takes the line of q. -/
theorem not_collectiveEngine : ¬ Obligations.CollectiveEngine := by
  intro h
  obtain ⟨hstart, -⟩ := h
  obtain ⟨pre, p, mid, q, post, hown, hset⟩ := ringPlaces_split
  obtain ⟨hok, hlist, hnpart, -⟩ := descBytes_fields
  obtain ⟨hring, haddrs⟩ := crowdedState_ring q.slice (lineOf p.loc) (linesOf (pre ++ mid ++ post))
  obtain ⟨hon, hnew⟩ := crowdedState_enabled q.slice (lineOf p.loc) (linesOf (pre ++ mid ++ post))
  obtain ⟨-, -, -, -, -, -, -, -, -, hgood⟩ := hstart _ descBytes _ rfl rfl rfl hon hnew hring rfl
  obtain ⟨-, -, t, ht, -, -, howned, -⟩ := hgood [0, 0] ringPlaces hok (by rw [hlist, hnpart]; exact haddrs) (crowdedState_places _ _ _)
    (fun x _ => crowdedState_owned _ _ _ _) rfl rfl
  have hlost := crowdedState_start hown hset ht
  have hp : p ∈ ringPlaces := mem_of_mem_oneALine (by rw [hown]; simp)
  rcases howned p hp with ⟨-, x, hx, -⟩ | hfar
  · exact hlost.gone x (List.mem_of_find?_eq_some hx) (by simpa using List.find?_some hx)
  · rw [hlost.noFar] at hfar
    exact List.not_mem_nil hfar

end Sys2Proof.Machine
end

section
/-!
Words as fields beside one another (03 R78): what is packed from bit 0 on is read again, and what is read makes the word. Bytes as numbers (00 R6).
-/
namespace Sys2Proof

/-- The numbers that stand side by side in a word from bit lo, each of its width. -/
def readFrom (lo : Nat) : List Nat → Nat → List Nat
  | [], _ => []
  | n :: r, w => bitsOf w lo n :: readFrom (lo + n) r w

/-- The word whose fields, from bit lo, are of the given widths and values. -/
def packFrom (lo : Nat) : List (Nat × Nat) → Nat
  | [] => 0
  | p :: r => p.2 * 2 ^ lo + packFrom (lo + p.1) r

/-- The width of a word of such fields. -/
def widthOf (l : List (Nat × Nat)) : Nat := (l.map Prod.fst).sum

theorem two_pow_dvd_packFrom (lo : Nat) (l : List (Nat × Nat)) : 2 ^ lo ∣ packFrom lo l := by
  induction l generalizing lo with
  | nil => exact dvd_zero _
  | cons p r ih => exact dvd_add (Dvd.intro_left _ rfl) ((pow_dvd_pow 2 (Nat.le_add_right lo p.1)).trans (ih (lo + p.1)))

theorem bitsOf_add {c x lo n k : Nat} (hc : c < 2 ^ lo) (hx : x < 2 ^ n) (hk : 2 ^ (lo + n) ∣ k) : bitsOf (c + (x * 2 ^ lo + k)) lo n = x := by
  obtain ⟨q, rfl⟩ := hk
  have hsum : c + (x * 2 ^ lo + 2 ^ (lo + n) * q) = c + 2 ^ lo * (x + 2 ^ n * q) := by ring
  rw [bitsOf, hsum, Nat.add_mul_div_left _ _ (Nat.two_pow_pos lo), Nat.div_eq_of_lt hc, Nat.zero_add, Nat.add_mul_mod_self_left, Nat.mod_eq_of_lt hx]

theorem readFrom_packFrom {l : List (Nat × Nat)} (hl : ∀ p ∈ l, p.2 < 2 ^ p.1) (lo : Nat) {c : Nat} (hc : c < 2 ^ lo) :
    readFrom lo (l.map Prod.fst) (c + packFrom lo l) = l.map Prod.snd := by
  induction l generalizing lo c with
  | nil => rfl
  | cons p r ih =>
    obtain ⟨hp, hr⟩ := List.forall_mem_cons.1 hl
    have hc' : c + p.2 * 2 ^ lo < 2 ^ (lo + p.1) := by
      calc c + p.2 * 2 ^ lo < 2 ^ lo + p.2 * 2 ^ lo := by omega
        _ = (p.2 + 1) * 2 ^ lo := by ring
        _ ≤ 2 ^ p.1 * 2 ^ lo := Nat.mul_le_mul_right _ hp
        _ = 2 ^ (lo + p.1) := by ring
    refine congrArg₂ List.cons (bitsOf_add hc hp (two_pow_dvd_packFrom _ _)) ?_
    have := ih hr (lo + p.1) hc'
    rwa [Nat.add_assoc] at this

theorem packFrom_lt {l : List (Nat × Nat)} (hl : ∀ p ∈ l, p.2 < 2 ^ p.1) (lo : Nat) : packFrom lo l + 2 ^ lo ≤ 2 ^ (lo + widthOf l) := by
  induction l generalizing lo with
  | nil => simp [packFrom, widthOf]
  | cons p r ih =>
    obtain ⟨hp, hr⟩ := List.forall_mem_cons.1 hl
    calc packFrom lo (p :: r) + 2 ^ lo = (p.2 + 1) * 2 ^ lo + packFrom (lo + p.1) r := by rw [packFrom]; ring
      _ ≤ 2 ^ p.1 * 2 ^ lo + packFrom (lo + p.1) r := Nat.add_le_add_right (Nat.mul_le_mul_right _ hp) _
      _ = packFrom (lo + p.1) r + 2 ^ (lo + p.1) := by ring
      _ ≤ 2 ^ (lo + p.1 + widthOf r) := ih hr _
      _ = 2 ^ (lo + widthOf (p :: r)) := by rw [widthOf, widthOf, List.map_cons, List.sum_cons, Nat.add_assoc]

/-- A word is made of what is read of it. -/
theorem packFrom_of_readFrom {l : List (Nat × Nat)} {lo w : Nat} (hw : w < 2 ^ (lo + widthOf l)) (hl : readFrom lo (l.map Prod.fst) w = l.map Prod.snd) :
    packFrom lo l = w / 2 ^ lo * 2 ^ lo := by
  induction l generalizing lo with
  | nil => rw [Nat.div_eq_of_lt (by simpa [widthOf] using hw), Nat.zero_mul]; rfl
  | cons p r ih =>
    obtain ⟨hp, hr⟩ := List.cons.inj hl
    rw [packFrom, ih (by rwa [Nat.add_assoc]) hr, ← hp, bitsOf, pow_add, ← Nat.div_div_eq_div_mul]
    calc w / 2 ^ lo % 2 ^ p.1 * 2 ^ lo + w / 2 ^ lo / 2 ^ p.1 * (2 ^ lo * 2 ^ p.1)
        = (2 ^ p.1 * (w / 2 ^ lo / 2 ^ p.1) + w / 2 ^ lo % 2 ^ p.1) * 2 ^ lo := by ring
      _ = w / 2 ^ lo * 2 ^ lo := by rw [Nat.div_add_mod]

/-- Fields that fit are what the word that they make reads as, and only that word. -/
theorem packFrom_eq_iff {l : List (Nat × Nat)} (hl : ∀ p ∈ l, p.2 < 2 ^ p.1) {w : Nat} (hw : w < 2 ^ widthOf l) :
    packFrom 0 l = w ↔ readFrom 0 (l.map Prod.fst) w = l.map Prod.snd := by
  constructor
  · rintro rfl
    simpa using readFrom_packFrom hl 0 (c := 0) Nat.one_pos
  · intro h
    simpa using packFrom_of_readFrom (by simpa using hw) h

/-! Bytes (00 R6). -/

theorem leNat_lt (bs : List Byte) : leNat bs < 256 ^ bs.length := by
  induction bs with
  | nil => exact Nat.one_pos
  | cons b r ih =>
    have := b.isLt
    rw [leNat, List.length_cons, pow_succ]
    omega

theorem leNat_leBytes (n w : Nat) : leNat (leBytes n w) = w % 256 ^ n := by
  induction n generalizing w with
  | zero => rw [pow_zero, Nat.mod_one]; rfl
  | succ n ih => rw [leBytes, leNat, ih, BitVec.toNat_ofNat, pow_succ' 256 n, Nat.mod_mul (a := 256)]

theorem leBytes_length (n w : Nat) : (leBytes n w).length = n := by
  induction n generalizing w with
  | zero => rfl
  | succ n ih => rw [leBytes, List.length_cons, ih]

theorem leBytes_leNat (bs : List Byte) : leBytes bs.length (leNat bs) = bs := by
  induction bs with
  | nil => rfl
  | cons b r ih =>
    have := b.isLt
    have hb : BitVec.ofNat 8 (b.toNat + 256 * leNat r) = b := by
      apply BitVec.eq_of_toNat_eq
      rw [BitVec.toNat_ofNat, Nat.add_mul_mod_self_left, Nat.mod_eq_of_lt this]
    have hr : (b.toNat + 256 * leNat r) / 256 = leNat r := by omega
    rw [List.length_cons, leNat, leBytes, hb, hr, ih]

end Sys2Proof
end

section
/-!
Operand codes (03 R84, R90) and guard fields (03 R80), each read back as what it names.
-/
namespace Sys2Proof

/-- An operand that has a code (03 R90). -/
def Opnd.Named : Opnd → Prop
  | .v r => r < 640
  | .s r => r < 64
  | .sp _ => True

/-- An operand that has a code in F64 (03 R84). -/
def Opnd.short : Opnd → Bool
  | .v r => r < 192
  | .s r => r < 64
  | .sp _ => false

theorem specialOf_eq_iff {n : Nat} (hn : n < 8) {x : Special} : specialOf n = x ↔ x.num = n := by
  interval_cases n <;> cases x <;> decide

theorem opndOf_eq_some_iff {c : Nat} {o : Opnd} : opndOf c = some o ↔ o.Named ∧ o.code = c := by
  unfold opndOf
  cases o with
  | v r => simp only [Opnd.Named, Opnd.code]; split_ifs <;> simp <;> omega
  | s r => simp only [Opnd.Named, Opnd.code]; split_ifs <;> simp <;> omega
  | sp x =>
    have hx : x.num < 8 := by cases x <;> decide
    simp only [Opnd.Named, Opnd.code, true_and]
    split_ifs
    · simp; omega
    · simp; omega
    · rw [Option.some_inj, Opnd.sp.injEq, specialOf_eq_iff (by omega)]; omega
    · simp; omega

theorem Opnd.Named.code_lt {o : Opnd} (h : o.Named) : o.code < 2 ^ 10 := by
  cases o with
  | v r => simp only [Named, Opnd.code] at *; omega
  | s r => simp only [Named, Opnd.code] at *; omega
  | sp x => cases x <;> decide

theorem opnd8_eq_iff {c : Nat} (hc : c < 256) {o : Opnd} : opnd8 c = o ↔ o.short = true ∧ o.code8 = c := by
  unfold opnd8
  cases o <;> simp only [Opnd.short, Opnd.code8] <;> split_ifs <;> simp <;> omega

theorem Opnd.code8_lt {o : Opnd} (h : o.short = true) : o.code8 < 2 ^ 8 := by
  cases o <;> simp [short, code8] at * <;> omega

theorem Opnd.named_of_short {o : Opnd} (h : o.short = true) : o.Named := by
  cases o <;> simp [short, Named] at * <;> omega

theorem guardCode_lt (g : Option Guard) : guardCode g < 2 ^ 13 := by
  cases g with
  | none => decide
  | some g =>
    have := g.bit.isLt
    have := g.reg.isLt
    have := g.scalar.toNat_le
    have := g.neg.toNat_le
    simp only [guardCode]
    omega

theorem toNat_decide_bitsOf (w lo : Nat) : (decide (bitsOf w lo 1 = 1)).toNat = bitsOf w lo 1 := by
  have h : bitsOf w lo 1 < 2 := Nat.mod_lt _ (by decide)
  obtain h | h : bitsOf w lo 1 = 0 ∨ bitsOf w lo 1 = 1 := by omega
  all_goals simp [h]

theorem guardOf_eq_some_iff {c : Nat} (hc : c < 2 ^ 13) {g : Option Guard} : guardOf c = some g ↔ guardCode g = c := by
  constructor
  · intro h
    unfold guardOf at h
    split_ifs at h with hodd hzero
    · cases h
      simp only [guardCode, toNat_decide_bitsOf, BitVec.toNat_ofNat]
      simp only [bitsOf]
      omega
    · cases h
      exact hzero.symm
  · rintro rfl
    cases g with
    | none => rfl
    | some g =>
      obtain ⟨neg, bit, reg, scalar⟩ := g
      have hb := bit.isLt
      have hr := reg.isLt
      have hn := neg.toNat_le
      have hs := scalar.toNat_le
      have hodd : guardCode (some ⟨neg, bit, reg, scalar⟩) % 2 = 1 := by simp only [guardCode]; omega
      have hneg : bitsOf (guardCode (some ⟨neg, bit, reg, scalar⟩)) 12 1 = neg.toNat := by simp only [guardCode, bitsOf]; omega
      have hbit : bitsOf (guardCode (some ⟨neg, bit, reg, scalar⟩)) 7 5 = bit.toNat := by simp only [guardCode, bitsOf]; omega
      have hreg : bitsOf (guardCode (some ⟨neg, bit, reg, scalar⟩)) 2 5 = reg.toNat := by simp only [guardCode, bitsOf]; omega
      have hscalar : bitsOf (guardCode (some ⟨neg, bit, reg, scalar⟩)) 1 1 = scalar.toNat := by simp only [guardCode, bitsOf]; omega
      rw [guardOf, if_pos hodd, hneg, hbit, hreg, hscalar]
      simp

end Sys2Proof
end

section
/-!
The words of the formats (03 R83-R88): a word splits into the fields that it is joined from, and into no others.
-/
namespace Sys2Proof

/-- Every operand of the fields has a code. -/
def Fields.Named (f : Fields) : Prop := f.d.Named ∧ f.a.Named ∧ f.b.Named ∧ f.c.Named ∧ f.e.Named

/-- The fields of a word beside one another, from bit 0: width and value of each (03 R78, R83-R88). -/
def Fields.parts (opc : Nat) (f : Fields) : List (Nat × Nat) :=
  let head := [(2, f.fmt.len), (8, opc), (4, f.stall.toNat), (3, f.slot.toNat), (6, f.wait.toNat), (13, guardCode f.g0)]
  let wide := [(8, f.sub.toNat), (2, f.evict.toNat), (2, f.level.toNat)]
  let second := [(13, guardCode f.g1), (1, f.gcomb.toNat), (2, 0)]
  match f.fmt with
  | .f64 => head ++ [(4, f.sub.toNat), (8, f.d.code8), (8, f.a.code8), (8, f.b.code8)]
  | .f96 => head ++ wide ++ [(10, f.d.code), (10, f.a.code), (10, f.b.code), (18, f.mod.toNat)]
  | .f96i => head ++ wide ++ [(10, f.d.code), (10, f.a.code), (28, f.imm.toNat)]
  | .f128 =>
    head ++ wide ++ second ++ [(10, f.d.code), (10, f.a.code), (10, f.b.code), (10, f.c.code), (10, f.e.code), (14, f.mod.toNat)]
  | .f128i => head ++ wide ++ second ++ [(10, f.d.code), (10, f.a.code), (10, f.b.code), (32, f.imm.toNat), (2, f.mod.toNat)]

theorem joinWord_eq_packFrom (opc : Nat) (f : Fields) : joinWord opc f = packFrom 0 (f.parts opc) := by
  cases hf : f.fmt
  all_goals
    simp only [joinWord, Fields.parts, hf, packFrom, List.cons_append, List.nil_append]
    ring

theorem widthOf_parts (opc : Nat) (f : Fields) : widthOf (f.parts opc) = 8 * f.fmt.bytes := by
  cases hf : f.fmt
  all_goals simp [Fields.parts, hf, widthOf, Fmt.bytes]

theorem formatOk_iff (f : Fields) : formatOk f = true ↔
    match f.fmt with
    | .f64 =>
      f.c = .v 0 ∧ f.e = .v 0 ∧ f.mod = 0 ∧ f.imm = 0 ∧ f.g1 = none ∧ f.gcomb = false ∧ f.evict = 0 ∧ f.level = 0 ∧ f.sub.toNat < 16 ∧
        f.d.short = true ∧ f.a.short = true ∧ f.b.short = true
    | .f96 => f.c = .v 0 ∧ f.e = .v 0 ∧ f.imm = 0 ∧ f.g1 = none ∧ f.gcomb = false
    | .f96i => f.b = .v 0 ∧ f.c = .v 0 ∧ f.e = .v 0 ∧ f.mod = 0 ∧ f.imm.toNat < 2 ^ 28 ∧ f.g1 = none ∧ f.gcomb = false
    | .f128 => f.mod.toNat < 2 ^ 14 ∧ f.imm = 0
    | .f128i => f.c = .v 0 ∧ f.e = .v 0 ∧ f.mod.toNat < 4 := by
  unfold formatOk
  extract_lets short
  have hshort : short = Opnd.short := by
    funext o
    cases o <;> rfl
  rw [hshort]
  cases hf : f.fmt <;> simp [and_assoc]

theorem Fields.parts_fit {opc : Nat} {f : Fields} (hopc : opc < 256) (hf : formatOk f = true) (hn : f.Named) : ∀ p ∈ f.parts opc, p.2 < 2 ^ p.1 := by
  obtain ⟨hd, ha, hb, hc, he⟩ := hn
  have hbool : f.gcomb.toNat < 2 := f.gcomb.toNat_lt
  have hlen : f.fmt.len < 4 := by cases f.fmt <;> decide
  rw [formatOk_iff] at hf
  cases hfmt : f.fmt
  all_goals
    rw [hfmt] at hf hlen
    simp only [Fields.parts, hfmt, List.cons_append, List.nil_append, List.forall_mem_cons, List.not_mem_nil, false_imp_iff, implies_true, and_true]
    refine ⟨hlen, hopc, f.stall.isLt, f.slot.isLt, f.wait.isLt, guardCode_lt _, ?_⟩
  case f64 =>
    obtain ⟨-, -, -, -, -, -, -, -, hsub, hd, ha, hb⟩ := hf
    exact ⟨hsub, Opnd.code8_lt hd, Opnd.code8_lt ha, Opnd.code8_lt hb⟩
  all_goals refine ⟨f.sub.isLt, f.evict.isLt, f.level.isLt, ?_⟩
  case f96 => exact ⟨hd.code_lt, ha.code_lt, hb.code_lt, f.mod.isLt⟩
  case f96i =>
    obtain ⟨-, -, -, -, himm, -, -⟩ := hf
    exact ⟨hd.code_lt, ha.code_lt, himm⟩
  all_goals refine ⟨guardCode_lt _, hbool, Nat.two_pow_pos _, hd.code_lt, ha.code_lt, hb.code_lt, ?_⟩
  case f128 => exact ⟨hc.code_lt, he.code_lt, hf.1⟩
  case f128i => exact ⟨f.imm.isLt, hf.2.2⟩

theorem elim_error_ok_eq {α β : Type} {e : EncErr} {x : Option α} {k : α → Except EncErr β} {y : β} :
    ((x.elim (Except.error e) Except.ok) >>= k) = .ok y ↔ ∃ a, x = some a ∧ k a = .ok y := by
  cases x <;> simp [bind, Except.bind]

theorem ofNat_eq_iff {n m c : Nat} {x : BitVec n} (hc : c < 2 ^ m) (hm : m ≤ n): BitVec.ofNat n c = x ↔ x.toNat = c := by
  have : c < 2 ^ n := hc.trans_le (Nat.pow_le_pow_right (by decide) hm)
  constructor
  · rintro rfl
    rw [BitVec.toNat_ofNat, Nat.mod_eq_of_lt this]
  · rintro rfl
    simp

theorem bitsOf_lt (w lo n : Nat) : bitsOf w lo n < 2 ^ n := Nat.mod_lt _ (Nat.two_pow_pos n)

theorem ite_error_eq_ok {α : Type} {p : Prop} [Decidable p] {e : EncErr} {x : Except EncErr α} {y : α} :
    (if p then x else .error e) = .ok y ↔ p ∧ x = .ok y := by
  split_ifs with h <;> simp [h]

theorem throw_bind_eq {α β : Type} (e : EncErr) (k : α → Except EncErr β) : ((throw e : Except EncErr α) >>= k) = .error e := rfl

theorem decide_bit_eq_iff {w lo : Nat} {b : Bool} : decide (bitsOf w lo 1 = 1) = b ↔ bitsOf w lo 1 = b.toNat := by
  have h := toNat_decide_bitsOf w lo
  constructor
  · rintro rfl
    exact h.symm
  · intro hb
    rw [hb]
    cases b <;> rfl

/-- A word splits, in a format, into the fields that fit the format and stand in it. -/
theorem splitWord_eq_ok_iff {w : Nat} {f : Fields} (hlen : w % 4 = f.fmt.len) :
    splitWord f.fmt w = .ok f ↔ formatOk f = true ∧ f.Named ∧
      readFrom 0 ((f.parts (bitsOf w 2 8)).map Prod.fst) w = (f.parts (bitsOf w 2 8)).map Prod.snd := by
  have hz : (Opnd.v 0).Named := by simp [Opnd.Named]
  have hl : bitsOf w 0 2 = f.fmt.len := by rw [← hlen]; simp [bitsOf]
  have hsub := bitsOf_lt w 36 4
  have himm := bitsOf_lt w 68 28
  have hmod := bitsOf_lt w 114 14
  have hmod2 := bitsOf_lt w 126 2
  rw [formatOk_iff]
  obtain ⟨fmt, stall, slot, wait, g0, g1, gcomb, sub, evict, level, d, a, b, c, e, mod, imm⟩ := f
  cases fmt
  all_goals
    simp [splitWord, elim_error_ok_eq, guardOf_eq_some_iff (bitsOf_lt w _ 13), opndOf_eq_some_iff, opnd8_eq_iff (bitsOf_lt w _ 8), pure, Except.pure,
      ofNat_eq_iff (bitsOf_lt _ _ _), throw_bind_eq, ite_error_eq_ok, decide_bit_eq_iff, Fields.parts, readFrom, Fields.Named, hl]
    grind [Opnd.named_of_short]

/-- The format of the fields is the one in which the word was split. -/
theorem splitWord_fmt {fmt : Fmt} {w : Nat} {f : Fields} (h : splitWord fmt w = .ok f) : f.fmt = fmt := by
  cases fmt
  all_goals
    simp [splitWord, elim_error_ok_eq, throw_bind_eq, ite_error_eq_ok, pure, Except.pure] at h
    grind

end Sys2Proof
end

section
/-!
The tables of the encoding: opcodes and instructions name one another (03 R96, R97), and operands that pass the decode check have codes (03 R91, R94).
-/
namespace Sys2Proof

/-- An opcode and a format that it accepts give the format again (03 R74, R86, R88). -/
theorem opEntry_opcode_format {i : Instr} {ent : OpEntry} {f : Fields} (h : opEntry i = some (ent, f)) :
    ent.opc < 256 ∧ ∀ fmt ∈ ent.fmts, fmtOf fmt.len ent.opc = fmt := by
  cases i
  all_goals
    cases h
  all_goals decide

/-- The opcode of an instruction, with its SUB where three opcodes need it (03 R97), gives the instruction. -/
theorem ofOpcode_of_opEntry {i : Instr} {ent : OpEntry} {f : Fields} (h : opEntry i = some (ent, f)) (hs : (shapeOf i).subOk = true) :
    ofOpcode ent.opc f = some i := by
  cases i
  case barArrive | barWait | barSync | barExpect | ringAcq | ringCommit | ringWait | ringRel | taskSignal | taskLaunch =>
    cases h
    obtain ⟨fmt, stall, slot, wait, g0, g1, gcomb, sub, evict, level, d, a, b, c, e, mod, imm⟩ := f
    cases eq_of_beq (a := sub) hs
    rfl
  all_goals
    cases h
  all_goals rfl

theorem ofOpcode_opEntry {opc : Nat} {f : Fields} {i : Instr} (h : ofOpcode opc f = some i) : ∃ ent, opEntry i = some (ent, f) ∧ ent.opc = opc := by
  unfold ofOpcode at h
  repeat' split at h
  all_goals cases h
  all_goals exact ⟨_, rfl, rfl⟩

/-- A class of operands is no empty range. -/
def OpCls.NonEmpty : OpCls → Prop
  | .range n | .vrange n | .srange n => n ≠ 0
  | _ => True

theorem OpCls.named_of_ok {cls : OpCls} {o : Opnd} (hcls : cls.NonEmpty) (h : cls.ok o = true) : o.Named := by
  cases cls <;> cases o <;> simp [OpCls.ok, OpCls.NonEmpty, Opnd.Named] at * <;> omega

theorem OpCls.nonEmpty_one : unused.NonEmpty ∧ src.NonEmpty ∧ dst.NonEmpty ∧ src64.NonEmpty ∧ base64.NonEmpty ∧ dst64.NonEmpty ∧ vec.NonEmpty ∧ scal.NonEmpty ∧
    scalZ.NonEmpty ∧ vpair.NonEmpty ∧ spair.NonEmpty ∧ reg.NonEmpty ∧ reg64.NonEmpty ∧ pred.NonEmpty ∧ vquad.NonEmpty ∧ quad.NonEmpty := by
  and_intros <;> trivial

theorem OpCls.nonEmpty_ranges {n : Nat} : ((range n).NonEmpty ↔ n ≠ 0) ∧ ((vrange n).NonEmpty ↔ n ≠ 0) ∧ ((srange n).NonEmpty ↔ n ≠ 0) := ⟨Iff.rfl, Iff.rfl, Iff.rfl⟩

theorem OpCls.nonEmpty_width (w : Bool) : (srcW w).NonEmpty ∧ (dstW w).NonEmpty ∧ (intDst w).NonEmpty := by cases w <;> exact ⟨trivial, trivial, trivial⟩

theorem OpCls.nonEmpty_ite {p : Prop} [Decidable p] {x y : OpCls} : (if p then x else y).NonEmpty ↔ (p → x.NonEmpty) ∧ (¬ p → y.NonEmpty) := by
  split_ifs with h <;> simp [h]

/-- The classes of a form's operands are none of them empty. -/
def Shape.NonEmpty (sh : Shape) : Prop := sh.d.NonEmpty ∧ sh.a.NonEmpty ∧ sh.b.NonEmpty ∧ sh.c.NonEmpty ∧ sh.e.NonEmpty

theorem Shape.nonEmpty_ite {p : Prop} [Decidable p] {x y : Shape} (hx : x.NonEmpty) (hy : y.NonEmpty) : (if p then x else y).NonEmpty := by
  split_ifs
  · exact hx
  · exact hy

theorem Shape.nonEmpty_mk (subOk modOk : Bool) {d a b c e : OpCls} (hints needSlot extra : Bool) : (Shape.mk subOk modOk d a b c e hints needSlot extra).NonEmpty ↔
    d.NonEmpty ∧ a.NonEmpty ∧ b.NonEmpty ∧ c.NonEmpty ∧ e.NonEmpty := Iff.rfl

/-- No instruction names an empty range: where a count may be 0, the form has no operand there (14 R308, R315). -/
theorem shapeOf_nonEmpty (i : Instr) : (shapeOf i).NonEmpty := by
  unfold shapeOf
  cases i
  case movi | pack => refine Shape.nonEmpty_ite ?_ ?_ <;> simp [Shape.nonEmpty_mk, OpCls.nonEmpty_one, OpCls.nonEmpty_width]
  all_goals simp [Shape.nonEmpty_mk, OpCls.nonEmpty_one, OpCls.nonEmpty_width, OpCls.nonEmpty_ranges, OpCls.nonEmpty_ite, bin, fbin, fspec]

/-- What the decode check lets through (03 R94). -/
theorem checkEncoding_eq_none {i : Instr} {ent : OpEntry} {f : Fields} (he : opEntry i = some (ent, f)) (h : checkEncoding i = none) :
    f.fmt ∈ ent.fmts ∧ formatOk f = true ∧ (shapeOf i).subOk = true ∧ f.Named := by
  obtain ⟨hd, ha, hb, hc, hee⟩ := shapeOf_nonEmpty i
  simp only [checkEncoding, he] at h
  split_ifs at h with hfmt hformat hsub _ _ _ _ _ hops
  simp only [Bool.not_eq_true', Bool.not_eq_false, Bool.and_eq_true] at hfmt hformat hsub hops
  obtain ⟨⟨⟨⟨⟨okd, oka⟩, okb⟩, okc⟩, oke⟩, -⟩ := hops
  exact ⟨List.contains_iff_mem.1 hfmt, hformat, hsub,
    OpCls.named_of_ok hd okd, OpCls.named_of_ok ha oka, OpCls.named_of_ok hb okb, OpCls.named_of_ok hc okc, OpCls.named_of_ok hee oke⟩

end Sys2Proof
end

section
/-!
Decoding and encoding (03 R74-R94).
-/
namespace Sys2Proof

/-- LEN of the word at the head of a list of bytes (03 R74). -/
def headLen (bs : List Byte) : Nat := leNat (bs.take 1) % 4

theorem bind_eq_ok {α β : Type} {x : Except EncErr α} {k : α → Except EncErr β} {y : β} : (x >>= k) = .ok y ↔ ∃ a, x = .ok a ∧ k a = .ok y := by
  cases x <;> simp [bind, Except.bind]

theorem ite_throw_eq_ok {α β : Type} {p : Prop} [Decidable p] {e : EncErr} {k : α → Except EncErr β} {x : Except EncErr β} {y : β} :
    (if p then (throw e : Except EncErr α) >>= k else x) = .ok y ↔ ¬ p ∧ x = .ok y := by
  rw [throw_bind_eq]
  split_ifs with h <;> simp [h]

/-- What it is to decode: enough bytes for the LEN of the first, a word that splits into fields, an opcode that has an instruction, and the decode check passed. -/
theorem decode_eq_ok_iff {bs : List Byte} {i : Instr} {n : Nat} :
    decode bs = .ok (i, n) ↔ 8 ≤ bs.length ∧ headLen bs ≠ 3 ∧ lenBytes (headLen bs) = n ∧ n ≤ bs.length ∧
      ∃ f, splitWord (fmtOf (headLen bs) (bitsOf (leNat (bs.take n)) 2 8)) (leNat (bs.take n)) = .ok f ∧
        ofOpcode (bitsOf (leNat (bs.take n)) 2 8) f = some i ∧ checkEncoding i = none := by
  have hlast (o : Option Instr) (e : EncErr) (m : Nat) :
      (match o with
        | none => throw e
        | some j => match checkEncoding j with | some e => throw e | none => pure (j, m) : Except EncErr (Instr × Nat)) = .ok (i, n) ↔
        o = some i ∧ checkEncoding i = none ∧ m = n := by
    rcases o with _ | j
    · simp [throw, throwThe, MonadExceptOf.throw]
    · rcases hj : checkEncoding j with _ | e'
      · simp [pure, Except.pure]; grind
      · simp [throw, throwThe, MonadExceptOf.throw]; grind
  simp only [decode, ite_throw_eq_ok, bind_eq_ok, Nat.not_lt]
  constructor
  · rintro ⟨h8, h3, hn, f, hf, hm⟩
    obtain ⟨ho, hc, rfl⟩ := (hlast _ _ _).1 hm
    exact ⟨h8, h3, rfl, hn, f, hf, ho, hc⟩
  · rintro ⟨h8, h3, rfl, hn, f, hf, ho, hc⟩
    exact ⟨h8, h3, hn, f, hf, (hlast _ _ _).2 ⟨ho, hc, rfl⟩⟩

theorem leNat_mod_four {b : Byte} (bs : List Byte) : leNat (b :: bs) % 4 = b.toNat % 4 := by
  rw [leNat]
  omega

theorem headLen_eq {bs : List Byte} {n : Nat} (hn : 0 < n) : headLen bs = leNat (bs.take n) % 4 := by
  cases bs with
  | nil => simp [headLen]
  | cons b r => rw [headLen, List.take_cons hn, List.take_cons Nat.one_pos, leNat_mod_four, leNat_mod_four]

theorem fmtOf_spec {len : Nat} (hlen : len < 3) (opc : Nat) : (fmtOf len opc).len = len ∧ (fmtOf len opc).bytes = lenBytes len := by
  interval_cases len
  · exact ⟨rfl, rfl⟩
  all_goals
    unfold fmtOf
    split_ifs <;> exact ⟨rfl, rfl⟩

theorem Fmt.lenBytes_len (fmt : Fmt) : lenBytes fmt.len = fmt.bytes := by cases fmt <;> rfl

/-- What bytes that decode are: the joined fields of the instruction, in the length of their format. -/
theorem decode_inv {bs : List Byte} {i : Instr} {n : Nat} (h : decode bs = .ok (i, n)) :
    ∃ ent f, opEntry i = some (ent, f) ∧ checkEncoding i = none ∧ n = f.fmt.bytes ∧ n ≤ bs.length ∧ joinWord ent.opc f = leNat (bs.take n) ∧
      headLen bs = f.fmt.len := by
  obtain ⟨h8, h3, rfl, hn, f, hf, ho, hc⟩ := decode_eq_ok_iff.1 h
  obtain ⟨ent, he, hopc⟩ := ofOpcode_opEntry ho
  have hlen : headLen bs < 3 := by
    have : headLen bs < 4 := Nat.mod_lt _ (by decide)
    omega
  have hfmt := splitWord_fmt hf
  obtain ⟨hl, hb⟩ := fmtOf_spec hlen (bitsOf (leNat (bs.take (lenBytes (headLen bs)))) 2 8)
  rw [← hfmt] at hl hb hf
  have hw := (headLen_eq (bs := bs) (n := lenBytes (headLen bs)) (by simp [lenBytes])).symm
  obtain ⟨hform, hnamed, hread⟩ := (splitWord_eq_ok_iff (hw.trans hl.symm)).1 hf
  refine ⟨ent, f, he, hc, hb.symm, hn, ?_, hl.symm⟩
  rw [hopc, joinWord_eq_packFrom, packFrom_eq_iff (Fields.parts_fit (bitsOf_lt _ _ _) hform hnamed) ?_]
  · exact hread
  · rw [widthOf_parts, hb, pow_mul]
    simpa [List.length_take, hn] using leNat_lt (bs.take (lenBytes (headLen bs)))

theorem encode_of_opEntry {i : Instr} {ent : OpEntry} {f : Fields} (he : opEntry i = some (ent, f)) :
    encode i = some (leBytes f.fmt.bytes (joinWord ent.opc f)) := by
  simp only [encode, he]

/-- Every format begins with LEN and the opcode (03 R78). -/
theorem Fields.parts_eq_cons (opc : Nat) (f : Fields) : ∃ r, f.parts opc = (2, f.fmt.len) :: (8, opc) :: r := by
  cases hf : f.fmt
  all_goals
    simp only [Fields.parts, hf]
    exact ⟨_, rfl⟩

theorem joinWord_lt {opc : Nat} {f : Fields} (hopc : opc < 256) (hf : formatOk f = true) (hn : f.Named) : joinWord opc f < 2 ^ (8 * f.fmt.bytes) := by
  have h := packFrom_lt (Fields.parts_fit hopc hf hn) 0
  rw [joinWord_eq_packFrom, ← widthOf_parts opc f]
  rwa [pow_zero, Nat.zero_add] at h

/-- LEN, the opcode and the fields of a word that is joined. -/
theorem splitWord_joinWord {opc : Nat} {f : Fields} (hopc : opc < 256) (hf : formatOk f = true) (hn : f.Named) :
    joinWord opc f % 4 = f.fmt.len ∧ bitsOf (joinWord opc f) 2 8 = opc ∧ splitWord f.fmt (joinWord opc f) = .ok f := by
  have hread := (packFrom_eq_iff (Fields.parts_fit hopc hf hn) (by rw [widthOf_parts]; exact joinWord_lt hopc hf hn)).1 (joinWord_eq_packFrom opc f).symm
  have hhead : joinWord opc f % 4 = f.fmt.len ∧ bitsOf (joinWord opc f) 2 8 = opc := by
    obtain ⟨r, hr⟩ := f.parts_eq_cons opc
    rw [hr] at hread
    obtain ⟨hl, htail⟩ := List.cons.inj hread
    exact ⟨by simpa [bitsOf] using hl, (List.cons.inj htail).1⟩
  refine ⟨hhead.1, hhead.2, (splitWord_eq_ok_iff hhead.1).2 ⟨hf, hn, ?_⟩⟩
  rwa [hhead.2]

/-- Settles O2: what a word reads as makes the word again, so that the bytes taken are those of the joined fields. -/
theorem encodeOfDecode : Obligations.EncodeOfDecode := by
  intro bs i n h
  obtain ⟨ent, f, he, hc, hn, hle, hw, -⟩ := decode_inv h
  refine ⟨by rw [Instr.wellFormed, hc]; rfl, hle, ?_⟩
  have hlen : (bs.take n).length = f.fmt.bytes := by rw [List.length_take, Nat.min_eq_left hle, hn]
  rw [encode_of_opEntry he, hw, ← hlen, leBytes_leNat]

/-- Settles O1: the fields that the decode check lets through fit their format, so that the word they make reads as them, and its opcode gives the instruction back. -/
theorem decodeOfEncode : Obligations.DecodeOfEncode := by
  intro i bs rest hwf henc
  rcases he : opEntry i with _ | ⟨ent, f⟩
  · simp [encode, he] at henc
  obtain rfl : leBytes f.fmt.bytes (joinWord ent.opc f) = bs := Option.some.inj ((encode_of_opEntry he).symm.trans henc)
  have hc : checkEncoding i = none := Option.isNone_iff_eq_none.1 hwf
  obtain ⟨hfmt, hform, hsub, hnamed⟩ := checkEncoding_eq_none he hc
  obtain ⟨hopc, hfmts⟩ := opEntry_opcode_format he
  obtain ⟨hlen, hop, hsplit⟩ := splitWord_joinWord hopc hform hnamed
  have hword : leNat ((leBytes f.fmt.bytes (joinWord ent.opc f) ++ rest).take f.fmt.bytes) = joinWord ent.opc f := by
    rw [List.take_left' (leBytes_length _ _), leNat_leBytes, show 256 = 2 ^ 8 from rfl, ← pow_mul, Nat.mod_eq_of_lt (joinWord_lt hopc hform hnamed)]
  have hsize : 8 ≤ f.fmt.bytes ∧ f.fmt.len ≠ 3 := by cases f.fmt <;> decide
  have hhead : headLen (leBytes f.fmt.bytes (joinWord ent.opc f) ++ rest) = f.fmt.len := by
    rw [headLen_eq (n := f.fmt.bytes) (by omega), hword, hlen]
  rw [leBytes_length, decode_eq_ok_iff, hhead, Fmt.lenBytes_len, hword, hop, hfmts _ hfmt, List.length_append, leBytes_length]
  exact ⟨by omega, hsize.2, rfl, by omega, f, hsplit, ofOpcode_of_opEntry he hsub, hc⟩

/-- Settles O3: the words are closed, and decoding them computes. -/
theorem decodedWords : Obligations.DecodedWords := by
  unfold Obligations.DecodedWords
  and_intros <;> decide +kernel

end Sys2Proof
end

section
/-!
The machine never stops (15 R328): a fault is a next state, so every event and every issue has one.
-/
namespace Sys2Proof.Machine

/-- An outcome that is a next state. -/
def Goes (o : Host.Outcome State Fault Refusal) : Prop := ∃ t, o = .next t

theorem goes_next (t : State) : Goes (.next t) := ⟨t, rfl⟩

theorem perform_goes (i : Instr) (s : State) : Goes (perform i s) := by
  cases i
  all_goals exact ⟨_, rfl⟩

theorem State.finishIssue_goes (s : State) (i : Instr) {o : Host.Outcome State Fault Refusal} (h : Goes o) : Goes (s.finishIssue i o) := by
  obtain ⟨t, rfl⟩ := h
  exact goes_next _

theorem State.issueFocus_goes (s : State) : Goes s.issueFocus := by
  unfold State.issueFocus
  split
  · exact goes_next _
  all_goals
    dsimp only
    split
    · exact goes_next _
    · split_ifs
      · exact goes_next _
      · split
        · exact goes_next _
        · exact State.finishIssue_goes _ _ (perform_goes _ _)

theorem State.tryIssue_goes (c : CoreId) (is : List WarpId) (s : State) : Goes (State.tryIssue c is s) := by
  induction is generalizing s with
  | nil => exact goes_next _
  | cons i r ih =>
    obtain ⟨t, ht⟩ := State.issueFocus_goes { s.focus i with alone := ((s.focus i).others c).isEmpty }
    simp only [State.tryIssue, ht]
    split_ifs
    · exact ih t
    · exact goes_next _

/-- Every event has a next state: a word's instruction is performed, an issue tries its candidates, and of every other event each branch ends in a next state. -/
theorem exec_goes (i : Instr) (s : State) : Goes (exec i s) := by
  rcases hword : (opEntry i).isSome
  case true => exact exec_next_of_word hword s
  cases i
  case issueStep c => exact State.tryIssue_goes c _ _
  all_goals
    simp only [exec, execActiveSetReplacement, execActiveSetRotation, execAtomicApply, execBootVerifyComplete, execBootgo, execCallArrival,
      execCallDispatch, execCallSlotReserve, execCltailWrite, execCohortPlacement, execCohortRestore, execCollectiveCompletion, execCollectiveStart,
      execCollectiveTimeout, execContributionArrival, execCriticalTemperatureAssert, execCriticalTemperatureClear, execDeathTimeSet, execDomainRequest,
      execDoubleError, execEchoArrival, execEchoTimeout, execEngineLineWrite, execEvtpopRead, execFaultAnswerDeliver, execFaultAnswerKill,
      execFaultAnswerReplay, execFbcfgWrite, execFbtailWrite, execFenceComplete, execFirmwareInitComplete, execGranuleFill, execGraphOutHomeApply,
      execHomeWriteApply, execHostAtomicAttempt, execHostCxlMemRead, execHostCxlMemWrite, execKillPacket, execL1Eviction, execL2Eviction,
      execLaunchPacket, execLeaseExpiry, execLeaseGrant, execLinkUp, execListReclamation, execLumenReplenish, execMailboxUnknownCommand,
      execMirrorCreditReserve, execMirrorUpdateApply, execNopPacket, execPeerUnreachable, execPortLinkLoss, execPreemption, execQcfgWrite,
      execQtailWrite, execRateChange, execReadReply, execRegisterWrite, execRemoteFunctionStart, execReservedPacketType, execResultWrite,
      execRowBlockCompletion, execRputArrival, execRputStatusReturn, execScrub, execSequenceCompletion, execSequenceRowStep, execSequenceRunEnd,
      execSequenceStart, execSequencerWatchdogExpiry, execSignalPacket, execStarvationBound, execStealRetry, execStreamerCompletion,
      execTaskCheckComplete, execTaskRetire, execThermalHold, execTimeSync, execWriteAcknowledge, execWriteCompletionReturn]
    repeat' first | exact goes_next _ | split

/-- Settles O6: a step is the next event of the agenda, or an issue, and every one of these has a next state. -/
theorem stepAlwaysGoes : Obligations.StepAlwaysGoes := by
  intro s
  unfold step
  dsimp only
  split <;> exact exec_goes _ _

end Sys2Proof.Machine
end

section
/-!
The step at which the focus warp was last held: what a fault does to the machine (15 R328, R332) leaves it.
-/
namespace Sys2Proof.Machine

variable (s : State)

theorem foldl_heldAt {α : Type} {g : State → α → State} (hg : ∀ b a, (g b a).w.heldAt = b.w.heldAt) (l : List α) : (l.foldl g s).w.heldAt = s.w.heldAt :=
  foldl_keeps (fun b => b.w.heldAt = s.w.heldAt) g (fun b a h => (hg b a).trans h) l s rfl

@[simp] theorem State.writeBack_w (x : L1Line) (drop toMem : Bool) : (s.writeBack x drop toMem).w = s.w := by
  unfold State.writeBack State.writeBackFor
  dsimp only
  split_ifs <;> rfl

theorem State.writeBackAll_heldAt (cl : Nat) (drop : Bool) (p : L1Line → Bool) : (s.writeBackAll cl drop p).w.heldAt = s.w.heldAt :=
  foldl_heldAt s (fun b a => by rw [State.writeBack_w]) _

theorem State.setBank_heldAt (cl bank mode : Nat) : (s.setBank cl bank mode).w.heldAt = s.w.heldAt := by
  unfold State.setBank
  extract_lets k old s1
  show s1.w.heldAt = s.w.heldAt
  unfold s1
  split_ifs
  · exact State.writeBackAll_heldAt s _ _ _
  · exact State.writeBackAll_heldAt s _ _ _
  · rfl

theorem State.updWarp_heldAt (i : WarpId) {g : Warp → Warp} (hg : ∀ w, (g w).heldAt = w.heldAt) : (s.updWarp i g).w.heldAt = s.w.heldAt := by
  unfold State.updWarp
  split_ifs
  · exact hg s.w
  · rfl

theorem State.refill_heldAt (c : CoreId) (n : Nat) : (s.refill c n).w.heldAt = s.w.heldAt := by
  induction n generalizing s with
  | zero => rfl
  | succ n ih =>
    rw [State.refill]
    split
    · rfl
    · split
      · rfl
      · exact (ih _).trans (State.updWarp_heldAt s _ fun _ => rfl)

theorem State.closeAll_heldAt (ws : List Warp) : (ws.foldl State.closeCursors s).w.heldAt = s.w.heldAt := foldl_heldAt s (g := State.closeCursors) (fun _ _ => rfl) ws

theorem Warp.ite_live_heldAt (w : Warp) (p : Prop) [Decidable p] : (if p then { w with live := false } else w).heldAt = w.heldAt := by
  split_ifs <;> rfl

theorem State.dropCohort_heldAt (c : Cohort) : (s.dropCohort c).w.heldAt = s.w.heldAt := by
  unfold State.dropCohort
  refine (foldl_heldAt _ (fun b k => State.refill_heldAt b _ 8) _).trans ?_
  refine (Warp.ite_live_heldAt _ _).trans ((State.closeAll_heldAt _ _).trans ?_)
  dsimp only
  split_ifs
  · rfl
  · exact foldl_heldAt s (fun b k => State.setBank_heldAt b _ k 0) _

theorem State.dropFunctions_heldAt (ctx : Nat) (task : W32) : (s.dropFunctions ctx task).w.heldAt = s.w.heldAt :=
  (Warp.ite_live_heldAt _ _).trans (State.closeAll_heldAt s _)

theorem State.stopTask_heldAt (ctx : Nat) (id : W32) : (s.stopTask ctx id).w.heldAt = s.w.heldAt :=
  (Warp.ite_live_heldAt _ _).trans ((State.dropFunctions_heldAt _ _ _).trans (foldl_heldAt s State.dropCohort_heldAt _))

@[simp] theorem State.pushSeq_w (line : Nat) : (s.pushSeq line).w = s.w := by
  unfold State.pushSeq
  dsimp only
  split
  · rfl
  · split_ifs <;> rfl

@[simp] theorem State.pushSeqs_w (ps : List Phys) : (s.pushSeqs ps).w = s.w := by
  unfold State.pushSeqs
  split_ifs
  · exact foldl_keeps (fun b => b.w = s.w) _ (fun b a h => (State.pushSeq_w b a).trans h) _ s rfl
  · rfl

@[simp] theorem State.putAgent_w (n ctx die : Nat) (all : List (Phys × Byte)) : (s.putAgent n ctx die all).w = s.w := State.pushSeqs_w _ _

@[simp] theorem State.agentWrite_getD_w (core : CoreId) (ctx va : Nat) (bs : List Byte) : ((s.agentWrite core ctx va bs).getD s).w = s.w := by
  unfold State.agentWrite
  split
  · split_ifs <;> rfl
  · exact State.putAgent_w _ _ _ _ _

@[simp] theorem State.bareWrite_getD_w (pa : Nat) (bs : List Byte) : ((s.bareWrite pa bs).getD s).w = s.w := by
  unfold State.bareWrite
  cases barePlaces pa bs.length with
  | none => rfl
  | some ps => exact State.putAgent_w _ _ _ _ _

@[simp] theorem State.followUp_w (a : After) : (s.followUp a).w = s.w := by
  unfold State.followUp
  split <;> split <;> rfl

@[simp] theorem State.afterWrite_w (a : After) : (s.afterWrite a).w = s.w := by
  unfold State.afterWrite
  split_ifs
  · rfl
  · exact State.followUp_w s a

theorem State.complete_w (ctx : Nat) (cpl : W64) (task : W32) (reason status : Nat) (miss irq : Bool) (queue : Nat) (frees : Bool) :
    (s.complete ctx cpl task reason status miss irq queue frees).w = s.w := by
  unfold State.complete
  extract_lets s0 s1
  have h0 : s0.w = s.w := by unfold s0; split_ifs <;> rfl
  have h1 : s1.w = s.w := by
    unfold s1
    split_ifs
    · exact h0
    · exact (State.agentWrite_getD_w _ _ _ _ _).trans h0
  exact (State.afterWrite_w _ _).trans h1

theorem State.endTask_heldAt (ctx : Nat) (id : W32) (status : Nat) : (s.endTask ctx id status).w.heldAt = s.w.heldAt := by
  have hstop := State.stopTask_heldAt s ctx id
  unfold State.endTask
  dsimp only
  split
  · exact hstop
  · split_ifs
    · exact hstop
    · rw [State.complete_w]
      exact hstop

theorem State.postOne_heldAt : s.postOne.w.heldAt = s.w.heldAt := by
  unfold State.postOne
  split
  · rfl
  · next r hr =>
    split_ifs
    · extract_lets pa s1 src s2
      have h2 : s2.w = s.w := (State.afterWrite_w _ _).trans (State.bareWrite_getD_w s _ _)
      split
      · exact (State.endTask_heldAt s2 _ _ _).trans (congrArg Warp.heldAt h2)
      all_goals exact congrArg Warp.heldAt h2
    · rfl

theorem State.postAll_heldAt (n : Nat) : (s.postAll n).w.heldAt = s.w.heldAt := by
  induction n generalizing s with
  | zero => rfl
  | succ n ih => exact (ih _).trans s.postOne_heldAt

theorem State.fatal_heldAt (w : Warp) (x : FaultInfo) : (s.fatal w x).w.heldAt = s.w.heldAt :=
  (State.postAll_heldAt _ _).trans (State.stopTask_heldAt s _ _)

theorem Warp.putReg_heldAt (w : Warp) (code : Nat) (bs : List Byte) : (w.putReg code bs).heldAt = w.heldAt := by
  unfold Warp.putReg
  split_ifs <;> rfl

theorem State.fillReg_heldAt {w w1 : Warp} {code : Nat} (h : s.fillReg w code = some w1) : w1.heldAt = w.heldAt := by
  unfold State.fillReg at h
  split at h
  · cases h
  · cases h
    split_ifs <;> exact Warp.putReg_heldAt _ _ _

theorem State.fillRegs_heldAt {w w1 : Warp} {codes : List Nat} (h : s.fillRegs w codes = some w1) : w1.heldAt = w.heldAt := by
  unfold State.fillRegs at h
  generalize codes.filter (fun r => w.absent.getLsbD r) = l at h
  induction l generalizing w with
  | nil => cases h; rfl
  | cons r l ih =>
    rw [List.foldlM_cons] at h
    obtain ⟨w2, h2, h3⟩ := Option.bind_eq_some_iff.1 h
    exact (ih h3).trans (State.fillReg_heldAt s h2)

theorem Warp.enterTrap_heldAt (w : Warp) (rec : BitVec 512) (handler : W32) : (w.enterTrap rec handler).heldAt = w.heldAt := by
  simp [Warp.enterTrap]

theorem State.trapEntry_heldAt (x : FaultInfo) : (s.trapEntry x).w.heldAt = s.w.heldAt := by
  unfold State.trapEntry
  split_ifs
  · exact State.fatal_heldAt s _ _
  · rfl
  · split
    · exact State.fatal_heldAt s _ _
    · exact State.fatal_heldAt s _ _
    · next w1 _ hfill => exact (Warp.enterTrap_heldAt _ _ _).trans (State.fillRegs_heldAt s hfill)

theorem State.endFunction_heldAt (status : Nat) (code : BitVec 8) (offset : W32) (echo : List (List W32)) :
    (s.endFunction status code offset echo).w.heldAt = s.w.heldAt := by
  unfold State.endFunction
  split <;> rfl

theorem State.suspend_heldAt (x : FaultInfo) : (s.suspend x).w.heldAt = s.w.heldAt := by
  have hrec (who) : (s.raiseRecord s.w kindPage who x).w.heldAt = s.w.heldAt := State.postAll_heldAt _ _
  unfold State.suspend
  dsimp only
  split <;> exact hrec _

/-- A fault of the focus warp holds no warp. -/
theorem State.raise_heldAt (x : FaultInfo) : (s.raise x).w.heldAt = s.w.heldAt := by
  unfold State.raise
  extract_lets y
  split_ifs
  · exact State.suspend_heldAt s _
  · exact State.endFunction_heldAt s _ _ _ _
  · exact State.trapEntry_heldAt s _

end Sys2Proof.Machine
end

section
/-!
The length of an instruction (03 R74): what its first byte says of it.
-/
namespace Sys2Proof

theorem headLen_eq_headD (bs : List Byte) : headLen bs = (bs.headD 0).toNat % 4 := by
  cases bs with
  | nil => rfl
  | cons b r => rw [headLen, List.take_cons Nat.one_pos, leNat_mod_four]; rfl

theorem decode_len_three {bs : List Byte} (h : headLen bs = 3) : ∃ e, decode bs = .error e := by
  rcases hd : decode bs with e | ⟨i, n⟩
  · exact ⟨e, rfl⟩
  · obtain ⟨-, h3, -⟩ := decode_eq_ok_iff.1 hd
    exact absurd h h3

theorem decode_len_three_long {bs : List Byte} (h : headLen bs = 3) (h8 : 8 ≤ bs.length) : decode bs = .error .length := by
  have hlen : leNat (bs.take 1) % 4 = 3 := h
  have hshort : ¬ bs.length < 8 := by omega
  simp [decode, hlen, hshort, throw_bind_eq]

/-- The first byte, length and format of a word that decodes (03 R74). -/
theorem decode_cons_inv {b : Byte} {bs : List Byte} {i : Instr} {n : Nat} (h : decode (b :: bs) = .ok (i, n)) :
    n ≤ bs.length + 1 ∧ ∃ ent f, opEntry i = some (ent, f) ∧ b.toNat % 4 = f.fmt.len ∧ joinWord ent.opc f % 256 = b.toNat ∧ n = f.fmt.bytes := by
  obtain ⟨ent, f, he, -, hn, hle, hw, hlen⟩ := decode_inv h
  have hpos : 0 < n := by rw [hn]; cases f.fmt <;> decide
  refine ⟨hle, ent, f, he, ?_, ?_, hn⟩
  · rw [← hlen, headLen_eq_headD]
    rfl
  · have := b.isLt
    rw [hw, List.take_cons hpos, leNat]
    omega

end Sys2Proof
end

section
/-!
A fetch of bytes that are no instruction (03 R94): ILLEGAL_ENCODING, with no effect.
-/
namespace Sys2Proof.Machine

theorem Warp.releaseParked_of_none {w : Warp} {run fresh : Lanes} (h : w.releasable run fresh = 0) : w.releaseParked run fresh = w := by
  rw [Warp.releaseParked, h]
  rfl

/-- A fetch of bytes that are no instruction (03 R94). -/
theorem State.fetch_of_error {s : State} {w : Warp} {p : W32} {ph : Phys} {e : EncErr}
    (htr : s.m.translate w.id.core w.ctx (w.codeVa p) .exec = .ok ph) (hscr : inScratch (w.codeVa p) = false)
    (hbytes : ∀ j < fetchLen p, s.m.byteHeld (ph.loc + j) = false ∧ s.m.placePoison { ph with loc := ph.loc + j } = false)
    (hfar : s.farErr ph = none)
    (hd : decode ((List.range (fetchLen p)).map (fun j => s.codeByte w (w.codeVa p + BitVec.ofNat 64 j) { ph with loc := ph.loc + j })) = .error e) :
    ∃ opc len, s.fetch w p = .fault 1 0 opc len := by
  have hheld : (List.range (fetchLen p)).any (fun j => s.m.byteHeld (ph.loc + j)) = false := by
    simp only [List.any_eq_false, List.mem_range, Bool.not_eq_true]
    exact fun j hj => (hbytes j hj).1
  have hpoison : (List.range (fetchLen p)).any (fun j => s.m.placePoison { ph with loc := ph.loc + j }) = false := by
    simp only [List.any_eq_false, List.mem_range, Bool.not_eq_true]
    exact fun j hj => (hbytes j hj).2
  have herr : ∃ e', (if p.toNat % 4 = 0 then
      decode ((List.range (fetchLen p)).map (fun j => s.codeByte w (w.codeVa p + BitVec.ofNat 64 j) { ph with loc := ph.loc + j })) else .error .tooShort) =
      .error e' := by
    split_ifs
    · exact ⟨e, hd⟩
    · exact ⟨_, rfl⟩
  obtain ⟨e', he'⟩ := herr
  simp only [State.fetch, htr, hscr, hheld, hpoison, hfar, he', Bool.false_eq_true, if_false]
  exact ⟨_, _, rfl⟩

/-- An issue of the focus warp whose fetch gives no instruction, with no parked lane to release. -/
theorem State.issueFocus_of_illegal {s : State} {opc len : Nat} (hw : s.w.wait = .ready) (hrel : s.w.releasable s.w.running 0 = 0)
    (hc : ∀ k < 8, s.w.collects k = false) (hr : s.w.running ≠ 0) (hf : s.fetch s.w s.w.issuePc = .fault 1 0 opc len) :
    s.issueFocus = .next (s.fetchFault s.w.issuePc (s.w.lanesAt s.w.issuePc) 1 0 opc len) := by
  have hnone : (List.range 8).find? (fun k => s.w.collects k) = none :=
    List.find?_eq_none.2 fun k hk => Bool.not_eq_true _ ▸ hc k (List.mem_range.1 hk)
  have hsame : s.updW (fun w => w.releaseParked w.running 0) = s := by
    rw [State.updW, Warp.releaseParked_of_none hrel]
  unfold State.issueFocus
  rw [hw]
  dsimp only
  rw [hsame, hnone]
  dsimp only
  rw [if_neg hr, hf]
  dsimp only
  rw [if_neg Nat.one_ne_zero, State.fetchFails, if_neg (fun h => h.2 rfl)]

theorem State.fetchFault_illegal (s : State) (p : W32) (lanes : Lanes) (opc len : Nat) :
    ∃ x : FaultInfo, s.fetchFault p lanes 1 0 opc len = s.raise x ∧ x.code = 0x01 ∧ x.offset = p ∧ x.xlanes = lanes ∧ x.flanes = lanes :=
  ⟨_, rfl, rfl, rfl, rfl, rfl⟩

/--
Settles O4: the bytes that decode are as many as their LEN says, and LEN 3 decodes to none; the fetch of a word that decodes to none raises ILLEGAL_ENCODING for
the lanes at the address, and since a fault holds no warp the step is not taken again.
-/
theorem lengthByLen : Obligations.LengthByLen := by
  refine ⟨fun b bs i n h => ?_, fun b bs hb h7 => ?_, fun s ph => ?_⟩
  · obtain ⟨hle, ent, f, he, hlen, hlow, hn⟩ := decode_cons_inv h
    refine ⟨hle, ent, f, he, hlen, hlow, ?_⟩
    rw [hlen, hn]
    cases f.fmt <;> decide
  · exact decode_len_three_long ((headLen_eq_headD _).trans hb) (by rw [List.length_cons]; omega)
  · intro p bs htr hscr hbytes hbad hlive hheld hrun hcollects hcand hothers hwait hfar hrel
    obtain ⟨e, he⟩ : ∃ e, decode bs = .error e := hbad.elim (fun h3 => decode_len_three ((headLen_eq_headD _).trans h3)) id
    obtain ⟨opc, len, hfetch⟩ := State.fetch_of_error htr hscr hbytes hfar he
    have hissue := State.issueFocus_of_illegal (s := { s with alone := true }) hwait hrel hcollects hrun hfetch
    obtain ⟨x, hx, hcode, hoffset, hxlanes, hflanes⟩ := State.fetchFault_illegal { s with alone := true } p (s.w.lanesAt p) opc len
    rw [show State.w { s with alone := true } = s.w from rfl, hx] at hissue
    refine ⟨x, hcode, hoffset, hxlanes, hflanes, (execIssueStep_focus hlive hcand hothers hissue).trans ?_⟩
    have hat : (({ s with alone := true } : State).raise x).w.heldAt = s.w.heldAt := State.raise_heldAt _ _
    have hnot : s.heldNow (({ s with alone := true } : State).raise x) s.w.id = false := by
      simp [State.heldNow, hat, hheld]
    rw [hnot]
    rfl

end Sys2Proof.Machine
end

section
/-!
Bytes of a block (17 R362): the number that they make, their merge under a mask, their places in DRAM.
-/
namespace Sys2Proof.Machine

/-- Byte i of a number made of bytes. -/
theorem leNat_byte (bs : List Byte) (i : Nat) : leNat bs / 2 ^ (8 * i) % 256 = (bs.getD i 0).toNat := by
  induction bs generalizing i with
  | nil => simp [leNat]
  | cons b r ih =>
    have hb := b.isLt
    rw [leNat]
    cases i with
    | zero =>
      rw [Nat.mul_zero, pow_zero, Nat.div_one, List.getD_cons_zero]
      omega
    | succ i =>
      rw [List.getD_cons_succ, ← ih i, show 2 ^ (8 * (i + 1)) = 256 * 2 ^ (8 * i) by rw [Nat.mul_succ, pow_add]; ring, ← Nat.div_div_eq_div_mul,
        show (b.toNat + 256 * leNat r) / 256 = leNat r by omega]

theorem byteOf_ofNat_leNat {bits : Nat} {bs : List Byte} (hbs : 8 * bs.length ≤ bits) (i : Nat) : byteOf (BitVec.ofNat bits (leNat bs)) i = bs.getD i 0 := by
  have hlt : leNat bs < 2 ^ bits := by
    refine (leNat_lt bs).trans_le ?_
    rw [show 256 = 2 ^ 8 from rfl, ← pow_mul]
    exact Nat.pow_le_pow_right (by decide) hbs
  apply BitVec.eq_of_toNat_eq
  rw [byteOf, BitVec.toNat_ofNat, BitVec.toNat_ofNat, Nat.mod_eq_of_lt hlt, leNat_byte]

theorem byteOf_blockData (m : MemSys) (b key : Nat) {j : Nat} (h : j < 512) : byteOf (m.blockData b key) j = m.storedByte (b * 512 + j) key := by
  rw [MemSys.blockData, leNat_eq_foldr, byteOf_ofNat_leNat (by simp)]
  simp [h]

theorem getLsbD_spreadMask_of_bytes {bytes bits : Nat} (hb : bits = 8 * bytes) (mask : BitVec bytes) {k : Nat} (h : k < bits) :
    (spreadMask bytes bits mask).getLsbD k = mask.getLsbD (k / 8) := by
  rw [spreadMask, BitVec.getLsbD_ofNat, bitList, (testBit_maskSum _ bytes k).2, ← hb]
  simp [h]

/-- Bytes that a mask names are replaced, the others stay, in a word of any size. -/
theorem byteOf_mergeBytes_of_bytes {bytes bits : Nat} (hb : bits = 8 * bytes) (old new : BitVec bits) (mask : BitVec bytes) {j : Nat} (h : j < bytes) :
    byteOf (mergeBytes old new mask) j = if mask.getLsbD j then byteOf new j else byteOf old j := by
  ext k hk
  simp only [← BitVec.getLsbD_eq_getElem]
  rw [getLsbD_byteOf _ _ hk, mergeBytes, BitVec.getLsbD_or, BitVec.getLsbD_and, BitVec.getLsbD_and, BitVec.getLsbD_not,
    getLsbD_spreadMask_of_bytes hb mask (by omega), show (8 * j + k) / 8 = j by omega]
  cases mask.getLsbD j <;> simp [getLsbD_byteOf _ _ hk, show 8 * j + k < bits by omega]

/-- A byte of a part of a word. -/
theorem byteOf_part (d : BitVec 4096) (k : Nat) {j : Nat} (h : j < 128) :
    byteOf (BitVec.ofNat 1024 (d.toNat / 2 ^ (1024 * k))) j = byteOf d (128 * k + j) := by
  ext b hb
  simp only [← BitVec.getLsbD_eq_getElem]
  rw [getLsbD_byteOf _ _ hb, getLsbD_byteOf _ _ hb, BitVec.getLsbD_ofNat, Nat.testBit_div_two_pow]
  simp [show 8 * j + b < 1024 by omega, BitVec.getLsbD, show 8 * j + b + 1024 * k = 8 * (128 * k + j) + b by omega]

/-! DRAM. -/

theorem runOf_keys {α : Type} (k : Nat) (xs : List α) : (runOf k xs).map Prod.fst = List.range' k xs.length := by
  induction xs generalizing k with
  | nil => rfl
  | cons x r ih => rw [runOf, List.map_cons, ih, List.length_cons, List.range'_succ]

theorem mem_runOf {α : Type} {k i : Nat} {xs : List α} {x : α} (h : xs[i]? = some x) : (k + i, x) ∈ runOf k xs := by
  induction xs generalizing k i with
  | nil => simp at h
  | cons y r ih =>
    cases i with
    | zero =>
      obtain rfl : y = x := by simpa using h
      exact List.mem_cons_self
    | succ i =>
      rw [show k + (i + 1) = k + 1 + i by omega]
      exact List.mem_cons_of_mem _ (ih (by simpa using h))

theorem Store.get_setMany_bytesFrom {bits : Nat} (st : Store 8) (k : Nat) (d : BitVec bits) {j n : Nat} (h : j < n) :
    (st.setMany (runOf k (bytesFrom d 0 n))).get (k + j) = byteOf d j := by
  have hmem : (k + j, byteOf d j) ∈ runOf k (bytesFrom d 0 n) := mem_runOf (by simp [bytesFrom, h])
  refine Store.get_setMany_of_nodup st ?_ hmem
  rw [runOf_keys]
  exact List.nodup_range'

theorem Store.get_setMany_bytesFrom_other {bits : Nat} (st : Store 8) (k : Nat) (d : BitVec bits) {q n : Nat} (h : q < k ∨ k + n ≤ q) :
    (st.setMany (runOf k (bytesFrom d 0 n))).get q = st.get q := by
  refine Store.get_setMany_of_notMem st ?_
  rw [runOf_keys, List.mem_range'_1, bytesFrom, List.length_map, List.length_range]
  omega

theorem MemSys.putBlock_dram (m : MemSys) (b : Nat) (d : BitVec 4096) : (m.putBlock b d).dram = m.dram.setMany (runOf (b * 512) (bytesFrom d 0 512)) := by
  rw [MemSys.putBlock]

@[simp] theorem MemSys.putBlock_packets (m : MemSys) (b : Nat) (d : BitVec 4096) : (m.putBlock b d).packets = m.packets := by rw [MemSys.putBlock]
@[simp] theorem MemSys.putBlock_sectors (m : MemSys) (b : Nat) (d : BitVec 4096) : (m.putBlock b d).sectors = m.sectors := by rw [MemSys.putBlock]

@[simp] theorem MemSys.setBlk_packets (m : MemSys) (x : BlkMeta) : (m.setBlk x).packets = m.packets := rfl
@[simp] theorem MemSys.setBlk_dram (m : MemSys) (x : BlkMeta) : (m.setBlk x).dram = m.dram := rfl
@[simp] theorem MemSys.setBlk_sector (m : MemSys) (x : BlkMeta) (b : Nat) : (m.setBlk x).sector b = m.sector b := rfl

@[simp] theorem MemSys.setSector_packets (m : MemSys) (x : Sector) : (m.setSector x).packets = m.packets := rfl
@[simp] theorem MemSys.setSector_dram (m : MemSys) (x : Sector) : (m.setSector x).dram = m.dram := rfl

@[simp] theorem MemSys.reply_dram (m : MemSys) (p : Packet) : (m.reply p).dram = m.dram := rfl
@[simp] theorem MemSys.reply_sector (m : MemSys) (p : Packet) (b : Nat) : (m.reply p).sector b = m.sector b := rfl
@[simp] theorem MemSys.reply_blk (m : MemSys) (p : Packet) (b : Nat) : (m.reply p).blk b = m.blk b := rfl

theorem MemSys.putBlock_sector (m : MemSys) (b : Nat) (d : BitVec 4096) (c : Nat) : (m.putBlock b d).sector c = m.sector c := by
  rw [MemSys.sector, MemSys.putBlock_sectors, MemSys.sector]

theorem MemSys.putBlock_byte (m : MemSys) (b : Nat) (d : BitVec 4096) {j : Nat} (h : j < 512) : (m.putBlock b d).dram.get (b * 512 + j) = byteOf d j := by
  rw [MemSys.putBlock_dram, Store.get_setMany_bytesFrom _ _ d h]

theorem MemSys.putBlock_other (m : MemSys) (b : Nat) (d : BitVec 4096) {q : Nat} (h : blockOf q ≠ b) : (m.putBlock b d).dram.get q = m.dram.get q := by
  rw [MemSys.putBlock_dram, Store.get_setMany_bytesFrom_other _ _ d (by unfold blockOf at h; omega)]

end Sys2Proof.Machine
end

section
/-!
Sectors and the metadata of blocks (17 R362, R363): what is set is found, and what a set with room leaves.
-/
namespace Sys2Proof.Machine

theorem MemSys.sector_block {m : MemSys} {b : Nat} {x : Sector} (h : m.sector b = some x) : x.block = b := by
  simpa using List.find?_some (p := fun x : Sector => x.block == b) h

theorem MemSys.sector_setSector (m : MemSys) (x : Sector) : (m.setSector x).sector x.block = some x := find?_putBy_same _ (by simp) _

theorem MemSys.blk_setBlk (m : MemSys) (x : BlkMeta) : (m.setBlk x).blk x.block = x := by
  show ((putBy (fun y => y.block == x.block) x m.blocks).find? (fun y => y.block == x.block)).getD _ = x
  rw [find?_putBy_same _ (by simp), Option.getD_some]

theorem MemSys.storeSector_dirty {m : MemSys} {x : Sector} (h : x.dirty = true) :
    m.storeSector x = (m.putBlock x.block x.data).setBlk ⟨x.block, x.key, x.gen, x.poison⟩ := by
  rw [MemSys.storeSector, if_pos h]

theorem MemSys.storeSector_packets (m : MemSys) (x : Sector) : (m.storeSector x).packets = m.packets := by
  rw [MemSys.storeSector]
  split_ifs
  · rw [MemSys.setBlk_packets, MemSys.putBlock_packets]
  · rfl

/-- What a dirty sector leaves in DRAM and in the metadata of its block (17 R362, R363). -/
theorem MemSys.storeSector_written {m : MemSys} {x : Sector} (h : x.dirty = true) :
    (m.storeSector x).blk x.block = ⟨x.block, x.key, x.gen, x.poison⟩ ∧ (∀ j < 512, (m.storeSector x).dram.get (x.block * 512 + j) = byteOf x.data j) ∧
      (∀ q, blockOf q ≠ x.block → (m.storeSector x).dram.get q = m.dram.get q) ∧ ∀ c, (m.storeSector x).sector c = m.sector c := by
  rw [MemSys.storeSector_dirty h]
  refine ⟨MemSys.blk_setBlk _ _, fun j hj => ?_, fun q hq => ?_, fun c => ?_⟩
  · rw [MemSys.setBlk_dram, MemSys.putBlock_byte _ _ _ hj]
  · rw [MemSys.setBlk_dram, MemSys.putBlock_other _ _ _ hq]
  · rw [MemSys.setBlk_sector, MemSys.putBlock_sector]

theorem MemSys.sectorRoom_packets (m : MemSys) (b : Nat) : (m.sectorRoom b).packets = m.packets := by
  unfold MemSys.sectorRoom
  dsimp only
  split_ifs
  · rfl
  · rfl
  · split
    · rfl
    · exact m.storeSector_packets _

/-- A set with room keeps its sectors (17 R362). -/
theorem MemSys.sectorRoom_of_fits {m : MemSys} {b : Nat} (h : m.sectorFits b) : m.sectorRoom b = m := by
  unfold MemSys.sectorRoom
  extract_lets mates row
  split_ifs with hhere hrow
  · rfl
  · rfl
  · have hset : m.setOf b = row := by
      unfold MemSys.setOf row mates
      rw [List.filter_filter]
      exact List.filter_congr fun x _ => Bool.and_comm _ _
    rw [MemSys.sectorFits, hset] at h
    simp only [Bool.or_eq_true, decide_eq_true_eq, not_or] at hhere
    exact absurd h (not_or.2 ⟨hhere.1, hrow⟩)

theorem MemSys.readSector_packets (m : MemSys) (b ctx : Nat) (cls : BitVec 2) (alloc : Bool) : (m.readSector b ctx cls alloc).packets = m.packets := by
  unfold MemSys.readSector
  split
  · rfl
  · split_ifs
    · exact m.sectorRoom_packets b
    · rfl

theorem MemSys.readSector_dram {m : MemSys} {b : Nat} (ctx : Nat) (cls : BitVec 2) {alloc : Bool} (h : alloc = false ∨ m.sectorFits b) :
    (m.readSector b ctx cls alloc).dram = m.dram := by
  unfold MemSys.readSector
  split
  · rfl
  · split_ifs with ha
    · have hfits := h.resolve_left (by simp [ha])
      rw [m.sectorRoom_of_fits hfits]
      rfl
    · rfl

end Sys2Proof.Machine
end

section
/-!
Requests at a base die and their replies (17 R362-R370).
-/
namespace Sys2Proof.Machine

theorem MemSys.packet_named {m : MemSys} {u n : Nat} {p : Packet} (h : m.packet u n = some p) : p.isNamed u n = true := List.find?_some (p := fun x : Packet => x.isNamed u n) h

/-- A reply stands where its request stood (17 R366). -/
theorem MemSys.packet_reply {m m0 : MemSys} {n : Nat} {p q : Packet} (h : m0.packet p.unit n = some p) (hm : m.packets = m0.packets)
    (hq : q.unit = p.unit ∧ q.channel = p.channel ∧ q.tag = p.tag) : (m.reply q).packet p.unit n = some q := by
  have hn := MemSys.packet_named h
  simp only [Packet.isNamed, BEq.rfl, Bool.true_and, Bool.and_eq_true, beq_iff_eq] at hn
  have hsame : (fun x : Packet => x.same q) = fun x => x.isNamed p.unit n := by
    funext x
    rw [Packet.same, Packet.isNamed, hq.1, hq.2.1, hq.2.2, hn.1, hn.2]
  have hqn : q.isNamed p.unit n = true := by simp [Packet.isNamed, hq, hn]
  show (updFirst (fun x => x.same q) (fun _ => q) m.packets).find? (fun x => x.isNamed p.unit n) = some q
  rw [hsame, hm]
  exact find?_updFirst (fun x : Packet => x.isNamed p.unit n) (fun _ => q) (fun _ _ => hqn) h

theorem State.serveTag_of_turn {s : State} {n : Nat} {p : Packet} {type : Nat → Bool} (h : s.m.packet p.unit n = some p) (ht : s.m.turn s.time p = true)
    (hty : type p.type = true) : s.serveTag p.unit n type = ({ s with m := s.m.serve p } : State).corrected p.unit := by
  rw [State.serveTag, h]
  simp [ht, hty]

/-! Each request that a base die serves (17 R362-R370). -/

theorem MemSys.serve_read {m : MemSys} {p : Packet} (h : p.type = 0) : m.serve p = m.serveRead p := by
  simp only [MemSys.serve, h]

theorem MemSys.serve_write {m : MemSys} {p : Packet} (h : p.type = 1 ∨ p.type = 2) : m.serve p = m.serveWrite p := by
  rcases h with h | h <;> simp only [MemSys.serve, h]

theorem MemSys.serve_writeback {m : MemSys} {p : Packet} {x : Sector} (h : p.type = 3) (hx : m.sector p.block = some x) (hspec : x.spec = none) :
    m.serve p = m.serveWriteback p := by
  have hsafe : m.speculative p.block = false := by
    rw [MemSys.speculative, hx, Option.bind_some, hspec]
    rfl
  rw [MemSys.serve, h]
  simp [hsafe]

theorem MemSys.serve_acknowledged {m : MemSys} {p : Packet} (h : p.type = 4 ∨ p.type = 5) : m.serve p = m.reply { p with type := 7 } := by
  rcases h with h | h <;> simp only [MemSys.serve, h]

theorem MemSys.sectorFor_byte (m : MemSys) (b ctx key : Nat) {j : Nat} (h : j < 512) : byteOf (m.sectorFor b ctx key).data j = m.storedByte (b * 512 + j) key :=
  byteOf_blockData m b key h

/-- The sector of a block with the bytes of a write (17 R364). -/
def MemSys.written (m : MemSys) (p : Packet) : Sector :=
  { m.sectorFor p.block p.ctx p.key with
    data := mergeBytes (m.sectorFor p.block p.ctx p.key).data p.data p.mask, dirty := true, poison := (m.sectorFor p.block p.ctx p.key).poison || p.poison }

theorem MemSys.written_byte (m : MemSys) (p : Packet) {j : Nat} (h : j < 512) :
    byteOf (m.written p).data j = if p.mask.getLsbD j then byteOf p.data j else m.storedByte (p.block * 512 + j) p.key := by
  rw [MemSys.written, byteOf_mergeBytes_of_bytes rfl _ _ _ h, MemSys.sectorFor_byte _ _ _ _ h]

theorem MemSys.serveWrite_of_here {m : MemSys} {p : Packet} (h : p.alloc = true ∨ (m.sector p.block).isSome = true) :
    m.serveWrite p = ((m.sectorRoom p.block).setSector { m.written p with cls := clsAfter (m.written p).cls p.cls }).reply { p with type := 7, data := 0, mask := 0 } := by
  have hhere : (p.alloc || (m.sector p.block).isSome) = true := by simpa using h
  rw [MemSys.serveWrite, if_pos hhere, MemSys.mergeSector, MemSys.written]

theorem MemSys.serveWrite_of_absent {m : MemSys} {p : Packet} (ha : p.alloc = false) (hx : m.sector p.block = none) :
    m.serveWrite p = (m.storeSector (m.written p)).reply { p with type := 7, data := 0, mask := 0 } := by
  have hhere : ¬ (p.alloc || (m.sector p.block).isSome) = true := by simp [ha, hx]
  rw [MemSys.serveWrite, if_neg hhere, MemSys.written]

/-- A write that is merged into the sector of its block (17 R364). -/
theorem MemSys.serveWrite_merged {m : MemSys} {p : Packet} (h : p.alloc = true ∨ (m.sector p.block).isSome = true) :
    (m.serveWrite p).sector p.block = some { m.written p with cls := clsAfter (m.written p).cls p.cls } ∧
    (m.sectorFits p.block → (m.serveWrite p).dram = m.dram) := by
  rw [MemSys.serveWrite_of_here h, MemSys.reply_sector, MemSys.reply_dram, MemSys.setSector_dram]
  exact ⟨MemSys.sector_setSector _ _, fun hfits => by rw [MemSys.sectorRoom_of_fits hfits]⟩

/-- A write that goes to DRAM whole (03 R89). -/
theorem MemSys.serveWrite_whole {m : MemSys} {p : Packet} (ha : p.alloc = false) (hx : m.sector p.block = none) :
    (m.serveWrite p).sector p.block = none ∧
    (m.serveWrite p).blk p.block = ⟨p.block, p.key, m.keyGen p.key, m.blockPoison p.block || p.poison⟩ ∧
    (∀ j < 512, (m.serveWrite p).dram.get (p.block * 512 + j) = if p.mask.getLsbD j then byteOf p.data j else m.storedByte (p.block * 512 + j) p.key) ∧
    ∀ q, blockOf q ≠ p.block → (m.serveWrite p).dram.get q = m.dram.get q := by
  rw [MemSys.serveWrite_of_absent ha hx]
  obtain ⟨hblk, hin, hout, hsec⟩ := MemSys.storeSector_written (m := m) (x := m.written p) rfl
  simp only [MemSys.reply_sector, MemSys.reply_blk, MemSys.reply_dram]
  exact ⟨(hsec _).trans hx, hblk, fun j hj => (hin j hj).trans (m.written_byte p hj), hout⟩

theorem MemSys.serveWrite_packet {m : MemSys} {n : Nat} {p : Packet} (h : m.packet p.unit n = some p) :
    (m.serveWrite p).packet p.unit n = some { p with type := 7, data := 0, mask := 0 } := by
  rw [MemSys.serveWrite]
  refine MemSys.packet_reply h ?_ ⟨rfl, rfl, rfl⟩
  split_ifs
  · rw [MemSys.mergeSector, MemSys.setSector_packets, MemSys.sectorRoom_packets]
  · rw [MemSys.storeSector_packets]

/-- A sector that is written back (17 R362, R363). -/
theorem MemSys.serveWriteback_of_sector {m : MemSys} {p : Packet} {x : Sector} (hx : m.sector p.block = some x) :
    m.serveWriteback p = ((m.storeSector x).setSector { x with dirty := false }).reply { p with type := 7 } := by
  rw [MemSys.serveWriteback, hx]

/-- STARVATION_BOUND serves a request that has waited long enough as the event of its type does (17 R367). -/
theorem execStarvationBound_of_starved {s : State} {n : Nat} {p : Packet} (h : s.m.packet p.unit n = some p) (hturn : s.m.turn s.time p = true)
    (hf : p.flare = false) (hs : p.since + 2000 ≤ s.time) {type : Nat → Bool} (hty : type p.type = true) :
    execStarvationBound p.unit n s = .next (s.serveTag p.unit n type) := by
  have hstarved : p.starved s.time = true := by simp [Packet.starved, hf, hs]
  rw [execStarvationBound, h]
  dsimp only
  rw [if_pos hstarved, State.serveTag_of_turn h hturn rfl, State.serveTag_of_turn h hturn hty]

/-! Replies (17 R366, R367). -/

theorem MemSys.dropPacket_packet (m : MemSys) (u n : Nat) : (m.dropPacket u n).packet u n = none := by
  simp [MemSys.packet, MemSys.dropPacket]

theorem MemSys.l2Find_line {m : MemSys} {line : Nat} {x : L2Line} (h : m.l2Find line = some x) : x.line = line := by
  simpa using List.find?_some (p := fun x : L2Line => x.line == line) h

theorem MemSys.l2Find_l2Set (m : MemSys) (x : L2Line) : (m.l2Set x).l2Find x.line = some x := find?_putBy_same _ (by simp) _

theorem L2Line.fill_byte (x : L2Line) (d : BitVec 1024) (poison : Bool) {j : Nat} (h : j < 128) :
    byteOf (x.fill d poison).data j = if x.valid.getLsbD j then byteOf x.data j else byteOf d j := by
  rw [L2Line.fill, byteOf_mergeBytes _ _ _ h]
  rw [BitVec.getLsbD_not]
  cases x.valid.getLsbD j <;> simp [h]

theorem execReadReply_of_reply {s : State} {u n : Nat} {p : Packet} {x : L2Line} (h : s.m.packet u n = some p) (ht : p.type = 6) (hx : s.m.l2Find p.line = some x) :
    execReadReply u n s =
      .next { s with m := (s.m.l2Set (x.fill (BitVec.ofNat 1024 (p.data.toNat / 2 ^ (1024 * (p.line % 4)))) p.poison)).dropPacket u n } := by
  simp only [execReadReply, h, ht, hx, if_true]

end Sys2Proof.Machine
end

section
/-!
What a base die does with the request whose turn it is, by its type, and with a reply (17 R364-R370).
-/
namespace Sys2Proof.Machine

section
variable {s : State} {n : Nat} {p : Packet}

theorem readPacket_served (h : s.m.packet p.unit n = some p) (hturn : s.m.turn s.time p = true) (ht : p.type = 0) :
    ∃ t, exec (.readPacket p.unit n) s = .next t ∧ t.w = s.w ∧ (p.alloc = false ∨ s.m.sectorFits p.block → t.m.dram = s.m.dram) ∧
      t.m.packet p.unit n = some { p with type := 6, data := s.m.blockData p.block p.key, poison := s.m.blockPoison p.block } := by
  have hserve := State.serveTag_of_turn (type := (· == 0)) h hturn (by simp [ht])
  rw [MemSys.serve_read ht] at hserve
  exact ⟨_, congrArg Host.Outcome.next hserve, rfl, fun hroom => MemSys.readSector_dram _ _ hroom,
    MemSys.packet_reply h (MemSys.readSector_packets _ _ _ _ _) ⟨rfl, rfl, rfl⟩⟩

theorem exec_write_served (h : s.m.packet p.unit n = some p) (hturn : s.m.turn s.time p = true) {i : Instr}
    (hi : (p.type = 1 ∧ i = .fullWrite p.unit n) ∨ (p.type = 2 ∧ i = .maskedWrite p.unit n)) :
    exec i s = .next (({ s with m := s.m.serveWrite p } : State).corrected p.unit) := by
  rcases hi with ⟨ht, rfl⟩ | ⟨ht, rfl⟩
  · rw [← MemSys.serve_write (.inl ht)]
    exact congrArg Host.Outcome.next (State.serveTag_of_turn h hturn (by simp [ht]))
  · rw [← MemSys.serve_write (.inr ht)]
    exact congrArg Host.Outcome.next (State.serveTag_of_turn h hturn (by simp [ht]))

theorem exec_acknowledged_served (h : s.m.packet p.unit n = some p) (hturn : s.m.turn s.time p = true) {i : Instr}
    (hi : (p.type = 4 ∧ i = .sequenceRow p.unit n) ∨ (p.type = 5 ∧ i = .refreshHoldRelease p.unit n)) :
    exec i s = .next (({ s with m := s.m.reply { p with type := 7 } } : State).corrected p.unit) := by
  rcases hi with ⟨ht, rfl⟩ | ⟨ht, rfl⟩
  · rw [← MemSys.serve_acknowledged (.inl ht)]
    exact congrArg Host.Outcome.next (State.serveTag_of_turn h hturn (by simp [ht]))
  · rw [← MemSys.serve_acknowledged (.inr ht)]
    exact congrArg Host.Outcome.next (State.serveTag_of_turn h hturn (by simp [ht]))

theorem sectorWriteback_served (h : s.m.packet p.unit n = some p) (hturn : s.m.turn s.time p = true) (ht : p.type = 3) {x : Sector}
    (hx : s.m.sector p.block = some x) (hspec : x.spec = none) (hd : x.dirty = true) :
    ∃ t, exec (.sectorWriteback p.unit n) s = .next t ∧ t.w = s.w ∧ t.m.packet p.unit n = some { p with type := 7 } ∧
      t.m.sector p.block = some { x with dirty := false } ∧ t.m.blk p.block = ⟨p.block, x.key, x.gen, x.poison⟩ ∧
      (∀ j < 512, t.m.dram.get (p.block * 512 + j) = byteOf x.data j) ∧ (∀ q, blockOf q ≠ p.block → t.m.dram.get q = s.m.dram.get q) := by
  have hserve := State.serveTag_of_turn (type := (· == 3)) h hturn (by simp [ht])
  rw [MemSys.serve_writeback ht hx hspec, MemSys.serveWriteback_of_sector hx] at hserve
  obtain ⟨hblk, hin, hout, -⟩ := MemSys.storeSector_written (m := s.m) hd
  have hb := MemSys.sector_block hx
  rw [hb] at hblk hin hout
  have hsec : ((s.m.storeSector x).setSector { x with dirty := false }).sector p.block = some { x with dirty := false } :=
    hb ▸ MemSys.sector_setSector (s.m.storeSector x) { x with dirty := false }
  exact ⟨_, congrArg Host.Outcome.next hserve, rfl, MemSys.packet_reply h (s.m.storeSector_packets x) ⟨rfl, rfl, rfl⟩, hsec, hblk, hin, hout⟩

theorem starvationBound_served (h : s.m.packet p.unit n = some p) (hturn : s.m.turn s.time p = true) (hf : p.flare = false) (hs : p.since + 2000 ≤ s.time) :
    (p.type = 0 → exec (.starvationBound p.unit n) s = exec (.readPacket p.unit n) s) ∧
    (p.type = 1 → exec (.starvationBound p.unit n) s = exec (.fullWrite p.unit n) s) ∧
    (p.type = 2 → exec (.starvationBound p.unit n) s = exec (.maskedWrite p.unit n) s) ∧
    (p.type = 3 → exec (.starvationBound p.unit n) s = exec (.sectorWriteback p.unit n) s) := by
  have hany (k : Nat) (hk : p.type = k) : execStarvationBound p.unit n s = .next (s.serveTag p.unit n (· == k)) :=
    execStarvationBound_of_starved h hturn hf hs (by simp [hk])
  exact ⟨hany 0, hany 1, hany 2, hany 3⟩

theorem readReply_fills {x : L2Line} (h : s.m.packet p.unit n = some p) (ht : p.type = 6) (hx : s.m.l2Find p.line = some x) :
    ∃ t y, exec (.readReply p.unit n) s = .next t ∧ t.w = s.w ∧ t.m.packet p.unit n = none ∧ t.m.l2Find p.line = some y ∧ y.valid = BitVec.allOnes 128 ∧
      y.dirty = x.dirty ∧ ∀ j < 128, byteOf y.data j = if x.valid.getLsbD j then byteOf x.data j else byteOf p.data (128 * (p.line % 4) + j) := by
  set y := x.fill (BitVec.ofNat 1024 (p.data.toNat / 2 ^ (1024 * (p.line % 4)))) p.poison with hy
  have hfind : (s.m.l2Set y).l2Find p.line = some y := MemSys.l2Find_line hx ▸ MemSys.l2Find_l2Set s.m y
  refine ⟨_, y, execReadReply_of_reply h ht hx, rfl, MemSys.dropPacket_packet _ _ _, hfind, rfl, rfl, fun j hj => ?_⟩
  rw [hy, L2Line.fill_byte _ _ _ hj, byteOf_part _ _ hj]

end

/--
Settles O50: a request whose turn it is is served by its type, and its reply stands in its place under its tag; where its set has room no sector is evicted, so DRAM
keeps its bytes.
-/
theorem packetsServed : Obligations.PacketsServed := by
  refine ⟨fun s n p h hturn _ => ⟨fun ht => ?_, fun i hi => ?_, fun x ht hx hspec hd => ?_, fun i hi => ?_, fun hf hs => ?_⟩,
    fun s n p x h ht hx => readReply_fills h ht hx, fun s n p h ht => ?_⟩
  · obtain ⟨t, ht, hw, hdram, hpacket⟩ := readPacket_served h hturn ht
    exact ⟨t, ht, hw, hdram, hpacket, fun i hi => byteOf_blockData s.m p.block p.key hi⟩
  · intro merged
    refine ⟨_, exec_write_served h hturn hi, rfl, MemSys.serveWrite_packet h, fun hhere => ?_, fun ha hx => MemSys.serveWrite_whole ha hx⟩
    obtain ⟨hsec, hdram⟩ := MemSys.serveWrite_merged hhere
    exact ⟨hdram, _, hsec, rfl, rfl, rfl, fun j hj => s.m.written_byte p hj⟩
  · exact sectorWriteback_served h hturn ht hx hspec hd
  · exact ⟨_, exec_acknowledged_served h hturn hi, rfl, rfl, MemSys.packet_reply h rfl ⟨rfl, rfl, rfl⟩⟩
  · exact starvationBound_served h hturn hf hs
  · show execWriteAcknowledge p.unit n s = _
    rw [execWriteAcknowledge, h]
    dsimp only
    rw [if_pos ht]
    rfl

end Sys2Proof.Machine
end

section
/-!
ENGINE_LINE_WRITE of an XCOPY in a state whose L2 lists its destination line sixteen times (07 R214; 17 R357): what refutes O33. The request owns the first entry; bringing
its source line, of the same set, into L2 evicts another entry, which no engine owns, and with it the owned one.
-/
namespace Sys2Proof.Machine

/-! Where line L is all that L2 holds. -/

theorem MemSys.Crowded.line_eq {m : MemSys} {k line : Nat} (h : m.Crowded k line []) {x : L2Line} (hx : x ∈ m.l2) : x.line = line := by
  obtain ⟨as, hl2, hfront⟩ := h.listed
  rw [hl2] at hx
  rcases List.mem_append.mp hx with hx | hx
  · have hmem : x.unowned ∈ crowdedFront k line [] := hfront ▸ List.mem_map_of_mem hx
    rcases mem_crowdedFront.mp hmem with he | ⟨n, hn, -⟩
    · exact congrArg L2Line.line he
    · exact absurd hn List.not_mem_nil
  · obtain rfl := List.mem_singleton.mp hx
    rfl

theorem MemSys.Crowded.absent {m : MemSys} {k line n : Nat} (h : m.Crowded k line []) (hne : n ≠ line) : m.l2Find n = none :=
  List.find?_eq_none.mpr fun x hx => by simpa [h.line_eq hx] using hne.symm

/-- Once line L is forgotten there, L2 is empty. -/
theorem MemSys.Crowded.forget_all {m : MemSys} {k line : Nat} (h : m.Crowded k line []) (t : Nat) : (m.forgetL2 t (fun y => y.line == line)).l2 = [] := by
  rw [(m.forgetL2_l2 t _).1]
  exact List.filter_eq_nil_iff.mpr fun x hx => by simp [h.line_eq hx]

/-- A read that allocates its sector in an empty memory-side cache leaves the caches above it. -/
theorem MemSys.Crowded.readSector {m : MemSys} {k line : Nat} {rest : List Nat} (h : m.Crowded k line rest) (hs : m.sectors = []) (b ctx : Nat) (cls : BitVec 2) :
    (m.readSector b ctx cls true).Crowded k line rest := by
  have hnone : m.sector b = none := by rw [MemSys.sector, hs]; rfl
  have hfits : m.sectorFits b := .inr (by simp [MemSys.setOf, hs])
  have hread : (m.readSector b ctx cls true).l2 = m.l2 ∧ (m.readSector b ctx cls true).l1 = m.l1 ∧ (m.readSector b ctx cls true).farOwned = m.farOwned := by
    simp only [MemSys.readSector, hnone, if_true, MemSys.sectorRoom_of_fits hfits]
    exact ⟨rfl, rfl, rfl⟩
  obtain ⟨hl2, hl1, hfar⟩ := hread
  exact ⟨hl1.trans h.noL1, hfar.trans h.noFar, hl2 ▸ h.listed⟩

/-! An empty L2. -/

theorem MemSys.l2Fits_empty {m : MemSys} (h : m.l2 = []) (n slice : Nat) : m.l2Fits n slice = true := by simp [MemSys.l2Fits, h]

theorem MemSys.l2Line_empty {m : MemSys} (h : m.l2 = []) (n slice ctx key : Nat) (cls : BitVec 2) : (m.l2Line n slice ctx key cls).line = n := by
  simp [MemSys.l2Line, MemSys.l2Find, h]

theorem MemSys.l2Find_l2Set_empty {m : MemSys} (h : m.l2 = []) {x : L2Line} {n : Nat} (hne : x.line ≠ n) : (m.l2Set x).l2Find n = none := by
  simp [MemSys.l2Set, MemSys.l2Find, h, putBy, hne]

/-- Bringing a line of its set into L2 there leaves line L out. -/
theorem MemSys.Crowded.bringLine {m : MemSys} {k line : Nat} (h : m.Crowded k line []) (hs : m.sectors = []) (t : Nat) {p : Phys} (hp : p.slice = k)
    (hne : lineOf p.loc ≠ line) (hset : Config.l2SetOf line % 1024 = Config.l2SetOf (lineOf p.loc) % 1024) (ctx : Nat) (evict : BitVec 2) :
    (m.bringLine t p ctx 0 evict).l2Find line = none ∧ (m.bringLine t p ctx 0 evict).farOwned = [] := by
  have hcrowd : (m.readSector (blockOf p.loc) ctx evict (decide (0 < 3))).Crowded k line [] := h.readSector hs _ _ _
  have hroom := hcrowd.l2Room hne List.not_mem_nil hset t
  have hempty := hcrowd.forget_all t
  have hfar := ((m.readSector (blockOf p.loc) ctx evict (decide (0 < 3))).forgetL2_l2 t (fun y => y.line == line)).2.2.trans hcrowd.noFar
  rw [MemSys.bringLine]
  dsimp only
  rw [h.absent hne, hp, hroom]
  generalize (m.readSector (blockOf p.loc) ctx evict (decide (0 < 3))).forgetL2 t (fun y => y.line == line) = m2 at hempty hfar
  have hgo : ¬ (2 ≤ 0 ∨ m2.l2Fits (lineOf p.loc) k = false) := by simp [MemSys.l2Fits_empty hempty]
  dsimp only
  rw [if_neg hgo]
  exact ⟨MemSys.l2Find_l2Set_empty hempty (by rwa [L2Line.fill, MemSys.l2Line_empty hempty]), hfar⟩

/-! The counterexample: an XCOPY of one byte from one address of a page to another. -/

/-- The page: 512 MB at PA 0 under scheme 0, for reading and writing. -/
def copyPte : W64 := 0x2F

def copyCore : CoreId := ⟨0, 0, 0⟩

/-- The request, of one byte from address a to address b. -/
def copyReq (a b : Nat) : XReq :=
  { id := 1, warp := WRef.none, lane := 0, core := copyCore, ctx := 0, op := 1, ticket := 1, kind := .xcopy 0 0 1 0, trec := none, dst := addrOf b, src := addrOf a
    coords := [], rows := [], ck := 0, target := 0, counted := 1, evict := 0, level := 0, brought := [], staged := none, wct := 0, paged := none, aborted := false }

/-- A memory system that has the page in the core's TLB, and key slot 0. -/
structure MemSys.CopyPage (m : MemSys) : Prop where
  tlb : m.tlb = [⟨0, copyCore, 0, 0, 2, copyPte⟩]
  keys : m.keys = [⟨0, true, none, 0, 0, 0, []⟩]

/-- The device whose L2 lists a line sixteen times, with the request accepted and its page in the core's TLB. -/
def copyState (k line a b : Nat) : State :=
  { State.reset with
    m := { MemSys.reset with
      l2 := crowdedFront k line [] ++ [spareLine k line], tlb := [⟨0, copyCore, 0, 0, 2, copyPte⟩], keys := [⟨0, true, none, 0, 0, 0, []⟩] }
    e := { State.reset.e with reqs := [copyReq a b] } }

theorem copyState_crowded (k line a b : Nat) : (copyState k line a b).m.Crowded k line [] := ⟨rfl, rfl, (crowdedState_crowded k line []).listed⟩

theorem copyState_owned (k line a b n : Nat) : (copyState k line a b).owned n = false := crowdedState_owned k line [] n

theorem addrOf_toNat {a : Nat} (h : a < 2 ^ 29) : (addrOf a).toNat = a := by
  rw [addrOf, BitVec.toNat_ofNat, Nat.mod_eq_of_lt (by omega)]

theorem addrOf_linear {a : Nat} (h : a < 2 ^ 29) : inScratch (addrOf a) = false := by
  simp only [inScratch, addrOf_toNat h, Bool.and_eq_false_iff, decide_eq_false_iff_not]
  omega

theorem physOf_copyPte {a : Nat} (h : a < 2 ^ 29) : physOf copyPte 2 (addrOf a) = ringPlace a := by
  have hpa : ptePa copyPte + (addrOf a).toNat % pageSize 2 = a := by
    rw [addrOf_toNat h, show ptePa copyPte = 0 by decide, pageSize, Nat.mod_eq_of_lt h, Nat.zero_add]
  simp only [physOf, hpa, show pteTgt copyPte = 0 by decide, show pteIsch copyPte = 0 by decide, show pteSel copyPte = 0 by decide, show pteKey copyPte = 0 by decide,
    show copyPte.getLsbD 5 = true by decide, ringPlace]

/-- Addresses of the page translate. -/
theorem MemSys.CopyPage.translate {m : MemSys} (hm : m.CopyPage) {c : Nat} (h : c < 2 ^ 29) {need : Need} (hn : permits copyPte need = true) :
    m.translate copyCore 0 (addrOf c) need = .ok (ringPlace c) := by
  have hpage : m.pageOf copyCore 0 (addrOf c) = .ok (copyPte, 2) := by
    simp [MemSys.pageOf, hm.tlb, addrOf_toNat h, pageSize, show c < 536870912 from h]
  have hcanon : Machine.canonical (addrOf c) = true := by simp only [Machine.canonical, addrOf_toNat h, decide_eq_true_eq]; omega
  have hkey : m.keyLoaded (pteKey copyPte) = true := by rw [show pteKey copyPte = 0 by decide, MemSys.keyLoaded, MemSys.keyOf, hm.keys]; rfl
  have hown : m.ownPlace (ringPlace c) = ringPlace c := by simp [MemSys.ownPlace, ringPlace]
  simp [MemSys.translate, hcanon, hpage, hn, hkey, physOf_copyPte h, hown]

theorem MemSys.CopyPage.engPlace {s : State} (hm : s.m.CopyPage) (a b : Nat) {c : Nat} (h : c < 2 ^ 29) : s.engPlace (copyReq a b) c = some (ringPlace c) := by
  rw [State.engPlace, addrOf_linear h, if_neg Bool.false_ne_true]
  exact congrArg Except.toOption (hm.translate h (need := .none) rfl)

theorem copyState_page (k line a b : Nat) : (copyState k line a b).m.CopyPage := ⟨rfl, rfl⟩

theorem SeqRange.lines_byte (a : Nat) (need : Need) : SeqRange.lines ⟨a, 1, need⟩ = [a] := by
  have hone : (a + 1 - 1) / 128 + 1 - a / 128 = 1 := by omega
  have hmax : max a ((a / 128 + 0) * 128) = a := by omega
  simp only [SeqRange.lines, hone, List.range_one, List.map_cons, List.map_nil, hmax, Nat.one_ne_zero, if_false]

theorem copyReq_pieces {a b : Nat} (ha : a < 2 ^ 29) (hb : b < 2 ^ 29) :
    (copyReq a b).pieces = ([(⟨addrOf a, 1⟩, .read)], [(⟨addrOf b, 1⟩, .write)]) := by
  have hsize (c : Nat) : min ((c / 128 + 1) * 128) (c + 1) - c = 1 := by omega
  simp [XReq.pieces, copyReq, addrOf_toNat ha, addrOf_toNat hb, SeqRange.lines_byte, hsize]

theorem State.peerErr_of_own (s : State) {loc : Nat} (h : loc < hostBase) : s.peerErr loc = none := by
  have hkind : memKind loc ≠ .peer := by
    rw [memKind, if_neg (by rw [hostBase] at h; rw [peerBase]; omega)]
    split_ifs <;> decide
  rw [State.peerErr, if_pos hkind]

/-- A request of two pieces that translate, in memory that answers, is not stopped. -/
theorem State.engErr_none {s : State} {q : XReq} {x y : EngPiece × Need} {p p' : Phys} (hp : q.pieces = ([x], [y])) (hx : inScratch x.1.va = false)
    (hy : inScratch y.1.va = false) (htx : s.m.translate q.core q.ctx x.1.va x.2 = .ok p) (hty : s.m.translate q.core q.ctx y.1.va y.2 = .ok p')
    (hex : s.peerErr p.loc = none) (hey : s.peerErr p'.loc = none) : s.engErr q = none := by
  simp [State.engErr, hp, hx, hy, htx, hty, hex, hey]

/-- Nothing stops the transfer. -/
theorem copyState_engErr (k line : Nat) {a b : Nat} (ha : a < 262140) (hb : b < 262140) : (copyState k line a b).engErr (copyReq a b) = none := by
  have hread := (copyState_page k line a b).translate (c := a) (by omega) (need := .read) (by decide)
  have hwrite := (copyState_page k line a b).translate (c := b) (by omega) (need := .write) (by decide)
  exact State.engErr_none (copyReq_pieces (by omega) (by omega)) (addrOf_linear (by omega)) (addrOf_linear (by omega)) hread hwrite
    (State.peerErr_of_own _ (ringPlace_loc ha)) (State.peerErr_of_own _ (ringPlace_loc hb))

theorem bytesAt_byte {b : Nat} (hb : b < 2 ^ 29) {bs : List Byte} (h : bs.length = 1) : bytesAt (addrOf b) bs = [(b, bs.getD 0 0)] := by
  simp only [bytesAt, h, List.range_one, List.map_cons, List.map_nil, BitVec.add_zero, addrOf_toNat hb, BitVec.ofNat_eq_ofNat]

theorem byLine_byte (c : Nat × Byte) : byLine [c] = [[c]] := by simp [byLine]

/-- What it writes: one byte at its destination. -/
theorem copyReq_engOut (s : State) (a : Nat) {b : Nat} (hb : b < 2 ^ 29) : ∃ x po, s.engOut (copyReq a b) = { groups := [[(b, x)]], adds := [], poison := po } := by
  have hone (x : Nat) : (bytesOf 1 x).length = 1 := by simp [bytesOf]
  have hsize (d c : W64) (x : W32) : (xseqOf 0 0 1 d c x).eltBytes = 1 := rfl
  have htotal (d c : W64) (x : W32) : (xseqOf 0 0 1 d c x).total = 1 := rfl
  have hdst : (copyReq a b).dst = addrOf b := rfl
  rw [show s.engOut (copyReq a b) = s.copyBytes (copyReq a b) 0 0 1 0 from rfl]
  simp only [State.copyBytes, hsize, htotal, Nat.div_one, List.range_one, List.map_cons, List.map_nil, List.flatMap_cons, List.flatMap_nil, List.append_nil,
    Nat.mul_zero, BitVec.ofNat_eq_ofNat, BitVec.add_zero, hdst, bytesAt_byte hb (hone _), byLine_byte]
  exact ⟨_, _, rfl⟩

/-- A request that writes one byte, at a place of this device, comes to own its line. -/
theorem State.engOwns_byte {s : State} {q : XReq} {b : Nat} {x : Byte} {po : List Nat} {p : Phys} (hb : s.engPlace q b = some p) (hp : p.loc < hostBase) :
    engOwns (s.engGroups q { groups := [[(b, x)]], adds := [], poison := po }) = [p] := by
  have hkeep : (decide (p.loc < hostBase) || memKind p.loc == .peer) = true := by rw [decide_eq_true hp]; rfl
  simp [State.engGroups, engOwns, EngWrite.places, hb, oneALine, hkeep]

/-- ENGINE_LINE_WRITE of a request that has not been issued, that nothing stops and whose one destination line is free: it takes the line and brings its sources where
its hints say (07 R214; 12 R268). -/
theorem exec_engineLineWrite_issue {s : State} {k : Nat} {q : XReq} {p : Phys} (hq : s.reqAt k = some q) (hst : q.staged = none) (hpg : q.paged = none)
    (herr : s.engErr q = none)
    (hwait : s.engineWaits q.warp q.core q.ctx [] ((q.pieces.1 ++ q.pieces.2.filter (fun x => x.2 == .both)).map (fun x => (x.1.va, x.1.n))) = false)
    (hown : engOwns (s.engGroups q (s.engOut q)) = [p]) (hfree : s.owned (lineOf p.loc) = false) (hseq : s.seqBlocks (lineOf p.loc) = false) {t : State}
    (ht : exec (.engineLineWrite k) s = .next t) : t.m = ((s.takeLine q.id p q.ctx).hintSources q).m := by
  change execEngineLineWrite k s = _ at ht
  rw [execEngineLineWrite, hq] at ht
  dsimp only at ht
  rw [hst, hpg] at ht
  obtain rfl := Host.Outcome.next.inj ht
  have hgo : ¬ (false || [p].any (fun p => s.owned (lineOf p.loc) || s.seqBlocks (lineOf p.loc))) = true := by simp [hfree, hseq]
  show (s.stageReq q).m = _
  rw [State.stageReq, herr]
  dsimp only
  rw [hwait, hown, if_neg hgo]
  rfl

/-- The line of one byte that a request reads comes where its hints say. -/
theorem State.hintSources_byte {s : State} {q : XReq} {x : EngPiece × Need} {ys : List (EngPiece × Need)} {p : Phys} (hp : q.pieces = ([x], ys))
    (hx : s.engPlace q x.1.va.toNat = some p) (hloc : p.loc < hostBase) : (s.hintSources q).m = s.m.bringLine s.time p q.ctx q.level q.evict := by
  simp [State.hintSources, State.updM, hp, hx, oneALine, hloc]

theorem copyState_engOwns (k line a : Nat) {b : Nat} (hb : b < 262140) :
    engOwns ((copyState k line a b).engGroups (copyReq a b) ((copyState k line a b).engOut (copyReq a b))) = [ringPlace b] := by
  obtain ⟨x, po, hout⟩ := copyReq_engOut (copyState k line a b) a (b := b) (by omega)
  rw [hout]
  exact State.engOwns_byte ((copyState_page k line a b).engPlace a b (by omega)) (ringPlace_loc hb)

theorem copyState_reqAt (k line a b : Nat) : (copyState k line a b).reqAt 1 = some (copyReq a b) := rfl

/-- No byte is held back. -/
theorem copyState_engineWaits (k line a b : Nat) (rs : List (W64 × Nat)) : (copyState k line a b).engineWaits WRef.none copyCore 0 [] rs = false := by
  rw [State.engineWaits, show (copyState k line a b).m.holding = false from rfl, Bool.false_and]

/-- Its destination line is free. -/
theorem copyState_free (k line a : Nat) {b : Nat} (hb : b < 262140) : ∀ p ∈ [ringPlace b], (copyState k line a b).owned (lineOf p.loc) = false ∧
    (copyState k line a b).seqBlocks (lineOf p.loc) = false ∧ (copyState k line a b).peerErr (lineOf p.loc * 128) = none := by
  intro p hp
  obtain rfl := List.mem_singleton.mp hp
  exact ⟨copyState_owned _ _ _ _ _, rfl, State.peerErr_of_own _ ((Nat.div_mul_le_self _ _).trans_lt (ringPlace_loc hb))⟩

/-- Where the front of L2 has a line, taking it changes its entry and nothing else. -/
theorem MemSys.Crowded.takeLine_frame {s : State} {k line : Nat} {rest : List Nat} (h : s.m.Crowded k line rest) {id : Nat} {p : Phys} {ctx : Nat}
    (hp : p.loc < hostBase) (hn : lineOf p.loc = line ∨ lineOf p.loc ∈ rest) : ∃ x, s.takeLine id p ctx = s.updM (fun m => m.l2Set x) := by
  obtain ⟨as, hl2, hfront⟩ := h.listed
  obtain ⟨x, hx⟩ := find?_front hfront hn
  have hfound : s.m.l2Find (lineOf p.loc) = some x := by
    rw [MemSys.l2Find, hl2, List.find?_append, hx]
    rfl
  exact ⟨_, State.takeLine_present h.noL1 hp hfound⟩

/-- The request is issued: in the end L2 does not hold its destination line, and nothing is owned outside. -/
theorem copyState_issued {a b : Nat} (ha : a < 262140) (hb : b < 262140) (hne : lineOf (ringPlace a).loc ≠ lineOf (ringPlace b).loc)
    (hset : Config.l2SetOf (lineOf (ringPlace b).loc) % 1024 = Config.l2SetOf (lineOf (ringPlace a).loc) % 1024) {t : State}
    (ht : exec (.engineLineWrite 1) (copyState (ringPlace a).slice (lineOf (ringPlace b).loc) a b) = .next t) :
    t.m.l2Find (lineOf (ringPlace b).loc) = none ∧ t.m.farOwned = [] := by
  have hcrowd := copyState_crowded (ringPlace a).slice (lineOf (ringPlace b).loc) a b
  have htaken := hcrowd.takeLine (id := (copyReq a b).id) (ctx := (copyReq a b).ctx) (ringPlace_loc hb) (.inl rfl)
  obtain ⟨x, htake⟩ := hcrowd.takeLine_frame (id := (copyReq a b).id) (ctx := (copyReq a b).ctx) (ringPlace_loc hb) (.inl rfl)
  rw [htake] at htaken
  have hpage : ((copyState (ringPlace a).slice (lineOf (ringPlace b).loc) a b).updM (fun m => m.l2Set x)).m.CopyPage := ⟨rfl, rfl⟩
  have hplace := hpage.engPlace a b (c := a) (by omega)
  rw [exec_engineLineWrite_issue (copyState_reqAt _ _ _ _) rfl rfl (copyState_engErr _ _ ha hb) (copyState_engineWaits _ _ _ _ _) (copyState_engOwns _ _ _ hb)
    (copyState_owned _ _ _ _ _) rfl ht, htake, State.hintSources_byte (copyReq_pieces (by omega) (by omega)) (by rwa [addrOf_toNat (by omega)]) (ringPlace_loc ha)]
  exact htaken.bringLine rfl _ rfl hne hset _ _

/--
Refutes O33: where L2 lists the destination line of an XCOPY sixteen times in the slice of its source, whose line has the same set, the request owns the first entry of its
destination line and loses it when its source is brought into L2.
-/
theorem not_streamerWork : ¬ Obligations.StreamerWork := by
  intro h
  obtain ⟨i, j, hi, hj, hij, hset⟩ := ringPlace_collision
  have ha : 128 * i < 262140 := by omega
  have hb : 128 * j < 262140 := by omega
  have hne : lineOf (ringPlace (128 * i)).loc ≠ lineOf (ringPlace (128 * j)).loc := fun he => hij (ringPlace_line_inj (by omega) (by omega) he)
  obtain ⟨hissue, -⟩ := h _ 1 _ (copyState_reqAt (ringPlace (128 * i)).slice (lineOf (ringPlace (128 * j)).loc) (128 * i) (128 * j))
  rw [copyState_engOwns _ _ _ hb] at hissue
  obtain ⟨u, -, -, ht, howned, -⟩ := hissue rfl rfl (copyState_engErr _ _ ha hb) (copyState_engineWaits _ _ _ _ _) (copyState_free _ _ _ hb) rfl
  obtain ⟨hgone, hfar⟩ := copyState_issued ha hb hne hset.symm ht
  rcases howned _ (List.mem_singleton.mpr rfl) with ⟨-, x, hx, -⟩ | hout
  · exact absurd (hgone.symm.trans hx) (by simp)
  · exact List.not_mem_nil (hfar ▸ hout)

end Sys2Proof.Machine
end

section
/-!
The tiles of the cross-lane instructions (05 R159): the executing lanes of a tile in ascending order, the positions that a bit set of a tile names,
and the lane that a position stands for.
-/
namespace Sys2Proof.Machine

theorem Warp.tileWidth_pos (w : Warp) : 0 < w.tileWidth := Nat.two_pow_pos _

theorem tileBase_eq (w l : Nat) : tileBase w l = laneBase w l := by
  have := Nat.div_add_mod' l w
  unfold tileBase laneBase
  omega

/-- Lanes of one tile are those with the same quotient by its width. -/
theorem laneBase_eq_iff {w : Nat} (hw : 0 < w) {m l : Nat} : laneBase w m = laneBase w l ↔ m / w = l / w := by
  rw [← tileBase_eq, ← tileBase_eq]
  exact Nat.mul_left_inj hw.ne'

theorem mem_tileLanes {w : Nat} (hw : 0 < w) {m l : Nat} : m ∈ tileLanes w l ↔ m / w = l / w := by
  simp only [tileLanes, tileBase, List.mem_map, List.mem_range]
  constructor
  · rintro ⟨a, ha, rfl⟩
    rw [Nat.add_comm, Nat.add_mul_div_right _ _ hw, Nat.div_eq_of_lt ha, Nat.zero_add]
  · intro h
    exact ⟨m % w, Nat.mod_lt _ hw, by rw [← h]; exact Nat.div_add_mod' m w⟩

theorem mem_tileExec {w : Nat} (hw : 0 < w) {g : Lanes} {m l : Nat} : m ∈ tileExec w g l ↔ m / w = l / w ∧ g.getLsbD m = true := by
  rw [tileExec, List.mem_filter, mem_tileLanes hw]

theorem tileExec_sortedLT (w : Nat) (g : Lanes) (l : Nat) : (tileExec w g l).SortedLT := by
  refine List.Pairwise.sortedLT (List.Pairwise.filter _ (List.pairwise_map.mpr ?_))
  exact List.pairwise_lt_range.imp (fun h => Nat.add_lt_add_left h _)

/-- The executing lanes of a lane's tile, picked from all lanes of a warp: lanes above the warp's never execute. -/
theorem tileExec_eq {w : Nat} (hw : 0 < w) (g : Lanes) (l : Nat) :
    tileExec w g l = (List.range 32).filter (fun m => g.getLsbD m && laneBase w m == laneBase w l) := by
  refine (tileExec_sortedLT w g l).eq_of_mem_iff (List.Pairwise.sortedLT (List.pairwise_lt_range.filter _)) fun m => ?_
  rw [mem_tileExec hw, List.mem_filter, List.mem_range, Bool.and_eq_true, beq_iff_eq, laneBase_eq_iff hw]
  exact ⟨fun ⟨ht, hg⟩ => ⟨Lanes.lt hg, hg, ht⟩, fun ⟨_, hg, ht⟩ => ⟨ht, hg⟩⟩

/-- A lane of a tile stands at its number in it. -/
theorem sub_tileBase {w : Nat} {m l : Nat} (h : m / w = l / w) : m - tileBase w l = inTile w m := by
  have := Nat.div_add_mod' m w
  rw [tileBase, ← h, inTile]
  omega

/-! Bit sets of positions (05 R162, R164). -/

/-- The word with the bits of an ascending list set is the sum of their powers of two. -/
theorem ofBits_eq_sum (n : Nat) {ks : List Nat} (h : ks.SortedLT) : ofBits n ks = BitVec.ofNat n (ks.map (2 ^ ·)).sum := by
  refine BitVec.eq_of_getLsbD_eq fun i hi => ?_
  rw [getLsbD_ofBits, BitVec.getLsbD_ofNat, decide_eq_true hi, Bool.true_and, Bool.true_and, Bool.eq_iff_iff, List.contains_iff_mem, ← Nat.mem_bitIndices,
    Nat.bitIndices_sum_map_two_pow h]

/-- Adding the powers of the elements that a test accepts adds those of the filtered list. -/
theorem foldl_add_ite {α : Type} (xs : List α) (p : α → Prop) [DecidablePred p] (h : α → Nat) (z : Nat) :
    xs.foldl (fun acc x => if p x then acc + h x else acc) z = z + ((xs.filter p).map h).sum := by
  induction xs generalizing z with
  | nil => rfl
  | cons x xs ih =>
    by_cases hx : p x <;> simp [ih, hx, Nat.add_assoc]

/-- The positions of the lanes of a tile that a test accepts, as bits of a word. -/
theorem ofBits_positions {w : Nat} (hw : 0 < w) (g : Lanes) (l : Nat) (p : Nat → Prop) [DecidablePred p] :
    ofBits 32 (((tileExec w g l).filter p).map (· - tileBase w l)) =
      (BitVec.ofNat 64 ((tileExec w g l).foldl (fun acc m => if p m then acc + 2 ^ inTile w m else acc) 0)).setWidth 32 := by
  have htile : ∀ m ∈ (tileExec w g l).filter p, m / w = l / w := fun m hm => ((mem_tileExec hw).mp (List.mem_filter.mp hm).1).1
  have hsorted : (((tileExec w g l).filter p).map (inTile w)).SortedLT := by
    refine List.Pairwise.sortedLT (List.pairwise_map.mpr ?_)
    refine ((tileExec_sortedLT w g l).pairwise.filter _).imp_of_mem fun {a b} ha hb hlt => ?_
    rw [← sub_tileBase (htile a ha), ← sub_tileBase (htile b hb)]
    have := Nat.div_mul_le_self a w
    rw [htile a ha] at this
    unfold tileBase
    omega
  rw [List.map_congr_left fun m hm => sub_tileBase (htile m hm), ofBits_eq_sum _ hsorted, foldl_add_ite, BitVec.setWidth_ofNat_of_le (by decide),
    Nat.zero_add, List.map_map]
  rfl

/-! The lane that a lane reads (05 R159, R160, R165). -/

/-- A position counted from 0 is taken modulo the width. -/
theorem tilePos_natCast (w l n : Nat) : tilePos w l (n : Int) = laneBase w l + n % w := by
  rw [tilePos, tileBase_eq]
  rfl

/-- A position counted down from a lane's own is the same with enough widths added. -/
theorem tilePos_sub {w : Nat} (hw : 0 < w) (l i : Nat) {n : Nat} (hn : n < 32) : tilePos w l ((i : Int) - n) = laneBase w l + (i + 32 * w - n) % w := by
  rw [← tilePos_natCast, tilePos, tilePos, Nat.cast_sub (by omega)]
  push_cast
  rw [show (i : Int) + 32 * w - n = i - n + 32 * w by ring, Int.add_mul_emod_self_right]

/-- The largest of an ascending list, from a number at most as large. -/
theorem foldl_max_eq_getLast {xs : List Nat} {a : Nat} (h : (a :: xs).Pairwise (· ≤ ·)) : xs.foldl max a = xs.getLast?.getD a := by
  induction xs generalizing a with
  | nil => rfl
  | cons x xs ih =>
    obtain ⟨hax, hxs⟩ := List.pairwise_cons.mp h
    rw [List.foldl_cons, max_eq_right (hax x List.mem_cons_self), ih hxs, List.getLast?_cons]
    rfl

/-- A number at most as large as all of a list is the least. -/
theorem foldl_min_eq_self {xs : List Nat} {a : Nat} (h : ∀ x ∈ xs, a ≤ x) : xs.foldl min a = a := by
  induction xs with
  | nil => rfl
  | cons x xs ih =>
    rw [List.foldl_cons, min_eq_left (h x List.mem_cons_self), ih fun y hy => h y (List.mem_cons_of_mem _ hy)]

/-- The lane that BCAST reads is the last or the first executing one of the tile. -/
theorem bcastLane_eq {w : Nat} (hw : 0 < w) {g : Lanes} (high : Bool) {l : Nat} (hl : g.getLsbD l = true) :
    bcastLane w g high l = if high = true then (tileExec w g l).foldl max 0 else (tileExec w g l).foldl min 32 := by
  have hsort := (tileExec_sortedLT w g l).pairwise
  have hlt : ∀ m ∈ tileExec w g l, m < 32 := fun m hm => Lanes.lt ((mem_tileExec hw).mp hm).2
  have hmem : l ∈ tileExec w g l := (mem_tileExec hw).mpr ⟨rfl, hl⟩
  rw [bcastLane]
  generalize tileExec w g l = ex at hsort hlt hmem
  cases high with
  | true =>
    rw [if_pos rfl, if_pos rfl, foldl_max_eq_getLast (List.pairwise_cons.mpr ⟨fun _ _ => Nat.zero_le _, hsort.imp Nat.le_of_lt⟩)]
    obtain ⟨x, hx⟩ := Option.isSome_iff_exists.mp (List.getLast?_isSome.mpr (List.ne_nil_of_mem hmem))
    rw [hx]
    rfl
  | false =>
    obtain ⟨x, xs, rfl⟩ := List.exists_cons_of_ne_nil (List.ne_nil_of_mem hmem)
    rw [if_neg Bool.false_ne_true, if_neg Bool.false_ne_true, List.foldl_cons, min_eq_right (hlt x List.mem_cons_self).le,
      foldl_min_eq_self fun y hy => ((List.pairwise_cons.mp hsort).1 y hy).le]
    rfl

end Sys2Proof.Machine
end

section
/-!
The cross-lane instructions that write every executing lane (05 R160, R162-R165): each one's effect is its form's.
-/
namespace Sys2Proof.Machine

/-! Reads of the state in which an effect acts. -/

@[simp] theorem State.csr_consumed (s : State) (i : Instr) : (s.consumed i).w.csr = s.w.csr := by
  obtain ⟨a, h⟩ := s.consumed_eq i
  rw [h]

@[simp] theorem State.tileWidth_consumed (s : State) (i : Instr) : (s.consumed i).w.tileWidth = s.w.tileWidth := by
  simp [Warp.tileWidth]

@[simp] theorem State.shflSrc_consumed (s : State) (i : Instr) (f : Fields) (l : Nat) : (s.consumed i).shflSrc f l = s.shflSrc f l := by
  simp [State.shflSrc]

@[simp] theorem State.tileVals_consumed (s : State) (i : Instr) (f : Fields) (w : Nat) (g : Lanes) (l : Nat) :
    (s.consumed i).tileVals f w g l = s.tileVals f w g l := by
  simp [State.tileVals]

@[simp] theorem State.laneMode_consumed (s : State) (i : Instr) (f : Fields) : (s.consumed i).laneMode f = s.laneMode f := by
  simp [State.laneMode]

/-! One value a lane. -/

/-- What is written depends on the values of the executing lanes alone. -/
theorem Ctx.lanesW_congr (c : Ctx) (wide signed : Bool) (s : State) {h k : Nat → W64} (hk : ∀ l, c.g.getLsbD l = true → h l = k l) :
    c.lanesW wide signed s h = c.lanesW wide signed s k := by
  have hmap : ∀ {α : Type} (z : W64 → α), (bitList c.g).map (fun l => (l, z (h l))) = (bitList c.g).map (fun l => (l, z (k l))) :=
    fun z => List.map_congr_left fun l hl => by rw [hk l (mem_bitList.mp hl)]
  cases wide with
  | true => exact congrArg (fun vals => c.put64 vals { st := s }) (hmap (fun x => x))
  | false => exact congrArg (fun vals => c.put32 signed vals { st := s }) (hmap (fun x => x.setWidth 32))

/-- A 32-bit result a lane, as one of the 64 bits of a form. -/
theorem Ctx.lanes32_eq_lanesW (c : Ctx) (signed : Bool) (s : State) {h : Nat → W32} {k : Nat → W64} (hk : ∀ l, h l = (k l).setWidth 32) :
    c.lanes32 signed s h = c.lanesW false signed s k := by
  rw [Ctx.lanesW, if_neg Bool.false_ne_true, funext hk]

/-- A form without flags, where the effect writes its values in the executing lanes. -/
theorem LaneForm.isEffect_of_lanesW {r : LaneForm} {i : Instr} {eff : Ctx → State → Eff} {s : State} {val : Nat → W64} (hfl : r.flags (s.ctxOf i) s = 0)
    (heff : eff (s.ctxOf i) (s.consumed i) = (s.ctxOf i).lanesW r.wide r.signed (s.consumed i) val)
    (hval : ∀ l, (s.ctxOf i).g.getLsbD l = true → val l = r.val (s.ctxOf i) s l) : r.IsEffect i eff s := by
  rw [LaneForm.IsEffect, hfl, Eff.flags_zero, heff, Ctx.lanesW_congr _ _ _ _ hval]

/-- The lane that SHFL reads is the position of its rule (05 R160). -/
theorem shflLane_eq {w : Nat} (hw : 0 < w) (sub l : Nat) {n : Nat} (hn : n < 32) :
    shflLane sub w l n = laneBase w l + (match sub with
      | 0 => n % w
      | 1 => (inTile w l + 32 * w - n) % w
      | 2 => (inTile w l + n) % w
      | _ => (inTile w l ^^^ n) % w) := by
  match sub with
  | 0 => exact tilePos_natCast w l n
  | 1 => exact tilePos_sub hw l (inTile w l) hn
  | 2 => exact tilePos_natCast w l (inTile w l + n)
  | _ + 3 => exact tilePos_natCast w l (inTile w l ^^^ n)

/-- The word of VOTE in a lane (05 R162), over the executing lanes of its tile. -/
theorem voteWord_eq {w : Nat} (hw : 0 < w) (g : Lanes) (l sub : Nat) (p : Nat → Bool) :
    (match sub with
      | 0 => if (tileExec w g l).all p then 1 else 0
      | 1 => if (tileExec w g l).any p then 1 else 0
      | _ => ofBits 32 (((tileExec w g l).filter p).map (· - tileBase w l)) : W32) =
    (match sub with
      | 0 => if (tileExec w g l).all p then 1 else 0
      | 1 => if (tileExec w g l).any p then 1 else 0
      | _ => BitVec.ofNat 64 ((tileExec w g l).foldl (fun acc m => if p m then acc + 2 ^ inTile w m else acc) 0) : W64).setWidth 32 := by
  match sub with
  | 0 => cases (tileExec w g l).all p <;> rfl
  | 1 => cases (tileExec w g l).any p <;> rfl
  | _ + 2 =>
    have h := ofBits_positions hw g l (fun m => p m = true)
    simpa using h

/-- A tree result a lane, as the values and flags of a form (05 R163). -/
theorem redEff_eq (f : Fields) (c : Ctx) (s : State) (h : Nat → W32 × BitVec 5) :
    redEff f c s h = (c.lanesW false (f.sub.toNat ≤ 2) s (fun l => (h l).1.setWidth 64)).flags (laneFlags c.g (fun l => (h l).2)) := by
  rw [redEff, Ctx.lanes32_eq_lanesW c _ s (k := fun l => (h l).1.setWidth 64) fun l => by simp]
  rfl

/-- Every cross-lane instruction that writes every executing lane has the effect of its form. -/
theorem crossForm_effect {i : Instr} {r : LaneForm} (h : crossForm i = some r) (s : State) :
    ∃ ent f pl eff, opEntry i = some (ent, f) ∧ r.dest = f.d ∧ exec i s = nextOf (runWarp i pl eff s) ∧ r.IsEffect i eff s := by
  have hw := s.w.tileWidth_pos
  cases i
  case shfl f =>
    cases h
    refine ⟨_, f, _, _, rfl, rfl, rfl, LaneForm.isEffect_of_lanesW rfl rfl fun l _ => ?_⟩
    rw [State.readW_consumed, State.shflSrc_consumed, State.shflSrc, shflLane_eq hw _ _ (Nat.mod_lt _ (by decide))]
    rfl
  case vote f =>
    cases h
    refine ⟨_, f, _, _, rfl, rfl, rfl,
      LaneForm.isEffect_of_lanesW rfl (Ctx.lanes32_eq_lanesW _ _ _ fun l => voteWord_eq (Warp.tileWidth_pos _) ..) fun l _ => ?_⟩
    simp only [State.tileWidth_consumed, State.read32_consumed, tileExec_eq hw] <;> rfl
  case scanOp f =>
    cases h
    refine ⟨_, f, _, _, rfl, rfl, rfl, (redEff_eq ..).trans ?_⟩
    simp only [State.laneMode_consumed, State.csr_consumed, State.tileVals_consumed, State.tileWidth_consumed]
    rfl
  case redl f =>
    cases h
    refine ⟨_, f, _, _, rfl, rfl, rfl, (redEff_eq ..).trans ?_⟩
    simp only [State.laneMode_consumed, State.csr_consumed, State.tileVals_consumed, State.tileWidth_consumed]
    rfl
  case matchOp f =>
    cases h
    refine ⟨_, f, _, _, rfl, rfl, rfl,
      LaneForm.isEffect_of_lanesW rfl (Ctx.lanes32_eq_lanesW _ _ _ fun l => ofBits_positions (Warp.tileWidth_pos _) ..) fun l _ => ?_⟩
    simp only [State.tileWidth_consumed, State.readW_consumed, tileExec_eq hw]
  case bcast f =>
    cases h
    refine ⟨_, f, _, _, rfl, rfl, rfl, LaneForm.isEffect_of_lanesW rfl rfl fun l hl => ?_⟩
    rw [State.readW_consumed, State.tileWidth_consumed, bcastLane_eq hw _ hl, tileExec_eq hw]
    simp [LaneForm.ofW, State.readW]
  all_goals cases h

/-- It completes with the values and the flags of its form. -/
theorem crossForm_done {i : Instr} {r : LaneForm} {s : State} (h : crossForm i = some r) (hc : s.clear i = true) (ha : r.agrees i s = true) :
    ∃ t, exec i s = .next t ∧ r.Done i s t := by
  obtain ⟨ent, f, pl, eff, he, hd, hx, heff⟩ := crossForm_effect h s
  exact ⟨_, hx, LaneForm.done_of_effect pl he hd heff hc ha⟩

end Sys2Proof.Machine
end

section
/-!
The cross-lane instructions in which some executing lanes receive a value (05 R159, R161, R166): what is written to the lanes that have one, and when a
scalar destination takes it.
-/
namespace Sys2Proof.Machine

/-- The lanes of a set that receive a value, where a function gives the lane that each receives from. -/
def receivers (g : Lanes) (src : Nat → Option Nat) : Lanes := ofBits 32 ((bitList g).filter (fun l => (src l).isSome))

theorem bitList_ofBits_filter (g : Lanes) (p : Nat → Bool) : bitList (ofBits 32 ((bitList g).filter p)) = (bitList g).filter p := by
  rw [bitList, bitList, List.filter_filter]
  refine List.filter_congr fun l hl => ?_
  rw [Bool.eq_iff_iff, getLsbD_ofBits, decide_eq_true (List.mem_range.mp hl), Bool.true_and, List.contains_iff_mem, List.mem_filter, and_iff_right hl]

/-- The values of the lanes that receive one. -/
theorem filterMap_receivers (g : Lanes) (src : Nat → Option Nat) (val : Nat → W64) :
    (bitList g).filterMap (fun l => (src l).map (fun m => (l, val m))) = (bitList (receivers g src)).map (fun l => (l, val ((src l).getD 0))) := by
  rw [receivers, bitList_ofBits_filter]
  induction bitList g with
  | nil => rfl
  | cons l ls ih => cases hl : src l <;> simp [hl, ih]

/-- Of the lanes of a set, those that receive a value are all if they are as many. -/
theorem receivers_eq_of_length {g : Lanes} {src : Nat → Option Nat} (h : (bitList (receivers g src)).length = (bitList g).length) : receivers g src = g := by
  have hall : (bitList g).filter (fun l => (src l).isSome) = bitList g := by
    rw [receivers, bitList_ofBits_filter] at h
    exact List.filter_sublist.eq_of_length h
  refine BitVec.eq_of_getLsbD_eq fun l hl => ?_
  rw [receivers, hall, getLsbD_ofBits, decide_eq_true hl, Bool.true_and, Bool.eq_iff_iff, List.contains_iff_mem, mem_bitList]

/-- A destination takes values for some executing lanes: a vector or ZERO always, a scalar where none has one, or all do and agree (05 R159; log entry 72). -/
def Ctx.takes (c : Ctx) (got : Lanes) (wide : Bool) (val : Nat → W64) : Bool :=
  !isScalar c.f.d || got == 0 || (got == c.g && ({ c with g := got } : Ctx).agrees c.f.d wide val)

/-- No value at all: nothing is written. -/
theorem Ctx.someW_nil (c : Ctx) (wide : Bool) (s : State) : c.someW wide s [] = .ok { st := s } := by
  cases hd : c.f.d <;> cases wide <;> simp [Ctx.someW, Ctx.put64, Ctx.put32, Ctx.putTo, hd, agree]

/-- A value for every executing lane: a result a lane. -/
theorem Ctx.someW_all (c : Ctx) (wide : Bool) (s : State) (val : Nat → W64) :
    c.someW wide s ((bitList c.g).map (fun l => (l, val l))) = c.lanesW wide false s val := by
  cases wide <;> simp [Ctx.someW, Ctx.lanesW, Ctx.lanes64, Ctx.lanes32, Function.comp_def]

/-- Values for some lanes are written as if these were the executing ones, where the destination takes them. -/
theorem Ctx.someW_of_takes {c : Ctx} {got : Lanes} {wide : Bool} {val : Nat → W64} (s : State) (hne : got ≠ 0) (h : c.takes got wide val = true) :
    c.someW wide s ((bitList got).map (fun l => (l, val l))) = ({ c with g := got } : Ctx).lanesW wide false s val ∧
      ({ c with g := got } : Ctx).agrees c.f.d wide val = true := by
  simp only [Ctx.takes, Bool.or_eq_true, Bool.and_eq_true, beq_iff_eq, hne, or_false, Bool.not_eq_true'] at h
  cases hd : c.f.d with
  | s d =>
    obtain ⟨rfl, ha⟩ := h.resolve_left (by simp [hd, isScalar])
    exact ⟨c.someW_all wide s val, hd ▸ ha⟩
  | v _ | sp _ =>
    refine ⟨?_, rfl⟩
    cases wide <;> simp [Ctx.someW, Ctx.lanesW, Ctx.lanes64, Ctx.lanes32, Ctx.put64, Ctx.put32, Ctx.putTo, hd, Function.comp_def]

/-- Values that a scalar does not take: NONUNIFORM. -/
theorem Ctx.someW_of_not_takes {c : Ctx} {src : Nat → Option Nat} {wide : Bool} {val : Nat → W64} (s : State) (hg : c.g ≠ 0)
    (h : c.takes (receivers c.g src) wide val = false) :
    c.someW wide s ((bitList (receivers c.g src)).map (fun l => (l, val l))) = c.whole 0x03 0 := by
  simp only [Ctx.takes, Bool.or_eq_false_iff, Bool.not_eq_false', beq_eq_false_iff_ne] at h
  obtain ⟨⟨hs, hne⟩, hall⟩ := h
  obtain ⟨d, hd⟩ : ∃ d, c.f.d = .s d := by cases hd : c.f.d <;> simp [hd, isScalar] at hs ⊢
  by_cases he : receivers c.g src = c.g
  · rw [he, beq_self_eq_true, Bool.true_and] at hall
    rw [he, Ctx.someW_all, Ctx.lanesW_disagree c wide false s val hg hall]
  · have hlen : (bitList (receivers c.g src)).length ≠ (bitList c.g).length := fun hl => he (receivers_eq_of_length hl)
    simp [Ctx.someW, hd, hlen, bitList_ne_nil hne]

/-- Some lane executes an instruction with nothing in its way. -/
theorem State.ctxOf_lanes_ne {s : State} {i : Instr} {ent : OpEntry} {f : Fields} (he : opEntry i = some (ent, f)) (h : s.clear i = true) :
    (s.ctxOf i).g ≠ 0 := by
  rw [State.ctxOf_eq he]
  exact (State.clear_facts he h).lanes

/-- An instruction with nothing in its way whose effect leaves values for registers: they are written, its lanes pass, and the rest is as it was. -/
theorem runWarp_values {s : State} {i : Instr} {ent : OpEntry} {f : Fields} {pl : Plan} {eff : Ctx → State → Eff} {vv : List (Nat × W32)}
    {sv : List (Nat × W64)} (he : opEntry i = some (ent, f)) (h : s.clear i = true)
    (heff : eff (s.ctxOf i) (s.consumed i) = .ok { st := s.consumed i, vv := vv, sv := sv }) :
    let t := runWarp i pl eff s
    t.w.v = s.w.v.setMany vv ∧ t.w.s = s.w.s.setMany sv ∧ (s.ctxOf i).Went s t ∧ OnlyRegisters s t := by
  obtain ⟨a, hc⟩ := s.consumed_eq i
  obtain ⟨hv, hs, hpassed, hspent, honly⟩ := finish_lanesW (s := s) (ent := ent) (f := f) pl.lat (s.consumed i) vv sv ⟨a, 0, by rw [hc]; simp⟩
  rw [runWarp_of_ok h heff, State.ctxOf_eq he]
  obtain ⟨-, hkv, hks⟩ := s.issueAt_consumed i
  exact ⟨hkv ▸ hv, hks ▸ hs, ⟨hpassed, hspent⟩, .of_consumed honly⟩

/-- An instruction that gives some of its executing lanes a value completes, or raises NONUNIFORM where a scalar destination does not take them. -/
theorem exec_someW {s : State} {i : Instr} {ent : OpEntry} {f : Fields} {pl : Plan} {eff : Ctx → State → Eff} {wide : Bool} {src : Nat → Option Nat}
    {val : Nat → W64} (he : opEntry i = some (ent, f)) (hx : exec i s = nextOf (runWarp i pl eff s)) (h : s.clear i = true)
    (heff : eff (s.ctxOf i) (s.consumed i) =
      (s.ctxOf i).someW wide (s.consumed i) ((bitList (s.ctxOf i).g).filterMap (fun l => (src l).map (fun m => (l, val m))))) :
    let c := s.ctxOf i
    let got := receivers c.g src
    let given (l : Nat) : W64 := val ((src l).getD 0)
    if c.takes got wide given then
      ∃ t, exec i s = .next t ∧ c.Went s t ∧ OnlyRegisters s t ∧
        (if got = 0 then t.w.v = s.w.v ∧ t.w.s = s.w.s else ({ c with g := got } : Ctx).Holds s t c.f.d wide false given)
    else exec i s = .next (s.raise (c.info 0x03 0 c.g 0)) := by
  intro c got given
  rw [filterMap_receivers] at heff
  by_cases htake : c.takes got wide given = true
  · rw [if_pos htake]
    refine ⟨_, hx, ?_⟩
    by_cases hgot : got = 0
    · rw [if_pos hgot]
      rw [show receivers (s.ctxOf i).g src = 0 from hgot] at heff
      obtain ⟨hv, hs, hwent, honly⟩ := runWarp_values (pl := pl) he h (heff.trans (Ctx.someW_nil ..))
      exact ⟨hwent, honly, hv, hs⟩
    · rw [if_neg hgot]
      obtain ⟨hsome, hagree⟩ := Ctx.someW_of_takes (s.consumed i) hgot htake
      obtain ⟨vv, sv, hok, hholds⟩ := Ctx.lanesW_ok { c with g := got } wide false (s.consumed i) given hgot hagree
      obtain ⟨hv, hs, hwent, honly⟩ := runWarp_values (pl := pl) he h (heff.trans (hsome.trans hok))
      obtain ⟨-, hkv, hks⟩ := s.issueAt_consumed i
      exact ⟨hwent, honly, hholds s _ hkv.symm hks.symm (hkv.symm ▸ hv) (hks.symm ▸ hs)⟩
  · rw [if_neg htake, hx]
    have hwhole := Ctx.someW_of_not_takes (s.consumed i) (State.ctxOf_lanes_ne he h) (Bool.not_eq_true _ ▸ htake)
    exact congrArg Host.Outcome.next (runWarp_of_fault h (heff.trans hwhole) (by decide : (3#8 : BitVec 8) ≠ 0))

/-- The lane whose value SHPUSH or COMPACT gives a lane (05 R161, R166): the highest-numbered executing lane of its tile that names its position, or, of those
whose bit of B is 1 in ascending order, the one at its position. -/
def State.givenFrom (s : State) (push : Bool) (f : Fields) (g : Lanes) (l : Nat) : Option Nat :=
  let w := s.w.tileWidth
  let ex (l : Nat) : List Nat := (List.range 32).filter (fun m => g.getLsbD m && laneBase w m == laneBase w l)
  if push then ((ex l).filter (fun m => (s.read32 f.b m).toNat % 32 % w == inTile w l)).getLast?
  else ((ex l).filter (fun m => (s.read32 f.b m).getLsbD (f.modBits 4 0)))[inTile w l]?

/-- Of the executing lanes of a lane's tile, those that name the lane are those that name its position. -/
theorem filter_tilePos_eq {w : Nat} (hw : 0 < w) (g : Lanes) (l : Nat) (n : Nat → Nat) :
    (tileExec w g l).filter (fun m => tilePos w m (n m : Int) == l) = (tileExec w g l).filter (fun m => n m % w == inTile w l) := by
  refine List.filter_congr fun m hm => ?_
  have htile : laneBase w m = laneBase w l := (laneBase_eq_iff hw).mpr ((mem_tileExec hw).mp hm).1
  have hmod : l % w ≤ l := Nat.mod_le l w
  rw [Bool.eq_iff_iff, beq_iff_eq, beq_iff_eq, tilePos_natCast, htile, laneBase, inTile]
  omega

/-- What SHPUSH and COMPACT write: the value of A in the lane that a lane receives from. -/
def Ctx.gives (c : Ctx) (push : Bool) (s s' : State) (f : Fields) : Eff :=
  c.someW (f.sub = 1) s' ((bitList c.g).filterMap (fun l => (s.givenFrom push f c.g l).map (fun m => (l, s.readW (f.sub = 1) f.a m))))

/-- SHPUSH has that effect. -/
theorem execShpush_gives (f : Fields) (s : State) : ∃ pl eff, exec (.shpush f) s = nextOf (runWarp (.shpush f) pl eff s) ∧
    eff (s.ctxOf (.shpush f)) (s.consumed (.shpush f)) = (s.ctxOf (.shpush f)).gives true s (s.consumed (.shpush f)) f := by
  refine ⟨_, _, rfl, ?_⟩
  simp only [State.tileWidth_consumed, State.read32_consumed, State.readW_consumed, filter_tilePos_eq s.w.tileWidth_pos]
  simp only [tileExec_eq s.w.tileWidth_pos]
  rfl

/-- COMPACT has that effect. -/
theorem execCompact_gives (f : Fields) (s : State) : ∃ pl eff, exec (.compact f) s = nextOf (runWarp (.compact f) pl eff s) ∧
    eff (s.ctxOf (.compact f)) (s.consumed (.compact f)) = (s.ctxOf (.compact f)).gives false s (s.consumed (.compact f)) f := by
  refine ⟨_, _, rfl, ?_⟩
  simp only [State.chosen, State.tileWidth_consumed, State.read32_consumed, State.readW_consumed, tileExec_eq s.w.tileWidth_pos]
  rfl

/-- Settles O11: the instructions that write every executing lane through their forms' effects; SHPUSH and COMPACT as writes to the lanes that receive. -/
theorem crossLaneResults : Obligations.CrossLaneResults := by
  refine ⟨fun i r s h hc ha => crossForm_done h hc ha, fun push f s => ?_⟩
  cases push with
  | true =>
    obtain ⟨_, _, hx, heff⟩ := execShpush_gives f s
    exact fun hc => exec_someW rfl hx hc heff
  | false =>
    obtain ⟨_, _, hx, heff⟩ := execCompact_gives f s
    exact fun hc => exec_someW rfl hx hc heff

end Sys2Proof.Machine
end

section
/-!
A FENCE of a warp whose name is that of no warp (06 R189; 07 R207): what refutes O24.
-/
namespace Sys2Proof.Machine

/-- A FENCE at scope M. -/
def namelessFenceFields : Fields := { noFields with slot := 7, sub := 5 }

/-- A warp of context 3, in slot 0 of core 0, that bears the name which stands for no warp. -/
def namelessWarp : Warp := { Warp.reset with live := true, active := true, ctx := 3, ref := WRef.none }

/-- The line that holds locations 128 to 255 in the L1 of cluster 0, its first byte dirty by the warp of slot 0. -/
def namelessLine : L1Line :=
  { cluster := 0, line := 1, pa := 128, data := 0, valid := 1, dirty := 1, poison := 0, dirtying := 1, slice := 0, leaseEnd := 0, leaseScope := 0
    cls := 0, ctx := 3, key := 0, cover := none }

/-- The warp, and the dirty line; no message is on its way. -/
def namelessState : State := { State.reset with w := namelessWarp, m := { MemSys.reset with l1 := [namelessLine] } }

theorem namelessState_clear : namelessState.clear (.fence namelessFenceFields) = true := by decide +kernel

/-- The line is the warp's own, under the wide scope. -/
theorem namelessLine_own : 2 ≤ namelessFenceFields.sub.toNat ∧ namelessState.w.onStackCore = false ∧ namelessLine.cluster = namelessState.w.cl ∧
    namelessLine.dirtying.getLsbD (slotBit namelessState.w.id) = true := by decide +kernel

/-- The warps that a write raises the HORIZON of. -/
def Msg.writersOf (g : Msg) : List WRef :=
  match g.kind with
  | .write _ _ _ _ ws _ => ws
  | .fill .. => []
  | .read .. => []
  | .atomic _ => []
  | .act _ => []

/-- No message that the FENCE sends names a writer: the one of the line drops the name of no warp. -/
theorem namelessState_fence {t : State} (h : exec (.fence namelessFenceFields) namelessState = .next t) : ∀ g ∈ t.m.msgs, g.writersOf = [] := by
  have hnone : (match exec (.fence namelessFenceFields) namelessState with | .next u => u.m.msgs.all (fun g => g.writersOf == []) | .fault _ => true | .refused _ => true) = true := by
    decide +kernel
  rw [h] at hnone
  simpa using hnone

/-- Refutes O24: in the clause of FENCE, `namelessState` holds a dirty line of the warp, whose write-back goes out with no writer, because the warp's name is `WRef.none`. -/
theorem not_cacheMaintenance : ¬ Obligations.CacheMaintenance := by
  rintro ⟨-, -, -, hfence⟩
  obtain ⟨t, hexec, -, -, -, -, -, -, -, -, -, -, hback⟩ := hfence namelessFenceFields namelessState namelessState_clear (by decide +kernel) (by decide +kernel)
  obtain ⟨g, hg, -, pz, cv, ws, mm, hkind, hwriter⟩ := hback namelessLine (List.mem_singleton.2 rfl) namelessLine_own (by decide +kernel)
  have hnone := namelessState_fence hexec g hg
  simp only [Msg.writersOf, hkind] at hnone
  exact List.not_mem_nil (hnone ▸ hwriter)

end Sys2Proof.Machine
end

section
/-!
The issue of a memory instruction (06 R173-R194) whose effect changes the memory system alone, and the fence part of a release (06 R176, R189).
-/
namespace Sys2Proof.Machine

/-- An instruction with nothing in its way whose effect leaves the warp alone and may leave an operation. -/
theorem runWarp_memory {s u : State} {i : Instr} {pl : Plan} {eff : Ctx → State → Eff} {op : Option Op} (hclear : s.clear i = true) (hlat : pl.lat = .later)
    (heff : eff (s.ctxOf i) (s.consumed i) = .ok { st := u, op := op }) (honly : OnlyMemory (s.consumed i) u) (hw : u.w = (s.consumed i).w) :
    let t := runWarp i pl eff s
    (s.ctxOf i).Went s t ∧ WarpKept s t ∧ OnlyMemory s t ∧ t.m = u.m ∧ ∀ o, op = some o → t.w.ops.getLast? = some o := by
  obtain ⟨a, hcons⟩ := s.consumed_eq i
  rw [hcons] at hw honly
  obtain ⟨hwent, hfin, hm, hkept, hlast⟩ := State.finish_op_went (s := s) (u := u) i op (by rw [hw]) (by rw [hw])
  intro t
  have ht : t = (s.ctxOf i).finish .later { st := u, op := op } := by rw [← hlat]; exact runWarp_of_ok hclear heff
  rw [ht]
  refine ⟨hwent, ?_, ?_, hm, hlast⟩
  · unfold WarpKept at hkept ⊢
    rw [hkept, hw]
  · exact (show OnlyMemory s u from honly).trans hfin

/-- An instruction that issues with nothing in its way is well formed. -/
theorem State.wellFormed_of_clear {s : State} {i : Instr} {ent : OpEntry} {f : Fields} (he : opEntry i = some (ent, f)) (h : s.clear i = true) :
    i.wellFormed = true := by
  have hpre := (State.clear_facts he h).pre
  unfold preFault at hpre
  split at hpre
  · cases hpre
  · next hwf => simpa using hwf

theorem State.deferred_of_clear {s : State} {i : Instr} {ent : OpEntry} {f : Fields} (he : opEntry i = some (ent, f)) (h : s.clear i = true) : s.w.deferred = [] :=
  (State.clear_facts he h).deferred

/-- A release that is ready, with no deferred fault, does at once what follows its fence part. -/
theorem State.fencePart_of_ready {s : State} (c : Ctx) {scope scope' : Nat} (hle : scope' ≤ scope) (h : releaseReady s scope) (hdef : s.w.deferred = []) (k : Eff) :
    s.fencePart c scope' k = k := by
  obtain ⟨hwrites, hwide⟩ := h
  unfold State.fencePart
  rw [if_neg (by simp [hwrites]), if_neg, if_neg, hdef]
  · rfl
  · rintro ⟨hs, ht⟩
    exact absurd (hwide (hs.trans hle)).2 (Nat.not_le.2 ht)
  · rintro ⟨hs, hd⟩
    rw [(hwide (hs.trans hle)).1] at hd
    cases hd

theorem releaseReady_consumed {s : State} {scope : Nat} (i : Instr) (h : releaseReady s scope) : releaseReady (s.consumed i) scope := by
  obtain ⟨a, hcons⟩ := s.consumed_eq i
  rw [hcons]
  exact h

@[simp] theorem State.ea_consumed (s : State) (i : Instr) (f : Fields) (bx : Bool) (imm : W64) (l : Nat) : (s.consumed i).ea f bx imm l = s.ea f bx imm l := by
  simp [State.ea]

@[simp] theorem State.dataBytes_consumed (s : State) (i : Instr) (o : Opnd) (n l : Nat) : (s.consumed i).dataBytes o n l = s.dataBytes o n l := by
  simp [State.dataBytes]

/-- Lines that puts go to are free where the lines of their targets are. -/
theorem putLines_free {s : State} {ps : List Put} (h : ∀ x ∈ ps, ∀ p, x.tgt = .mem p → s.lineBusy (lineOf p.loc) = false) : (putLines ps).any s.lineBusy = false := by
  rw [List.any_eq_false]
  intro line hline
  obtain ⟨x, hx, hxl⟩ := List.mem_filterMap.1 (List.mem_dedup.1 hline)
  cases ha : x.tgt with
  | bank k => simp [ha] at hxl
  | mem p =>
    simp only [ha, Option.some.injEq] at hxl
    simp [← hxl, h x hx p ha]

end Sys2Proof.Machine
end

section
/-!
O21: ST with good addresses (06 R173-R179).
-/
namespace Sys2Proof.Machine

/-- The accesses of an ST and their bytes. -/
def stPuts (f : Fields) (s : State) (ls : List Nat) (a : Nat → Target) : List Put := ls.map (fun l => ⟨a l, s.dataBytes f.d (2 ^ f.subBits 2 0) l⟩)

/-- An ST whose addresses are good, free of the warp's own messages, and whose release, where it is one, is ready. -/
theorem stEff_good {f : Fields} {c : Ctx} {s : State} {a : Nat → Target} (hacq : s.w.acquiring = false) (hdef : s.w.deferred = [])
    (hgood : ∀ l ∈ bitList c.g, s.aim (2 ^ f.subBits 2 0) .write (s.ea f (f.subBits 7 7 = 1) (memImm f) l) = .ok (a l))
    (hfree : ∀ l ∈ bitList c.g, ∀ p, a l = .mem p → s.lineBusy (lineOf p.loc) = false) (hrel : f.mod = 2 → releaseReady s (f.subBits 6 4)) :
    ∃ forced vas op, stEff f c s = .ok { st := (s.touchAll vas).storePuts c.f c.id forced (stPuts f s (bitList c.g) a), op := op } := by
  have haims := c.aims_of_good s (2 ^ f.subBits 2 0) .write 1 (bitList c.g) (fun l => s.ea f (f.subBits 7 7 = 1) (memImm f) l) a hgood
  have hlines : (putLines (stPuts f s (bitList c.g) a)).any s.lineBusy = false := by
    refine putLines_free fun x hx p hp => ?_
    obtain ⟨l, hl, rfl⟩ := List.mem_map.1 hx
    exact hfree l hl p hp
  unfold stEff eaList
  dsimp only
  rw [haims]
  dsimp only
  rw [if_neg (by simp [hacq])]
  simp only [List.map_map, Function.comp_def]
  generalize allBank _ = bank
  have hput (forced : Bool) (vas : List W64) (as : List (Nat × W64 × Nat)) :
      ∃ op, (s.store c forced vas (stPuts f s (bitList c.g) a)).aimed as = .ok { st := (s.touchAll vas).storePuts c.f c.id forced (stPuts f s (bitList c.g) a), op := op } := by
    rw [State.store, if_neg (by simp [hacq, hlines])]
    exact ⟨_, rfl⟩
  have hscope : (if bank = true then min 1 (f.subBits 6 4) else f.subBits 6 4) ≤ f.subBits 6 4 := by split <;> omega
  split
  · next hmod =>
    rw [State.fencePart_of_ready c hscope (hrel hmod) hdef]
    obtain ⟨op, h⟩ := hput _ _ _
    exact ⟨_, _, op, h⟩
  · obtain ⟨op, h⟩ := hput _ _ _
    exact ⟨_, _, op, h⟩

theorem Ctx.Stores.congr {c : Ctx} {s s' t t' : State} {ps : List Put} {new : List Msg} (h : c.Stores s t ps new) (a : Store 2)
    (hs : s = { s' with w := { s'.w with arr := a } }) (hm : t'.m = t.m) : c.Stores s' t' ps new := by
  subst hs
  unfold Ctx.Stores at *
  rw [hm]
  exact h

/-- Settles O21: the effect of ST is a store of its puts, and its end changes no memory. -/
theorem storesIssue : Obligations.StoresIssue := by
  intro f s a c n hclear hacq honce hgood hfree hrel
  have he : opEntry (.st f) = some (_, f) := rfl
  obtain ⟨b, hcons⟩ := s.consumed_eq (.st f)
  have haim := s.aim_consumed (.st f)
  have hdef := State.deferred_of_clear he hclear
  obtain ⟨forced, vas, op, heff⟩ := stEff_good (f := f) (c := c) (s := s.consumed (.st f)) (a := a) (by rw [hcons]; exact hacq)
    (by rw [hcons]; exact hdef)
    (fun l hl => by rw [haim, State.ea_consumed]; exact hgood l (mem_bitList.1 hl)) (fun l hl p hp => by rw [hcons]; exact hfree l p (mem_bitList.1 hl) hp)
    (fun hmod => releaseReady_consumed _ (hrel hmod))
  obtain ⟨new, hstores, honly, hw⟩ := (s.consumed (.st f)).stores_of_storePuts c forced vas (stPuts f (s.consumed (.st f)) (bitList c.g) a) (by rw [hcons]; exact honce)
  obtain ⟨hwent, hkept, hmem, hm, -⟩ := runWarp_memory (pl := { lat := .later }) hclear rfl heff honly hw
  refine ⟨_, new, rfl, hwent, hkept, hmem, ?_⟩
  have := hstores.congr b hcons hm
  simpa only [stPuts, State.dataBytes_consumed] using this

end Sys2Proof.Machine
end

section
/-!
The pieces of a load whose lanes fill the same registers (06 R174): the registers and lanes that are outstanding, and the values that it has at once.
-/
namespace Sys2Proof.Machine

theorem dedup_flatMap_same {α β : Type} [DecidableEq α] {rs : List α} (h : rs.Nodup) {ps : List β} (hne : ps ≠ []) : (ps.flatMap (fun _ => rs)).dedup = rs := by
  induction ps with
  | nil => exact absurd rfl hne
  | cons p ps ih =>
    rw [List.flatMap_cons]
    by_cases hnil : ps = []
    · rw [hnil, List.flatMap_nil, List.append_nil, h.dedup]
    · obtain ⟨q, qs, rfl⟩ := List.exists_cons_of_ne_nil hnil
      have hsub : rs ⊆ (q :: qs).flatMap (fun _ => rs) := List.subset_append_left rs _
      rw [hsub.dedup_append_right, ih hnil]

/-- Pieces that fill the same registers. -/
theorem pieceDests_same {rs : List Nat} (hrs : rs.Nodup) {ps : List Piece} (hne : ps ≠ []) (hregs : ∀ p ∈ ps, p.regs = rs) (hlanes : ∀ p ∈ ps, p.lanes ≠ 0)
    {g : Lanes} (hg : ∀ k < 32, g.getLsbD k = ps.any (fun p => p.lanes.getLsbD k)) : pieceDests ps = rs.map (fun r => (r, g)) := by
  have hflat : ps.flatMap (fun p => if p.lanes = 0 then [] else p.regs) = ps.flatMap (fun _ => rs) :=
    List.flatMap_congr (fun p hp => by rw [if_neg (hlanes p hp), hregs p hp])
  unfold pieceDests
  dsimp only
  rw [hflat, dedup_flatMap_same hrs hne]
  refine List.map_congr_left (fun r hr => Prod.ext rfl ?_)
  ext k hk
  simp only [← BitVec.getLsbD_eq_getElem]
  rw [getLsbD_lanesOf, hg k hk]
  rw [Bool.eq_iff_iff]
  simp only [List.any_eq_true, Bool.and_eq_true]
  exact exists_congr fun p => and_congr_right fun hp => and_iff_right (by rw [hregs p hp]; exact List.contains_iff_mem.2 hr)

/-- The value at a key that only equal values have. -/
theorem find?_key_unique {α : Type} {xs : List (Nat × α)} {k : Nat} {v : α} (hmem : (k, v) ∈ xs) (huniq : ∀ q ∈ xs, q.1 = k → q.2 = v) :
    (xs.find? (fun q => q.1 == k)).map Prod.snd = some v := by
  cases h : xs.find? (fun q => q.1 == k) with
  | none => exact absurd (List.find?_eq_none.1 h _ hmem) (by simp)
  | some q => rw [Option.map_some, huniq q (List.mem_of_find?_eq_some h) (by simpa using List.find?_some h)]

/-! The pieces of LD and LDU. -/

/-- The number that a piece makes of the bytes read, extended as the form says. -/
def loadNum (f : Fields) (x : Nat) : Nat :=
  if f.subBits 3 3 = 1 ∧ 2 ^ (8 * 2 ^ f.subBits 2 0 - 1) ≤ x then x + (2 ^ 64 - 2 ^ (8 * 2 ^ f.subBits 2 0)) else x

section
variable {f : Fields} {d : Nat} (lanes : Lanes) (va : W64)

theorem loadPieceOf_size : (loadPieceOf f lanes va).size = 2 ^ f.subBits 2 0 := by unfold loadPieceOf; cases f.d <;> rfl

theorem loadPieceOf_regs_vector (hd : f.d = .v d) : (loadPieceOf f lanes va).regs = (List.range ((2 ^ f.subBits 2 0 + 3) / 4)).map (fun j => d + j) := by
  simp [loadPieceOf, hd, Piece.regs]

theorem loadPieceOf_regs_scalar (hd : f.d = .s d) : (loadPieceOf f lanes va).regs = (List.range ((2 ^ f.subBits 2 0 + 7) / 8)).map (fun j => 640 + d + j) := by
  simp [loadPieceOf, hd, Piece.regs]

theorem loadPieceOf_lanes_vector (hd : f.d = .v d) : (loadPieceOf f lanes va).lanes = lanes := by simp [loadPieceOf, hd]
theorem loadPieceOf_lanes_scalar (hd : f.d = .s d) : (loadPieceOf f lanes va).lanes = BitVec.allOnes 32 := by simp [loadPieceOf, hd]

theorem mem_vals_vector (hd : f.d = .v d) (hne : lanes ≠ 0) (x : Nat) {q : Nat × W32} : q ∈ ((loadPieceOf f lanes va).vals x).1 ↔
    ∃ l j, lanes.getLsbD l = true ∧ j < (2 ^ f.subBits 2 0 + 3) / 4 ∧ q = ((d + j) * 32 + l, BitVec.ofNat 32 (loadNum f x / 2 ^ (32 * j))) := by
  simp only [loadPieceOf, hd, Piece.vals, if_neg hne, Bool.false_eq_true, if_false, List.mem_flatMap, List.mem_map, List.mem_range, mem_bitList, loadNum, decide_eq_true_eq]
  constructor
  · rintro ⟨l, hl, j, hj, rfl⟩
    exact ⟨l, j, hl, hj, rfl⟩
  · rintro ⟨l, j, hl, hj, rfl⟩
    exact ⟨l, hl, j, hj, rfl⟩

theorem mem_vals_scalar (hd : f.d = .s d) (x : Nat) {q : Nat × W64} : q ∈ ((loadPieceOf f lanes va).vals x).2 ↔
    ∃ j < (2 ^ f.subBits 2 0 + 7) / 8, q = (d + j, BitVec.ofNat 64 (loadNum f x / 2 ^ (64 * j))) := by
  simp only [loadPieceOf, hd, Piece.vals, if_neg (by decide : BitVec.allOnes 32 ≠ 0), if_true, List.mem_map, List.mem_range, loadNum, decide_eq_true_eq]
  exact ⟨fun ⟨j, hj, h⟩ => ⟨j, hj, h.symm⟩, fun ⟨j, hj, h⟩ => ⟨j, hj, h.symm⟩⟩

end

/-- The accesses of a load with their pieces: each lane's own in LD, and in LDU one for all. -/
def loadLanes (u : Bool) (c : Ctx) : List Nat := if u then (bitList c.g).take 1 else bitList c.g
def pieceLanes (u : Bool) (c : Ctx) (l : Nat) : Lanes := if u then c.g else BitVec.ofNat 32 (2 ^ l)
def loadAims (u : Bool) (f : Fields) (c : Ctx) (ea : Nat → W64) (a : Nat → Target) : List (Aim × Piece) :=
  (loadLanes u c).map (fun l => (⟨l, ea l, a l⟩, loadPieceOf f (pieceLanes u c l) (ea l)))

section
variable {u : Bool} {c : Ctx}

theorem take_one_bitList (hg : c.g ≠ 0) : (bitList c.g).take 1 = [lowLane c.g] := by
  have hmem := lowLane_mem hg
  unfold lowLane at *
  cases h : bitList c.g with
  | nil => simp [h] at hmem
  | cons l ls => rfl

theorem loadLanes_lt {l : Nat} (h : l ∈ loadLanes u c) : l < 32 := by
  cases u with
  | false => exact bitList_lt h
  | true => exact bitList_lt (List.mem_of_mem_take h)

theorem loadLanes_ne_nil (hg : c.g ≠ 0) : loadLanes u c ≠ [] := by
  cases u with
  | false => exact List.ne_nil_of_mem (lowLane_mem hg)
  | true => exact (take_one_bitList hg).trans_ne (List.cons_ne_nil _ _)

theorem getLsbD_lane {l k : Nat} (hk : k < 32) : (BitVec.ofNat 32 (2 ^ l)).getLsbD k = decide (l = k) := by
  rw [BitVec.getLsbD_ofNat, Nat.testBit_two_pow, decide_eq_true hk, Bool.true_and]

theorem lane_ne_zero {l : Nat} (hl : l < 32) : BitVec.ofNat 32 (2 ^ l) ≠ 0 := by
  intro h
  have hbit := getLsbD_lane (l := l) hl
  rw [h] at hbit
  simp at hbit

theorem pieceLanes_ne_zero (hg : c.g ≠ 0) {l : Nat} (h : l ∈ loadLanes u c) : pieceLanes u c l ≠ 0 := by
  cases u with
  | true => exact hg
  | false => exact lane_ne_zero (loadLanes_lt h)

/-- A lane that executes has its value from one access. -/
theorem pieceLanes_any (hg : c.g ≠ 0) {k : Nat} (hk : k < 32) : c.g.getLsbD k = (loadLanes u c).any (fun l => (pieceLanes u c l).getLsbD k) := by
  cases u with
  | true => simp [loadLanes, pieceLanes, take_one_bitList hg]
  | false =>
    rw [Bool.eq_iff_iff]
    simp only [loadLanes, pieceLanes, Bool.false_eq_true, if_false, List.any_eq_true, mem_bitList, getLsbD_lane hk, decide_eq_true_eq]
    exact ⟨fun h => ⟨k, h, rfl⟩, fun ⟨_, h, e⟩ => e ▸ h⟩

theorem mem_loadLanes_of_pieceLanes (hg : c.g ≠ 0) {l k : Nat} (h : l ∈ loadLanes u c) (hk : (pieceLanes u c l).getLsbD k = true) :
    l = if u then lowLane c.g else k := by
  cases u with
  | true =>
    rw [loadLanes, if_pos rfl, take_one_bitList hg] at h
    exact List.mem_singleton.1 h
  | false =>
    rw [pieceLanes, if_neg Bool.false_ne_true, getLsbD_lane (BitVec.lt_of_getLsbD hk)] at hk
    exact of_decide_eq_true hk

theorem lane_mem_loadLanes (hg : c.g ≠ 0) {k : Nat} (hk : c.g.getLsbD k = true) :
    (if u then lowLane c.g else k) ∈ loadLanes u c ∧ (pieceLanes u c (if u then lowLane c.g else k)).getLsbD k = true := by
  cases u with
  | true => exact ⟨by simp [loadLanes, take_one_bitList hg], hk⟩
  | false => exact ⟨mem_bitList.2 hk, (getLsbD_lane (BitVec.lt_of_getLsbD hk)).trans (decide_eq_true rfl)⟩

variable {f : Fields} {d : Nat}

/-- The registers of a load into vectors, in the executing lanes. -/
theorem pieceDests_vector (hg : c.g ≠ 0) (hd : f.d = .v d) (ea : Nat → W64) (a : Nat → Target) :
    pieceDests ((loadAims u f c ea a).map (·.2)) = (List.range ((2 ^ f.subBits 2 0 + 3) / 4)).map (fun j => (d + j, c.g)) := by
  rw [loadAims, List.map_map]
  refine (pieceDests_same (g := c.g) (rs := (List.range ((2 ^ f.subBits 2 0 + 3) / 4)).map (fun j => d + j)) (List.nodup_range.map (fun _ _ h => by simpa using h))
    (by simpa using loadLanes_ne_nil hg) ?_ ?_ fun k hk => ?_).trans (List.map_map ..)
  · intro p hp
    obtain ⟨l, -, rfl⟩ := List.mem_map.1 hp
    exact loadPieceOf_regs_vector _ _ hd
  · intro p hp
    obtain ⟨l, hl, rfl⟩ := List.mem_map.1 hp
    exact ne_of_eq_of_ne (loadPieceOf_lanes_vector _ _ hd) (pieceLanes_ne_zero hg hl)
  · rw [pieceLanes_any (u := u) hg hk, List.any_map]
    exact List.any_congr rfl (fun l => congrArg (·.getLsbD k) (loadPieceOf_lanes_vector _ _ hd).symm)

/-- The registers of a load of LDU into scalars. -/
theorem pieceDests_scalar (hg : c.g ≠ 0) (hd : f.d = .s d) (ea : Nat → W64) (a : Nat → Target) :
    pieceDests ((loadAims true f c ea a).map (·.2)) = (List.range ((2 ^ f.subBits 2 0 + 7) / 8)).map (fun j => (640 + d + j, BitVec.allOnes 32)) := by
  rw [loadAims, List.map_map]
  have hlanes (l : Nat) := loadPieceOf_lanes_scalar (f := f) (pieceLanes true c l) (ea l) hd
  refine (pieceDests_same (g := BitVec.allOnes 32) (rs := (List.range ((2 ^ f.subBits 2 0 + 7) / 8)).map (fun j => 640 + d + j))
    (List.nodup_range.map (fun _ _ h => by simpa using h)) (by simpa using loadLanes_ne_nil hg) ?_ ?_ fun k hk => ?_).trans (List.map_map ..)
  · intro p hp
    obtain ⟨l, -, rfl⟩ := List.mem_map.1 hp
    exact loadPieceOf_regs_scalar _ _ hd
  · intro p hp
    obtain ⟨l, -, rfl⟩ := List.mem_map.1 hp
    exact ne_of_eq_of_ne (hlanes l) (by decide)
  · simp [loadLanes, take_one_bitList hg, hlanes, hk]

/-- A result that goes nowhere fills no register. -/
theorem pieceDests_special {x : Special} (hd : f.d = .sp x) (ea : Nat → W64) (a : Nat → Target) : pieceDests ((loadAims u f c ea a).map (·.2)) = [] := by
  have hflat : ((loadAims u f c ea a).map (·.2)).flatMap (fun p => if p.lanes = 0 then [] else p.regs) = [] := by
    rw [List.flatMap_eq_nil_iff]
    intro p hp
    simp only [loadAims, List.map_map, List.mem_map] at hp
    obtain ⟨l, -, rfl⟩ := hp
    exact if_pos (by simp [loadPieceOf, hd])
  unfold pieceDests
  rw [hflat]
  rfl

variable {s : State} {home : Bool} {ea : Nat → W64} {a : Nat → Target}

theorem mem_answers_vector {q : Nat × W32} : q ∈ (loadAims u f c ea a).flatMap (fun x => (s.answers home x).1) ↔
    ∃ l ∈ loadLanes u c, ∃ bs, s.atOnce home (2 ^ f.subBits 2 0) (a l) = some bs ∧ q ∈ ((loadPieceOf f (pieceLanes u c l) (ea l)).vals (leNat bs)).1 := by
  simp only [loadAims, List.mem_flatMap, List.mem_map, exists_exists_and_eq_and, State.answers, loadPieceOf_size]
  refine exists_congr fun l => and_congr_right fun _ => ?_
  cases s.atOnce home (2 ^ f.subBits 2 0) (a l) <;> simp

theorem mem_answers_scalar {q : Nat × W64} : q ∈ (loadAims u f c ea a).flatMap (fun x => (s.answers home x).2) ↔
    ∃ l ∈ loadLanes u c, ∃ bs, s.atOnce home (2 ^ f.subBits 2 0) (a l) = some bs ∧ q ∈ ((loadPieceOf f (pieceLanes u c l) (ea l)).vals (leNat bs)).2 := by
  simp only [loadAims, List.mem_flatMap, List.mem_map, exists_exists_and_eq_and, State.answers, loadPieceOf_size]
  refine exists_congr fun l => and_congr_right fun _ => ?_
  cases s.atOnce home (2 ^ f.subBits 2 0) (a l) <;> simp

/-- The words of a vector register in a lane whose bytes are there at once. -/
theorem find?_answers_vector (hg : c.g ≠ 0) (hd : f.d = .v d) {k : Nat} (hk : c.g.getLsbD k = true) {bs : List Byte}
    (hbs : s.atOnce home (2 ^ f.subBits 2 0) (a (if u then lowLane c.g else k)) = some bs) {j : Nat} (hj : j < (2 ^ f.subBits 2 0 + 3) / 4) :
    (((loadAims u f c ea a).flatMap (fun x => (s.answers home x).1)).find? (fun p => p.1 == (d + j) * 32 + k)).map Prod.snd =
      some (BitVec.ofNat 32 (loadNum f (leNat bs) / 2 ^ (32 * j))) := by
  obtain ⟨hmem, hown⟩ := lane_mem_loadLanes (u := u) hg hk
  have hk32 := BitVec.lt_of_getLsbD hk
  refine find?_key_unique (mem_answers_vector.2 ⟨_, hmem, bs, hbs, (mem_vals_vector _ _ hd (pieceLanes_ne_zero hg hmem) _).2 ⟨k, j, hown, hj, rfl⟩⟩) ?_
  intro q hq hkey
  obtain ⟨l, hl, bs', hbs', hq'⟩ := mem_answers_vector.1 hq
  obtain ⟨k', j', hk', -, rfl⟩ := (mem_vals_vector _ _ hd (pieceLanes_ne_zero hg hl) _).1 hq'
  have hk'32 := BitVec.lt_of_getLsbD hk'
  have hsame : k' = k ∧ j' = j := by dsimp only at hkey; omega
  obtain ⟨rfl, rfl⟩ := hsame
  rw [mem_loadLanes_of_pieceLanes hg hl hk', hbs] at hbs'
  cases hbs'
  rfl

/-- The words of a scalar register where the bytes are there at once. -/
theorem find?_answers_scalar (hg : c.g ≠ 0) (hd : f.d = .s d) {bs : List Byte}
    (hbs : s.atOnce home (2 ^ f.subBits 2 0) (a (lowLane c.g)) = some bs) {j : Nat} (hj : j < (2 ^ f.subBits 2 0 + 7) / 8) :
    (((loadAims true f c ea a).flatMap (fun x => (s.answers home x).2)).find? (fun p => p.1 == d + j)).map Prod.snd =
      some (BitVec.ofNat 64 (loadNum f (leNat bs) / 2 ^ (64 * j))) := by
  have hlow : loadLanes true c = [lowLane c.g] := take_one_bitList hg
  refine find?_key_unique (mem_answers_scalar.2 ⟨lowLane c.g, by simp [hlow], bs, hbs, (mem_vals_scalar _ _ hd _).2 ⟨j, hj, rfl⟩⟩) ?_
  intro q hq hkey
  obtain ⟨l, hl, bs', hbs', hq'⟩ := mem_answers_scalar.1 hq
  obtain ⟨j', -, rfl⟩ := (mem_vals_scalar _ _ hd _).1 hq'
  rw [hlow] at hl
  rw [List.mem_singleton.1 hl, hbs] at hbs'
  cases hbs'
  have hsame : j' = j := by dsimp only at hkey; omega
  rw [hsame]

end

end Sys2Proof.Machine
end

section
/-!
O20: LD and LDU with good addresses (06 R173-R179).
-/
namespace Sys2Proof.Machine

/-- LD and LDU, as one. -/
def loadInstr (u : Bool) (f : Fields) : Instr := if u then .ldu f else .ld f
def loadEff (u : Bool) (f : Fields) : Ctx → State → Eff := if u then lduEff f else ldEff f

theorem exec_load (u : Bool) (f : Fields) (s : State) : exec (loadInstr u f) s = .next (runWarp (loadInstr u f) { lat := .later } (loadEff u f) s) := by
  cases u <;> rfl

theorem ctxOf_load (u : Bool) (f : Fields) (s : State) : (s.ctxOf (loadInstr u f)).f = f ∧ (s.ctxOf (loadInstr u f)).id ≠ 0 := by
  cases u <;> exact ⟨rfl, Nat.succ_ne_zero _⟩

theorem load_lanes_ne {u : Bool} {f : Fields} {s : State} (h : s.clear (loadInstr u f) = true) : (s.ctxOf (loadInstr u f)).g ≠ 0 := by
  cases u with
  | false => exact (State.clear_facts (i := .ld f) (f := f) rfl h).lanes
  | true => exact (State.clear_facts (i := .ldu f) (f := f) rfl h).lanes

/-- The registers that the form of an LD allows are vectors (06 R174). -/
theorem ld_vector {f : Fields} (h : (Instr.ld f).wellFormed = true) : ∃ d, f.d = .v d := by
  have hcheck : checkEncoding (.ld f) = none := by simpa [Instr.wellFormed] using h
  simp only [checkEncoding, opEntry] at hcheck
  split_ifs at hcheck with _ _ _ _ _ _ _ _ hops
  simp only [Bool.not_eq_true', Bool.not_eq_false, Bool.and_eq_true] at hops
  obtain ⟨⟨⟨⟨⟨hd, -⟩, -⟩, -⟩, -⟩, -⟩ := hops
  cases hf : f.d with
  | v d => exact ⟨d, rfl⟩
  | s d =>
    rw [hf] at hd
    simp only [shapeOf] at hd
    split_ifs at hd <;> cases hd
  | sp x =>
    rw [hf] at hd
    simp only [shapeOf] at hd
    split_ifs at hd <;> cases hd

/-- A load whose addresses are good reads the accesses of its lanes. -/
theorem loadEff_good {u : Bool} {f : Fields} {c : Ctx} {s : State} {a : Nat → Target}
    (hgood : ∀ l ∈ bitList c.g, s.aim (2 ^ f.subBits 2 0) .read (s.ea f (f.subBits 7 7 = 1) (memImm f) l) = .ok (a l))
    (huni : u = true → (c.uni64 s f.a).isSome = true ∧ (c.uni32 s f.b).isSome = true) :
    loadEff u f c s = s.load c (f.mod = 1) (acqHome f) (loadAims u f c (s.ea f (f.subBits 7 7 = 1) (memImm f)) a) := by
  have haims := c.aims_of_good s (2 ^ f.subBits 2 0) .read 0 (bitList c.g) (fun l => s.ea f (f.subBits 7 7 = 1) (memImm f) l) a hgood
  cases u with
  | false =>
    simp only [loadEff, Bool.false_eq_true, if_false, ldEff, eaList]
    rw [haims]
    simp only [List.map_map, loadAims, loadLanes, pieceLanes, Bool.false_eq_true, if_false]
    rfl
  | true =>
    obtain ⟨ha, hb⟩ := huni rfl
    rw [Option.isSome_iff_ne_none] at ha hb
    simp only [loadEff, if_true, lduEff, eaList, Option.isNone_iff_eq_none, ha, hb, Bool.or_eq_true, or_self, if_false]
    rw [haims]
    simp only [← List.map_take, List.map_map, loadAims, loadLanes, pieceLanes, if_true]
    rfl

theorem LoadLeaves.congr {c : Ctx} {s s' t t' : State} {home : Bool} {as : List (Aim × Piece)} {o : Op} {new : List Msg} (h : LoadLeaves s c home as t o new) (b : Store 2)
    (hs : s = { s' with w := { s'.w with arr := b } }) (hm : t'.m = t.m) :
    HomesKept s' t' ∧ (∀ cl line, t'.m.lineOfL1 cl line = s'.m.lineOfL1 cl line) ∧
      c.Asks s' t' home (s'.unanswered home (as.map (fun x => (x.1.tgt, x.2)))) new ∧ o.vvals = as.flatMap (fun x => (s'.answers home x).1) ∧
      o.svals = as.flatMap (fun x => (s'.answers home x).2) := by
  obtain ⟨-, -, hhomes, hlines, hasks, -, -, hvv, hsv⟩ := h
  subst hs
  unfold HomesKept Ctx.Asks at *
  rw [hm]
  exact ⟨hhomes, hlines, hasks, hvv, hsv⟩

/-- The issue of a load whose addresses are good. -/
theorem exec_load_good {u : Bool} {f : Fields} {s : State} {a : Nat → Target} (hclear : s.clear (loadInstr u f) = true) (hacq : s.w.acquiring = false)
    (hgood : ∀ l ∈ bitList (s.ctxOf (loadInstr u f)).g, s.aim (2 ^ f.subBits 2 0) .read (s.ea f (f.subBits 7 7 = 1) (memImm f) l) = .ok (a l))
    (huni : u = true → ((s.ctxOf (loadInstr u f)).uni64 s f.a).isSome = true ∧ ((s.ctxOf (loadInstr u f)).uni32 s f.b).isSome = true) :
    let c := s.ctxOf (loadInstr u f)
    let as := loadAims u f c (s.ea f (f.subBits 7 7 = 1) (memImm f)) a
    ∃ t o new, exec (loadInstr u f) s = .next t ∧ c.Went s t ∧ WarpKept s t ∧ OnlyMemory s t ∧ HomesKept s t ∧
      (∀ cl line, t.m.lineOfL1 cl line = s.m.lineOfL1 cl line) ∧ c.Asks s t (acqHome f) (s.unanswered (acqHome f) (as.map (fun x => (x.1.tgt, x.2)))) new ∧
      c.Outstanding t (pieceDests (as.map (·.2))) new.length ∧ t.w.ops.getLast? = some o ∧
      o.vvals = as.flatMap (fun x => (s.answers (acqHome f) x).1) ∧ o.svals = as.flatMap (fun x => (s.answers (acqHome f) x).2) := by
  intro c as
  obtain ⟨b, hcons⟩ := s.consumed_eq (loadInstr u f)
  have haim := s.aim_consumed (loadInstr u f)
  have heff := loadEff_good (u := u) (f := f) (c := c) (s := s.consumed (loadInstr u f)) (a := a)
    (fun l hl => by rw [haim, State.ea_consumed]; exact hgood l hl) (by rw [Ctx.uni64_consumed, Ctx.uni32_consumed]; exact huni)
  rw [show (s.consumed (loadInstr u f)).ea f (f.subBits 7 7 = 1) (memImm f) = s.ea f (f.subBits 7 7 = 1) (memImm f) from funext fun l => by simp] at heff
  obtain ⟨t, o, new, hload, hleaves⟩ := (s.consumed (loadInstr u f)).load_eq c (f.mod = 1) (acqHome f) as (by rw [hcons]; exact hacq) (ctxOf_load u f s).2
  obtain ⟨hid, hslot, hready, hparts⟩ := hleaves.op
  obtain ⟨hwent, hkept, hmem, hm, hlast⟩ := runWarp_memory (pl := { lat := .later }) hclear rfl (heff.trans hload) hleaves.only hleaves.warp
  obtain ⟨hhomes, hlines, hasks, hvv, hsv⟩ := hleaves.congr b hcons hm
  exact ⟨_, o, new, exec_load u f s, hwent, hkept, hmem, hhomes, hlines, hasks, ⟨o, hlast o rfl, hid, hslot, hleaves.dests, hparts, hready⟩, hlast o rfl, hvv, hsv⟩

/-- Settles O20: a load asks and answers as `State.load` does with the pieces of its lanes. -/
theorem loadsIssue : Obligations.LoadsIssue := by
  intro u f s a i c n ea home piece dests y hclear hacq hgood huni
  obtain ⟨t, o, new, hexec, hwent, hkept, hmem, hhomes, hlines, hasks, hout, hlast, hvv, hsv⟩ :=
    exec_load_good hclear hacq (fun l hl => hgood l (mem_bitList.1 hl)) huni
  have hg : c.g ≠ 0 := load_lanes_ne hclear
  have hpiece (l : Nat) : piece l = loadPieceOf f (pieceLanes u c l) (ea l) := by
    simp only [piece, loadPieceOf, pieceLanes]
    cases f.d <;> rfl
  refine ⟨t, new, o, hexec, hwent, hkept, hmem, hhomes, hlines, ?_, ?_, hlast, fun l bs hl hbs => ?_⟩
  · simp only [hpiece]
    rw [loadAims, List.map_map] at hasks
    exact hasks
  · have hdests : pieceDests ((loadAims u f c ea a).map (·.2)) = dests := by
      simp only [dests]
      cases hd : f.d with
      | v d => exact pieceDests_vector hg hd ea a
      | sp x => exact pieceDests_special hd ea a
      | s d =>
        cases u with
        | true => exact pieceDests_scalar hg hd ea a
        | false =>
          obtain ⟨k, hk⟩ := ld_vector (State.wellFormed_of_clear rfl hclear)
          rw [hd] at hk
          cases hk
    rw [← hdests]
    exact hout
  · cases hd : f.d with
    | sp x => trivial
    | v d =>
      intro j hj
      rw [hvv]
      exact find?_answers_vector hg hd hl hbs hj
    | s d =>
      cases u with
      | true =>
        intro j hj
        rw [hsv]
        exact find?_answers_scalar hg hd hbs hj
      | false =>
        obtain ⟨k, hk⟩ := ld_vector (State.wellFormed_of_clear rfl hclear)
        rw [hd] at hk
        cases hk

end Sys2Proof.Machine
end

section
/-!
Atomics on banks (06 R190-R194): the lanes' operations happen in ascending order, and the old values are those that the lower lanes leave.
-/
namespace Sys2Proof.Machine

/-! Poisoned words of banks. -/

/-- Bytes written in banks poison no word. -/
theorem MemSys.bankPoisoned_bankWrites {m : MemSys} (ws : List (Nat × Byte)) {k n : Nat} (h : m.bankPoisoned k n = false) : (m.bankWrites ws).bankPoisoned k n = false := by
  have hword (words : List Nat) (p : Nat → Bool) (q : Nat) (st : Store 1) (h0 : st.get q = 0) : (words.foldl (fun acc k => if p k then acc.set k 0 else acc) st).get q = 0 := by
    refine foldl_keeps (fun st : Store 1 => st.get q = 0) _ (fun st k hst => ?_) words st h0
    split
    · rw [Store.get_set]
      split
      · rfl
      · exact hst
    · exact hst
  have hsame : (ws.foldl (fun acc w => acc.bankSet w.1 w.2) m).bankPoison = m.bankPoison := by rw [MemSys.bankSets_eq]
  simp only [MemSys.bankPoisoned, List.any_eq_false, bne_iff_ne, ne_eq, not_not] at h ⊢
  intro i hi
  refine hword _ (fun k => (List.range 8).all (fun i => ws.any (fun w => w.1 == 8 * k + i))) _ _ ?_
  rw [hsame]
  exact h i hi

/-! One lane's operation. -/

theorem AtomOp.size_eq (f : Fields) (c : Ctx) (s : State) (l l' : Nat) : (atomOf f c s l).size = (atomOf f c s l').size := rfl

theorem bankAtoms_append (f : Fields) (c : Ctx) (s : State) (a : Nat → Target) (ls ls' : List Nat) (m : Nat → Byte) :
    bankAtoms f c s a (ls ++ ls') m = bankAtoms f c s a ls' (bankAtoms f c s a ls m) := by
  induction ls generalizing m with
  | nil => rfl
  | cons l ls ih =>
    rw [List.cons_append, bankAtoms, bankAtoms]
    cases a l with
    | mem p => exact ih m
    | bank k =>
      dsimp only
      cases (atomOf f c s l).new (leNat ((List.range (atomOf f c s l).size).map (fun j => m (k + j)))) <;> exact ih _

/-- An operation on a bank whose word is not poisoned. -/
theorem MemSys.atomBank_eq {f : Fields} {c : Ctx} {s : State} {a : Nat → Target} {l k : Nat} (ha : a l = .bank k) {m : MemSys} (hp : m.bankPoisoned k (atomOf f c s l).size = false) :
    (m.atomBank k (atomOf f c s l)).2 = (leNat (m.bankBytes k (atomOf f c s l).size), false) ∧
      (∃ b p, (m.atomBank k (atomOf f c s l)).1 = { m with bank := b, bankPoison := p }) ∧
      (∀ q, (m.atomBank k (atomOf f c s l)).1.bankGet q = bankAtoms f c s a [l] m.bankGet q) ∧
      ∀ q n, m.bankPoisoned q n = false → (m.atomBank k (atomOf f c s l)).1.bankPoisoned q n = false := by
  have hstep (q : Nat) : bankAtoms f c s a [l] m.bankGet q = ((atomOf f c s l).new (leNat (m.bankBytes k (atomOf f c s l).size))).elim (m.bankGet q)
      (fun x => if k ≤ q ∧ q < k + (atomOf f c s l).size then (leBytes (atomOf f c s l).size x).getD (q - k) 0 else m.bankGet q) := by
    rw [bankAtoms, ha]
    dsimp only [MemSys.bankBytes]
    cases (atomOf f c s l).new _ <;> rfl
  simp only [hstep]
  unfold MemSys.atomBank
  rw [numOf_eq_leNat, hp]
  dsimp only
  rw [if_neg Bool.false_ne_true]
  cases (atomOf f c s l).new (leNat (m.bankBytes k (atomOf f c s l).size)) with
  | none => exact ⟨rfl, ⟨_, _, rfl⟩, fun _ => rfl, fun _ _ h => h⟩
  | some x =>
    refine ⟨rfl, ⟨_, _, m.bankWrites_eq _⟩, fun q => ?_, fun q n => MemSys.bankPoisoned_bankWrites _⟩
    dsimp only [Option.elim]
    rw [MemSys.bankGet_bankWrites, lastAt, lastAt_runOf, bytesOf_eq_leBytes, leBytes_length]
    split <;> rfl

/-! The lanes in ascending order. -/

/-- The old values that lanes take from banks: each what its word holds after the lanes below it. -/
def bankOlds (f : Fields) (c : Ctx) (s : State) (a : Nat → Target) (m : Nat → Byte) (ls : List Nat) : List (Nat × W32) :=
  ls.flatMap (fun l => match a l with
    | .mem _ => []
    | .bank k => ((atomOf f c s l).piece.vals (leNat ((List.range (atomOf f c s l).size).map (fun j => bankAtoms f c s a (ls.filter (· < l)) m (k + j))))).1)

theorem bankOlds_concat {f : Fields} {c : Ctx} {s : State} {a : Nat → Target} {m : Nat → Byte} {ls : List Nat} {l : Nat} (h : ∀ k ∈ ls, k < l) :
    bankOlds f c s a m (ls ++ [l]) = bankOlds f c s a m ls ++ (match a l with
      | .mem _ => []
      | .bank k => ((atomOf f c s l).piece.vals (leNat ((List.range (atomOf f c s l).size).map (fun j => bankAtoms f c s a ls m (k + j))))).1) := by
  have hbelow : ∀ k ∈ ls, (ls ++ [l]).filter (· < k) = ls.filter (· < k) := fun k hk => by
    rw [List.filter_append, List.filter_singleton, decide_eq_false (Nat.not_lt.2 (h k hk).le)]
    exact List.append_nil _
  have hall : (ls ++ [l]).filter (· < l) = ls := by
    rw [List.filter_append, List.filter_singleton, decide_eq_false (Nat.lt_irrefl l), List.filter_eq_self.2 fun k hk => decide_eq_true (h k hk)]
    exact List.append_nil _
  rw [bankOlds, List.flatMap_append, List.flatMap_singleton, hall]
  exact congrArg (· ++ _) (List.flatMap_congr fun k hk => by rw [hbelow k hk])

/-- The accesses of an atomic with the lanes' operations. -/
def atomAims (f : Fields) (c : Ctx) (s : State) (va : Nat → W64) (a : Nat → Target) (ls : List Nat) : List (Aim × AtomOp) :=
  ls.map (fun l => (⟨l, va l, a l⟩, atomOf f c s l))

/-- The atomics of lanes on banks. -/
theorem atomBanks_eq {f : Fields} {c : Ctx} {s : State} (va : Nat → W64) {a : Nat → Target} {ls : List Nat} (hls : ls.Pairwise (· < ·)) (t : State)
    (hp : ∀ l ∈ ls, ∀ k, a l = .bank k → t.m.bankPoisoned k (atomOf f c s l).size = false) :
    ∃ b p, (atomBanks c t (atomAims f c s va a ls)).1 = { t with m := { t.m with bank := b, bankPoison := p } } ∧
      (∀ q, (atomBanks c t (atomAims f c s va a ls)).1.m.bankGet q = bankAtoms f c s a ls t.m.bankGet q) ∧
      (∀ q n, t.m.bankPoisoned q n = false → (atomBanks c t (atomAims f c s va a ls)).1.m.bankPoisoned q n = false) ∧
      (atomBanks c t (atomAims f c s va a ls)).2.vv = bankOlds f c s a t.m.bankGet ls := by
  induction ls using List.reverseRecOn with
  | nil => exact ⟨_, _, rfl, fun _ => rfl, fun _ _ h => h, rfl⟩
  | append_singleton ls l ih =>
    obtain ⟨hlow, -, hlt⟩ := List.pairwise_append.1 hls
    have hlt : ∀ k ∈ ls, k < l := fun k hk => hlt k hk l (by simp)
    obtain ⟨b, p, heq, hget, hpois, hvv⟩ := ih hlow (fun k hk => hp k (List.mem_append_left _ hk))
    rw [bankOlds_concat hlt]
    simp only [bankAtoms_append]
    have hget' : (atomBanks c t (atomAims f c s va a ls)).1.m.bankGet = bankAtoms f c s a ls t.m.bankGet := funext hget
    rw [← hget', ← hvv]
    simp only [atomAims, List.map_append, List.map_cons, List.map_nil, atomBanks, List.foldl_append, List.foldl_cons, List.foldl_nil] at heq hget' hpois hvv ⊢
    generalize List.foldl _ (t, ({} : Loaded)) _ = acc at heq hget' hpois hvv ⊢
    cases ha : a l with
    | mem q =>
      refine ⟨b, p, heq, fun q => ?_, hpois, (List.append_nil _).symm⟩
      rw [bankAtoms, ha]
      rfl
    | bank k =>
      obtain ⟨hold, ⟨b', p', hm⟩, hget1, hpois1⟩ := MemSys.atomBank_eq ha (hpois _ _ (hp l (by simp) k ha))
      dsimp only
      rw [hold]
      simp only [Bool.false_and, Bool.false_eq_true, if_false]
      refine ⟨b', p', ?_, hget1, fun q n hq => hpois1 q n (hpois q n hq), rfl⟩
      rw [hm, heq]

end Sys2Proof.Machine
end

section
/-!
The messages of atomics (06 R194): one to the home of each line, behind the dirty bytes of the cluster's copy, which leaves its L1.
-/
namespace Sys2Proof.Machine

/-- A message carries the dirty bytes of a line home, for no operation. -/
def Msg.Returns (g : Msg) (x : L1Line) : Prop :=
  g.op = 0 ∧ g.cluster = x.cluster ∧ g.line = x.line ∧ ∃ pz cv ws mm, g.kind = .write x.data x.dirty pz cv ws mm

/-- A writeback that drops its line sends a message where bytes of the line are dirty, and only there. -/
theorem State.writeBack_returns (t : State) (x : L1Line) :
    ∃ new fr, t.writeBack x true false = { t with fresh := fr, m := { t.m with msgs := t.m.msgs ++ new, l1 := (t.m.l1Drop x.cluster x.line).l1 } } ∧
      (∀ g ∈ new, x.dirty ≠ 0 ∧ g.Returns x) ∧ (x.dirty ≠ 0 → ∃ g, g ∈ new) := by
  unfold State.writeBack State.writeBackFor
  by_cases h : x.dirty = 0
  · refine ⟨[], t.fresh, ?_, by simp, fun hd => absurd h hd⟩
    simp [h, MemSys.l1Back, MemSys.l1Drop]
  · refine ⟨[t.backMsg WRef.none 0 x false], t.fresh + 1, ?_, ?_, fun _ => ⟨_, List.mem_singleton_self _⟩⟩
    · rw [if_neg (fun e => h e.1)]
      rfl
    · intro g hg
      rw [List.mem_singleton.1 hg]
      exact ⟨h, rfl, rfl, rfl, _, _, _, _, rfl⟩

/-- The cluster's copy of a line, written back and dropped. -/
def State.backCopy (t : State) (line : Nat) : State :=
  match t.m.l1Find t.w.cl line with
  | some x => if t.w.onStackCore then t else t.writeBack x true false
  | none => t

theorem State.throughLine_eq (t : State) (f : Fields) (op : Nat) (p : Phys) (kind : MsgKind) :
    t.throughLine f op p kind = (t.backCopy (lineOf p.loc)).post f op p kind := by
  unfold State.throughLine State.backCopy
  cases t.m.l1Find t.w.cl (lineOf p.loc) <;> rfl

/-- The copy is gone, where the warp has an L1, and its dirty bytes are on their way. -/
theorem State.backCopy_eq (t : State) (line : Nat) :
    ∃ back fr l1, t.backCopy line = { t with fresh := fr, m := { t.m with msgs := t.m.msgs ++ back, l1 := l1 } } ∧
      (∀ g ∈ back, ∃ x, t.m.l1Find t.w.cl line = some x ∧ x.dirty ≠ 0 ∧ g.Returns x) ∧
      (t.w.onStackCore = false → ∀ x, t.m.l1Find t.w.cl line = some x → x.dirty ≠ 0 → ∃ g, g ∈ back) ∧
      ∀ cl line', (t.backCopy line).m.l1Find cl line' = if t.w.onStackCore = false ∧ cl = t.w.cl ∧ line' = line then none else t.m.l1Find cl line' := by
  unfold State.backCopy
  cases hx : t.m.l1Find t.w.cl line with
  | none =>
    refine ⟨[], t.fresh, t.m.l1, by rw [List.append_nil], by simp, by simp, fun cl line' => ?_⟩
    dsimp only
    split
    · next e => rw [e.2.1, e.2.2, hx]
    · rfl
  | some x =>
    dsimp only
    cases hs : t.w.onStackCore with
    | true => exact ⟨[], t.fresh, t.m.l1, by simp, by simp, by simp, fun cl line => by simp⟩
    | false =>
      obtain ⟨back, fr, heq, hret, hsome⟩ := t.writeBack_returns x
      obtain ⟨hcl, hl⟩ := MemSys.l1Find_key hx
      rw [if_neg Bool.false_ne_true]
      refine ⟨back, fr, _, heq, fun g hg => ⟨x, rfl, hret g hg⟩, ?_, fun cl line' => ?_⟩
      · rintro - _ ⟨⟩
        exact hsome
      · have hdrop := t.m.l1Find_l1Drop x.cluster x.line cl line'
        simp only [true_and]
        rw [← hcl, ← hl, ← hdrop, heq]
        rfl

/-- Operations on some lines have been sent from a state: a message for each line, and in front of it the dirty bytes of the cluster's copy. -/
structure State.Forwarding (s : State) (op : Nat) (kind : Nat → MsgKind) (ls : List Nat) (t : State) (new : List Msg) : Prop where
  same : t = { s with fresh := t.fresh, m := { s.m with msgs := s.m.msgs ++ new, l1 := t.m.l1 } }
  lines : (new.filter (fun g => g.op == op)).map (fun g => g.line) = ls
  sent : ∀ g ∈ new, g.op = op → g.warp = s.w.ref ∧ g.kind = kind g.line
  back : ∀ g ∈ new, g.op ≠ op → g.cluster = s.w.cl ∧ g.line ∈ ls ∧ ∃ x, s.m.l1Find s.w.cl g.line = some x ∧ x.dirty ≠ 0 ∧ g.Returns x
  copies : s.w.onStackCore = false → ∀ line ∈ ls, ∀ x, s.m.l1Find s.w.cl line = some x → x.dirty ≠ 0 → ∃ g ∈ new, g.line = line ∧ g.op ≠ op ∧ g.Returns x
  find : ∀ cl line, t.m.l1Find cl line = if s.w.onStackCore = false ∧ cl = s.w.cl ∧ line ∈ ls then none else s.m.l1Find cl line

section
variable {s t : State} {op : Nat} {kind : Nat → MsgKind} {ls : List Nat} {new : List Msg}

theorem State.Forwarding.start : s.Forwarding op kind [] s [] where
  same := by rw [List.append_nil]
  lines := rfl
  sent := by simp
  back := by simp
  copies := by simp
  find := by simp

theorem State.Forwarding.warp (h : s.Forwarding op kind ls t new) : t.w = s.w := by rw [h.same]

/-- The cluster's copy of one more line is written back and dropped. -/
theorem State.Forwarding.writeThrough (h : s.Forwarding op kind ls t new) (hop : op ≠ 0) (f : Fields) (p : Phys) (hnot : lineOf p.loc ∉ ls) :
    ∃ new', s.Forwarding op kind (ls ++ [lineOf p.loc]) (t.throughLine f op p (kind (lineOf p.loc))) new' := by
  obtain ⟨back, fr, l1, hm, hback, hsome, hfind⟩ := t.backCopy_eq (lineOf p.loc)
  obtain ⟨g, hg, hgop, hgwarp, hgline, hgkind⟩ : ∃ g : Msg, (t.backCopy (lineOf p.loc)).post f op p (kind (lineOf p.loc)) =
        { t.backCopy (lineOf p.loc) with
          m := { (t.backCopy (lineOf p.loc)).m with msgs := (t.backCopy (lineOf p.loc)).m.msgs ++ [g] }, fresh := (t.backCopy (lineOf p.loc)).fresh + 1 } ∧
      g.op = op ∧ g.warp = (t.backCopy (lineOf p.loc)).w.ref ∧ g.line = lineOf p.loc ∧ g.kind = kind (lineOf p.loc) := ⟨_, rfl, rfl, if_neg hop, rfl, rfl⟩
  rw [h.warp] at hback hsome hfind
  rw [show (t.backCopy (lineOf p.loc)).w = s.w by rw [hm, ← h.warp]] at hgwarp
  have hbackop : ∀ q ∈ back, q.op ≠ op := fun q hq => by
    obtain ⟨x, -, -, hret, -⟩ := hback q hq
    rw [hret]
    exact hop.symm
  have hold (x : L1Line) (hx : t.m.l1Find s.w.cl (lineOf p.loc) = some x) : s.m.l1Find s.w.cl (lineOf p.loc) = some x := by
    rw [← hx, h.find, if_neg (fun e => hnot e.2.2)]
  have hnew {x : L1Line} (hx : s.m.l1Find s.w.cl (lineOf p.loc) = some x) : t.m.l1Find s.w.cl (lineOf p.loc) = some x := by
    rw [← hx, h.find, if_neg (fun e => hnot e.2.2)]
  rw [State.throughLine_eq, hg]
  refine ⟨new ++ back ++ [g], ⟨?_, ?_, ?_, ?_, ?_, fun cl line => ?_⟩⟩
  · rw [hm, h.same]
    simp
  · have hnone : back.filter (fun q => q.op == op) = [] := List.filter_eq_nil_iff.2 (fun q hq => by simpa using hbackop q hq)
    rw [List.filter_append, List.filter_append, hnone, List.append_nil, List.map_append, h.lines]
    simp [hgop, hgline]
  · intro q hq hqop
    rcases List.mem_append.1 hq with hq | hq
    · rcases List.mem_append.1 hq with hq | hq
      · exact h.sent q hq hqop
      · exact absurd hqop (hbackop q hq)
    · rw [List.mem_singleton.1 hq, hgline]
      exact ⟨hgwarp, hgkind⟩
  · intro q hq hqop
    rcases List.mem_append.1 hq with hq | hq
    · rcases List.mem_append.1 hq with hq | hq
      · obtain ⟨hcl, hl, hx⟩ := h.back q hq hqop
        exact ⟨hcl, List.mem_append_left _ hl, hx⟩
      · obtain ⟨x, hx, hd, hret⟩ := hback q hq
        obtain ⟨hcl, hl⟩ := MemSys.l1Find_key hx
        have hline : q.line = lineOf p.loc := hret.2.2.1.trans hl
        exact ⟨hret.2.1.trans hcl, by simp [hline], x, by rw [hline]; exact hold x hx, hd, hret⟩
    · exact absurd (List.mem_singleton.1 hq ▸ hgop) hqop
  · intro hs line hline x hx hd
    rcases List.mem_append.1 hline with hl | hl
    · obtain ⟨q, hq, hrest⟩ := h.copies hs line hl x hx hd
      exact ⟨q, by simp [hq], hrest⟩
    · rw [List.mem_singleton.1 hl] at hx ⊢
      obtain ⟨q, hq⟩ := hsome hs x (hnew hx) hd
      obtain ⟨y, hy, -, hret⟩ := hback q hq
      rw [hnew hx] at hy
      cases hy
      exact ⟨q, by simp [hq], hret.2.2.1.trans (MemSys.l1Find_key hx).2, hbackop q hq, hret⟩
  · show (t.backCopy (lineOf p.loc)).m.l1Find cl line = _
    rw [hfind, h.find]
    by_cases hl : line = lineOf p.loc
    · simp [hl, hnot]
    · simp [hl]

end

/-! The lines of atomics. -/

theorem aimLines_eq (as : List Aim) : aimLines as = putLines (as.map (fun x => ⟨x.tgt, []⟩)) := by
  rw [aimLines, putLines, List.filterMap_map]
  rfl

/-- The operations of lanes that lie in one line, as the messages carry them. -/
def lineAtoms (f : Fields) (c : Ctx) (s : State) (a : Nat → Target) (ls : List Nat) (line : Nat) : List AtomOp :=
  ls.filterMap (fun l => match a l with
    | .mem p => if lineOf p.loc = line then some { atomOf f c s l with off := p.loc % 128 } else none
    | .bank _ => none)

section
variable {f : Fields} {c : Ctx} {s : State} {va : Nat → W64} {a : Nat → Target} {ls : List Nat}

theorem atomsIn_atomAims (line : Nat) : atomsIn line (atomAims f c s va a ls) = lineAtoms f c s a ls line := by
  rw [atomsIn, atomAims, List.filterMap_map]
  rfl

theorem atomAims_fst : (atomAims f c s va a ls).map (·.1) = ls.map (fun l => ⟨l, va l, a l⟩) := by
  rw [atomAims, List.map_map]
  rfl

theorem mem_aimLines {line : Nat} : line ∈ aimLines (ls.map (fun l => ⟨l, va l, a l⟩)) ↔ ∃ l ∈ ls, ∃ p, a l = .mem p ∧ lineOf p.loc = line := by
  simp only [aimLines, List.mem_dedup, List.mem_filterMap, List.mem_map, exists_exists_and_eq_and]
  refine exists_congr fun l => and_congr_right fun _ => ?_
  cases a l <;> simp

theorem lineAtoms_ne_nil {line : Nat} : lineAtoms f c s a ls line ≠ [] ↔ line ∈ aimLines (ls.map (fun l => ⟨l, va l, a l⟩)) := by
  rw [mem_aimLines, ne_eq, lineAtoms, List.filterMap_eq_nil_iff, not_forall]
  simp only [Classical.not_imp]
  refine exists_congr fun l => and_congr_right fun _ => ?_
  cases a l <;> simp

/-- The operations are sent line by line. -/
theorem sendAtoms_eq (hid : c.id ≠ 0) (t : State) : ∃ new, t.Forwarding c.id (fun line => .atomic (lineAtoms f c s a ls line))
    (aimLines (ls.map (fun l => ⟨l, va l, a l⟩))) (sendAtoms f c.id (atomAims f c s va a ls) t) new := by
  unfold sendAtoms
  rw [atomAims_fst]
  have hplace : ∀ line ∈ aimLines (ls.map (fun l => ⟨l, va l, a l⟩)), ∃ p, placeIn line ((atomAims f c s va a ls).map (fun x => ⟨x.1.tgt, []⟩)) = some p ∧ lineOf p.loc = line := by
    intro line hline
    refine placeIn_of_mem ?_
    rw [aimLines_eq, ← atomAims_fst (f := f) (c := c) (s := s), List.map_map] at hline
    exact hline
  have hnd : (aimLines (ls.map (fun l => (⟨l, va l, a l⟩ : Aim)))).Nodup := List.nodup_dedup _
  generalize aimLines (ls.map (fun l => ⟨l, va l, a l⟩)) = lines at hplace hnd
  induction lines using List.reverseRecOn with
  | nil => exact ⟨[], .start⟩
  | append_singleton lines line ih =>
    obtain ⟨hlines, -, hdisj⟩ := List.nodup_append.1 hnd
    obtain ⟨new, hfwd⟩ := ih (fun l hl => hplace l (List.mem_append_left _ hl)) hlines
    obtain ⟨p, hp, rfl⟩ := hplace line (by simp)
    rw [List.foldl_append, List.foldl_cons, List.foldl_nil, hp]
    dsimp only
    rw [atomsIn_atomAims]
    exact hfwd.writeThrough hid f p (fun hmem => hdisj _ hmem _ (by simp) rfl)

end

end Sys2Proof.Machine
end

section
/-!
O22: the atomics with good addresses (06 R190-R194); and what refutes O23, a CAS on a bank whose number a message on its way bears.
-/
namespace Sys2Proof.Machine

/-! The effect. -/

/-- An atomic that has been issued: its banks, its messages, and its result where it has one. -/
structure AtomLeaves (f : Fields) (c : Ctx) (s : State) (a : Nat → Target) (t : State) (op : Option Op) (new : List Msg) : Prop where
  sent : ∃ tlb b p, ({ s with m := { s.m with tlb := tlb, bank := b, bankPoison := p } } : State).Forwarding c.id (fun line => .atomic (lineAtoms f c s a (bitList c.g) line))
    (aimLines ((bitList c.g).map (fun l => ⟨l, 0, a l⟩))) t new
  bank : ∀ q, t.m.bankGet q = bankAtoms f c s a (bitList c.g) s.m.bankGet q
  op : c.opc ≤ 0xA2 → ∃ o, op = some o ∧ o.id = c.id ∧ o.slot = slotOf c.f ∧ o.ready = none ∧ o.parts = t.partsOf c.id ∧
    o.dests = pieceDests ((bitList c.g).map (fun l => (atomOf f c s l).piece)) ∧ o.vvals = bankOlds f c s a s.m.bankGet (bitList c.g)

theorem aimLines_va {ls : List Nat} {va va' : Nat → W64} {a : Nat → Target} :
    aimLines (ls.map (fun l => ⟨l, va l, a l⟩)) = aimLines (ls.map (fun l => ⟨l, va' l, a l⟩)) := by
  simp only [aimLines, List.filterMap_map]
  rfl

section
variable {f : Fields} {c : Ctx} {s : State} {a : Nat → Target}

theorem aimLines_free {ls : List Nat} {va : Nat → W64} (h : ∀ l ∈ ls, ∀ p, a l = .mem p → s.lineBusy (lineOf p.loc) = false) :
    (aimLines (ls.map (fun l => ⟨l, va l, a l⟩))).any s.lineBusy = false := by
  rw [List.any_eq_false]
  intro line hline
  obtain ⟨l, hl, p, hp, rfl⟩ := mem_aimLines.1 hline
  simp [h l hl p hp]

/-- What an atomic does once nothing is in front of it. -/
theorem atomGo_eq (hid : c.id ≠ 0) (va : Nat → W64) (hp : ∀ l ∈ bitList c.g, ∀ k, a l = .bank k → s.m.bankPoisoned k (atomOf f c s l).size = false) (vas : List W64) (ord : Nat) :
    let b := atomBanks c (s.touchAll vas) (atomAims f c s va a (bitList c.g))
    let s1 := sendAtoms f c.id (atomAims f c s va a (bitList c.g)) b.1
    ∃ op new, AtomLeaves f c s a s1 op new ∧
      (if c.opc ≤ 0xA2 then
          Eff.ok { st := s1
                   op := some { c.op with
                     parts := s1.partsOf c.id, dests := pieceDests ((atomAims f c s va a (bitList c.g)).map (fun x => x.2.piece)), vvals := b.2.vv, marks := b.2.marks
                     isWrite := s1.partsOf c.id ≠ 0, acq := ord % 2 = 1 } }
        else .ok { st := s1, op := c.writeOp s1 }) = .ok { st := s1, op := op } := by
  obtain ⟨tlb, htouch⟩ := s.touchAll_eq vas
  obtain ⟨bk, pz, hbanks, hget, -, hvv⟩ := atomBanks_eq (f := f) (c := c) (s := s) va (List.Pairwise.filter (fun i => c.g.getLsbD i) List.pairwise_lt_range)
    ({ s with m := { s.m with tlb := tlb } } : State) hp
  rw [htouch]
  change (atomBanks c _ (atomAims f c s va a (bitList c.g))).1 = _ at hbanks
  change ∀ q, (atomBanks c _ (atomAims f c s va a (bitList c.g))).1.m.bankGet q = bankAtoms f c s a (bitList c.g) s.m.bankGet q at hget
  change (atomBanks c _ (atomAims f c s va a (bitList c.g))).2.vv = bankOlds f c s a s.m.bankGet (bitList c.g) at hvv
  generalize atomBanks c _ (atomAims f c s va a (bitList c.g)) = b at hbanks hget hvv
  obtain ⟨new, hfwd⟩ := sendAtoms_eq (f := f) (s := s) (va := va) (a := a) (ls := bitList c.g) hid b.1
  have hbank (q : Nat) : (sendAtoms f c.id (atomAims f c s va a (bitList c.g)) b.1).m.bankGet q = bankAtoms f c s a (bitList c.g) s.m.bankGet q := by
    rw [← hget, hfwd.same]
    rfl
  rw [aimLines_va (va' := fun _ => 0)] at hfwd
  intro b' s1
  have hsent := hfwd
  rw [hbanks] at hsent
  have hs1 : s1 = sendAtoms f c.id (atomAims f c s va a (bitList c.g)) b.1 := rfl
  by_cases hopc : c.opc ≤ 0xA2
  · rw [if_pos hopc]
    refine ⟨_, new, ⟨⟨tlb, bk, pz, ?_⟩, hbank, fun _ => ⟨_, rfl, rfl, rfl, rfl, rfl, ?_, hvv⟩⟩, rfl⟩
    · rw [hs1, hbanks]
      exact hsent
    · rw [atomAims, List.map_map]
      rfl
  · rw [if_neg hopc]
    refine ⟨_, new, ⟨⟨tlb, bk, pz, ?_⟩, hbank, fun h => absurd h hopc⟩, rfl⟩
    rw [hs1, hbanks]
    exact hsent

/-- An atomic whose addresses are good, free of the warp's own messages, and whose release, where it is one, is ready. -/
theorem atomEff_good (hg : c.g ≠ 0) (hid : c.id ≠ 0) (hacq : s.w.acquiring = false) (hdef : s.w.deferred = [])
    (hgood : ∀ l ∈ bitList c.g, s.aim (atomOf f c s 0).size .both (s.ea f (f.subBits 5 5 = 1) 0 l) = .ok (a l))
    (hfree : ∀ l ∈ bitList c.g, ∀ p, a l = .mem p → s.lineBusy (lineOf p.loc) = false)
    (hp : ∀ l ∈ bitList c.g, ∀ k, a l = .bank k → s.m.bankPoisoned k (atomOf f c s l).size = false) (hrel : 2 ≤ f.modBits 4 3 → releaseReady s (f.modBits 2 0)) :
    ∃ t op new, atomEff f c s = .ok { st := t, op := op } ∧ AtomLeaves f c s a t op new := by
  have hsize : ((((bitList c.g).map (fun l => (l, atomOf f c s l))).head?).map (fun x => x.2.size)).getD 4 = (atomOf f c s 0).size := by
    obtain ⟨l, ls, h⟩ := List.exists_cons_of_ne_nil (List.ne_nil_of_mem (lowLane_mem hg))
    rw [h]
    rfl
  have haims := c.aims_of_good s (atomOf f c s 0).size .both 3 (bitList c.g) (fun l => s.ea f (f.subBits 5 5 = 1) 0 l) a hgood
  have hlines := aimLines_free (va := fun l => s.ea f (f.subBits 5 5 = 1) 0 l) hfree
  unfold atomEff
  dsimp only
  rw [hsize, haims]
  dsimp only
  rw [if_neg (by simp [hacq]), hlines, if_neg Bool.false_ne_true, List.map_map]
  generalize hscope : (if allBank _ = true then min 1 (f.modBits 2 0) else f.modBits 2 0) = scope
  have hle : scope ≤ f.modBits 2 0 := by
    rw [← hscope]
    split <;> omega
  obtain ⟨op, new, hleaves, heq⟩ := atomGo_eq (f := f) hid (fun l => s.ea f (f.subBits 5 5 = 1) 0 l) hp
    (((bitList c.g).map (fun l => (⟨l, s.ea f (f.subBits 5 5 = 1) 0 l, a l⟩ : Aim))).map (·.va)) (f.modBits 4 3)
  split
  · next hord =>
    rw [State.fencePart_of_ready c hle (hrel hord) hdef]
    exact ⟨_, op, new, heq, hleaves⟩
  · exact ⟨_, op, new, heq, hleaves⟩

end

/-! The result. -/

theorem atomOf_consumed (f : Fields) (c : Ctx) (s : State) (i : Instr) : atomOf f c (s.consumed i) = atomOf f c s := by
  funext l
  simp [atomOf]

theorem bankAtoms_congr {f : Fields} {c : Ctx} {s s' : State} (h : atomOf f c s = atomOf f c s') (a : Nat → Target) (ls : List Nat) (m : Nat → Byte) :
    bankAtoms f c s a ls m = bankAtoms f c s' a ls m := by
  induction ls generalizing m with
  | nil => rfl
  | cons l ls ih =>
    unfold bankAtoms
    rw [h]
    simp only [ih]

theorem AtomLeaves.congr {f : Fields} {c : Ctx} {s s' t : State} {a : Nat → Target} {op : Option Op} {new : List Msg} (h : AtomLeaves f c s a t op new) (b : Store 2)
    (hs : s = { s' with w := { s'.w with arr := b } }) (hof : atomOf f c s = atomOf f c s') :
    (∃ tlb bk p, ({ s with m := { s.m with tlb := tlb, bank := bk, bankPoison := p } } : State).Forwarding c.id
      (fun line => .atomic (lineAtoms f c s' a (bitList c.g) line)) (aimLines ((bitList c.g).map (fun l => ⟨l, 0, a l⟩))) t new) ∧
    (∀ q, t.m.bankGet q = bankAtoms f c s' a (bitList c.g) s'.m.bankGet q) ∧
    (c.opc ≤ 0xA2 → ∃ o, op = some o ∧ o.id = c.id ∧ o.slot = slotOf c.f ∧ o.ready = none ∧ o.parts = t.partsOf c.id ∧
      o.dests = pieceDests ((bitList c.g).map (fun l => (atomOf f c s' l).piece)) ∧ o.vvals = bankOlds f c s' a s'.m.bankGet (bitList c.g)) := by
  obtain ⟨hsent, hbank, hop⟩ := h
  have hm : s.m = s'.m := by rw [hs]
  have hatoms : ∀ ls m, bankAtoms f c s a ls m = bankAtoms f c s' a ls m := bankAtoms_congr hof a
  have holds : bankOlds f c s a s.m.bankGet (bitList c.g) = bankOlds f c s' a s'.m.bankGet (bitList c.g) := by
    unfold bankOlds
    simp only [hatoms, hof, hm]
  have hlines : (fun line => MsgKind.atomic (lineAtoms f c s a (bitList c.g) line)) = fun line => .atomic (lineAtoms f c s' a (bitList c.g) line) := by
    unfold lineAtoms
    rw [hof]
  rw [hlines] at hsent
  simp only [holds, hof] at hop
  exact ⟨hsent, fun q => by rw [hbank, hatoms, hm], hop⟩

section
variable {f : Fields} {c : Ctx} {s : State} {a : Nat → Target} {d : Nat}

theorem atomOf_dest (hopc : c.opc ≤ 0xA2) (hd : f.d = .v d) (l : Nat) : (atomOf f c s l).dest = some d := by
  simp [atomOf, hopc, hd]

theorem atom_words (l : Nat) : ((atomOf f c s l).size + 3) / 4 = (atomOf f c s 0).size / 4 := by
  rw [AtomOp.size_eq f c s l 0]
  unfold AtomOp.size
  split <;> rfl

theorem atom_piece_lanes (hopc : c.opc ≤ 0xA2) (hd : f.d = .v d) (l : Nat) : (atomOf f c s l).piece.lanes = BitVec.ofNat 32 (2 ^ l) := by
  rw [AtomOp.piece, atomOf_dest hopc hd]
  rfl

theorem atom_piece_regs (hopc : c.opc ≤ 0xA2) (hd : f.d = .v d) (l : Nat) :
    (atomOf f c s l).piece.regs = (List.range ((atomOf f c s 0).size / 4)).map (fun j => d + j) := by
  rw [AtomOp.piece, Piece.regs, atomOf_dest hopc hd]
  simp [atom_words]

/-- The registers of an atomic's result, in the executing lanes. -/
theorem pieceDests_atom (hg : c.g ≠ 0) (hopc : c.opc ≤ 0xA2) (hd : f.d = .v d) :
    pieceDests ((bitList c.g).map (fun l => (atomOf f c s l).piece)) = (List.range ((atomOf f c s 0).size / 4)).map (fun j => (d + j, c.g)) := by
  refine (pieceDests_same (g := c.g) (rs := (List.range ((atomOf f c s 0).size / 4)).map (fun j => d + j)) (List.nodup_range.map (fun _ _ h => by simpa using h))
    (by simpa using List.ne_nil_of_mem (lowLane_mem hg)) ?_ ?_ fun k hk => ?_).trans (List.map_map ..)
  · intro p hp
    obtain ⟨l, -, rfl⟩ := List.mem_map.1 hp
    exact atom_piece_regs hopc hd l
  · intro p hp
    obtain ⟨l, hl, rfl⟩ := List.mem_map.1 hp
    exact ne_of_eq_of_ne (atom_piece_lanes hopc hd l) (lane_ne_zero (bitList_lt hl))
  · rw [pieceLanes_any (u := false) hg hk, List.any_map]
    exact List.any_congr rfl (fun l => congrArg (·.getLsbD k) (atom_piece_lanes hopc hd l).symm)

theorem mem_atom_vals (hopc : c.opc ≤ 0xA2) (hd : f.d = .v d) {l : Nat} (hl : l < 32) (x : Nat) {q : Nat × W32} : q ∈ ((atomOf f c s l).piece.vals x).1 ↔
    ∃ j < (atomOf f c s 0).size / 4, q = ((d + j) * 32 + l, BitVec.ofNat 32 (x / 2 ^ (32 * j))) := by
  have hne := ne_of_eq_of_ne (atom_piece_lanes (s := s) hopc hd l) (lane_ne_zero hl)
  rw [Piece.vals, if_neg hne, atom_piece_lanes hopc hd, bitList_lane l hl]
  simp only [AtomOp.piece, atomOf_dest hopc hd, Bool.false_eq_true, false_and, if_false, List.flatMap_singleton, List.mem_map, List.mem_range, atom_words, Option.getD_some]
  exact exists_congr fun j => and_congr_right fun _ => eq_comm

/-- A lane's old value from a bank. -/
theorem find?_bankOlds (hopc : c.opc ≤ 0xA2) (hd : f.d = .v d) {l k : Nat} (hl : c.g.getLsbD l = true) (ha : a l = .bank k) (m : Nat → Byte) {j : Nat}
    (hj : j < (atomOf f c s 0).size / 4) :
    ((bankOlds f c s a m (bitList c.g)).find? (fun p => p.1 == (d + j) * 32 + l)).map Prod.snd =
      some (BitVec.ofNat 32 (leNat ((List.range (atomOf f c s 0).size).map (fun i => bankAtoms f c s a ((bitList c.g).filter (· < l)) m (k + i))) / 2 ^ (32 * j))) := by
  have hl32 := BitVec.lt_of_getLsbD hl
  refine find?_key_unique ?_ fun q hq hkey => ?_
  · refine List.mem_flatMap.2 ⟨l, mem_bitList.2 hl, ?_⟩
    rw [ha]
    exact (mem_atom_vals hopc hd hl32 _).2 ⟨j, hj, rfl⟩
  · obtain ⟨l', hl', hq'⟩ := List.mem_flatMap.1 hq
    have hl'32 := bitList_lt hl'
    cases ha' : a l' with
    | mem p => simp [ha'] at hq'
    | bank k' =>
      rw [ha'] at hq'
      obtain ⟨j', -, rfl⟩ := (mem_atom_vals hopc hd hl'32 _).1 hq'
      have hsame : l' = l ∧ j' = j := by dsimp only at hkey; omega
      obtain ⟨rfl, rfl⟩ := hsame
      rw [ha] at ha'
      cases ha'
      rfl

/-- How many replies an operation waits for: those of its messages, and of any that bear its number. -/
theorem State.Forwarding.partsOf_eq {s' t : State} {kind : Nat → MsgKind} {ls : List Nat} {new : List Msg} {id : Nat} (h : s'.Forwarding id kind ls t new) :
    t.partsOf id = s'.partsOf id + (new.filter (fun g => g.op == id)).length := by
  have hnew : new.filter (fun g => g.op == id && g.warp == s'.w.ref) = new.filter (fun g => g.op == id) := by
    refine List.filter_congr fun g hg => ?_
    cases hop : g.op == id with
    | false => rfl
    | true => simp [(h.sent g hg (by simpa using hop)).1]
  have hw : t.w.ref = s'.w.ref := by rw [h.warp]
  have hm : t.m.msgs = s'.m.msgs ++ new := by rw [h.same]
  rw [State.partsOf, hm, hw, List.filter_append, List.length_append, hnew]
  rfl

end

/-! The issue. -/

theorem exec_atomic {i : Instr} {f : Fields} (hi : i = .atom f ∨ i = .atomf f ∨ i = .cas f ∨ i = .red f ∨ i = .redf f) (s : State) :
    exec i s = .next (runWarp i { lat := .later } (atomEff f) s) ∧ (∃ ent, opEntry i = some (ent, f)) ∧ (s.ctxOf i).f = f ∧ (s.ctxOf i).id ≠ 0 := by
  rcases hi with rfl | rfl | rfl | rfl | rfl <;> exact ⟨rfl, ⟨_, rfl⟩, rfl, Nat.succ_ne_zero _⟩

/-- The issue of an atomic with nothing in front of it. -/
theorem exec_atomic_good {i : Instr} {f : Fields} {s : State} {a : Nat → Target} (hi : i = .atom f ∨ i = .atomf f ∨ i = .cas f ∨ i = .red f ∨ i = .redf f)
    (hclear : s.clear i = true) (hacq : s.w.acquiring = false)
    (hgood : ∀ l, (s.ctxOf i).g.getLsbD l = true → s.aim (atomOf f (s.ctxOf i) s 0).size .both (s.ea f (f.subBits 5 5 = 1) 0 l) = .ok (a l))
    (hfree : ∀ l p, (s.ctxOf i).g.getLsbD l = true → a l = .mem p → s.lineBusy (lineOf p.loc) = false)
    (hp : ∀ l k, (s.ctxOf i).g.getLsbD l = true → a l = .bank k → s.m.bankPoisoned k (atomOf f (s.ctxOf i) s 0).size = false)
    (hrel : 2 ≤ f.modBits 4 3 → releaseReady s (f.modBits 2 0)) :
    let c := s.ctxOf i
    ∃ t new u tlb b p, exec i s = .next t ∧ c.g ≠ 0 ∧ c.Went s t ∧ WarpKept s t ∧ OnlyMemory s t ∧ t.m = u.m ∧
      ({ s with m := { s.m with tlb := tlb, bank := b, bankPoison := p }, w := { s.w with arr := u.w.arr } } : State).Forwarding c.id
        (fun line => .atomic (lineAtoms f c s a (bitList c.g) line)) (aimLines ((bitList c.g).map (fun l => ⟨l, 0, a l⟩))) u new ∧
      (∀ q, t.m.bankGet q = bankAtoms f c s a (bitList c.g) s.m.bankGet q) ∧
      (c.opc ≤ 0xA2 → ∃ o, t.w.ops.getLast? = some o ∧ o.id = c.id ∧ o.slot = slotOf c.f ∧ o.ready = none ∧
        o.parts = s.partsOf c.id + (new.filter (fun g => g.op == c.id)).length ∧
        o.dests = pieceDests ((bitList c.g).map (fun l => (atomOf f c s l).piece)) ∧ o.vvals = bankOlds f c s a s.m.bankGet (bitList c.g)) := by
  obtain ⟨hexec, ⟨ent, he⟩, -, hid⟩ := exec_atomic hi s
  have hg : (s.ctxOf i).g ≠ 0 := State.ctxOf_lanes_ne he hclear
  have hdef := State.deferred_of_clear he hclear
  have haim := s.aim_consumed i
  have hof := atomOf_consumed f (s.ctxOf i) s i
  have hready := fun h => releaseReady_consumed i (hrel h)
  have hea (l : Nat) := s.ea_consumed i f (f.subBits 5 5 = 1) 0 l
  intro c
  obtain ⟨b, hcons⟩ := s.consumed_eq i
  obtain ⟨u, op, new, heff, hleaves⟩ := atomEff_good (f := f) (c := c) (s := s.consumed i) (a := a) hg hid (by rw [hcons]; exact hacq) (by rw [hcons]; exact hdef)
    (fun l hl => by rw [haim, hea, hof]; exact hgood l (mem_bitList.1 hl)) (fun l hl p => by rw [hcons]; exact hfree l p (mem_bitList.1 hl))
    (fun l hl k => by rw [hof, hcons]; exact hp l k (mem_bitList.1 hl)) hready
  obtain ⟨⟨tlb, bk, pz, hfwd⟩, hbank, hop⟩ := hleaves.congr b hcons hof
  have honly : OnlyMemory (s.consumed i) u := by
    unfold OnlyMemory
    rw [hfwd.same]
  have hw : u.w = (s.consumed i).w := hfwd.warp
  obtain ⟨hwent, hkept, hmem, hm, hlast⟩ := runWarp_memory (pl := { lat := .later }) hclear rfl heff honly hw
  have hparts := hfwd.partsOf_eq
  rw [hcons] at hfwd hparts hw
  refine ⟨_, new, u, tlb, bk, pz, hexec, hg, hwent, hkept, hmem, hm, ?_, fun q => by rw [hm]; exact hbank q, fun hopc => ?_⟩
  · rw [hw]
    exact hfwd
  · obtain ⟨o, ho, hoid, hslot, hrdy, hpt, hds, hvv⟩ := hop hopc
    exact ⟨o, hlast o ho, hoid, hslot, hrdy, hpt.trans hparts, hds, hvv⟩

/-- Settles O22: the banks as `bankAtoms` says, and the lines as `State.Forwarding` says. -/
theorem atomicsIssue : Obligations.AtomicsIssue := by
  intro i f s a c n inLine named hi hclear hacq hgood hfree hp hrel
  obtain ⟨t, new, u, tlb, b, p, hexec, hg, hwent, hkept, hmem, hm, hfwd, hbank, hop⟩ := exec_atomic_good hi hclear hacq hgood hfree hp hrel
  have hnamed (line : Nat) : named line ↔ line ∈ aimLines ((bitList c.g).map (fun l => ⟨l, 0, a l⟩)) := lineAtoms_ne_nil
  have hlines := hfwd.lines
  have hmem' {line : Nat} (h : named line) : ∃ g ∈ new, g.op = c.id ∧ g.line = line := by
    rw [hnamed, ← hlines] at h
    obtain ⟨g, hg', hl⟩ := List.mem_map.1 h
    obtain ⟨hin, hop⟩ := List.mem_filter.1 hg'
    exact ⟨g, hin, by simpa using hop, hl⟩
  refine ⟨t, new, hexec, hwent, hkept, hmem, ?_, ?_, hbank, fun d hd hopc => ?_, fun line h => ?_, fun g hin hne => ?_, ?_, fun g hin hop => ?_, fun line h hs => ⟨?_, fun x hx hdirty => ?_⟩,
    fun cl line hout => ?_⟩
  · unfold HomesKept
    rw [hm, hfwd.same]
  · rw [hm, hfwd.same]
  · obtain ⟨o, hlast, hoid, hslot, hrdy, hpt, hds, hvv⟩ := hop hopc
    refine ⟨o, ⟨_, Nat.le_add_left _ _, fun hnone => ?_, o, hlast, hoid, hslot, hds.trans (pieceDests_atom hg hopc hd), hpt, hrdy⟩, hlast, fun l k hl ha => ?_⟩
    · have : s.partsOf c.id = 0 := by
        rw [State.partsOf, List.length_eq_zero_iff, List.filter_eq_nil_iff]
        intro g hg'
        simp [hnone g hg']
      exact (congrArg (· + _) this).trans (Nat.zero_add _)
    · intro old j hj
      rw [hvv]
      exact find?_bankOlds hopc hd hl ha _ hj
  · obtain ⟨g, hin, hop, hl⟩ := hmem' h
    obtain ⟨hwarp, hkind⟩ := hfwd.sent g hin hop
    exact ⟨g, hin, hop, hwarp, hl, hl ▸ hkind⟩
  · obtain ⟨hcl, hl, x, hx, hdirty, -, -, -, hkind⟩ := hfwd.back g hin hne
    obtain ⟨pz, cv, ws, mm, hkind⟩ := hkind
    exact ⟨hcl, (hnamed _).2 hl, x, pz, cv, ws, mm, hx, hdirty, hkind⟩
  · rw [hlines]
    exact List.nodup_dedup _
  · rw [hnamed, ← hlines]
    exact List.mem_map.2 ⟨g, List.mem_filter.2 ⟨hin, by simpa using hop⟩, rfl⟩
  · rw [hm]
    exact (hfwd.find _ _).trans (if_pos ⟨hs, rfl, (hnamed _).1 h⟩)
  · obtain ⟨g, hin, hl, hne, -, -, -, hkind⟩ := hfwd.copies hs line ((hnamed _).1 h) x hx hdirty
    exact ⟨g, hin, hl, hne, hkind⟩
  · rw [hm]
    refine (hfwd.find _ _).trans (if_neg fun e => ?_)
    rcases hout with hcl | hl
    · exact hcl e.2.1
    · exact hl ((hnamed _).2 e.2.2)

end Sys2Proof.Machine
end

section
/-!
A CAS on a scratchpad bank while a message on its way bears the number that its operation takes (06 R193): what refutes O23.
-/
namespace Sys2Proof.Machine

/-- CAS on the 8-byte words at s1, comparing with s2 and writing s2, its result in v4 and v5, guarded by bit 0 of v10. -/
def bankCasFields : Fields :=
  { noFields with fmt := .f128, sub := 1, g0 := some ⟨false, 0, 10, false⟩, d := .v 4, a := .s 1, b := .sp .zero, c := .s 2, e := .s 2 }

/-- A warp of context 3 in slot 0 of core 0: s1 holds the first address of the scratch window, v10 holds 1 in lane 5 alone. -/
def bankCasWarp : Warp :=
  { Warp.reset with live := true, active := true, ctx := 3, s := [(1, 0x7FFFFFFF000000)], v := [(10 * 32 + 5, 1)] }

/-- Its cohort, whose one bank is bank 0 of cluster 0. -/
def bankCasCohort : Cohort :=
  { die := 0, cluster := 0, cslot := 0, ctx := 3, task := 0, cohortId := 0, prio := 0, nwarps := 1, banks := [0], groups := [], barriers := []
    rings := [], stages := [], regs := 0, warpBytes := [0], saveAddr := 0, away := false, stopping := false, placedAt := 0 }

/-- A prefetch of the warp, numbered as an operation of its next instruction. -/
def strayMsg : Msg :=
  { id := 0, warp := bankCasWarp.ref, cluster := 0, line := 0, pa := 0, slice := 0, ctx := 3, key := 0, cls := 0, op := 1, level := 0, flare := false
    kind := .fill [] false, tries := 0 }

/-- The warp and its cohort, the bank in scratchpad mode, and the message on its way. -/
def bankCasState : State :=
  { State.reset with
    fresh := 0, w := bankCasWarp, cohorts := [bankCasCohort], m := { MemSys.reset with bankMode := [(0, 1)], bankEra := [(0, 1)], msgs := [strayMsg] } }

theorem bankCasState_clear : bankCasState.clear (.cas bankCasFields) = true := by decide +kernel

/-- Lane 5 executes the CAS, on the first word of the bank. -/
theorem bankCasState_aim : (bankCasState.ctxOf (.cas bankCasFields)).g = BitVec.ofNat 32 (2 ^ 5) ∧
    bankCasState.aim 8 .both (bankCasState.ea bankCasFields false 0 5) = .ok (.bank 0) := by decide +kernel

/-- The operation counts the message among the replies that it waits for. -/
theorem bankCasState_cas {t : State} (h : exec (.cas bankCasFields) bankCasState = .next t) : ∃ o, t.w.ops.getLast? = some o ∧ 0 < o.parts := by
  obtain ⟨hlanes, haim⟩ := bankCasState_aim
  have hlane {l : Nat} (hl : (bankCasState.ctxOf (.cas bankCasFields)).g.getLsbD l = true) : l = 5 := by
    rw [hlanes, getLsbD_lane (BitVec.lt_of_getLsbD hl)] at hl
    exact (of_decide_eq_true hl).symm
  obtain ⟨t', new, -, -, -, -, hexec, -, -, -, -, -, -, -, hop⟩ := exec_atomic_good (a := fun _ => .bank 0) (.inr (.inr (.inl rfl))) bankCasState_clear (by decide +kernel)
    (fun l hl => by rw [hlane hl]; exact haim) (fun _ _ _ hmem => nomatch hmem) (fun _ k _ hk => by cases hk; decide +kernel) (fun hrel => absurd hrel (by decide))
  obtain ⟨o, hlast, -, -, -, hparts, -, -⟩ := hop (by decide)
  have hstray : bankCasState.partsOf (bankCasState.ctxOf (.cas bankCasFields)).id = 1 := by decide +kernel
  rw [hexec] at h
  cases h
  exact ⟨o, hlast, by omega⟩

/-- Refutes O23: in the clause of CAS on a bank, the result of `bankCasState` waits for a reply, because the message on its way bears the number of the operation. -/
theorem not_atomicOperations : ¬ Obligations.AtomicOperations := by
  rintro ⟨hcas, -⟩
  obtain ⟨hlanes, haim⟩ := bankCasState_aim
  obtain ⟨t, o, hexec, -, -, hlast, -, hparts, -⟩ :=
    hcas bankCasFields bankCasState 5 4 0 bankCasState_clear (by decide +kernel) rfl (by decide) hlanes haim (by decide +kernel) (fun hrel => absurd hrel (by decide))
  obtain ⟨o', hlast', hpos⟩ := bankCasState_cas hexec
  rw [hlast] at hlast'
  cases hlast'
  omega

end Sys2Proof.Machine
end

section
/-!
What operations at the homes leave alone (17 R357, R362-R366), and the lines of L2 after room has been made and after a write has been applied (07 R202).
-/
namespace Sys2Proof.Machine

/-! Frames. -/

/-- Only DRAM, its metadata and the memory-side caches with their packets may differ. -/
def MemSys.OnlyBelow (m n : MemSys) : Prop :=
  n = { m with dram := n.dram, blocks := n.blocks, sectors := n.sectors, packets := n.packets, trace := n.trace }

/-- Only the homes may differ: those, L2 with the floors of its slices, and the record of what writes replaced. -/
def MemSys.OnlyHomes (m n : MemSys) : Prop :=
  n = { m with
    dram := n.dram, blocks := n.blocks, sectors := n.sectors, packets := n.packets, trace := n.trace, l2 := n.l2, floors := n.floors, oldCode := n.oldCode
    wroteKey := n.wroteKey }

theorem MemSys.OnlyBelow.refl (m : MemSys) : m.OnlyBelow m := rfl
theorem MemSys.OnlyBelow.trans {m n p : MemSys} (h : m.OnlyBelow n) (k : n.OnlyBelow p) : m.OnlyBelow p := by
  unfold MemSys.OnlyBelow at *
  rw [k, h]
theorem MemSys.OnlyBelow.homes {m n : MemSys} (h : m.OnlyBelow n) : m.OnlyHomes n := by
  unfold MemSys.OnlyBelow at h
  unfold MemSys.OnlyHomes
  rw [h]
theorem MemSys.OnlyHomes.trans {m n p : MemSys} (h : m.OnlyHomes n) (k : n.OnlyHomes p) : m.OnlyHomes p := by
  unfold MemSys.OnlyHomes at *
  rw [k, h]

theorem MemSys.OnlyBelow.l2_eq {m n : MemSys} (h : m.OnlyBelow n) : n.l2 = m.l2 := by rw [h]
theorem MemSys.OnlyHomes.msgs_eq {m n : MemSys} (h : m.OnlyHomes n) : n.msgs = m.msgs := by rw [h]

theorem MemSys.storeSector_below (m : MemSys) (x : Sector) : m.OnlyBelow (m.storeSector x) := by
  unfold MemSys.storeSector
  split
  · unfold MemSys.OnlyBelow MemSys.putBlock MemSys.setBlk
    generalize m.dram.setMany _ = d
    rfl
  · rfl

theorem MemSys.reply_below (m : MemSys) (p : Packet) : m.OnlyBelow (m.reply p) := rfl

theorem MemSys.sectorRoom_below (m : MemSys) (b : Nat) : m.OnlyBelow (m.sectorRoom b) := by
  unfold MemSys.sectorRoom
  dsimp only
  split
  · rfl
  · split
    · rfl
    · split
      · rfl
      · exact (m.storeSector_below _).trans rfl

theorem MemSys.mergeSector_below (m : MemSys) (b ctx key : Nat) (data : BitVec 4096) (mask : BitVec 512) (poison : Bool) (evict : BitVec 2) :
    m.OnlyBelow (m.mergeSector b ctx key data mask poison evict) := (m.sectorRoom_below b).trans rfl

theorem MemSys.serveWrite_below (m : MemSys) (p : Packet) : m.OnlyBelow (m.serveWrite p) := by
  unfold MemSys.serveWrite
  dsimp only
  split
  · exact (m.mergeSector_below p.block p.ctx p.key p.data p.mask p.poison p.cls).trans (MemSys.reply_below ..)
  · exact (m.storeSector_below _).trans (MemSys.reply_below ..)

theorem MemSys.putBelow_below (m : MemSys) (line ctx key : Nat) (data : BitVec 1024) (mask poison : BitVec 128) (cls : BitVec 2) :
    m.OnlyBelow (m.putBelow line ctx key data mask poison cls) :=
  (foldl_keeps m.OnlyBelow _ (fun n p h => h.trans (n.serveWrite_below p)) _ _ (.refl m)).trans (MemSys.mergeSector_below ..)

theorem MemSys.send_below {m n : MemSys} {t loc type size ctx key : Nat} {flare poison alloc : Bool} {data : BitVec 4096} {mask : BitVec 512} {cls : BitVec 2}
    (h : m.send t loc type size ctx key flare data mask poison cls alloc = some n) : m.OnlyBelow n := by
  simp only [MemSys.send, Option.map_eq_some_iff] at h
  obtain ⟨_, -, rfl⟩ := h
  rfl

/-- The line whose dirty bytes are pushed stays in L2, clean. -/
theorem MemSys.pushLine_eq {m n : MemSys} {t : Nat} {x : L2Line} {alloc : Bool} {cls : BitVec 2} (h : m.pushLine t x alloc cls = some n) :
    m.OnlyHomes n ∧ n.floors = m.floors ∧ n.l2 = if x.dirty = 0 then m.l2 else putBy (fun y => y.line == x.line) { x with dirty := 0 } m.l2 := by
  unfold MemSys.pushLine at h
  split at h
  · next hd =>
    cases h
    exact ⟨rfl, rfl, (if_pos hd).symm⟩
  · next hd =>
    obtain ⟨k, hk, rfl⟩ := Option.map_eq_some_iff.1 h
    have hbelow := send_below hk
    unfold MemSys.OnlyBelow at hbelow
    rw [hbelow, if_neg hd]
    exact ⟨rfl, rfl, rfl⟩

theorem MemSys.forgetL2_homes (m : MemSys) (t : Nat) (p : L2Line → Bool) : m.OnlyHomes (m.forgetL2 t p) := by
  obtain ⟨fl, h⟩ := MemSys.foldFloors_frame t (m.l2.filter p) m
  unfold MemSys.forgetL2 MemSys.OnlyHomes
  dsimp only
  rw [h]

/-! Room in L2. -/

/-- The line that leaves a full set (17 R357). -/
def MemSys.l2Victim (m : MemSys) (line slice : Nat) : Option L2Line :=
  firstOf (fun (x : L2Line) => clsRank x.cls + if m.reading x.line then 3 else 0) ((m.l2Row line slice).filter (fun x => x.owner.isNone))

/-- A victim is pushed down and forgotten. -/
def MemSys.l2Evict (m : MemSys) (t : Nat) (x : L2Line) : MemSys :=
  ((m.pushLine t x).getD (m.putBelow x.line x.ctx x.key x.data x.dirty x.poison 0)).forgetL2 t (fun y => y.line == x.line)

theorem MemSys.l2Room_eq (m : MemSys) (t line slice : Nat) :
    m.l2Room t line slice = if m.l2Fits line slice then m else (m.l2Victim line slice).elim m (m.l2Evict t) := by
  unfold MemSys.l2Room MemSys.l2Victim
  split
  · rfl
  · cases firstOf _ _ <;> rfl

theorem filter_putBy {α : Type} (p q : α → Bool) {y : α} (h : ∀ z, p z = true → q z = false) (hy : q y = false) (l : List α) : (putBy p y l).filter q = l.filter q := by
  induction l with
  | nil => simp [putBy, hy]
  | cons x r ih =>
    rw [putBy]
    by_cases hx : p x = true
    · rw [if_pos hx, List.filter_cons, List.filter_cons, hy, h x hx]
      rfl
    · rw [if_neg hx, List.filter_cons, List.filter_cons, ih]

theorem MemSys.l2Evict_l2 (m : MemSys) (t : Nat) (x : L2Line) : (m.l2Evict t x).l2 = m.l2.filter (fun y => !(y.line == x.line)) := by
  rw [MemSys.l2Evict, (MemSys.forgetL2_l2 ..).1]
  cases hp : m.pushLine t x with
  | none => rw [Option.getD_none, (m.putBelow_below ..).l2_eq]
  | some n =>
    rw [Option.getD_some, (MemSys.pushLine_eq hp).2.2]
    split
    · rfl
    · exact filter_putBy _ _ (fun z hz => by simp [hz]) (by simp) _

theorem MemSys.l2Evict_homes (m : MemSys) (t : Nat) (x : L2Line) : m.OnlyHomes (m.l2Evict t x) := by
  refine MemSys.OnlyHomes.trans ?_ (MemSys.forgetL2_homes ..)
  cases hp : m.pushLine t x with
  | none => exact (m.putBelow_below ..).homes
  | some n => exact (MemSys.pushLine_eq hp).1

theorem MemSys.l2Room_homes (m : MemSys) (t line slice : Nat) : m.OnlyHomes (m.l2Room t line slice) := by
  rw [MemSys.l2Room_eq]
  split
  · rfl
  · cases m.l2Victim line slice with
    | none => rfl
    | some x => exact m.l2Evict_homes t x

theorem MemSys.l2Room_of_fits {m : MemSys} {line slice : Nat} (h : m.l2Fits line slice = true) (t : Nat) : m.l2Room t line slice = m := by
  rw [MemSys.l2Room_eq, if_pos h]

theorem MemSys.l2Fits_congr {m n : MemSys} (hl : n.l2 = m.l2) (line slice : Nat) : n.l2Fits line slice = m.l2Fits line slice := by
  unfold MemSys.l2Fits MemSys.l2Find MemSys.l2Row
  rw [hl]

theorem MemSys.l2Victim_congr {m n : MemSys} (hl : n.l2 = m.l2) (hp : n.packets = m.packets) (line slice : Nat) : n.l2Victim line slice = m.l2Victim line slice := by
  unfold MemSys.l2Victim MemSys.l2Row MemSys.reading
  rw [hl, hp]

/-! A write at a home. -/

/-- The line after a write of bytes of a mask. -/
def L2Line.wrote (x : L2Line) (ctx key : Nat) (evict : BitVec 2) (data : BitVec 1024) (mask poison : BitVec 128) : L2Line :=
  { x with
    data := mergeBytes x.data data mask, valid := x.valid ||| mask, dirty := x.dirty ||| mask
    poison := (x.poison &&& ~~~(mask &&& ~~~x.dirty)) ||| (poison &&& mask), lambda := 64, ctx := ctx, key := key, cls := clsAfter x.cls evict }

section
variable (m : MemSys) (t line slice ctx key : Nat) (evict : BitVec 2) (data : BitVec 1024) (mask poison : BitVec 128) (scope : Nat) (host : Bool)

theorem MemSys.l2Line_line : (m.l2Line line slice ctx key evict).line = line := by
  unfold MemSys.l2Line
  cases h : m.l2Find line with
  | none => rfl
  | some x => exact MemSys.l2Find_line h

/-- The memory in which a write finds its room. -/
def MemSys.noted : MemSys := (m.noteOld t line key mask host).noteKey (line / 4) key

theorem MemSys.noted_eq : ∃ old keys, m.noted t line key mask host = { m with oldCode := old, wroteKey := keys } := ⟨_, _, rfl⟩

theorem MemSys.noted_homes : m.OnlyHomes (m.noted t line key mask host) := by
  obtain ⟨old, keys, h⟩ := m.noted_eq t line key mask host
  rw [h]
  rfl

/-- Noting a write changes nothing in the choice of a victim. -/
theorem MemSys.l2Room_noted : ((m.noted t line key mask host).l2Room t line slice).l2 = (m.l2Room t line slice).l2 := by
  obtain ⟨old, keys, h⟩ := m.noted_eq t line key mask host
  have hl : (m.noted t line key mask host).l2 = m.l2 := by rw [h]
  have hp : (m.noted t line key mask host).packets = m.packets := by rw [h]
  rw [MemSys.l2Room_eq, MemSys.l2Room_eq, MemSys.l2Fits_congr hl, MemSys.l2Victim_congr hl hp]
  split
  · exact hl
  · cases m.l2Victim line slice with
    | none => exact hl
    | some x => rw [Option.elim_some, Option.elim_some, MemSys.l2Evict_l2, MemSys.l2Evict_l2, hl]

theorem MemSys.applyWrite_eq : (m.applyWrite t line slice ctx key evict data mask poison scope none host).1 =
    if ((m.noted t line key mask host).l2Room t line slice).l2Fits line slice then
      ((m.noted t line key mask host).l2Room t line slice).l2Set ((m.l2Line line slice ctx key 0).wrote ctx key evict data mask poison)
    else ((m.noted t line key mask host).l2Room t line slice).putBelow line ctx key ((m.l2Line line slice ctx key 0).wrote ctx key evict data mask poison).data mask
      ((m.l2Line line slice ctx key 0).wrote ctx key evict data mask poison).poison evict := rfl

theorem MemSys.applyWrite_homes : m.OnlyHomes (m.applyWrite t line slice ctx key evict data mask poison scope none host).1 := by
  have hroom := (m.noted_homes t line key mask host).trans (MemSys.l2Room_homes _ t line slice)
  rw [MemSys.applyWrite_eq]
  split
  · exact hroom.trans rfl
  · exact hroom.trans (MemSys.putBelow_below ..).homes

/-- The completion time is not before the write, nor before any lease of the line has ended. -/
theorem MemSys.applyWrite_wct : t ≤ (m.applyWrite t line slice ctx key evict data mask poison scope none host).2 ∧
    (m.l2Line line slice ctx key 0).lastLease ≤ (m.applyWrite t line slice ctx key evict data mask poison scope none host).2 := by
  have hw : (m.applyWrite t line slice ctx key evict data mask poison scope none host).2 = (m.l2Line line slice ctx key 0).wct t scope := rfl
  rw [hw, L2Line.wct]
  omega

/-- Where L2 takes the line, it holds it with the bytes written. -/
theorem MemSys.applyWrite_takes (h : m.l2Takes t line slice = true) :
    (m.applyWrite t line slice ctx key evict data mask poison scope none host).1.l2Find line = some ((m.l2Line line slice ctx key 0).wrote ctx key evict data mask poison) := by
  have hroom := m.l2Room_noted t line slice key mask host
  rw [MemSys.l2Takes, ← MemSys.l2Fits_congr hroom] at h
  rw [MemSys.applyWrite_eq, if_pos h]
  have := MemSys.l2Find_l2Set ((m.noted t line key mask host).l2Room t line slice) ((m.l2Line line slice ctx key 0).wrote ctx key evict data mask poison)
  rwa [show ((m.l2Line line slice ctx key 0).wrote ctx key evict data mask poison).line = line from m.l2Line_line line slice ctx key 0] at this

/-- Where L2 has room for the line, nothing else changes. -/
theorem MemSys.applyWrite_fits (h : m.l2Fits line slice = true) : (m.applyWrite t line slice ctx key evict data mask poison scope none host).1 =
    (m.noted t line key mask host).l2Set ((m.l2Line line slice ctx key 0).wrote ctx key evict data mask poison) := by
  have hfits : (m.noted t line key mask host).l2Fits line slice = true := by
    obtain ⟨old, keys, hn⟩ := m.noted_eq t line key mask host
    rw [hn]
    exact h
  rw [MemSys.applyWrite_eq, MemSys.l2Room_of_fits hfits, if_pos hfits]

end

section
variable {x : L2Line} {ctx key : Nat} {evict : BitVec 2} {data : BitVec 1024} {mask poison : BitVec 128}

theorem L2Line.wrote_valid (j : Nat) : (x.wrote ctx key evict data mask poison).valid.getLsbD j = (x.valid.getLsbD j || mask.getLsbD j) := BitVec.getLsbD_or

theorem L2Line.wrote_byte {j : Nat} (h : j < 128) : byteOf (x.wrote ctx key evict data mask poison).data j = if mask.getLsbD j then byteOf data j else byteOf x.data j :=
  byteOf_mergeBytes _ _ _ h

end

theorem lineOf_add {line j : Nat} (h : j < 128) : lineOf (line * 128 + j) = line := by unfold lineOf; omega
theorem line_mod {line j : Nat} (h : j < 128) : (line * 128 + j) % 128 = j := by omega

theorem MemSys.l2Find_l2Set_other (m : MemSys) {x : L2Line} {line : Nat} (h : x.line ≠ line) : (m.l2Set x).l2Find line = m.l2Find line :=
  find?_putBy_other _ _ (fun z hz => by simp only [beq_iff_eq] at hz; simpa [hz] using h) (by simpa using h) _

/-- A byte that a line of L2 holds. -/
theorem MemSys.homeByte_of_l2 {m : MemSys} {line : Nat} {x : L2Line} (hx : m.l2Find line = some x) {j : Nat} (hj : j < 128) (hv : x.valid.getLsbD j = true) (key : Nat) :
    m.homeByte (line * 128 + j) key = byteOf x.data j := by
  unfold MemSys.homeByte
  rw [lineOf_add hj, hx, line_mod hj]
  exact if_pos hv

/-- The bytes at the homes after a write to a line for which L2 has room. -/
theorem MemSys.homeByte_applyWrite {m : MemSys} {line slice : Nat} (h : m.l2Fits line slice = true) (t ctx key : Nat) (evict : BitVec 2) (data : BitVec 1024)
    (mask poison : BitVec 128) (scope : Nat) (host : Bool) (loc key' : Nat) :
    (m.applyWrite t line slice ctx key evict data mask poison scope none host).1.homeByte loc key' =
      if lineOf loc = line ∧ mask.getLsbD (loc % 128) = true then byteOf data (loc % 128) else m.homeByte loc key' := by
  have hline : ((m.l2Line line slice ctx key 0).wrote ctx key evict data mask poison).line = line := m.l2Line_line line slice ctx key 0
  rw [m.applyWrite_fits _ _ _ _ _ _ _ _ _ _ _ h]
  obtain ⟨old, keys, hn⟩ := m.noted_eq t line key mask host
  rw [hn]
  generalize hy : (m.l2Line line slice ctx key 0).wrote ctx key evict data mask poison = y at hline
  have hlow : (({ m with oldCode := old, wroteKey := keys } : MemSys).l2Set y).lowByte loc key' = m.lowByte loc key' := rfl
  have hmod : loc % 128 < 128 := Nat.mod_lt _ (by decide)
  unfold MemSys.homeByte
  by_cases hl : lineOf loc = line
  · have hset := MemSys.l2Find_l2Set ({ m with oldCode := old, wroteKey := keys } : MemSys) y
    rw [hline] at hset
    rw [hl, hset]
    dsimp only
    rw [← hy, L2Line.wrote_valid, L2Line.wrote_byte hmod, hy, hlow]
    cases hbit : mask.getLsbD (loc % 128) with
    | true => simp
    | false =>
      unfold MemSys.l2Line
      cases hx : m.l2Find line with
      | none => simp
      | some x => simp
  · rw [if_neg (fun e => hl e.1), MemSys.l2Find_l2Set_other _ (by rw [hline]; exact fun e => hl e.symm), hlow]
    rfl

end Sys2Proof.Machine
end

section
/-!
Loads at their homes (07 R200, R205): the values that a load receives, and the line that fills its cluster's L1 under a lease.
-/
namespace Sys2Proof.Machine

/-! Replies of an operation. -/

theorem Op.settle_vectors {o : Op} (h : ∀ d ∈ o.dests, d.1 < 640) : o.settle = o := by
  unfold Op.settle
  refine List.foldlRecOn (motive := (· = o)) o.dests _ rfl fun b hb d hd => ?_
  simp [hb, h d hd]

theorem Op.settle_id (o : Op) : o.settle.id = o.id := by
  unfold Op.settle
  refine foldl_keeps (·.id = o.id) _ (fun b d hb => ?_) o.dests o rfl
  dsimp only
  split
  · exact hb
  · split <;> exact hb

/-- An operation with vector registers to write keeps what a reply brings until its result is written. -/
theorem Warp.gotPart_finds {w : Warp} {o : Op} {k : Nat} (h : w.findOp k = some o) {g : Op → Op} (hid : ∀ o, (g o).id = o.id) (hg : (g o).dests = o.dests)
    (hd : o.dests ≠ []) (hv : ∀ d ∈ o.dests, d.1 < 640) : ∃ n, (w.gotPart k g).findOp k = some { g o with parts := n } := by
  have hsettle : ({ g o with parts := 0 } : Op).settle = { g o with parts := 0 } := Op.settle_vectors (by rw [hg]; exact hv)
  have hupd : ∀ r : Op → Op, (∀ o : Op, (r o).id = o.id) → (w.updOp k r).findOp k = some (r o) := fun r hr =>
    find?_updFirst _ r (fun x hx => by rw [hr]; exact hx) h
  unfold Warp.gotPart
  dsimp only
  rw [hupd _ (fun x => by
    split
    · rw [Op.settle_id]
      exact hid x
    · exact hid x)]
  dsimp only
  rw [hsettle, if_neg (fun e => hd (by
    have := e.2
    split at this <;> rwa [hg] at this)), hupd _ (fun x => by
    split
    · rw [Op.settle_id]
      exact hid x
    · exact hid x)]
  rw [hsettle]
  split
  · exact ⟨_, rfl⟩
  · exact ⟨_, rfl⟩

/-! The bytes that a load sees. -/

/-- The byte that a writeback of a cluster's line carries at a place. -/
def Msg.backByte (cl line j : Nat) (h : Msg) : Option Byte :=
  match h.kind with
  | .write d mask _ _ _ _ => if h.wb = true ∧ h.cluster = cl ∧ h.line = line ∧ mask.getLsbD j = true then some (byteOf d j) else none
  | .fill .. => none
  | .read .. => none
  | .atomic _ => none
  | .act _ => none

theorem MemSys.sentByte_eq (m : MemSys) (cl line j : Nat) : m.sentByte cl line j = (m.msgs.filterMap (Msg.backByte cl line j)).getLast? := rfl

/-- The bytes of a write laid over others. -/
def Msg.lay (acc : BitVec 1024 × BitVec 128) (h : Msg) : BitVec 1024 × BitVec 128 :=
  match h.kind with
  | .write data mask pz _ _ _ => layOver acc data mask pz
  | .fill .. => acc
  | .read .. => acc
  | .act _ => acc
  | .atomic _ => acc

/-- A message brings back a line of a cluster. -/
def Msg.brings (cl line : Nat) (h : Msg) : Bool := h.wb && h.cluster == cl && h.line == line

theorem byteOf_layOver (acc : BitVec 1024 × BitVec 128) (data : BitVec 1024) (mask pz : BitVec 128) {j : Nat} (h : j < 128) :
    byteOf (layOver acc data mask pz).1 j = if mask.getLsbD j then byteOf data j else byteOf acc.1 j := byteOf_mergeBytes _ _ _ h

theorem Msg.lay_byte {cl line : Nat} {h : Msg} (hb : h.brings cl line = true) (acc : BitVec 1024 × BitVec 128) {j : Nat} (hj : j < 128) :
    byteOf (Msg.lay acc h).1 j = (h.backByte cl line j).getD (byteOf acc.1 j) := by
  simp only [Msg.brings, Bool.and_eq_true, beq_iff_eq] at hb
  obtain ⟨⟨hwb, hcl⟩, hline⟩ := hb
  unfold Msg.lay Msg.backByte
  cases h.kind with
  | write data mask pz cv ws mm =>
    dsimp only
    rw [byteOf_layOver _ _ _ _ hj]
    by_cases hm : mask.getLsbD j = true
    · rw [if_pos hm, if_pos ⟨hwb, hcl, hline, hm⟩]
      rfl
    · rw [if_neg hm, if_neg (fun e => hm e.2.2.2)]
      rfl
  | fill => rfl
  | read => rfl
  | atomic => rfl
  | act => rfl

theorem Msg.backByte_of_not_brings {cl line : Nat} {h : Msg} (hb : h.brings cl line = false) (j : Nat) : h.backByte cl line j = none := by
  unfold Msg.backByte
  cases h.kind with
  | write data mask pz cv ws mm =>
    refine if_neg fun ⟨hwb, hcl, hline, _⟩ => ?_
    simp [Msg.brings, hwb, hcl, hline] at hb
  | fill => rfl
  | read => rfl
  | atomic => rfl
  | act => rfl

/-- The last writeback that carries a byte gives it. -/
theorem Msg.layAll_byte (cl line : Nat) (ms : List Msg) (acc : BitVec 1024 × BitVec 128) {j : Nat} (hj : j < 128) :
    byteOf ((ms.filter (Msg.brings cl line)).foldl Msg.lay acc).1 j = ((ms.filterMap (Msg.backByte cl line j)).getLast?).getD (byteOf acc.1 j) := by
  induction ms using List.reverseRecOn with
  | nil => rfl
  | append_singleton ms h ih =>
    rw [List.filter_append, List.filterMap_append, List.foldl_append]
    cases hb : h.brings cl line with
    | false => simp [hb, Msg.backByte_of_not_brings hb, ih]
    | true =>
      have hone : [h].filter (Msg.brings cl line) = [h] := by simp [hb]
      rw [hone, List.foldl_cons, List.foldl_nil, Msg.lay_byte hb _ hj, ih]
      cases hx : h.backByte cl line j with
      | none => simp [hx]
      | some b => simp [hx]

theorem State.overDirty_eq (s : State) (g : Msg) (d : BitVec 1024) (pz : BitVec 128) :
    s.overDirty g d pz = (s.m.l1Find g.cluster g.line).elim ((s.m.msgs.filter (Msg.brings g.cluster g.line)).foldl Msg.lay (d, pz))
      (fun x => layOver ((s.m.msgs.filter (Msg.brings g.cluster g.line)).foldl Msg.lay (d, pz)) x.data x.dirty x.poison) := by
  unfold State.overDirty
  cases s.m.l1Find g.cluster g.line <;> rfl

/-- Over the bytes that the home holds, a load has those that its cluster sees. -/
theorem State.overDirty_seen (s : State) (g : Msg) (d : BitVec 1024) (pz : BitVec 128) {j : Nat} (hj : j < 128)
    (h : byteOf d j = s.m.homeByte (g.line * 128 + j) g.key) : byteOf (s.overDirty g d pz).1 j = s.m.seenByte g.cluster g.line g.key j := by
  have hsent : byteOf ((s.m.msgs.filter (Msg.brings g.cluster g.line)).foldl Msg.lay (d, pz)).1 j =
      (s.m.sentByte g.cluster g.line j).getD (s.m.homeByte (g.line * 128 + j) g.key) := by
    rw [Msg.layAll_byte _ _ _ _ hj, MemSys.sentByte_eq, h]
  rw [State.overDirty_eq, MemSys.seenByte]
  cases s.m.l1Find g.cluster g.line with
  | none => exact hsent
  | some x =>
    rw [Option.elim_some, byteOf_layOver _ _ _ _ hj, hsent]

/-! A line that a load fills. -/

theorem MemSys.fillL1_frame (m : MemSys) (g : Msg) (alloc : Bool) (d : BitVec 1024) (poison : BitVec 128) (lease scope : Nat) :
    ∃ l1, m.fillL1 g alloc d poison lease scope = { m with l1 := l1 } := by
  unfold MemSys.fillL1
  split
  · split
    · exact ⟨_, rfl⟩
    · exact ⟨_, rfl⟩
  · split
    · exact ⟨_, rfl⟩
    · split <;> exact ⟨_, rfl⟩

theorem MemSys.l1Find_l1Set_of_key (m : MemSys) {y : L1Line} {cl line : Nat} (hcl : y.cluster = cl) (hline : y.line = line) : (m.l1Set y).l1Find cl line = some y := by
  subst hcl hline
  exact m.l1Find_l1Set_same y

/-- A load that may keep its line has it in the L1, whole and under its lease. -/
theorem MemSys.fillL1_find (m : MemSys) (g : Msg) (d : BitVec 1024) (poison : BitVec 128) (lease scope : Nat) :
    ∃ y, (m.fillL1 g true d poison lease scope).l1Find g.cluster g.line = some y ∧ y.valid = BitVec.allOnes 128 ∧ y.leaseEnd = lease := by
  unfold MemSys.fillL1
  cases hx : m.l1Find g.cluster g.line with
  | none => exact ⟨_, MemSys.l1Find_l1Set_same m _, rfl, rfl⟩
  | some x =>
    obtain ⟨hcl, hline⟩ := MemSys.l1Find_key hx
    exact ⟨_, MemSys.l1Find_l1Set_of_key m hcl hline, rfl, rfl⟩

theorem State.l1Room_frame (s : State) (cl line pa : Nat) :
    ∃ new fr l1, s.l1Room cl line pa = { s with fresh := fr, m := { s.m with msgs := s.m.msgs ++ new, l1 := l1 } } := by
  obtain h | ⟨x, -, -, h⟩ := s.l1Room_cases cl line pa
  · exact ⟨[], s.fresh, s.m.l1, by simp [h]⟩
  · obtain ⟨new, fr, heq, -, -⟩ := s.writeBack_eq x
    exact ⟨new, fr, _, h.trans heq⟩

/-- The lease that a home grants is recorded, and the next is twice as long, up to 4,096 ns. -/
theorem L2Line.grant_records (x : L2Line) (t cl : Nat) : (x.grant t cl).1.lambda = min 4096 (2 * x.lambda) ∧ (x.grant t cl).2.1 = t + x.lambda ∧
    t + x.lambda ≤ (x.grant t cl).1.lastLease := by
  refine ⟨rfl, rfl, ?_⟩
  unfold L2Line.grant L2Line.lastLease
  dsimp only
  split <;> omega

/-- The poison of the line of an access at its home. -/
def State.linePoison (s : State) (g : Msg) : BitVec 128 :=
  (s.m.l2Line g.line g.slice g.ctx g.key 0).poison ||| (if s.m.blockPoison (g.line / 4) then BitVec.allOnes 128 else 0)

/-- The line at the home after a load: its class, and where the load keeps it the lease, are noted. -/
def State.loadLine (s : State) (g : Msg) (keep : Bool) : L2Line :=
  let x := s.m.l2Line g.line g.slice g.ctx g.key 0
  { (if keep then (x.grant s.time g.cluster).1 else x) with cls := clsAfter x.cls g.cls }

/-- The state in which a load is answered. -/
def State.loadFilled (s : State) (g : Msg) (keep : Bool) : State :=
  let x := s.m.l2Line g.line g.slice g.ctx g.key 0
  let s0 := if keep then s.l1Room g.cluster g.line g.pa else s
  { s0 with m := (s0.m.l2Set (s.loadLine g keep)).fillL1 g keep x.data (s.linePoison g) (x.grant s.time g.cluster).2.1 (x.grant s.time g.cluster).2.2 }

theorem State.serveLoad_eq {s : State} {g : Msg} {ps : List Piece} {alloc : Bool} (ho : s.owned g.line = false)
    (hl : s.m.lacks g.line (if alloc || ps.isEmpty then BitVec.allOnes 128 else pieceMask ps) = false) :
    s.serveLoad g ps alloc =
      let t := s.loadFilled g (alloc && s.m.hasL1 g.cluster && !s.outdated g)
      let u := if g.passing then t.passLine g else t
      let got := s.overDirty g (s.m.l2Line g.line g.slice g.ctx g.key 0).data (s.linePoison g)
      if ps.isEmpty && g.op == 0 then u.dropMsg g.id else u.giveLoad g ps got.1 got.2 none := by
  unfold State.serveLoad
  rw [ho, hl]
  rfl

theorem State.loadFilled_frame (s : State) (g : Msg) (keep : Bool) : ∃ new fr l1 l2, s.loadFilled g keep =
    { s with fresh := fr, m := { s.m with msgs := s.m.msgs ++ new, l1 := l1, l2 := l2 } } := by
  have hroom : ∃ new fr l1, (if keep then s.l1Room g.cluster g.line g.pa else s) = { s with fresh := fr, m := { s.m with msgs := s.m.msgs ++ new, l1 := l1 } } := by
    cases keep with
    | false => exact ⟨[], s.fresh, s.m.l1, by simp⟩
    | true => exact s.l1Room_frame g.cluster g.line g.pa
  obtain ⟨new, fr, l1, hroom⟩ := hroom
  unfold State.loadFilled
  dsimp only
  rw [hroom]
  obtain ⟨l1', h⟩ := MemSys.fillL1_frame (MemSys.l2Set { s.m with msgs := s.m.msgs ++ new, l1 := l1 } (s.loadLine g keep)) g keep
    (s.m.l2Line g.line g.slice g.ctx g.key 0).data (s.linePoison g) ((s.m.l2Line g.line g.slice g.ctx g.key 0).grant s.time g.cluster).2.1
    ((s.m.l2Line g.line g.slice g.ctx g.key 0).grant s.time g.cluster).2.2
  exact ⟨new, fr, l1', _, by rw [h]; rfl⟩

/-- Passing a line on changes nothing that a load or its warp can see at once. -/
theorem State.passLine_keeps (s : State) (g : Msg) :
    (s.passLine g).w = s.w ∧ (s.passLine g).m.msgs = s.m.msgs ∧ (s.passLine g).m.dram = s.m.dram ∧ (s.passLine g).m.bank = s.m.bank := by
  unfold State.passLine
  split
  · exact ⟨rfl, rfl, rfl, rfl⟩
  · split
    · exact ⟨rfl, rfl, rfl, rfl⟩
    · split
      · exact ⟨rfl, rfl, rfl, rfl⟩
      · next m1 h =>
        obtain ⟨hdram, hbank⟩ := MemSys.pushLine_stored h
        obtain ⟨hdram', hbank'⟩ := m1.forgetL2_stored s.time (fun y => y.line == g.line)
        exact ⟨rfl, ((MemSys.pushLine_eq h).1.trans (m1.forgetL2_homes ..)).msgs_eq, hdram'.trans hdram, hbank'.trans hbank⟩

/-- A line that is kept is in the L1 under the lease that its home, with the next lease's length, records. -/
theorem State.loadFilled_lease (s : State) (g : Msg) :
    let x := s.m.l2Line g.line g.slice g.ctx g.key 0
    ∃ y z, (s.loadFilled g true).m.l1Find g.cluster g.line = some y ∧ y.valid = BitVec.allOnes 128 ∧ y.leaseEnd = s.time + x.lambda ∧
      (s.loadFilled g true).m.l2Find g.line = some z ∧ z.lambda = min 4096 (2 * x.lambda) ∧ s.time + x.lambda ≤ z.lastLease := by
  intro x
  obtain ⟨hlambda, hend, hlast⟩ := x.grant_records s.time g.cluster
  have hline : x.line = g.line := s.m.l2Line_line g.line g.slice g.ctx g.key 0
  have hm : (s.loadFilled g true).m = ((s.l1Room g.cluster g.line g.pa).m.l2Set (s.loadLine g true)).fillL1 g true x.data (s.linePoison g) (x.grant s.time g.cluster).2.1
      (x.grant s.time g.cluster).2.2 := rfl
  have hz : (s.loadLine g true).line = g.line := hline
  obtain ⟨y, hy, hvalid, hlease⟩ := MemSys.fillL1_find ((s.l1Room g.cluster g.line g.pa).m.l2Set (s.loadLine g true)) g x.data (s.linePoison g) (x.grant s.time g.cluster).2.1
    (x.grant s.time g.cluster).2.2
  refine ⟨y, s.loadLine g true, by rw [hm, hy], hvalid, hlease.trans hend, ?_, hlambda, hlast⟩
  obtain ⟨l1, hfill⟩ := MemSys.fillL1_frame ((s.l1Room g.cluster g.line g.pa).m.l2Set (s.loadLine g true)) g true x.data (s.linePoison g) (x.grant s.time g.cluster).2.1
    (x.grant s.time g.cluster).2.2
  have hset := MemSys.l2Find_l2Set (s.l1Room g.cluster g.line g.pa).m (s.loadLine g true)
  rw [hz] at hset
  rw [hm, hfill]
  exact hset

/-! Answers. -/

theorem MemSys.lacks_valid {m : MemSys} {line : Nat} {mask : BitVec 128} (h : m.lacks line mask = false) {j : Nat} (hj : mask.getLsbD j = true) :
    ∃ x, m.l2Find line = some x ∧ x.valid.getLsbD j = true := by
  unfold MemSys.lacks at h
  cases hx : m.l2Find line with
  | none =>
    rw [hx] at h
    have : mask = 0 := by simpa using h
    simp [this] at hj
  | some x =>
    rw [hx] at h
    have : mask &&& ~~~x.valid = 0 := by simpa using h
    have hbit := congrArg (·.getLsbD j) this
    have hlt := BitVec.lt_of_getLsbD hj
    exact ⟨x, rfl, by simpa [hj, hlt] using hbit⟩

theorem MemSys.l2Line_of_find {m : MemSys} {line : Nat} {x : L2Line} (h : m.l2Find line = some x) (slice ctx key : Nat) (cls : BitVec 2) :
    m.l2Line line slice ctx key cls = x := by
  unfold MemSys.l2Line
  rw [h]
  rfl

/-- The bytes that its home does not lack are those that a load sees. -/
theorem State.loaded_seen {s : State} {g : Msg} {mask : BitVec 128} (h : s.m.lacks g.line mask = false) (pz : BitVec 128) {j : Nat} (hj : mask.getLsbD j = true) :
    byteOf (s.overDirty g (s.m.l2Line g.line g.slice g.ctx g.key 0).data pz).1 j = s.m.seenByte g.cluster g.line g.key j := by
  obtain ⟨x, hx, hv⟩ := MemSys.lacks_valid h hj
  have hlt := BitVec.lt_of_getLsbD hj
  refine s.overDirty_seen g _ _ hlt ?_
  rw [MemSys.l2Line_of_find hx, MemSys.homeByte_of_l2 hx hlt hv]

/-- What an answer adds to an operation. -/
def Op.loaded (ps : List Piece) (d : BitVec 1024) (pz : BitVec 128) (o : Op) : Op :=
  { o with
    vvals := o.vvals ++ (ps.map (fun p => p.vals (numOf (bytesFrom d p.off p.size)))).flatMap Prod.fst
    svals := o.svals ++ (ps.map (fun p => p.vals (numOf (bytesFrom d p.off p.size)))).flatMap Prod.snd
    marks := o.marks ++ (ps.filter (fun p => (List.range p.size).any (fun i => pz.getLsbD (p.off + i)))).flatMap (fun p => p.marks o.offset o.opc) }

theorem State.giveLoad_eq (s : State) (g : Msg) (ps : List Piece) (d : BitVec 1024) (pz : BitVec 128) :
    s.giveLoad g ps d pz none = (s.updAny g.warp (fun w => w.gotPart g.op (Op.loaded ps d pz))).dropMsg g.id := rfl

/-- The answer to a load, to the warp that waits for it. -/
theorem State.giveLoad_finds {s : State} {g : Msg} {ps : List Piece} {d : BitVec 1024} {pz : BitVec 128} {o : Op} (hl : s.w.live = true) (hr : s.w.ref = g.warp)
    (ho : s.w.findOp g.op = some o) (hd : o.dests ≠ []) (hv : ∀ d ∈ o.dests, d.1 < 640) :
    ∃ q, (s.giveLoad g ps d pz none).w.findOp g.op = some q ∧ q.vvals = o.vvals ++ ps.flatMap (fun p => (p.vals (numOf (bytesFrom d p.off p.size))).1) := by
  have hw : (s.giveLoad g ps d pz none).w = s.w.gotPart g.op (Op.loaded ps d pz) := by
    rw [State.giveLoad_eq, ← hr]
    exact State.updAny_self hl (fun w => w.gotPart g.op (Op.loaded ps d pz))
  obtain ⟨n, hq⟩ := Warp.gotPart_finds ho (g := Op.loaded ps d pz) (fun _ => rfl) rfl hd hv
  rw [hw]
  exact ⟨_, hq, congrArg (o.vvals ++ ·) (List.flatMap_map _ _ _)⟩

/-! A load at a home. -/

section
variable {s : State} {g : Msg} {ps : List Piece} {alloc : Bool}

theorem exec_leaseGrant_home (hg : s.msgOf g.id = some g) (hk : g.kind = .fill ps alloc ∨ (g.kind = .read ps ∧ alloc = false)) (hb : s.behind g = false)
    (hh : g.line * 128 < hostBase) : exec (.leaseGrant g.id) s = .next (s.serveLoad g ps alloc) := by
  change execLeaseGrant g.id s = _
  unfold execLeaseGrant
  rw [hg]
  dsimp only
  obtain hk | ⟨hk, rfl⟩ := hk <;> simp only [hk, hb, Bool.false_eq_true, if_false, if_neg (Nat.not_le.2 hh)]

/-- Where nothing of the cluster is on its way beside the load, what it reads may stay in the L1. -/
theorem State.outdated_of_alone (h : ∀ x ∈ s.m.msgs, x.id ≠ g.id → x.cluster ≠ g.cluster) : s.outdated g = false := by
  refine List.any_eq_false.2 fun x hx => ?_
  by_cases hid : x.id = g.id
  · simp [hid]
  · simp [h x hx hid]

/-- The state in which a load's answer leaves the home. -/
def State.loadLeft (s : State) (g : Msg) (alloc : Bool) : State :=
  let t := s.loadFilled g (alloc && s.m.hasL1 g.cluster && !s.outdated g)
  if g.passing then t.passLine g else t

theorem State.loadLeft_keeps (s : State) (g : Msg) (alloc : Bool) : (s.loadLeft g alloc).w = s.w ∧ (∃ new, (s.loadLeft g alloc).m.msgs = s.m.msgs ++ new) ∧
    (s.loadLeft g alloc).m.dram = s.m.dram ∧ (s.loadLeft g alloc).m.bank = s.m.bank := by
  obtain ⟨new, fr, l1, l2, h⟩ := s.loadFilled_frame g (alloc && s.m.hasL1 g.cluster && !s.outdated g)
  unfold State.loadLeft
  dsimp only
  rw [h]
  split
  · obtain ⟨hw, hmsgs, hdram, hbank⟩ := State.passLine_keeps { s with fresh := fr, m := { s.m with msgs := s.m.msgs ++ new, l1 := l1, l2 := l2 } } g
    exact ⟨hw, ⟨new, hmsgs⟩, hdram, hbank⟩
  · exact ⟨rfl, ⟨new, rfl⟩, rfl, rfl⟩

/-- The message of a load is gone, and memory is as the answer left it. -/
theorem State.serveLoad_m (ho : s.owned g.line = false)
    (hl : s.m.lacks g.line (if alloc || ps.isEmpty then BitVec.allOnes 128 else pieceMask ps) = false) :
    (s.serveLoad g ps alloc).m = { (s.loadLeft g alloc).m with msgs := (s.loadLeft g alloc).m.msgs.filter (fun x => x.id != g.id) } := by
  rw [State.serveLoad_eq ho hl]
  dsimp only
  split <;> rfl

theorem State.serveLoad_answers (ho : s.owned g.line = false) (hl : s.m.lacks g.line (if alloc then BitVec.allOnes 128 else pieceMask ps) = false) (hps : ps ≠ [])
    {o : Op} (hlive : s.w.live = true) (hr : s.w.ref = g.warp) (hf : s.w.findOp g.op = some o) (hd : o.dests ≠ []) (hv : ∀ d ∈ o.dests, d.1 < 640) :
    ∃ (q : Op) (d : BitVec 1024), (s.serveLoad g ps alloc).w.findOp g.op = some q ∧
      (∀ j < 128, (pieceMask ps).getLsbD j = true → byteOf d j = s.m.seenByte g.cluster g.line g.key j) ∧
      q.vvals = o.vvals ++ ps.flatMap (fun p => (p.vals (numOf (bytesFrom d p.off p.size))).1) := by
  have hempty : ps.isEmpty = false := by simpa using hps
  have hlack : s.m.lacks g.line (if alloc || ps.isEmpty then BitVec.allOnes 128 else pieceMask ps) = false := by simpa [hempty] using hl
  rw [State.serveLoad_eq ho hlack, hempty, Bool.false_and, if_neg Bool.false_ne_true]
  have hw := (s.loadLeft_keeps g alloc).1
  obtain ⟨q, hq, hvals⟩ := State.giveLoad_finds (s := s.loadLeft g alloc) (g := g) (ps := ps)
    (d := (s.overDirty g (s.m.l2Line g.line g.slice g.ctx g.key 0).data (s.linePoison g)).1)
    (pz := (s.overDirty g (s.m.l2Line g.line g.slice g.ctx g.key 0).data (s.linePoison g)).2) (hw ▸ hlive) (hw ▸ hr) (hw ▸ hf) hd hv
  refine ⟨q, _, hq, fun j hj hbit => State.loaded_seen hl _ ?_, hvals⟩
  cases alloc with
  | false => exact hbit
  | true =>
    rw [if_pos rfl, BitVec.getLsbD_allOnes]
    exact decide_eq_true hj

theorem State.loadLeft_lease (ha : alloc = true) (hL : s.m.hasL1 g.cluster = true) (hlevel : g.level < 2) (halone : ∀ x ∈ s.m.msgs, x.id ≠ g.id → x.cluster ≠ g.cluster) :
    s.loadLeft g alloc = s.loadFilled g true := by
  unfold State.loadLeft
  simp [ha, hL, State.outdated_of_alone halone, Msg.passing, hlevel]

end

/-- LEASE_GRANT. -/
theorem leaseGrant_at_home (s : State) (g : Msg) (ps : List Piece) (alloc : Bool) (hg : s.msgOf g.id = some g)
    (hk : g.kind = .fill ps alloc ∨ (g.kind = .read ps ∧ alloc = false)) (hb : s.behind g = false) (hh : g.line * 128 < hostBase) (ho : s.owned g.line = false)
    (hl : s.m.lacks g.line (if alloc || ps.isEmpty then BitVec.allOnes 128 else pieceMask ps) = false) :
    ∃ t, exec (.leaseGrant g.id) s = .next t ∧ (∀ x ∈ t.m.msgs, x.id ≠ g.id) ∧ (∀ x ∈ s.m.msgs, x.id ≠ g.id → x ∈ t.m.msgs) ∧ t.m.dram = s.m.dram ∧ t.m.bank = s.m.bank ∧
      (∀ o, s.w.live = true → s.w.ref = g.warp → s.w.findOp g.op = some o → o.dests ≠ [] → (∀ d ∈ o.dests, d.1 < 640) → ps ≠ [] →
        ∃ (q : Op) (d : BitVec 1024), t.w.findOp g.op = some q ∧ (∀ j < 128, (pieceMask ps).getLsbD j = true → byteOf d j = s.m.seenByte g.cluster g.line g.key j) ∧
          q.vvals = o.vvals ++ ps.flatMap (fun p => (p.vals (numOf (bytesFrom d p.off p.size))).1)) ∧
      (alloc = true → s.m.hasL1 g.cluster = true → g.level < 2 → (∀ h ∈ s.m.msgs, h.id ≠ g.id → h.cluster ≠ g.cluster) →
        let x := s.m.l2Line g.line g.slice g.ctx g.key 0
        ∃ y z, t.m.l1Find g.cluster g.line = some y ∧ y.valid = BitVec.allOnes 128 ∧ y.leaseEnd = s.time + x.lambda ∧ t.m.l2Find g.line = some z ∧
          z.lambda = min 4096 (2 * x.lambda) ∧ s.time + x.lambda ≤ z.lastLease) := by
  obtain ⟨-, ⟨new, hmsgs⟩, hdram, hbank⟩ := s.loadLeft_keeps g alloc
  have hm := State.serveLoad_m ho hl
  refine ⟨_, exec_leaseGrant_home hg hk hb hh, ?_, ?_, ?_, ?_, ?_, ?_⟩
  · intro x hx
    rw [hm] at hx
    simpa using (List.mem_filter.1 hx).2
  · intro x hx hid
    rw [hm, hmsgs]
    exact List.mem_filter.2 ⟨List.mem_append_left _ hx, by simpa using hid⟩
  · rw [hm]
    exact hdram
  · rw [hm]
    exact hbank
  · intro o hlive hr hf hd hv hps
    exact State.serveLoad_answers ho (by simpa [hps] using hl) hps hlive hr hf hd hv
  · intro ha hL hlevel halone
    rw [hm, State.loadLeft_lease ha hL hlevel halone]
    exact s.loadFilled_lease g

end Sys2Proof.Machine
end

section
/-!
Lease expiries, writes at their homes with what follows them, and evictions (07 R200-R207, R211; 17 R355-R357).
-/
namespace Sys2Proof.Machine

theorem leaseExpiry_ends (s : State) (cl line : Nat) (x : L1Line) (hx : s.m.l1Find cl line = some x) (hend : x.leaseEnd ≤ s.time) :
    ∃ t, exec (.leaseExpiry cl line) s = .next t ∧ t = { s with m := { s.m with l1 := t.m.l1 } } ∧ t.m.l1Find cl line = some { x with leaseEnd := 0 } ∧
      ∀ c l, (c ≠ cl ∨ l ≠ line) → t.m.l1Find c l = s.m.l1Find c l := by
  obtain ⟨hcl, hline⟩ := MemSys.l1Find_key hx
  have hexec : exec (.leaseExpiry cl line) s = .next (s.updM (fun m => m.l1Set { x with leaseEnd := 0 })) := by
    change execLeaseExpiry cl line s = _
    unfold execLeaseExpiry
    rw [hx]
    dsimp only
    rw [if_pos hend]
  refine ⟨_, hexec, rfl, MemSys.l1Find_l1Set_of_key s.m hcl hline, fun c l h => s.m.l1Find_l1Set_other { x with leaseEnd := 0 } ?_⟩
  rw [show ({ x with leaseEnd := 0 } : L1Line).cluster = cl from hcl, show ({ x with leaseEnd := 0 } : L1Line).line = line from hline]
  exact h.imp Ne.symm Ne.symm

/-! What a write at its home sends and starts. -/

theorem State.followUp_frame (s : State) (a : After) : ∃ tk h, s.followUp a = { s with t := tk, h := h } := by
  unfold State.followUp
  cases a.vec with
  | none =>
    cases a.task with
    | none => exact ⟨_, _, rfl⟩
    | some x => exact ⟨_, _, rfl⟩
  | some v =>
    cases a.task with
    | none => exact ⟨_, _, rfl⟩
    | some x => exact ⟨_, _, rfl⟩

theorem State.settle_frame (s : State) : ∃ tk h, s.settle = { s with t := tk, h := h } := by
  unfold State.settle
  refine foldl_keeps (fun u : State => ∃ tk h, u = { s with t := tk, h := h }) _ ?_ _ _ ⟨_, s.h, rfl⟩
  rintro b a ⟨tk, h, rfl⟩
  obtain ⟨tk', h', heq⟩ := State.followUp_frame { s with t := tk, h := h } a
  exact ⟨tk', h', heq⟩

theorem State.pushSeq_of_no_seqs {s : State} (h : s.e.seqs = []) (line : Nat) : s.pushSeq line = s := by
  unfold State.pushSeq
  cases s.m.l2Find line with
  | none => rfl
  | some x => simp [h]

theorem State.seqBlocks_of_no_seqs {s : State} (h : s.e.seqs = []) (line : Nat) : s.seqBlocks line = false := by simp [State.seqBlocks, h]

/-- A completion time goes to each warp that a write concerns. -/
theorem State.sendAcks_eq (s : State) (g : Msg) (ws : List WRef) (wct : Nat) :
    ∃ new fr, s.sendAcks g ws wct = { s with fresh := fr, m := { s.m with acks := s.m.acks ++ new } } ∧
      ∀ w ∈ ws, w ≠ WRef.none → ∃ a ∈ new, a.warp = w ∧ a.wct = wct := by
  induction ws using List.reverseRecOn with
  | nil => exact ⟨[], s.fresh, by simp [State.sendAcks], by simp⟩
  | append_singleton ws w ih =>
    obtain ⟨new, fr, heq, hall⟩ := ih
    unfold State.sendAcks at heq ⊢
    rw [List.foldl_append, heq, List.foldl_cons, List.foldl_nil]
    by_cases hw : w = WRef.none
    · rw [if_pos hw]
      refine ⟨new, fr, rfl, fun v hv hn => ?_⟩
      rcases List.mem_append.1 hv with hv | hv
      · exact hall v hv hn
      · exact absurd ((List.mem_singleton.1 hv).trans hw) hn
    · rw [if_neg hw]
      dsimp only
      refine ⟨new ++ [⟨fr, w, if w = g.warp then g.op else 0, wct⟩], fr + 1, by rw [List.append_assoc], fun v hv hn => ?_⟩
      rcases List.mem_append.1 hv with hv | hv
      · obtain ⟨a, ha, h⟩ := hall v hv hn
        exact ⟨a, List.mem_append_left _ ha, h⟩
      · exact ⟨_, List.mem_append_right _ (List.mem_singleton_self _), (List.mem_singleton.1 hv).symm, rfl⟩

/-- A write that L2 may keep, with no sequence running. -/
theorem State.applyAt_eq {s : State} {g : Msg} (hseq : s.e.seqs = []) (hlevel : g.level < 2) (d : BitVec 1024) (mask pz : BitVec 128) (cover : Option Nat) :
    s.applyAt g d mask pz cover =
      ({ s with m := (s.m.applyWrite s.time g.line g.slice g.ctx g.key g.cls d mask pz (scopeTo (g.cluster / 48) g.slice) cover).1 },
        (s.m.applyWrite s.time g.line g.slice g.ctx g.key g.cls d mask pz (scopeTo (g.cluster / 48) g.slice) cover).2) := by
  unfold State.applyAt
  dsimp only
  rw [State.pushSeq_of_no_seqs (by exact hseq)]
  simp [hlevel]

section
variable {s : State} {g : Msg} {d : BitVec 1024} {mask pz : BitVec 128} {ws : List WRef}

/-- A message that carries bytes to their home, where nothing holds it back. -/
theorem exec_homeWriteApply_alone (hg : s.msgOf g.id = some g) (hk : g.kind = .write d mask pz none ws false) (hb : s.behind g = false) (hh : g.line * 128 < hostBase)
    (ho : s.owned g.line = false) (hseq : s.e.seqs = []) (hp : s.partner g = none) :
    exec (.homeWriteApply g.id) s = .next ((s.land g d mask pz none ws).dropMsg g.id).settle := by
  change execHomeWriteApply g.id s = _
  unfold execHomeWriteApply
  rw [hg]
  dsimp only
  rw [hk]
  dsimp only
  rw [hb, ho, State.seqBlocks_of_no_seqs hseq, Bool.and_false, if_neg (Nat.not_le.2 hh)]
  unfold State.applyMsg
  rw [hp]
  rfl

end

theorem homeWriteApply_at_home (s : State) (g : Msg) (d : BitVec 1024) (mask pz : BitVec 128) (ws : List WRef) (hg : s.msgOf g.id = some g)
    (hk : g.kind = .write d mask pz none ws false) (hb : s.behind g = false) (hh : g.line * 128 < hostBase) (ho : s.owned g.line = false) (hseq : s.e.seqs = [])
    (hp : s.partner g = none) (hlevel : g.level < 2) :
    ∃ t, exec (.homeWriteApply g.id) s = .next t ∧ t.w = s.w ∧ t.m.msgs = s.m.msgs.filter (fun x => x.id != g.id) ∧
      (s.m.l2Takes s.time g.line g.slice = true → ∀ j < 128, mask.getLsbD j = true → ∀ key, t.m.homeByte (g.line * 128 + j) key = byteOf d j) ∧
      (s.m.l2Fits g.line g.slice = true → ∀ loc key, (lineOf loc ≠ g.line ∨ mask.getLsbD (loc % 128) = false) → t.m.homeByte loc key = s.m.homeByte loc key) ∧
      (∀ w ∈ ws, w ≠ WRef.none → ∃ a ∈ t.m.acks, a.warp = w ∧ s.time ≤ a.wct ∧ (s.m.l2Line g.line g.slice g.ctx g.key 0).lastLease ≤ a.wct) := by
  have hexec := exec_homeWriteApply_alone hg hk hb hh ho hseq hp
  unfold State.land at hexec
  rw [if_neg (Nat.not_le.2 hh), State.applyAt_eq hseq hlevel] at hexec
  dsimp only at hexec
  have htakes := s.m.applyWrite_takes s.time g.line g.slice g.ctx g.key g.cls d mask pz (scopeTo (g.cluster / 48) g.slice) false
  have hwct := s.m.applyWrite_wct s.time g.line g.slice g.ctx g.key g.cls d mask pz (scopeTo (g.cluster / 48) g.slice) false
  have hmsgs := (s.m.applyWrite_homes s.time g.line g.slice g.ctx g.key g.cls d mask pz (scopeTo (g.cluster / 48) g.slice) false).msgs_eq
  have hbytes (hfits : s.m.l2Fits g.line g.slice = true) :=
    MemSys.homeByte_applyWrite hfits s.time g.ctx g.key g.cls d mask pz (scopeTo (g.cluster / 48) g.slice) false
  generalize s.m.applyWrite s.time g.line g.slice g.ctx g.key g.cls d mask pz (scopeTo (g.cluster / 48) g.slice) none = r at hexec htakes hwct hmsgs hbytes
  obtain ⟨new, fr, hacks, hall⟩ := State.sendAcks_eq { s with m := r.1 } g ws r.2
  obtain ⟨tk, h, hsettle⟩ := ((State.sendAcks { s with m := r.1 } g ws r.2).dropMsg g.id).settle_frame
  rw [hsettle, hacks] at hexec
  refine ⟨_, hexec, rfl, congrArg (List.filter _) hmsgs, fun ht j hj hbit key => ?_, fun hfits loc key hout => ?_, fun w hw hn => ?_⟩
  · refine (MemSys.homeByte_of_l2 (m := r.1) (htakes ht) hj ?_ key).trans ?_
    · rw [L2Line.wrote_valid, hbit, Bool.or_true]
    · rw [L2Line.wrote_byte hj, if_pos hbit]
  · refine (hbytes hfits loc key).trans (if_neg fun ⟨hline, hbit⟩ => ?_)
    rcases hout with hout | hout
    · exact hout hline
    · rw [hout] at hbit
      cases hbit
  · obtain ⟨a, ha, hwarp, hw⟩ := hall w hw hn
    exact ⟨a, List.mem_append_right _ ha, hwarp, hw ▸ hwct⟩

/-! Evictions. -/

theorem l1Eviction_leaves (s : State) (cl line : Nat) (x : L1Line) (hx : s.m.l1Find cl line = some x) (hv : s.m.isVictim x = true) :
    ∃ t, exec (.l1Eviction cl line) s = .next t ∧ t.w = s.w ∧ t.m.l1Find cl line = none ∧ (∀ c l, (c ≠ cl ∨ l ≠ line) → t.m.l1Find c l = s.m.l1Find c l) ∧
      (∀ loc key, t.m.homeByte loc key = s.m.homeByte loc key) ∧ (x.dirty = 0 → t.m.msgs = s.m.msgs) ∧
      (x.dirty ≠ 0 → ∃ g ∈ t.m.msgs, g.line = line ∧ g.cluster = cl ∧ ∃ pz cv ws mm, g.kind = .write x.data x.dirty pz cv ws mm) := by
  obtain ⟨hcl, hline⟩ := MemSys.l1Find_key hx
  have hexec : exec (.l1Eviction cl line) s = .next (s.writeBack x true false) := by
    change execL1Eviction cl line s = _
    unfold execL1Eviction
    rw [hx]
    dsimp only
    rw [if_pos hv]
  obtain ⟨new, fr, heq, hreturns, hsome⟩ := s.writeBack_returns x
  have hdrop := s.m.l1Find_l1Drop x.cluster x.line
  rw [heq] at hexec
  refine ⟨_, hexec, rfl, ?_, fun c l h => ?_, fun _ _ => rfl, fun hd => ?_, fun hd => ?_⟩
  · exact (hdrop cl line).trans (if_pos ⟨hcl.symm, hline.symm⟩)
  · refine (hdrop c l).trans (if_neg fun ⟨hc, hl⟩ => ?_)
    rcases h with h | h
    · exact h (hc.trans hcl)
    · exact h (hl.trans hline)
  · have hnew : new = [] := List.eq_nil_iff_forall_not_mem.2 fun g hg => (hreturns g hg).1 hd
    rw [hnew]
    exact List.append_nil _
  · obtain ⟨g, hg⟩ := hsome hd
    obtain ⟨-, -, hgcl, hgline, hkind⟩ := hreturns g hg
    exact ⟨g, List.mem_append_right _ hg, hgline.trans hline, hgcl.trans hcl, hkind⟩

/-- At a time, a floor of a slice stands for all that another stood for. -/
def Floor.Grows (t : Nat) (f f' : Floor) : Prop := f.till ≤ f'.till ∧ (t < f.till → f.scope ≤ f'.scope)

theorem Floor.Grows.refl (t : Nat) (f : Floor) : f.Grows t f := ⟨le_refl _, fun _ => le_refl _⟩
theorem Floor.Grows.trans {t : Nat} {f f' f'' : Floor} (h : f.Grows t f') (k : f'.Grows t f'') : f.Grows t f'' :=
  ⟨h.1.trans k.1, fun ht => (h.2 ht).trans (k.2 (ht.trans_le h.1))⟩

theorem MemSys.foldFloor_floor (m : MemSys) (t : Nat) (x : L2Line) (slice : Nat) : (m.foldFloor t x).floor slice =
    if x.slice = slice then ⟨slice, max (m.floor slice).till x.lastLease, max (if t < (m.floor slice).till then (m.floor slice).scope else 0) (x.widest t)⟩
    else m.floor slice := by
  by_cases h : x.slice = slice
  · subst h
    rw [if_pos rfl, MemSys.foldFloor, MemSys.floor]
    dsimp only
    rw [find?_putBy_same _ (by simp)]
    rfl
  · rw [if_neg h, MemSys.foldFloor, MemSys.floor]
    dsimp only
    rw [find?_putBy_other _ _ (fun z hz => by simp only [beq_iff_eq] at hz; simpa [hz] using h) (by simpa using h)]
    rfl

theorem MemSys.foldFloor_grows (m : MemSys) (t : Nat) (x : L2Line) (slice : Nat) : (m.floor slice).Grows t ((m.foldFloor t x).floor slice) := by
  rw [MemSys.foldFloor_floor]
  split
  · refine ⟨le_max_left _ _, fun ht => ?_⟩
    rw [if_pos ht]
    exact le_max_left _ _
  · exact .refl ..

theorem MemSys.foldFloors_grows (t : Nat) (xs : List L2Line) (m : MemSys) (slice : Nat) :
    (m.floor slice).Grows t ((xs.foldl (fun acc x => acc.foldFloor t x) m).floor slice) :=
  foldl_keeps (fun n : MemSys => (m.floor slice).Grows t (n.floor slice)) _ (fun n x h => h.trans (n.foldFloor_grows t x slice)) xs m (.refl ..)

/-- A lease that has not expired ends after the time. -/
theorem L2Line.lastLease_of_widest {x : L2Line} {t : Nat} (h : x.widest t ≠ 0) : t < x.lastLease := by
  unfold L2Line.widest at h
  unfold L2Line.lastLease
  split at h
  · omega
  · split at h
    · omega
    · split at h
      · omega
      · exact absurd rfl h

/-- Each line that is folded leaves its last lease and its widest scope in the floor of its slice. -/
theorem MemSys.foldFloors_holds (t : Nat) {xs : List L2Line} {x : L2Line} (hx : x ∈ xs) (m : MemSys) :
    x.lastLease ≤ ((xs.foldl (fun acc x => acc.foldFloor t x) m).floor x.slice).till ∧
      x.widest t ≤ ((xs.foldl (fun acc x => acc.foldFloor t x) m).floor x.slice).scope := by
  obtain ⟨as, bs, rfl⟩ := List.append_of_mem hx
  rw [List.foldl_append, List.foldl_cons]
  obtain ⟨htill, hscope⟩ := MemSys.foldFloors_grows t bs ((as.foldl (fun acc x => acc.foldFloor t x) m).foldFloor t x) x.slice
  rw [MemSys.foldFloor_floor, if_pos rfl] at htill hscope
  have hlast := (le_max_right _ _).trans htill
  refine ⟨hlast, ?_⟩
  by_cases hw : x.widest t = 0
  · omega
  · exact (le_max_right _ _).trans (hscope ((L2Line.lastLease_of_widest hw).trans_le (le_max_right _ _)))

theorem MemSys.forgetL2_floor (m : MemSys) (t : Nat) (p : L2Line → Bool) (slice : Nat) :
    (m.forgetL2 t p).floor slice = ((m.l2.filter p).foldl (fun acc x => acc.foldFloor t x) m).floor slice := rfl

/-- Forgetting lines leaves the packets that write. -/
theorem MemSys.forgetL2_packets {m : MemSys} {p : Packet} (hp : p ∈ m.packets) (hw : p.isWrite = true) (t : Nat) (q : L2Line → Bool) : p ∈ (m.forgetL2 t q).packets := by
  obtain ⟨fl, h⟩ := MemSys.foldFloors_frame t (m.l2.filter q) m
  unfold MemSys.forgetL2
  dsimp only
  rw [h]
  refine List.mem_filter.2 ⟨hp, ?_⟩
  simp only [Packet.isWrite, Bool.and_eq_true, decide_eq_true_eq] at hw
  have h0 : (p.type == 0) = false := by simpa using (show p.type ≠ 0 by omega)
  have h6 : (p.type == 6) = false := by simpa using (show p.type ≠ 6 by omega)
  simp [h0, h6]

/-- The dirty bytes of a line go down in a packet, for which a tag is free; the line stays in L2. -/
theorem MemSys.pushLine_packet {m : MemSys} (t : Nat) {x : L2Line} (htag : x.dirty = 0 ∨ (m.freeTag (unitOf (x.line * 128)) (locChannel (x.line * 128) % 32)).isSome = true)
    (hx : x ∈ m.l2) : ∃ n, m.pushLine t x = some n ∧ { x with dirty := 0 } ∈ n.l2 ∧
      (x.dirty ≠ 0 → ∃ p ∈ n.packets, p.isWrite = true ∧ p.data = lineData x.line x.data ∧ p.mask = lineMask x.line x.dirty) := by
  unfold MemSys.pushLine
  by_cases hd : x.dirty = 0
  · refine ⟨m, if_pos hd, ?_, fun h => absurd hd h⟩
    rwa [← hd]
  · obtain ⟨tag, htag⟩ := Option.isSome_iff_exists.1 (htag.resolve_left hd)
    rw [if_neg hd, MemSys.send, htag]
    refine ⟨_, rfl, List.mem_of_find?_eq_some (MemSys.l2Find_l2Set _ _), fun _ => ⟨_, List.mem_append_right _ (List.mem_singleton_self _), ?_, rfl, rfl⟩⟩
    unfold Packet.isWrite
    dsimp only
    split <;> rfl

/-- L2_EVICTION. -/
theorem l2Eviction_leaves (s : State) (line : Nat) (x : L2Line) (hx : s.m.l2Find line = some x) (ho : x.owner = none) (hr : s.m.reading line = false)
    (htag : x.dirty = 0 ∨ (s.m.freeTag (unitOf (line * 128)) (locChannel (line * 128) % 32)).isSome = true) :
    ∃ t, exec (.l2Eviction line) s = .next t ∧ t.w = s.w ∧ t.m.l2Find line = none ∧ t.m.dram = s.m.dram ∧
      max (s.m.floor x.slice).till x.lastLease ≤ (t.m.floor x.slice).till ∧ x.widest s.time ≤ (t.m.floor x.slice).scope ∧
      (s.time < (s.m.floor x.slice).till → (s.m.floor x.slice).scope ≤ (t.m.floor x.slice).scope) ∧
      (x.dirty ≠ 0 → ∃ p ∈ t.m.packets, p.isWrite = true ∧ p.data = lineData line x.data ∧ p.mask = lineMask line x.dirty) := by
  have hline := MemSys.l2Find_line hx
  obtain ⟨n, hn, hclean, hpacket⟩ := MemSys.pushLine_packet (m := s.m) s.time (x := x) (by rwa [hline]) (List.mem_of_find?_eq_some hx)
  have hexec : exec (.l2Eviction line) s = .next { s with m := n.forgetL2 s.time (fun y => y.line == line) } := by
    change execL2Eviction line s = _
    unfold execL2Eviction
    rw [hx]
    dsimp only
    rw [ho, hr, hn]
    rfl
  have hfloor : n.floor x.slice = s.m.floor x.slice := by
    unfold MemSys.floor
    rw [(MemSys.pushLine_eq hn).2.1]
  have hgrows := MemSys.foldFloors_grows s.time (n.l2.filter (fun y => y.line == line)) n x.slice
  rw [hfloor, ← MemSys.forgetL2_floor] at hgrows
  have hin : { x with dirty := 0 } ∈ n.l2.filter (fun y => y.line == line) := List.mem_filter.2 ⟨hclean, by simpa using hline⟩
  obtain ⟨hlast, hwidest⟩ := MemSys.foldFloors_holds s.time hin n
  refine ⟨_, hexec, rfl, ?_, ?_, max_le hgrows.1 hlast, hwidest, hgrows.2, fun hd => ?_⟩
  · unfold MemSys.l2Find
    rw [(n.forgetL2_l2 s.time (fun y => y.line == line)).1, List.find?_filter]
    exact List.find?_eq_none.2 fun y _ => by cases y.line == line <;> simp
  · exact (n.forgetL2_stored s.time _).1.trans (MemSys.pushLine_stored hn).1
  · obtain ⟨p, hp, hw, hdata, hmask⟩ := hpacket hd
    rw [hline] at hdata hmask
    exact ⟨p, MemSys.forgetL2_packets hp hw _ _, hw, hdata, hmask⟩

end Sys2Proof.Machine
end

section
/-!
Atomics at their homes, and attempts on host memory (06 R194, R195; 07 R202; 19 R395).
-/
namespace Sys2Proof.Machine

theorem memKind_device {loc : Nat} (h : loc < hostBase) : memKind loc = .stack ∨ memKind loc = .tier := by
  have hp : ¬ peerBase ≤ loc := by
    unfold peerBase
    unfold hostBase at h
    omega
  unfold memKind
  rw [if_neg hp, if_neg (Nat.not_le.2 h)]
  split
  · exact .inr rfl
  · exact .inl rfl

/-! One operation on the bytes of a line. -/

theorem gatherBytes_run (off : Nat) (bs : List Byte) {j : Nat} (h : j < 128) :
    (gatherBytes 128 1024 (runOf off bs)).2.getLsbD j = decide (off ≤ j ∧ j < off + bs.length) ∧
      (off ≤ j ∧ j < off + bs.length → byteOf (gatherBytes 128 1024 (runOf off bs)).1 j = bs.getD (j - off) 0) := by
  have hat := gatherBytes_at (runOf off bs) h
  unfold lastAt at hat
  rw [lastAt_runOf] at hat
  by_cases hin : off ≤ j ∧ j < off + bs.length
  · rw [if_pos hin] at hat
    split at hat
    · next hbit =>
      rw [hbit, decide_eq_true hin]
      exact ⟨rfl, fun _ => Option.some.inj hat⟩
    · cases hat
  · rw [if_neg hin] at hat
    split at hat
    · cases hat
    · next hbit =>
      rw [decide_eq_false hin]
      exact ⟨Bool.eq_false_iff.2 hbit, fun hc => absurd hc hin⟩

/-- What an operation on a line returns and writes, where its bytes are not poisoned. -/
theorem atomLine_one (o : AtomOp) (d : BitVec 1024) (pz : BitVec 128) (hp : ∀ i < o.size, pz.getLsbD (o.off + i) = false) :
    let old := leNat (bytesFrom d o.off o.size)
    ∃ e mask, atomLine [o] d pz = (e, mask, [⟨o, old, false⟩]) ∧
      (∀ y, o.new old = some y → ∀ j < 128, mask.getLsbD j = decide (o.off ≤ j ∧ j < o.off + o.size) ∧
        (o.off ≤ j ∧ j < o.off + o.size → byteOf e j = (leBytes o.size y).getD (j - o.off) 0)) ∧
      (o.new old = none → mask = 0) := by
  intro old
  have hold : numOf (bytesFrom d o.off o.size) = old := numOf_eq_leNat _
  have hclean : (List.range o.size).any (fun i => pz.getLsbD (o.off + i)) = false :=
    List.any_eq_false.2 fun i hi => by simp [hp i (List.mem_range.1 hi)]
  simp only [atomLine, List.foldl_cons, List.foldl_nil, hold, hclean, Bool.false_eq_true, if_false]
  cases hn : o.new old with
  | none => exact ⟨d, 0, rfl, fun y hy => (by cases hy), fun _ => rfl⟩
  | some y =>
    refine ⟨_, _, rfl, fun y' hy j hj => ?_, fun h => by cases h⟩
    obtain rfl := Option.some.inj hy
    obtain ⟨hmask, hbyte⟩ := gatherBytes_run o.off (bytesOf o.size y) hj
    rw [bytesOf_eq_leBytes] at hmask hbyte ⊢
    rw [leBytes_length] at hmask hbyte
    rw [byteOf_mergeBytes _ _ _ hj, hmask]
    refine ⟨by rw [BitVec.getLsbD_or, hmask]; simp, fun hin => ?_⟩
    rw [decide_eq_true hin, if_pos rfl, hbyte hin]

/-- The bytes of a line at its home are those that its home holds. -/
theorem MemSys.homeBytes_of_line {m : MemSys} {line : Nat} {d : BitVec 1024} {off n : Nat} (key : Nat)
    (h : ∀ j < n, byteOf d (off + j) = m.homeByte (line * 128 + off + j) key) : bytesFrom d off n = m.homeBytes (line * 128 + off) n key :=
  List.map_congr_left fun j hj => h j (List.mem_range.1 hj)

/-! An atomic at the home of device memory. -/

/-- What the operations of an atomic add to the operation of its warp. -/
def Op.gotAtoms (rs : List AtomGot) (code cause : Nat) (o : Op) : Op :=
  { o with
    vvals := o.vvals ++ rs.flatMap (fun r => (r.op.piece.vals r.old).1)
    marks := o.marks ++ (rs.filter (·.poison)).flatMap (fun r => r.op.piece.marks o.offset o.opc (BitVec.ofNat 8 code) (BitVec.ofNat 6 cause)) }

theorem State.giveAtoms_finds {s : State} {g : Msg} {rs : List AtomGot} {q : Op} (code cause : Nat) (hl : s.w.live = true) (hr : s.w.ref = g.warp)
    (hq : s.w.findOp g.op = some q) : (s.giveAtoms g rs code cause).w.findOp g.op = some (q.gotAtoms rs code cause) := by
  have hops : (s.giveAtoms g rs code cause).w.ops = (s.w.updOp g.op (Op.gotAtoms rs code cause)).ops := by
    unfold State.giveAtoms
    rw [← hr, State.updAny_self hl]
    rfl
  unfold Warp.findOp
  rw [hops]
  exact find?_updFirst _ (Op.gotAtoms rs code cause) (fun x hx => by simpa [Op.gotAtoms] using hx) hq

theorem State.linePoison_false {s : State} {g : Msg} {x : L2Line} (hx : s.m.l2Find g.line = some x) {j : Nat} (hj : j < 128) (hv : x.valid.getLsbD j = true)
    (h : s.m.homePoison (g.line * 128 + j) = false) : (s.linePoison g).getLsbD j = false := by
  unfold MemSys.homePoison at h
  rw [lineOf_add hj, hx, line_mod hj, show blockOf (g.line * 128 + j) = g.line / 4 by unfold blockOf; omega] at h
  simp only [hv, Bool.true_and, Bool.or_eq_false_iff] at h
  obtain ⟨⟨hline, hblock⟩, -⟩ := h
  unfold State.linePoison
  rw [MemSys.l2Line_of_find hx, hblock, BitVec.getLsbD_or, hline]
  simp

section
variable {s : State} {g : Msg} {ops : List AtomOp}

theorem exec_atomicApply_home (hg : s.msgOf g.id = some g) (hk : g.kind = .atomic ops) (hb : s.behind g = false) (hh : g.line * 128 < hostBase)
    (ho : s.owned g.line = false) (hseq : s.e.seqs = []) : exec (.atomicApply g.id) s = .next (s.atomicHome g ops) := by
  change execAtomicApply g.id s = _
  unfold execAtomicApply
  rw [hg]
  dsimp only
  rw [hk]
  dsimp only
  rw [hb, ho, State.seqBlocks_of_no_seqs hseq]
  obtain hm | hm := memKind_device hh <;> rw [hm] <;> rfl

/-- An atomic whose line is at its home, of a cluster that has no copy. -/
theorem State.atomicHome_eq (hseq : s.e.seqs = []) (hlevel : g.level < 2) (hl1 : s.m.l1Find g.cluster g.line = none)
    (hl : s.m.lacks g.line (ofBits 128 (ops.flatMap (fun o => (List.range o.size).map (o.off + ·)))) = false) :
    let r := atomLine ops (s.m.l2Line g.line g.slice g.ctx g.key 0).data (s.linePoison g)
    let w := s.m.applyWrite s.time g.line g.slice g.ctx g.key g.cls r.1 r.2.1 0 (scopeTo (g.cluster / 48) g.slice) none
    s.atomicHome g ops = ((State.giveAtoms { s with m := w.1 } g r.2.2 0x0A 0).sendAcks g [g.warp] w.2).dropMsg g.id := by
  intro r w
  have hflush : s.flushCopy g = s := by
    unfold State.flushCopy
    rw [hl1]
  have hpass : g.passing = false := by simp [Msg.passing, hlevel]
  unfold State.atomicHome
  rw [hflush]
  dsimp only
  rw [hl, State.applyAt_eq hseq hlevel, hpass]
  rfl

end

theorem atomicApply_at_home (s : State) (g : Msg) (o : AtomOp) (y : Nat) (hg : s.msgOf g.id = some g) (hk : g.kind = .atomic [o]) (hb : s.behind g = false)
    (hh : g.line * 128 < hostBase) (ho : s.owned g.line = false) (hlevel : g.level < 2) (hseq : s.e.seqs = []) (hl1 : s.m.l1Find g.cluster g.line = none)
    (hoff : o.off + o.size ≤ 128) (hl : s.m.lacks g.line (ofBits 128 ((List.range o.size).map (o.off + ·))) = false)
    (hp : ∀ j < o.size, s.m.homePoison (g.line * 128 + o.off + j) = false) :
    let base := g.line * 128 + o.off
    let old := leNat (s.m.homeBytes base o.size g.key)
    ∃ t, exec (.atomicApply g.id) s = .next t ∧ t.m.msgs = s.m.msgs.filter (fun x => x.id != g.id) ∧
      (o.new old = some y → t.m.homeBytes base o.size g.key = leBytes o.size y) ∧
      (o.new old = none → t.m.homeBytes base o.size g.key = s.m.homeBytes base o.size g.key) ∧
      (∀ loc key, ¬ (base ≤ loc ∧ loc < base + o.size) → t.m.homeByte loc key = s.m.homeByte loc key) ∧
      (∀ q, s.w.live = true → s.w.ref = g.warp → s.w.findOp g.op = some q → ∃ q', t.w.findOp g.op = some q' ∧ q'.vvals = q.vvals ++ (o.piece.vals old).1) := by
  intro base old
  have hsize : 0 < o.size := by
    unfold AtomOp.size
    split <;> decide
  have hin (i : Nat) (hi : i < o.size) : ∃ x, s.m.l2Find g.line = some x ∧ x.valid.getLsbD (o.off + i) = true := by
    refine MemSys.lacks_valid hl ?_
    rw [getLsbD_ofBits, decide_eq_true (show o.off + i < 128 by omega), Bool.true_and]
    exact List.contains_iff_mem.2 (List.mem_map_of_mem (List.mem_range.2 hi))
  obtain ⟨x, hx, -⟩ := hin 0 hsize
  have hvalid (i : Nat) (hi : i < o.size) : x.valid.getLsbD (o.off + i) = true := by
    obtain ⟨x', hx', hv⟩ := hin i hi
    rwa [Option.some.inj (hx'.symm.trans hx)] at hv
  have hfits : s.m.l2Fits g.line g.slice = true := by simp [MemSys.l2Fits, hx]
  have hbytes : bytesFrom x.data o.off o.size = s.m.homeBytes base o.size g.key :=
    MemSys.homeBytes_of_line g.key fun j hj => by
      rw [Nat.add_assoc, MemSys.homeByte_of_l2 hx (by omega) (hvalid j hj)]
  have hexec := exec_atomicApply_home hg hk hb hh ho hseq
  rw [State.atomicHome_eq hseq hlevel hl1 (by simpa using hl), MemSys.l2Line_of_find hx] at hexec
  obtain ⟨e, mask, hatom, hnew, hnone⟩ := atomLine_one o x.data (s.linePoison g) (fun i hi =>
    State.linePoison_false hx (by omega) (hvalid i hi) (by rw [← Nat.add_assoc]; exact hp i hi))
  rw [hbytes] at hatom hnew hnone
  rw [hatom] at hexec
  dsimp only at hexec
  have hhome := MemSys.homeByte_applyWrite hfits s.time g.ctx g.key g.cls e mask 0 (scopeTo (g.cluster / 48) g.slice) false
  have hmsgs := (s.m.applyWrite_homes s.time g.line g.slice g.ctx g.key g.cls e mask 0 (scopeTo (g.cluster / 48) g.slice) false).msgs_eq
  generalize s.m.applyWrite s.time g.line g.slice g.ctx g.key g.cls e mask 0 (scopeTo (g.cluster / 48) g.slice) none = w at hexec hhome hmsgs
  obtain ⟨new, fr, hacks, -⟩ := State.sendAcks_eq (State.giveAtoms { s with m := w.1 } g [⟨o, old, false⟩] 0x0A 0) g [g.warp] w.2
  rw [hacks] at hexec
  refine ⟨_, hexec, congrArg (List.filter _) hmsgs, fun hy => ?_, fun hn => ?_, fun loc key hout => ?_, fun q hlive hr hq => ?_⟩
  · refine List.ext_getElem (by simp [MemSys.homeBytes, leBytes_length]) fun i hi _ => ?_
    have hi : i < o.size := by simpa [MemSys.homeBytes] using hi
    obtain ⟨hbit, hbyte⟩ := hnew y hy (o.off + i) (by omega)
    have hloc : base + i = g.line * 128 + (o.off + i) := Nat.add_assoc _ _ _
    have hto := hhome (g.line * 128 + (o.off + i)) g.key
    rw [lineOf_add (by omega), line_mod (by omega), hbit, if_pos (by simp [hi]), hbyte (by omega), Nat.add_sub_cancel_left] at hto
    simp only [MemSys.homeBytes, List.getElem_map, List.getElem_range]
    rw [hloc]
    refine hto.trans ?_
    rw [List.getD_eq_getElem _ _ (by rw [leBytes_length]; exact hi)]
  · refine List.map_congr_left fun i _ => (hhome (base + i) g.key).trans (if_neg fun h => ?_)
    rw [hnone hn] at h
    simp at h
  · refine (hhome loc key).trans (if_neg fun ⟨hline, hbit⟩ => ?_)
    cases hn : o.new old with
    | none =>
      rw [hnone hn] at hbit
      simp at hbit
    | some z =>
      rw [(hnew z hn (loc % 128) (Nat.mod_lt _ (by decide))).1, decide_eq_true_eq] at hbit
      unfold lineOf at hline
      exact hout (by omega)
  · exact ⟨_, State.giveAtoms_finds (s := { s with m := w.1 }) 0x0A 0 hlive hr hq, by simp [Op.gotAtoms]⟩

/-! Attempts on host memory. -/

/-- Bytes written to a line of host memory. -/
theorem MemSys.pokeLine_dram (m : MemSys) (t line : Nat) (d : BitVec 1024) (mask : BitVec 128) {j : Nat} (hj : mask.getLsbD j = true) :
    (m.pokeLine t line d mask).dram.get (line * 128 + j) = byteOf d j := by
  have hdram : (m.pokeLine t line d mask).dram = m.dram.setMany ((bitList mask).map (fun i => (line * 128 + i, byteOf d i))) := by
    unfold MemSys.pokeLine
    dsimp only
    rw [if_pos (by simp)]
    rfl
  rw [hdram]
  refine Store.get_setMany_mem _ _ ?_ fun p hp he => ?_
  · rw [List.map_map]
    exact List.mem_map.2 ⟨j, mem_bitList.2 hj, rfl⟩
  · obtain ⟨i, -, rfl⟩ := List.mem_map.1 hp
    rw [show i = j from Nat.add_left_cancel he]

theorem State.dropMsg_none (s : State) (k : Nat) : (s.dropMsg k).msgOf k = none := by
  refine List.find?_eq_none.2 fun x hx => ?_
  have := (List.mem_filter.1 hx).2
  simpa using this

theorem State.atomsLeft_dram (s : State) (g : Msg) (ops : List AtomOp) : (s.atomsLeft g ops).m.dram = s.m.dram := by
  cases ops with
  | nil =>
    obtain ⟨new, fr, h, -⟩ := s.sendAcks_eq g [g.warp] 0
    unfold State.atomsLeft
    dsimp only
    rw [h]
    rfl
  | cons o ops => rfl

section
variable {s : State} {g : Msg} {o : AtomOp}

/-- An attempt is made only where the root port has the compare-and-swap of PCIe. -/
theorem exec_hostAtomicAttempt_off (hg : s.msgOf g.id = some g) (hk : g.kind = .atomic [o]) (hc : Config.rootPortCas = false) (wrote : Bool) :
    exec (.hostAtomicAttempt g.id wrote) s = .next s := by
  change execHostAtomicAttempt g.id wrote s = _
  unfold execHostAtomicAttempt
  rw [hg]
  dsimp only
  rw [hk]
  dsimp only
  rw [if_pos (.inr (.inr (.inl hc)))]

theorem exec_hostAtomicAttempt_on (hg : s.msgOf g.id = some g) (hk : g.kind = .atomic [o]) (hm : memKind (g.line * 128) = .host) (hkey : g.key ≠ 1)
    (hb : s.behind g = false) (hq : s.hostQueue g = false) (hd : o.direct = false) (hc : Config.rootPortCas = true) :
    exec (.hostAtomicAttempt g.id true) s = .next (if 63 ≤ g.tries then (s.giveAtoms g [⟨o, 0, true⟩] 0x13 0).atomsLeft g [] else s.setMsg { g with tries := g.tries + 1 }) ∧
      exec (.hostAtomicAttempt g.id false) s =
        let r := atomLine [o] (s.m.farLine g.line).1 (s.m.farLine g.line).2
        .next ((((s.updM (fun m => m.pokeLine s.time g.line r.1 r.2.1)).giveAtoms g r.2.2 0x0A 0).updAny g.warp (fun w => w.raiseHorizon s.time)).atomsLeft g []) := by
  have hgo : ¬ (memKind (g.line * 128) ≠ .host ∨ g.key = 1 ∨ Config.rootPortCas = false ∨ s.behind g = true ∨ s.hostQueue g = true ∨ [o].all AtomOp.direct = true) := by
    simp [hm, hkey, hb, hq, hd, hc]
  have hrun (wrote : Bool) : exec (.hostAtomicAttempt g.id wrote) s = execHostAtomicAttempt g.id wrote s := rfl
  refine ⟨(hrun true).trans ?_, (hrun false).trans ?_⟩
  · unfold execHostAtomicAttempt
    rw [hg]
    dsimp only
    rw [hk]
    dsimp only
    rw [if_neg hgo, if_pos rfl]
    split <;> rfl
  · unfold execHostAtomicAttempt
    rw [hg]
    dsimp only
    rw [hk]
    dsimp only
    rw [if_neg hgo, if_neg Bool.false_ne_true]

end

theorem hostAtomicAttempt_tries (s : State) (g : Msg) (o : AtomOp) (y : Nat) (hg : s.msgOf g.id = some g) (hk : g.kind = .atomic [o])
    (hm : memKind (g.line * 128) = .host) (hkey : g.key ≠ 1) (hb : s.behind g = false) (hq : s.hostQueue g = false) (hd : o.direct = false)
    (hoff : o.off + o.size ≤ 128) (hp : s.m.blockPoison (g.line / 4) = false) (hy : o.new (leNat (s.m.homeBytes (g.line * 128 + o.off) o.size 0)) = some y) :
    ∃ t u, exec (.hostAtomicAttempt g.id false) s = .next t ∧ exec (.hostAtomicAttempt g.id true) s = .next u ∧ (Config.rootPortCas = false → t = s ∧ u = s) ∧
      (Config.rootPortCas = true →
        t.msgOf g.id = none ∧ (∀ j < o.size, t.m.dram.get (g.line * 128 + o.off + j) = (leBytes o.size y).getD j 0) ∧
        u.m.dram = s.m.dram ∧ (g.tries < 63 → u.msgOf g.id = some { g with tries := g.tries + 1 }) ∧ (63 ≤ g.tries → u.msgOf g.id = none)) := by
  by_cases hc : Config.rootPortCas = false
  · exact ⟨s, s, exec_hostAtomicAttempt_off hg hk hc false, exec_hostAtomicAttempt_off hg hk hc true, fun _ => ⟨rfl, rfl⟩, fun h => absurd h (by rw [hc]; exact Bool.false_ne_true)⟩
  · obtain ⟨htrue, hfalse⟩ := exec_hostAtomicAttempt_on hg hk hm hkey hb hq hd (Bool.not_eq_false _ ▸ hc)
    have hbytes : bytesFrom (s.m.farLine g.line).1 o.off o.size = s.m.homeBytes (g.line * 128 + o.off) o.size 0 :=
      MemSys.homeBytes_of_line 0 fun j hj => by
        unfold MemSys.farLine
        dsimp only
        rw [numOf_eq_leNat, byteOf_ofNat_leNat (by simp [MemSys.homeBytes]), Nat.add_assoc]
        simp [MemSys.homeBytes, show o.off + j < 128 by omega]
    have hclean (i : Nat) : (s.m.farLine g.line).2.getLsbD i = false := by
      simp [MemSys.farLine, hp]
    obtain ⟨e, mask, hatom, hnew, -⟩ := atomLine_one o (s.m.farLine g.line).1 (s.m.farLine g.line).2 (fun i _ => hclean _)
    rw [hbytes] at hatom hnew
    rw [hatom] at hfalse
    refine ⟨_, _, hfalse, htrue, fun h => absurd h hc, fun _ => ⟨State.dropMsg_none _ _, fun j hj => ?_, ?_, fun ht => ?_, fun ht => ?_⟩⟩
    · obtain ⟨hbit, hbyte⟩ := hnew y hy (o.off + j) (by omega)
      have hpoke := s.m.pokeLine_dram s.time g.line e mask (j := o.off + j) (by rw [hbit]; exact decide_eq_true (by omega))
      rw [hbyte (by omega), Nat.add_sub_cancel_left, ← Nat.add_assoc] at hpoke
      rw [State.atomsLeft_dram]
      exact hpoke
    · split
      · rw [State.atomsLeft_dram]
        rfl
      · rfl
    · rw [if_neg (by omega)]
      exact find?_updFirst _ _ (fun x hx => by simp) hg
    · rw [if_pos ht]
      exact State.dropMsg_none _ _

/-- Settles O49: accesses at their homes, leases and evictions, an event at a time. -/
theorem homeEvents : Obligations.HomeEvents :=
  ⟨leaseGrant_at_home, leaseExpiry_ends, homeWriteApply_at_home, atomicApply_at_home, hostAtomicAttempt_tries, fun s cl line x _ => l1Eviction_leaves s cl line x, l2Eviction_leaves⟩

end Sys2Proof.Machine
end

section
/-!
Bytes applied at their homes (07 R202) whose lines L2 holds, and the blocks of a nested operand there (02 R59-R67; 06 R182, R183; 12 R262, R282).
-/
namespace Sys2Proof.Machine

/-! Bytes at places. -/

/-- The last byte that pairs of places and bytes give to a location. -/
def placed (ws : List (Phys × Byte)) (loc : Nat) : Option Byte := (ws.filterMap (fun w => if w.1.loc = loc then some w.2 else none)).getLast?

theorem placed_none {ws : List (Phys × Byte)} {loc : Nat} (h : ∀ w ∈ ws, w.1.loc ≠ loc) : placed ws loc = none := by
  unfold placed
  rw [List.getLast?_eq_none_iff, List.filterMap_eq_nil_iff]
  exact fun w hw => if_neg (h w hw)

theorem placed_some {ws : List (Phys × Byte)} (hn : (ws.map (fun w => w.1.loc)).Nodup) {w : Phys × Byte} (hw : w ∈ ws) : placed ws w.1.loc = some w.2 := by
  have hall : ∀ b ∈ ws.filterMap (fun v => if v.1.loc = w.1.loc then some v.2 else none), b = w.2 := by
    intro b hb
    obtain ⟨v, hv, hvb⟩ := List.mem_filterMap.1 hb
    split at hvb
    · next he =>
      rw [← Option.some.inj hvb, List.inj_on_of_nodup_map hn hv hw he]
    · cases hvb
  have hmem : w.2 ∈ ws.filterMap (fun v => if v.1.loc = w.1.loc then some v.2 else none) := List.mem_filterMap.2 ⟨w, hw, if_pos rfl⟩
  unfold placed
  cases hl : (ws.filterMap (fun v => if v.1.loc = w.1.loc then some v.2 else none)).getLast? with
  | none =>
    rw [List.getLast?_eq_none_iff.1 hl] at hmem
    cases hmem
  | some b => rw [hall b (List.mem_of_getLast? hl)]

/-- The bytes of one line, gathered, give each of its places the last byte for it. -/
theorem placed_line (ws : List (Phys × Byte)) {line loc : Nat} (hl : lineOf loc = line) :
    lastAt ((ws.filter (fun w => lineOf w.1.loc == line)).map (fun w => (w.1.loc % 128, w.2))) (loc % 128) = placed ws loc := by
  unfold lastAt placed
  rw [List.filterMap_map, List.filterMap_filter]
  refine congrArg List.getLast? (List.filterMap_congr fun w _ => ?_)
  unfold lineOf at hl ⊢
  by_cases hw : w.1.loc = loc
  · simp [hw, hl]
  · have hno : ¬ (w.1.loc / 128 = line ∧ w.1.loc % 128 = loc % 128) := fun ⟨h1, h2⟩ => hw (by omega)
    by_cases h1 : w.1.loc / 128 = line
    · simp [h1, hw, show ¬ w.1.loc % 128 = loc % 128 from fun h2 => hno ⟨h1, h2⟩]
    · simp [h1, hw]

/-- A write to a line for which L2 has room leaves the lines that L2 holds. -/
theorem MemSys.applyWrite_l2 {m : MemSys} {line slice : Nat} (h : m.l2Fits line slice = true) (t ctx key : Nat) (evict : BitVec 2) (data : BitVec 1024)
    (mask poison : BitVec 128) (scope : Nat) (host : Bool) {k : Nat} (hk : (m.l2Find k).isSome = true) :
    ((m.applyWrite t line slice ctx key evict data mask poison scope none host).1.l2Find k).isSome = true := by
  have hline : ((m.l2Line line slice ctx key 0).wrote ctx key evict data mask poison).line = line := m.l2Line_line line slice ctx key 0
  rw [m.applyWrite_fits _ _ _ _ _ _ _ _ _ _ _ h]
  by_cases hl : line = k
  · have hset := (m.noted t line key mask host).l2Find_l2Set ((m.l2Line line slice ctx key 0).wrote ctx key evict data mask poison)
    rw [hline, hl] at hset
    rw [hl, hset]
    rfl
  · rw [MemSys.l2Find_l2Set_other _ (by rw [hline]; exact hl)]
    obtain ⟨old, keys, hn⟩ := m.noted_eq t line key mask host
    rw [hn]
    exact hk

/-- The bytes of one line, applied at its home. -/
def MemSys.putLine (t ctx die : Nat) (evict : BitVec 2) (ws : List (Phys × Byte)) (acc : MemSys × Nat) (line : Nat) : MemSys × Nat :=
  match ws.filter (fun w => lineOf w.1.loc == line) with
  | [] => acc
  | (p, _) :: _ =>
    let (d, mask) := gatherBytes 128 1024 ((ws.filter (fun w => lineOf w.1.loc == line)).map (fun w => (w.1.loc % 128, w.2)))
    if hostBase ≤ p.loc then (acc.1.pokeLine t line d mask 0 none, max acc.2 (acc.1.farWct t line))
    else
      let (m1, w) := acc.1.applyWrite t line p.slice ctx p.key evict d mask 0 (scopeTo die p.slice) none
      (m1, max acc.2 w)

theorem MemSys.putBytes_eq (m : MemSys) (t ctx die : Nat) (ws : List (Phys × Byte)) (evict : BitVec 2) :
    m.putBytes t ctx die none ws evict = ((ws.map (fun w => lineOf w.1.loc)).dedup).foldl (MemSys.putLine t ctx die evict ws) (m, 0) := rfl

/-- What writes to lines that L2 holds leave: those lines are there still, nothing but the homes has changed, and some of the bytes have been given to their places. -/
def MemSys.Put (m n : MemSys) (ws : List (Phys × Byte)) (ls : List Nat) : Prop :=
  m.OnlyHomes n ∧ (∀ line, (m.l2Find line).isSome = true → (n.l2Find line).isSome = true) ∧
    ∀ loc key, n.homeByte loc key = if lineOf loc ∈ ls then (placed ws loc).getD (m.homeByte loc key) else m.homeByte loc key

section
variable {m n : MemSys} {ws : List (Phys × Byte)} {ls : List Nat}

theorem MemSys.Put.line (h : m.Put n ws ls) (hw : ∀ w ∈ ws, w.1.loc < hostBase ∧ (m.l2Find (lineOf w.1.loc)).isSome = true) (t ctx die : Nat) (evict : BitVec 2) (c line : Nat) :
    m.Put (MemSys.putLine t ctx die evict ws (n, c) line).1 ws (ls ++ [line]) := by
  obtain ⟨hhomes, hl2, hbyte⟩ := h
  unfold MemSys.putLine
  split
  · next hnil =>
    refine ⟨hhomes, hl2, fun loc key => (hbyte loc key).trans ?_⟩
    by_cases hl : lineOf loc = line
    · have hnone : placed ws loc = none := placed_none fun w hw he => by
        have : w ∈ ws.filter (fun w => lineOf w.1.loc == line) := List.mem_filter.2 ⟨hw, by simp [he, hl]⟩
        rw [hnil] at this
        cases this
      simp [hnone]
    · simp [hl]
  · next p b rest hcons =>
    obtain ⟨hp, hpl⟩ := List.mem_filter.1 (hcons ▸ List.mem_cons_self : (p, b) ∈ ws.filter (fun w => lineOf w.1.loc == line))
    obtain ⟨hhost, hin⟩ := hw _ hp
    have hpl : lineOf p.loc = line := by simpa using hpl
    rw [hpl] at hin
    have hgather {j : Nat} (hj : j < 128) := gatherBytes_at ((ws.filter (fun w => lineOf w.1.loc == line)).map (fun w => (w.1.loc % 128, w.2))) hj
    generalize gatherBytes 128 1024 ((ws.filter (fun w => lineOf w.1.loc == line)).map (fun w => (w.1.loc % 128, w.2))) = e at hgather
    have hfits : n.l2Fits line p.slice = true := by simp [MemSys.l2Fits, hl2 line hin]
    dsimp only
    rw [if_neg (Nat.not_le.2 hhost)]
    refine ⟨hhomes.trans (n.applyWrite_homes t line p.slice ctx p.key evict e.1 e.2 0 (scopeTo die p.slice) false), fun k hk => ?_, fun loc key => ?_⟩
    · exact MemSys.applyWrite_l2 hfits t ctx p.key evict e.1 e.2 0 (scopeTo die p.slice) false (hl2 k hk)
    · rw [MemSys.homeByte_applyWrite hfits, hbyte loc key]
      by_cases hl : lineOf loc = line
      · have := hgather (Nat.mod_lt loc (by decide : 128 > 0))
        rw [placed_line ws hl] at this
        cases hbit : e.2.getLsbD (loc % 128) with
        | true =>
          rw [hbit, if_pos rfl] at this
          simp [hl, ← this]
        | false =>
          rw [hbit, if_neg Bool.false_ne_true] at this
          simp [← this]
      · simp [hl]

/-- Bytes applied at homes in L2, each at its place. -/
theorem MemSys.putBytes_put (m : MemSys) (hw : ∀ w ∈ ws, w.1.loc < hostBase ∧ (m.l2Find (lineOf w.1.loc)).isSome = true) (t ctx die : Nat) (evict : BitVec 2) :
    m.Put (m.putBytes t ctx die none ws evict).1 ws ((ws.map (fun w => lineOf w.1.loc)).dedup) := by
  rw [MemSys.putBytes_eq]
  induction (ws.map (fun w => lineOf w.1.loc)).dedup using List.reverseRecOn with
  | nil => exact ⟨rfl, fun _ h => h, fun _ _ => by simp⟩
  | append_singleton ls line ih =>
    rw [List.foldl_append, List.foldl_cons, List.foldl_nil]
    exact ih.line hw t ctx die evict _ line

theorem MemSys.putBytes_home (m : MemSys) (hw : ∀ w ∈ ws, w.1.loc < hostBase ∧ (m.l2Find (lineOf w.1.loc)).isSome = true) (t ctx die : Nat) (evict : BitVec 2) (loc key : Nat) :
    (m.putBytes t ctx die none ws evict).1.homeByte loc key = (placed ws loc).getD (m.homeByte loc key) := by
  rw [(m.putBytes_put hw t ctx die evict).2.2 loc key]
  split
  · rfl
  · next hout =>
    rw [placed_none fun w hw he => hout (List.mem_dedup.2 (List.mem_map.2 ⟨w, hw, by rw [he]⟩))]
    rfl

end

end Sys2Proof.Machine
end

section
/-!
What the homes do for LDN, STN, the plane updates and TSEAL (06 R182, R183; 12 R262, R281-R283).
-/
namespace Sys2Proof.Machine

/-! Words of a block. -/

theorem nestWords_length (pls : List (List Byte)) : (nestWords pls).length = 32 := by simp [nestWords]

theorem stnBlock_length (k : Nat) (raw : Bool) (scale : Nat) (words : List Nat) (lanes : List NLane) : (stnBlock k raw scale words lanes).2.length = words.length := by
  unfold stnBlock
  dsimp only
  split
  · exact List.length_map _
  · exact foldl_keeps (fun ws : List Nat => ws.length = words.length) _ (fun ws x h => by rw [List.length_set, h]) _ _ rfl

theorem rescale_length (mb scale : Nat) (codes : List Nat) : (rescale mb scale codes).2.length = codes.length := by
  unfold rescale
  split
  · rfl
  · split <;> exact List.length_map _

theorem planeUpdate_length (mb fuel scale : Nat) (codes : List Nat) (upd : List Val) (h : upd.length = codes.length) :
    (planeUpdate mb fuel scale codes upd).2.length = codes.length := by
  induction fuel generalizing scale codes with
  | zero => rfl
  | succ fuel ih =>
    rw [planeUpdate]
    split
    · rfl
    · split
      · have hlen := rescale_length mb scale codes
        exact (ih _ (rescale mb scale codes).2 (h.trans hlen.symm)).trans hlen
      · simp [h]

theorem planeLane_length (what : PlaneOp) (p : Nat) (sc : Nat × List Nat) (l : NLane) (h : sc.2.length = 32) : (planeLane what p sc l).2.length = 32 := by
  have hone (what : PlaneOp) :
      (if (planeDelta what sc.1 l).isNan || (planeDelta what sc.1 l).isInf then (0xFF, sc.2.map (fun _ => 0))
        else if sc.1 = 0xFF then sc
        else planeUpdate (planeBits p) 257 sc.1 sc.2 ((List.range 32).map (fun i => if i = l.elt then planeDelta what sc.1 l else .fin false 0 0))).2.length = 32 := by
    split
    · rw [List.length_map, h]
    · split
      · exact h
      · rw [planeUpdate_length _ _ _ _ _ (by simp [h]), h]
  cases what with
  | resc => exact (rescale_length ..).trans h
  | upd => exact hone .upd
  | raw => exact hone .raw
  | axpy => exact hone .axpy

theorem planeBlock_length (what : PlaneOp) (p scale : Nat) (words : List Nat) (lanes : List NLane) (h : words.length = 32) :
    (planeBlock what p scale words lanes).2.length = 32 := by
  unfold planeBlock
  dsimp only
  rw [List.length_map]
  exact foldl_keeps (fun sc : Nat × List Nat => sc.2.length = 32) _ (fun sc l => planeLane_length what p sc l) _ _ (by rw [List.length_map, h])

theorem planeOf_length (p : Nat) {words : List Nat} (h : words.length = 32) : (planeOf p words).length = planeBytes p := by
  unfold planeOf planeBytes
  split
  · simp
  · simp
  · simp [h]
  · simp [List.length_flatMap, bytesOf, h]

/-! Regions. -/

theorem regionPlaces_zip_loc (r : Phys × Nat) {bs : List Byte} (h : bs.length = r.2) :
    ((regionPlaces r).zip bs).map (fun w => w.1.loc) = (List.range r.2).map (r.1.loc + ·) := by
  have hfst : ((regionPlaces r).zip bs).map Prod.fst = regionPlaces r := List.map_fst_zip (by simp [regionPlaces, h])
  calc ((regionPlaces r).zip bs).map (fun w => w.1.loc)
      = (((regionPlaces r).zip bs).map Prod.fst).map Phys.loc := by rw [List.map_map]; rfl
    _ = (List.range r.2).map (r.1.loc + ·) := by rw [hfst, regionPlaces, List.map_map]; rfl

/-- Each place of a region gets its byte. -/
theorem mem_regionPlaces_zip (x : Phys) {n : Nat} {bs : List Byte} (h : bs.length = n) {j : Nat} (hj : j < n) :
    ({ x with loc := x.loc + j }, bs.getD j 0) ∈ (regionPlaces (x, n)).zip bs := by
  refine List.mem_iff_getElem.2 ⟨j, by simp [regionPlaces, h, hj], ?_⟩
  simp [regionPlaces, h, hj]

/-- What a write of a whole block puts at its places. -/
def NBlock.puts (b : NBlock) (scale : Nat) (words : List Nat) : List (Phys × Byte) :=
  (regionPlaces (b.scale, 1)).zip (bytesOf 1 scale) ++
    (List.range b.planes.length).flatMap (fun p => (regionPlaces (b.planes.getD p b.scale, planeBytes p)).zip (planeOf p words))

theorem State.putNest_eq (s : State) (g : Msg) (b : NBlock) (scale : Nat) (words : List Nat) :
    s.putNest g b scale words =
      (({ s with m := (s.m.putBytes s.time g.ctx (g.cluster / 48) none (b.puts scale words) g.cls).1 } : State).pushSeqs ((b.puts scale words).map Prod.fst),
        (s.m.putBytes s.time g.ctx (g.cluster / 48) none (b.puts scale words) g.cls).2) := rfl

theorem NBlock.puts_loc (b : NBlock) (scale : Nat) {words : List Nat} (h : words.length = 32) :
    (b.puts scale words).map (fun w => w.1.loc) = b.regions.flatMap (fun x => (List.range x.2).map (x.1.loc + ·)) := by
  unfold NBlock.puts NBlock.regions
  rw [List.map_append, List.map_flatMap, List.flatMap_cons, List.flatMap_map, regionPlaces_zip_loc (b.scale, 1) (bs := bytesOf 1 scale) rfl]
  refine congrArg _ (List.flatMap_congr fun p _ => ?_)
  exact regionPlaces_zip_loc (b.planes.getD p b.scale, planeBytes p) (planeOf_length p h)

theorem NBlock.puts_scale (b : NBlock) (scale : Nat) (words : List Nat) : (b.scale, BitVec.ofNat 8 scale) ∈ b.puts scale words := by
  refine List.mem_append_left _ ?_
  have := mem_regionPlaces_zip b.scale (bs := bytesOf 1 scale) rfl Nat.zero_lt_one
  simpa [bytesOf] using this

theorem NBlock.puts_plane (b : NBlock) (scale : Nat) {words : List Nat} (h : words.length = 32) {p j : Nat} {x : Phys} (hx : b.planes[p]? = some x) (hj : j < planeBytes p) :
    ({ x with loc := x.loc + j }, (planeOf p words).getD j 0) ∈ b.puts scale words := by
  obtain ⟨hp, hpx⟩ := List.getElem?_eq_some_iff.1 hx
  refine List.mem_append_right _ (List.mem_flatMap.2 ⟨p, List.mem_range.2 hp, ?_⟩)
  rw [List.getD_eq_getElem _ _ hp, hpx]
  exact mem_regionPlaces_zip x (planeOf_length p h) hj

theorem NBlock.region_line {b : NBlock} {x : Phys × Nat} (hx : x ∈ b.regions) : lineOf x.1.loc ∈ b.lines := by
  unfold NBlock.lines
  rw [List.mem_dedup]
  rcases List.mem_cons.1 hx with rfl | hx
  · exact List.mem_cons_self
  · obtain ⟨p, hp, rfl⟩ := List.mem_map.1 hx
    have hp := List.mem_range.1 hp
    refine List.mem_cons_of_mem _ (List.mem_map.2 ⟨_, ?_, rfl⟩)
    dsimp only
    rw [List.getD_eq_getElem _ _ hp]
    exact List.getElem_mem hp

/-- The line of a region of device memory is in L2 where its home lacks no byte of it. -/
theorem MemSys.region_in_l2 {m : MemSys} {x : Phys × Nat} (hh : x.1.loc + x.2 ≤ hostBase) (hl : x.1.loc % 128 + x.2 ≤ 128) (h : m.lacksRegion x = false) {i : Nat} (hi : i < x.2) :
    lineOf (x.1.loc + i) = lineOf x.1.loc ∧ ∃ y, m.l2Find (lineOf x.1.loc) = some y ∧ y.valid.getLsbD (x.1.loc % 128 + i) = true := by
  refine ⟨by unfold lineOf; omega, MemSys.lacks_valid (mask := ofBits 128 ((List.range x.2).map (fun i => x.1.loc % 128 + i))) ?_ ?_⟩
  · unfold MemSys.lacksRegion at h
    rwa [decide_eq_true (show x.1.loc < hostBase by omega), Bool.true_and] at h
  · rw [getLsbD_ofBits, decide_eq_true (show x.1.loc % 128 + i < 128 by omega), Bool.true_and]
    exact List.contains_iff_mem.2 (List.mem_map.2 ⟨i, List.mem_range.2 hi, rfl⟩)

/-! Checks at the home. -/

theorem State.peerErr_device (s : State) {loc : Nat} (h : loc < hostBase) : s.peerErr loc = none := by
  unfold State.peerErr
  obtain hm | hm := memKind_device h <;> rw [hm] <;> rfl

theorem State.missing_none {s : State} {rs : List (Phys × Nat)} (g : Msg) (ho : ∀ r ∈ rs, s.owned (lineOf r.1.loc) = false) (hl : ∀ r ∈ rs, s.m.lacksRegion r = false) :
    s.missing g rs = none := by
  have howned : rs.any (fun r => s.owned (lineOf r.1.loc)) = false := List.any_eq_false.2 fun r hr => by simp [ho r hr]
  have hout : rs.filter s.m.lacksRegion = [] := List.filter_eq_nil_iff.2 fun r hr => by simp [hl r hr]
  unfold State.missing
  rw [howned, hout]
  rfl

theorem State.flushCopy_none {s : State} {g : Msg} (h : s.m.l1Find g.cluster g.line = none) : s.flushCopy g = s := by
  unfold State.flushCopy
  rw [h]

theorem State.flushNest_none {s : State} {g : Msg} {b : NBlock} (h : ∀ line ∈ b.lines, s.m.l1Find g.cluster line = none) : s.flushNest g b = s := by
  unfold State.flushNest
  refine List.foldlRecOn (motive := (· = s)) b.lines _ rfl fun t ht line hline => ?_
  rw [ht]
  split
  · rfl
  · exact State.flushCopy_none (h line hline)

theorem MemSys.homeByte_reclassed {m : MemSys} {line : Nat} {x : L2Line} (hx : m.l2Find line = some x) (k : BitVec 2) (loc key : Nat) :
    (m.l2Set { x with cls := k }).homeByte loc key = m.homeByte loc key := by
  have hline := MemSys.l2Find_line hx
  subst hline
  have hlow : (m.l2Set { x with cls := k }).lowByte loc key = m.lowByte loc key := rfl
  unfold MemSys.homeByte
  rw [hlow]
  by_cases hl : lineOf loc = x.line
  · have hset := m.l2Find_l2Set { x with cls := k }
    rw [hl, hset, hx]
  · rw [MemSys.l2Find_l2Set_other m (x := { x with cls := k }) fun e => hl e.symm]

/-- Where L2 may keep its lines, an act leaves them with the class of its hint. -/
theorem State.hintLines_keeps (s : State) {g : Msg} (hlevel : g.level < 2) (lines : List Nat) :
    (∃ l2, s.hintLines g lines = { s with m := { s.m with l2 := l2 } }) ∧ ∀ loc key, (s.hintLines g lines).m.homeByte loc key = s.m.homeByte loc key := by
  unfold State.hintLines
  refine foldl_keeps (fun u : State => (∃ l2, u = { s with m := { s.m with l2 := l2 } }) ∧ ∀ loc key, u.m.homeByte loc key = s.m.homeByte loc key) _ ?_ lines s
    ⟨⟨s.m.l2, rfl⟩, fun _ _ => rfl⟩
  rintro _ line ⟨⟨l2, rfl⟩, hbytes⟩
  have hpass : ({ g with line := line } : Msg).passing = false := by simp [Msg.passing, hlevel]
  dsimp only
  rw [hpass, Bool.false_and, if_neg Bool.false_ne_true]
  cases hx : ({ s.m with l2 := l2 } : MemSys).l2Find line with
  | none => exact ⟨⟨l2, by simp only [State.updM, hx]⟩, by simpa only [State.updM, hx] using hbytes⟩
  | some x =>
    refine ⟨⟨(({ s.m with l2 := l2 } : MemSys).l2Set { x with cls := clsAfter x.cls g.cls }).l2, by simp only [State.updM, hx]; rfl⟩, fun loc key => ?_⟩
    simp only [State.updM, hx]
    exact (MemSys.homeByte_reclassed hx _ loc key).trans (hbytes loc key)

theorem State.pushSeqs_of_no_seqs {s : State} (h : s.e.seqs = []) (ps : List Phys) : s.pushSeqs ps = s := by simp [State.pushSeqs, h]

end Sys2Proof.Machine
end

section
/-!
The acts of nested blocks and records at their homes, where nothing holds them back (06 R182, R183; 12 R262, R282).
-/
namespace Sys2Proof.Machine

section
variable {s : State} {g : Msg} {a : HomeAct} {b : NBlock}

theorem NBlock.scale_region (b : NBlock) : (b.scale, 1) ∈ b.regions := List.mem_cons_self

theorem State.nestReady.owned (hr : s.nestReady g a b) : ∀ line ∈ b.lines, s.owned line = false := by
  obtain ⟨-, -, -, -, -, hlines, -, -⟩ := hr
  exact fun line hline => (hlines line hline).1

theorem State.nestReady.l1Find (hr : s.nestReady g a b) : ∀ line ∈ b.lines, s.m.l1Find g.cluster line = none := by
  obtain ⟨-, -, -, -, -, hlines, -, -⟩ := hr
  exact fun line hline => (hlines line hline).2

theorem State.nestReady.level (hr : s.nestReady g a b) : g.level < 2 := by
  obtain ⟨-, -, -, hlevel, -⟩ := hr
  exact hlevel

theorem State.nestReady.no_seqs (hr : s.nestReady g a b) : s.e.seqs = [] := by
  obtain ⟨-, -, -, -, hseq, -⟩ := hr
  exact hseq

theorem State.nestReady.region (hr : s.nestReady g a b) {x : Phys × Nat} (hx : x ∈ b.regions) :
    x.1.loc + x.2 ≤ hostBase ∧ x.1.loc % 128 + x.2 ≤ 128 ∧ s.m.lacksRegion x = false ∧ s.regionPoison x = false := by
  obtain ⟨-, -, -, -, -, -, hregions, -⟩ := hr
  exact hregions x hx

theorem State.nestReady.nodup (hr : s.nestReady g a b) : (b.regions.flatMap (fun x => (List.range x.2).map (x.1.loc + ·))).Nodup := by
  obtain ⟨-, -, -, -, -, -, -, hn⟩ := hr
  exact hn

theorem State.nestReady.scale_device (hr : s.nestReady g a b) : b.scale.loc < hostBase := (hr.region b.scale_region).1

theorem State.nestReady.missing (hr : s.nestReady g a b) {rs : List (Phys × Nat)} (h : ∀ r ∈ rs, r ∈ b.regions) : s.missing g rs = none :=
  State.missing_none g (fun r hx => hr.owned _ (NBlock.region_line (h r hx))) fun r hx => (hr.region (h r hx)).2.2.1

theorem State.nestReady.clean (hr : s.nestReady g a b) {rs : List (Phys × Nat)} (h : ∀ r ∈ rs, r ∈ b.regions) : rs.any s.regionPoison = false :=
  List.any_eq_false.2 fun r hx => by simp [(hr.region (h r hx)).2.2.2]

/-- An act that reads, at its home. -/
theorem exec_leaseGrant_act (hr : s.nestReady g a b) (hw : a.writes = false) : exec (.leaseGrant g.id) s = .next (s.actHome g a) := by
  obtain ⟨hg, hk, -⟩ := hr
  change execLeaseGrant g.id s = _
  unfold execLeaseGrant
  rw [hg]
  dsimp only
  rw [hk]
  dsimp only
  rw [hw]
  rfl

theorem exec_homeWriteApply_act (hr : s.nestReady g a b) (hw : a.writes = true) : exec (.homeWriteApply g.id) s = .next (s.actHome g a) := by
  obtain ⟨hg, hk, -⟩ := hr
  change execHomeWriteApply g.id s = _
  unfold execHomeWriteApply
  rw [hg]
  dsimp only
  rw [hk]
  dsimp only
  rw [hw]
  rfl

/-- Nothing holds the act back. -/
theorem State.nestReady.goes (hr : s.nestReady g a b) (hl : a.lines = b.lines) :
    (s.behind g || (a.writes && a.lines.any (fun l => s.owned l || s.seqBlocks l))) = false := by
  have howned := hr.owned
  obtain ⟨-, -, hb, -, hseq, -⟩ := hr
  have hany : a.lines.any (fun l => s.owned l || s.seqBlocks l) = false :=
    List.any_eq_false.2 fun l hin => by simp [howned l (hl ▸ hin), State.seqBlocks_of_no_seqs hseq]
  rw [hb, hany, Bool.and_false, Bool.or_false]

/-! LDN. -/

/-- With RAW and without RNE an element's code is its word without the planes that are not read. -/
theorem ldnValue_raw (k p scale w : Nat) : ldnValue k p false true scale w = BitVec.ofNat 32 (w / 2 ^ (32 - planeWidth k) * 2 ^ (32 - planeWidth k)) := by
  have hcode : readPlanes k p false (BitVec.ofNat 32 w) = w % 2 ^ 32 / 2 ^ (32 - planeWidth k) := by simp [readPlanes]
  unfold ldnValue
  rw [if_pos rfl, widen, hcode]
  refine BitVec.eq_of_toNat_eq ?_
  rw [BitVec.toNat_ofNat, BitVec.toNat_ofNat]
  unfold planeWidth
  split <;> norm_num <;> omega

/-- What LDN's answer adds to its operation. -/
def Op.nested (reg : Nat) (vals : List (Nat × W32)) (o : Op) : Op := { o with vvals := o.vvals ++ vals.map (fun p => (reg * 32 + p.1, p.2)), marks := o.marks ++ [] }

theorem State.giveNest_eq (s : State) (g : Msg) (reg : Nat) (vals : List (Nat × W32)) :
    s.giveNest g reg vals none = (s.updAny g.warp (fun w => w.gotPart g.op (Op.nested reg vals))).dropMsg g.id := rfl

/-- LDN at a home that lacks nothing of its block. -/
theorem State.readNest_eq (hr : s.nestReady g a b) (k : Nat) (rne raw : Bool) (reg : Nat) (lanes : List NLane) :
    ∃ lines, s.readNest g b k rne raw reg lanes =
      (s.hintLines g lines).giveNest g reg (lanes.map (fun l => (l.lane, ldnValue k b.planes.length rne raw (s.blockScale b) ((s.blockWords b).getD l.elt 0)))) none := by
  have hused : ∀ r ∈ b.regions.take (1 + (if rne then min (k + 1) b.planes.length else k)), r ∈ b.regions := fun r => List.mem_of_mem_take
  unfold State.readNest
  dsimp only
  rw [s.peerErr_device hr.scale_device, hr.missing hused, hr.clean hused]
  exact ⟨_, rfl⟩

end

theorem ldn_at_home (s : State) (g : Msg) (b : NBlock) (k : Nat) (rne raw : Bool) (reg : Nat) (lanes : List NLane) (q : Op)
    (hr : s.nestReady g (.ldn b k rne raw reg lanes) b) (hlive : s.w.live = true) (href : s.w.ref = g.warp) (hq : s.w.findOp g.op = some q) (hd : q.dests ≠ [])
    (hv : ∀ d ∈ q.dests, d.1 < 640) :
    ∃ t q', exec (.leaseGrant g.id) s = .next t ∧ t.m.msgs = s.m.msgs.filter (fun x => x.id != g.id) ∧ t.m.dram = s.m.dram ∧ (∀ loc key, t.m.homeByte loc key = s.m.homeByte loc key) ∧
      t.w.findOp g.op = some q' ∧ q'.marks = q.marks ∧
      q'.vvals = q.vvals ++ lanes.map (fun l =>
        let w := (s.blockWords b).getD l.elt 0
        (reg * 32 + l.lane,
          if raw = true ∧ rne = false then BitVec.ofNat 32 (w / 2 ^ (32 - planeWidth k) * 2 ^ (32 - planeWidth k)) else ldnValue k b.planes.length rne raw (s.blockScale b) w)) := by
  obtain ⟨lines, hread⟩ := State.readNest_eq hr k rne raw reg lanes
  have hexec : exec (.leaseGrant g.id) s = .next (s.readNest g b k rne raw reg lanes) := by
    rw [exec_leaseGrant_act hr rfl, State.actHome, hr.goes rfl]
    rfl
  obtain ⟨⟨l2, hhint⟩, hbytes⟩ := s.hintLines_keeps hr.level lines
  have hw : (s.hintLines g lines).w = s.w := by rw [hhint]
  have hdram : (s.hintLines g lines).m.dram = s.m.dram := by rw [hhint]
  have hmsgs : (s.hintLines g lines).m.msgs = s.m.msgs := by rw [hhint]
  generalize hvals : lanes.map (fun l => (l.lane, ldnValue k b.planes.length rne raw (s.blockScale b) ((s.blockWords b).getD l.elt 0))) = vals at hread
  obtain ⟨n, hfound⟩ := Warp.gotPart_finds hq (g := Op.nested reg vals) (fun _ => rfl) rfl hd hv
  rw [hread, State.giveNest_eq] at hexec
  refine ⟨_, { q.nested reg vals with parts := n }, hexec, ?_, ?_, hbytes, ?_, List.append_nil _, ?_⟩
  · exact congrArg (List.filter (fun x => x.id != g.id)) hmsgs
  · exact hdram
  · refine Eq.trans (congrArg (fun w : Warp => w.findOp g.op) ?_) hfound
    have hself := State.updAny_self (s := s.hintLines g lines) (hw ▸ hlive) (fun w => w.gotPart g.op (Op.nested reg vals))
    rwa [hw, href] at hself
  · refine congrArg (q.vvals ++ ·) ?_
    rw [← hvals, List.map_map]
    refine List.map_congr_left fun l _ => ?_
    dsimp only [Function.comp]
    split
    · next h =>
      obtain ⟨rfl, rfl⟩ := h
      rw [ldnValue_raw]
    · rfl

/-! STN and the plane updates. -/

/-- An act at a home leaves its completion time with its warp, and its message is gone. -/
theorem State.sendAcks_own (s : State) (g : Msg) (wct : Nat) : ∃ u, (s.sendAcks g [g.warp] wct).dropMsg g.id = u ∧ u.w = s.w ∧
    u.m.msgs = s.m.msgs.filter (fun x => x.id != g.id) ∧ (g.warp ≠ WRef.none → ∃ x ∈ u.m.acks, x.warp = g.warp ∧ x.op = g.op) ∧
    ∀ loc key, u.m.homeByte loc key = s.m.homeByte loc key := by
  unfold State.sendAcks
  rw [List.foldl_cons, List.foldl_nil]
  by_cases hw : g.warp = WRef.none
  · rw [if_pos hw]
    exact ⟨_, rfl, rfl, rfl, fun h => absurd hw h, fun _ _ => rfl⟩
  · rw [if_neg hw]
    exact ⟨_, rfl, rfl, rfl, fun _ => ⟨_, List.mem_append_right _ (List.mem_singleton_self _), rfl, if_pos rfl⟩, fun _ _ => rfl⟩

section
variable {s : State} {g : Msg} {a : HomeAct} {b : NBlock}

/-- Every place of a block is a byte of device memory whose line L2 holds. -/
theorem State.nestReady.puts_in_l2 (hr : s.nestReady g a b) (scale : Nat) {words : List Nat} (hlen : words.length = 32) :
    ∀ w ∈ b.puts scale words, w.1.loc < hostBase ∧ (s.m.l2Find (lineOf w.1.loc)).isSome = true := by
  intro w hw
  have hloc : w.1.loc ∈ b.regions.flatMap (fun x => (List.range x.2).map (x.1.loc + ·)) := b.puts_loc scale hlen ▸ List.mem_map_of_mem hw
  obtain ⟨x, hx, hi⟩ := List.mem_flatMap.1 hloc
  obtain ⟨i, hi, he⟩ := List.mem_map.1 hi
  have hi := List.mem_range.1 hi
  obtain ⟨hhost, hfit, hlack, -⟩ := hr.region hx
  obtain ⟨hline, y, hy, -⟩ := MemSys.region_in_l2 hhost hfit hlack hi
  rw [← he, hline, hy]
  exact ⟨by omega, rfl⟩

/-- An act that changes a block, at a home that lacks nothing of it. -/
theorem State.changeNest_eq (hr : s.nestReady g a b) (lanes : List NLane) (f : Nat → List Nat → Nat × List Nat) :
    let r := f (s.blockScale b) (s.blockWords b)
    let p := s.m.putBytes s.time g.ctx (g.cluster / 48) none (b.puts r.1 r.2) g.cls
    s.changeNest g b lanes f = ((State.hintLines { s with m := p.1 } g b.lines).sendAcks g [g.warp] p.2).dropMsg g.id := by
  intro r p
  have hseqs : State.pushSeqs { s with m := p.1 } ((b.puts r.1 r.2).map Prod.fst) = { s with m := p.1 } := State.pushSeqs_of_no_seqs (by exact hr.no_seqs) _
  unfold State.changeNest
  rw [s.peerErr_device hr.scale_device]
  dsimp only
  rw [State.flushNest_none hr.l1Find, hr.missing (fun _ h => h), hr.clean (fun _ h => h), State.putNest_eq, hseqs]
  rfl

theorem changed_at_home (hr : s.nestReady g a b) (lanes : List NLane) (f : Nat → List Nat → Nat × List Nat) (hlen : (f (s.blockScale b) (s.blockWords b)).2.length = 32) :
    let r := f (s.blockScale b) (s.blockWords b)
    ∃ t, s.changeNest g b lanes f = t ∧ t.w = s.w ∧ t.m.msgs = s.m.msgs.filter (fun x => x.id != g.id) ∧ (g.warp ≠ WRef.none → ∃ x ∈ t.m.acks, x.warp = g.warp ∧ x.op = g.op) ∧
      (∀ key, t.m.homeByte b.scale.loc key = BitVec.ofNat 8 r.1) ∧
      (∀ (p j : Nat) (x : Phys), b.planes[p]? = some x → j < planeBytes p → ∀ key, t.m.homeByte (x.loc + j) key = (planeOf p r.2).getD j 0) ∧
      (∀ loc key, (∀ x ∈ b.regions, ¬ (x.1.loc ≤ loc ∧ loc < x.1.loc + x.2)) → t.m.homeByte loc key = s.m.homeByte loc key) := by
  intro r
  have hin := hr.puts_in_l2 r.1 hlen
  have hnodup : ((b.puts r.1 r.2).map (fun w => w.1.loc)).Nodup := b.puts_loc r.1 hlen ▸ hr.nodup
  have hhomes := (s.m.putBytes_put hin s.time g.ctx (g.cluster / 48) g.cls).1.msgs_eq
  have hput := s.m.putBytes_home hin s.time g.ctx (g.cluster / 48) g.cls
  have heq := State.changeNest_eq hr lanes f
  dsimp only at heq
  generalize s.m.putBytes s.time g.ctx (g.cluster / 48) none (b.puts r.1 r.2) g.cls = p at hhomes hput heq
  obtain ⟨⟨l2, hhint⟩, hclass⟩ := State.hintLines_keeps { s with m := p.1 } hr.level b.lines
  obtain ⟨u, hu, hw, hmsgs, hacks, hbytes⟩ := (State.hintLines { s with m := p.1 } g b.lines).sendAcks_own g p.2
  have hall (loc key : Nat) : u.m.homeByte loc key = (placed (b.puts r.1 r.2) loc).getD (s.m.homeByte loc key) :=
    ((hbytes loc key).trans (hclass loc key)).trans (hput loc key)
  refine ⟨u, heq.trans hu, hw.trans (by rw [hhint]), hmsgs.trans (by rw [hhint]; exact congrArg (List.filter _) hhomes), hacks, fun key => ?_, fun q j x hx hj key => ?_,
    fun loc key hout => ?_⟩
  · rw [hall, placed_some hnodup (b.puts_scale r.1 r.2)]
    rfl
  · rw [hall, placed_some hnodup (b.puts_plane r.1 hlen hx hj)]
    rfl
  · rw [hall, placed_none fun w hw he => ?_]
    · rfl
    · have hloc : w.1.loc ∈ b.regions.flatMap (fun x => (List.range x.2).map (x.1.loc + ·)) := b.puts_loc r.1 hlen ▸ List.mem_map_of_mem hw
      obtain ⟨x, hx, hi⟩ := List.mem_flatMap.1 hloc
      obtain ⟨i, hi, hxi⟩ := List.mem_map.1 hi
      have hi := List.mem_range.1 hi
      exact hout x hx (by omega)

end

theorem planes_at_home (s : State) (g : Msg) (b : NBlock) (a : HomeAct) (h : Nat → List Nat → Nat × List Nat)
    (ha : (∃ k raw lanes, a = .stn b k raw lanes ∧ h = fun sc ws => stnBlock k raw sc ws lanes) ∨
      (∃ what lanes, a = .plane b what lanes ∧ h = fun sc ws => planeBlock what b.planes.length sc ws lanes))
    (hr : s.nestReady g a b) :
    let r := h (s.blockScale b) (s.blockWords b)
    ∃ t, exec (.homeWriteApply g.id) s = .next t ∧ t.w = s.w ∧ t.m.msgs = s.m.msgs.filter (fun x => x.id != g.id) ∧ (g.warp ≠ WRef.none → ∃ x ∈ t.m.acks, x.warp = g.warp ∧ x.op = g.op) ∧
      (∀ key, t.m.homeByte b.scale.loc key = BitVec.ofNat 8 r.1) ∧
      (∀ (p j : Nat) (x : Phys), b.planes[p]? = some x → j < planeBytes p → ∀ key, t.m.homeByte (x.loc + j) key = (planeOf p r.2).getD j 0) ∧
      (∀ loc key, (∀ x ∈ b.regions, ¬ (x.1.loc ≤ loc ∧ loc < x.1.loc + x.2)) → t.m.homeByte loc key = s.m.homeByte loc key) := by
  have hwords : (s.blockWords b).length = 32 := nestWords_length _
  obtain ⟨k, raw, lanes, rfl, rfl⟩ | ⟨what, lanes, rfl, rfl⟩ := ha
  · have hexec : exec (.homeWriteApply g.id) s = .next (s.changeNest g b lanes (fun sc ws => stnBlock k raw sc ws lanes)) := by
      rw [exec_homeWriteApply_act hr rfl, State.actHome, hr.goes rfl]
      rfl
    obtain ⟨t, ht, hrest⟩ := changed_at_home hr lanes (fun sc ws => stnBlock k raw sc ws lanes) ((stnBlock_length ..).trans hwords)
    exact ⟨t, by rw [hexec, ht], hrest⟩
  · have hexec : exec (.homeWriteApply g.id) s = .next (s.changeNest g b lanes (fun sc ws => planeBlock what b.planes.length sc ws lanes)) := by
      rw [exec_homeWriteApply_act hr rfl, State.actHome, hr.goes rfl]
      rfl
    obtain ⟨t, ht, hrest⟩ := changed_at_home hr lanes (fun sc ws => planeBlock what b.planes.length sc ws lanes) (planeBlock_length _ _ _ _ _ hwords)
    exact ⟨t, by rw [hexec, ht], hrest⟩

/-! TSEAL. -/

/-- What TSEAL puts at its record's last four bytes. -/
def sealPuts (p : Phys) (x : Nat) : List (Phys × Byte) := ((regionPlaces (p, 64)).drop 60).zip (bytesOf 4 x)

theorem sealPuts_eq (p : Phys) (x : Nat) : sealPuts p x = (regionPlaces ({ p with loc := p.loc + 60 }, 4)).zip (bytesOf 4 x) := by
  unfold sealPuts regionPlaces
  rw [← List.map_drop]
  rfl

theorem seal_at_home (s : State) (g : Msg) (p : Phys) (lane : Nat) (hg : g.line = lineOf p.loc) (hp : p.loc % 64 = 0) (hr : s.nestReady g (.seal p lane) ⟨p, []⟩)
    (hm : s.missing g [(p, 60)] = none) (hc : s.regionPoison (p, 60) = false) :
    let x := (crc32c ((List.range 60).map (fun j => s.m.homeByte (p.loc + j) p.key))).toNat
    ∃ t, exec (.homeWriteApply g.id) s = .next t ∧ t.w = s.w ∧ t.m.msgs = s.m.msgs.filter (fun x => x.id != g.id) ∧ (g.warp ≠ WRef.none → ∃ x ∈ t.m.acks, x.warp = g.warp ∧ x.op = g.op) ∧
      (∀ j < 4, ∀ key, t.m.homeByte (p.loc + 60 + j) key = (leBytes 4 x).getD j 0) ∧
      (∀ loc key, ¬ (p.loc + 60 ≤ loc ∧ loc < p.loc + 64) → t.m.homeByte loc key = s.m.homeByte loc key) := by
  intro x
  have hline : lineOf p.loc ∈ (NBlock.mk p []).lines := NBlock.region_line (NBlock.scale_region ⟨p, []⟩)
  have hl1 : s.m.l1Find g.cluster g.line = none := hg ▸ hr.l1Find _ hline
  obtain ⟨hhost, hfit, hlack, -⟩ := hr.region (NBlock.scale_region ⟨p, []⟩)
  obtain ⟨-, y, hy, -⟩ := MemSys.region_in_l2 hhost hfit hlack (i := 0) Nat.zero_lt_one
  have hdev : p.loc < hostBase := hhost
  have hloc : (sealPuts p x).map (fun w => w.1.loc) = (List.range 4).map (p.loc + 60 + ·) := by
    rw [sealPuts_eq]
    exact regionPlaces_zip_loc ({ p with loc := p.loc + 60 }, 4) (bs := bytesOf 4 x) rfl
  have hplace : ∀ w ∈ sealPuts p x, ∃ i < 4, w.1.loc = p.loc + 60 + i := fun w hw => by
    have : w.1.loc ∈ (List.range 4).map (p.loc + 60 + ·) := hloc ▸ List.mem_map_of_mem hw
    obtain ⟨i, hi, he⟩ := List.mem_map.1 this
    exact ⟨i, List.mem_range.1 hi, he.symm⟩
  have hin : ∀ w ∈ sealPuts p x, w.1.loc < hostBase ∧ (s.m.l2Find (lineOf w.1.loc)).isSome = true := fun w hw => by
    obtain ⟨i, hi, he⟩ := hplace w hw
    rw [show lineOf w.1.loc = lineOf p.loc by unfold lineOf; omega, hy]
    unfold hostBase at hdev ⊢
    exact ⟨by omega, rfl⟩
  have hnodup : ((sealPuts p x).map (fun w => w.1.loc)).Nodup := by
    rw [hloc]
    exact (List.nodup_range).map (fun i j h => by simpa using h)
  have hhomes := (s.m.putBytes_put hin s.time g.ctx (g.cluster / 48) 0).1.msgs_eq
  have hput := s.m.putBytes_home hin s.time g.ctx (g.cluster / 48) 0
  have hcrc : (crc32c (s.regionBytes (p, 60))).toNat = x := by
    unfold State.regionBytes regionPlaces MemSys.placeBytes
    rw [List.map_map]
    rfl
  have hexec : exec (.homeWriteApply g.id) s = .next
      ((State.sendAcks { s with m := (s.m.putBytes s.time g.ctx (g.cluster / 48) none (sealPuts p x) 0).1 } g [g.warp]
        (s.m.putBytes s.time g.ctx (g.cluster / 48) none (sealPuts p x) 0).2).dropMsg g.id) := by
    have hseqs : State.pushSeqs { s with m := (s.m.putBytes s.time g.ctx (g.cluster / 48) none (sealPuts p x) 0).1 } ((sealPuts p x).map Prod.fst) =
        { s with m := (s.m.putBytes s.time g.ctx (g.cluster / 48) none (sealPuts p x) 0).1 } := State.pushSeqs_of_no_seqs (by exact hr.no_seqs) _
    rw [exec_homeWriteApply_act hr rfl, State.actHome, hr.goes rfl, if_neg Bool.false_ne_true]
    unfold State.sealRecord
    rw [s.peerErr_device hdev]
    dsimp only
    rw [State.flushCopy_none hl1, hm, hc, hcrc]
    exact congrArg (fun u : State => Host.Outcome.next ((u.sendAcks g [g.warp] _).dropMsg g.id)) hseqs
  generalize s.m.putBytes s.time g.ctx (g.cluster / 48) none (sealPuts p x) 0 = r at hhomes hput hexec
  obtain ⟨u, hu, hw, hmsgs, hacks, hbytes⟩ := State.sendAcks_own { s with m := r.1 } g r.2
  refine ⟨u, by rw [hexec, hu], hw, hmsgs.trans (congrArg (List.filter _) hhomes), hacks, fun j hj key => ?_, fun loc key hout => ?_⟩
  · have hmem : ({ p with loc := p.loc + 60 + j }, (bytesOf 4 x).getD j 0) ∈ sealPuts p x := by
      rw [sealPuts_eq]
      exact mem_regionPlaces_zip { p with loc := p.loc + 60 } (bs := bytesOf 4 x) rfl hj
    refine ((hbytes _ key).trans (hput _ key)).trans ?_
    rw [placed_some hnodup hmem, bytesOf_eq_leBytes]
    rfl
  · refine ((hbytes _ key).trans (hput _ key)).trans ?_
    rw [placed_none fun w hw he => ?_]
    · rfl
    · obtain ⟨i, hi, hwl⟩ := hplace w hw
      exact hout (by omega)

end Sys2Proof.Machine
end

section
/-!
LDN, STN, the plane updates and TSEAL at their issue (06 R181-R183; 12 R262, R281-R283).
-/
namespace Sys2Proof.Machine

/-! The messages of the blocks. -/

/-- One message more is on its way. -/
theorem State.post_eq (s : State) (f : Fields) {op : Nat} (hop : op ≠ 0) (p : Phys) (kind : MsgKind) :
    ∃ g : Msg, s.post f op p kind = { s with fresh := s.fresh + 1, m := { s.m with msgs := s.m.msgs ++ [g] } } ∧ g.op = op ∧ g.warp = s.w.ref ∧ g.cluster = s.w.cl ∧
      g.line = lineOf p.loc ∧ g.kind = kind := ⟨_, rfl, rfl, if_neg hop, rfl, rfl, rfl⟩

/-- A message goes to the home of a block that lanes name, with what is asked of it. -/
def State.NestSent (s : State) (op : Nat) (as : List BlockAim) (act : NBlock → List NLane → HomeAct) (n : Nat) (g : Msg) : Prop :=
  g.op = op ∧ g.warp = s.w.ref ∧ g.cluster = s.w.cl ∧
    ∃ a, as.find? (fun a => a.num == n) = some a ∧ g.line = lineOf a.blk.scale.loc ∧ g.kind = .act (act a.blk (blockLanes as n))

theorem State.postNest_eq (s : State) (f : Fields) {op : Nat} (hop : op ≠ 0) (as : List BlockAim) (act : NBlock → List NLane → HomeAct) :
    ∃ new fr, s.postNest f op as act = { s with fresh := fr, m := { s.m with msgs := s.m.msgs ++ new } } ∧
      List.Forall₂ (s.NestSent op as act) ((as.map (·.num)).dedup) new := by
  unfold State.postNest
  have hnamed : ∀ n ∈ (as.map (·.num)).dedup, ∃ a, as.find? (fun a => a.num == n) = some a := fun n hn => by
    obtain ⟨a, ha, rfl⟩ := List.mem_map.1 (List.mem_dedup.1 hn)
    exact Option.isSome_iff_exists.1 (List.find?_isSome.2 ⟨a, ha, by simp⟩)
  generalize (as.map (·.num)).dedup = ns at hnamed
  induction ns using List.reverseRecOn with
  | nil => exact ⟨[], s.fresh, by simp, .nil⟩
  | append_singleton ns n ih =>
    obtain ⟨new, fr, heq, hsent⟩ := ih fun k hk => hnamed k (List.mem_append_left _ hk)
    obtain ⟨a, ha⟩ := hnamed n (by simp)
    rw [List.foldl_append, heq, List.foldl_cons, List.foldl_nil, ha]
    dsimp only
    obtain ⟨g, hpost, hop', hwarp, hcl, hline, hkind⟩ := State.post_eq { s with fresh := fr, m := { s.m with msgs := s.m.msgs ++ new } } f hop a.blk.scale
      (.act (act a.blk (blockLanes as n)))
    rw [hpost]
    dsimp only
    exact ⟨_, _, by rw [List.append_assoc], List.rel_append hsent (.cons ⟨hop', hwarp, hcl, a, ha, hline, hkind⟩ .nil)⟩

section
variable {s : State} {op : Nat} {as : List BlockAim} {act : NBlock → List NLane → HomeAct} {ns : List Nat} {new : List Msg}

/-- Each of them waits for its reply. -/
theorem State.NestSent.parts (h : List.Forall₂ (s.NestSent op as act) ns new) : new.filter (fun g => g.op == op && g.warp == s.w.ref) = new := by
  rw [List.filter_eq_self]
  intro g hg
  induction h with
  | nil => cases hg
  | cons hsent _ ih =>
    rcases List.mem_cons.1 hg with rfl | hg
    · obtain ⟨hop, hwarp, -⟩ := hsent
      simp [hop, hwarp]
    · exact ih hg

end

/-! The checks. -/

/-- A record and blocks that pass every check. -/
theorem Ctx.nestAims_good (c : Ctx) {s : State} {need : Need} {ra : W64} {rec : TRec} {xs : List (NLane × Nat)} {blk : Nat → NBlock} (acc : Nat)
    (hrec : s.recordAt s.w.id.core s.w.ctx ra = .ok rec) (hfmt : rec.fmt = 7) (hblk : ∀ x ∈ xs, s.nblock s.w.id.core s.w.ctx need rec x.2 = .ok (blk x.2)) :
    c.nestAims s need acc ra xs = .ok (rec, xs.map (fun x => ⟨x.1, x.2, blk x.2⟩)) := by
  have htried : xs.map (fun l => (l, s.nblock s.w.id.core s.w.ctx need rec l.2)) = xs.map (fun l => (l, .ok (blk l.2))) :=
    List.map_congr_left fun x hx => by rw [hblk x hx]
  unfold Ctx.nestAims
  dsimp only
  rw [hrec]
  dsimp only
  rw [if_neg (by simp [hfmt]), htried]
  simp only [List.filterMap_map, Function.comp_def, List.filterMap_none, ne_eq, not_true_eq_false, if_false]
  simp

/-! The effects. -/

/-- The blocks that lanes name. -/
def nestAimsOf (c : Ctx) (elt : Nat → NLane) (num : Nat → Nat) (blk : Nat → NBlock) : List BlockAim := (bitList c.g).map (fun l => ⟨elt l, num l, blk (num l)⟩)

theorem nestBusy_false {c : Ctx} {s : State} {elt : Nat → NLane} {num : Nat → Nat} {blk : Nat → NBlock} (hacq : s.w.acquiring = false)
    (hfree : ∀ l ∈ bitList c.g, ∀ line ∈ (blk (num l)).lines, s.lineBusy line = false) : s.nestBusy (nestAimsOf c elt num blk) = false := by
  have hany : (nestAimsOf c elt num blk).any (fun a => a.blk.lines.any s.lineBusy) = false := by
    refine List.any_eq_false.2 fun a ha => ?_
    obtain ⟨l, hl, rfl⟩ := List.mem_map.1 ha
    rw [Bool.not_eq_true, List.any_eq_false]
    exact fun line hline => by simp [hfree l hl line hline]
  unfold State.nestBusy
  rw [hacq, hany]
  rfl

/-- The checks of an instruction on a record with good blocks. -/
structure NestGood (f : Fields) (c : Ctx) (s : State) (whole : Bool) (need : Need) (ra : W64) (rec : TRec) (blk : Nat → NBlock) : Prop where
  uniform : c.uni64 s f.a = some ra
  record : s.recordAt s.w.id.core s.w.ctx ra = .ok rec
  nested : rec.fmt = 7
  blocks : ∀ l ∈ bitList c.g, s.nblock s.w.id.core s.w.ctx need rec (nestLane f s whole l).2 = .ok (blk (nestLane f s whole l).2)
  free : ∀ l ∈ bitList c.g, ∀ line ∈ (blk (nestLane f s whole l).2).lines, s.lineBusy line = false
  open_ : s.w.acquiring = false

/-- The state in which the messages to the blocks that lanes name have been sent. -/
def State.nestPosted (s : State) (f : Fields) (c : Ctx) (whole : Bool) (ra : W64) (blk : Nat → NBlock) (act : NBlock → List NLane → HomeAct) : State :=
  (s.touch s.w.id.core s.w.ctx ra).postNest f c.id (nestAimsOf c (fun l => (nestLane f s whole l).1) (fun l => (nestLane f s whole l).2) blk) act

/-- What an operation on nested blocks waits for. -/
def Op.WaitsFor (o : Op) (c : Ctx) (dests : List (Nat × Lanes)) (parts : Nat) : Prop :=
  o.id = c.id ∧ o.slot = slotOf c.f ∧ o.dests = dests ∧ o.parts = parts ∧ o.ready = none

section
variable {f : Fields} {c : Ctx} {s : State} {whole : Bool} {need : Need} {ra : W64} {rec : TRec} {blk : Nat → NBlock}

theorem NestGood.aims (h : NestGood f c s whole need ra rec blk) (acc : Nat) : c.nestAims s need acc ra ((bitList c.g).map (nestLane f s whole)) =
    .ok (rec, nestAimsOf c (fun l => (nestLane f s whole l).1) (fun l => (nestLane f s whole l).2) blk) := by
  rw [c.nestAims_good acc h.record h.nested (blk := blk) fun x hx => ?_]
  · rw [List.map_map]
    rfl
  · obtain ⟨l, hl, rfl⟩ := List.mem_map.1 hx
    exact h.blocks l hl

theorem ldnEff_good (h : NestGood f c s false .read ra rec blk) {r : Nat} (hd : f.d = .v r) :
    let s1 := s.nestPosted f c false ra blk (fun b ls => .ldn b (min (f.subBits 1 0 + 1) rec.planes) (f.subBits 2 2 = 1) (f.subBits 3 3 = 1) r ls)
    ∃ o : Op, ldnEff f c s = .ok { st := s1, op := some o } ∧ o.WaitsFor c [(r, c.g)] (s1.partsOf c.id) := by
  intro s1
  unfold ldnEff
  rw [h.uniform]
  dsimp only
  rw [h.aims, hd]
  dsimp only
  rw [nestBusy_false h.open_ h.free, if_neg Bool.false_ne_true]
  exact ⟨_, rfl, rfl, rfl, rfl, rfl, rfl⟩

theorem Ctx.writeOp_of_sent {c : Ctx} {s : State} (h : s.partsOf c.id ≠ 0) : c.writeOp s = some { c.op with parts := s.partsOf c.id, isWrite := true } := if_neg h

theorem changeEff_good {acc : Nat} {act : TRec → NBlock → List NLane → HomeAct} (h : NestGood f c s whole need ra rec blk) :
    let s1 := s.nestPosted f c whole ra blk (act rec)
    s1.partsOf c.id ≠ 0 → ∃ o : Op, changeEff f whole need acc act c s = .ok { st := s1, op := some o } ∧ o.WaitsFor c [] (s1.partsOf c.id) := by
  intro s1 hparts
  unfold changeEff
  rw [h.uniform]
  dsimp only
  rw [h.aims]
  dsimp only
  rw [nestBusy_false h.open_ h.free, if_neg Bool.false_ne_true]
  exact ⟨_, congrArg (fun op => (Eff.ok { st := s1, op := op }).aimed _) (Ctx.writeOp_of_sent hparts), rfl, rfl, rfl, rfl, rfl⟩

end

/-! The issue. -/

/-- The state in which the messages of the blocks have been sent. -/
theorem State.touchPost_eq (s : State) (f : Fields) {op : Nat} (hop : op ≠ 0) (core : CoreId) (ctx : Nat) (va : W64) (as : List BlockAim) (act : NBlock → List NLane → HomeAct) :
    ∃ tlb new fr, (s.touch core ctx va).postNest f op as act = { s with fresh := fr, m := { s.m with tlb := tlb, msgs := s.m.msgs ++ new } } ∧
      List.Forall₂ (s.NestSent op as act) ((as.map (·.num)).dedup) new := by
  obtain ⟨tlb, htouch⟩ : ∃ tlb, s.touch core ctx va = { s with m := { s.m with tlb := tlb } } := ⟨_, s.touch_eq core ctx va⟩
  rw [htouch]
  obtain ⟨new, fr, heq, hsent⟩ := State.postNest_eq { s with m := { s.m with tlb := tlb } } f hop as act
  exact ⟨tlb, new, fr, heq, hsent⟩

/-- An operation waits for the messages that it has sent, and for any other that bears its number. -/
theorem State.partsOf_sent {s u : State} {tlb : List TlbEntry} {new : List Msg} {fr op : Nat} (hu : u = { s with fresh := fr, m := { s.m with tlb := tlb, msgs := s.m.msgs ++ new } })
    (hnew : new.filter (fun g => g.op == op && g.warp == s.w.ref) = new) : u.partsOf op = s.partsOf op + new.length := by
  have hparts : (s.m.msgs ++ new).filter (fun g => g.op == op && g.warp == s.w.ref) = s.m.msgs.filter (fun g => g.op == op && g.warp == s.w.ref) ++ new := by
    rw [List.filter_append, hnew]
  rw [hu]
  exact (congrArg List.length hparts).trans List.length_append

/-- An instruction whose effect is to send messages: no home and no L1 changes, and the operation waits for the replies. -/
theorem issue_sends {i : Instr} {s u : State} {pl : Plan} {eff : Ctx → State → Eff} {o : Op} {dests : List (Nat × Lanes)} {tlb : List TlbEntry} {new : List Msg} {fr : Nat}
    (hexec : exec i s = .next (runWarp i pl eff s)) (hclear : s.clear i = true) (hlat : pl.lat = .later)
    (heff : eff (s.ctxOf i) (s.consumed i) = .ok { st := u, op := some o }) (ho : o.WaitsFor (s.ctxOf i) dests (u.partsOf (s.ctxOf i).id))
    (hu : u = { s.consumed i with fresh := fr, m := { (s.consumed i).m with tlb := tlb, msgs := (s.consumed i).m.msgs ++ new } })
    (hnew : new.filter (fun g => g.op == (s.ctxOf i).id && g.warp == (s.consumed i).w.ref) = new) :
    ∃ t, exec i s = .next t ∧ (s.ctxOf i).Went s t ∧ WarpKept s t ∧ OnlyMemory s t ∧ HomesKept s t ∧ t.m.l1 = s.m.l1 ∧ t.m.msgs = s.m.msgs ++ new ∧
      (s.ctxOf i).AwaitsReplies s t dests new.length := by
  have honly : OnlyMemory (s.consumed i) u := by
    unfold OnlyMemory
    rw [hu]
  have hparts := State.partsOf_sent hu hnew
  obtain ⟨hwent, hkept, hmem, hm, hlast⟩ := runWarp_memory hclear hlat heff honly (by rw [hu])
  obtain ⟨hid, hslot, hdests, hpt, hready⟩ := ho
  obtain ⟨b, hcons⟩ := s.consumed_eq i
  rw [hcons] at hu hparts
  refine ⟨_, hexec, hwent, hkept, hmem, ?_, ?_, ?_, s.partsOf (s.ctxOf i).id + new.length, Nat.le_add_left _ _, fun hnone => ?_, o, hlast o rfl, hid, hslot, hdests, hpt.trans hparts, hready⟩
  · unfold HomesKept
    rw [hm, hu]
  · rw [hm, hu]
  · rw [hm, hu]
  · have hzero : s.partsOf (s.ctxOf i).id = 0 := by
      rw [State.partsOf, List.length_eq_zero_iff, List.filter_eq_nil_iff]
      intro g hg
      simp [hnone g hg]
    rw [hzero, Nat.zero_add]

section
variable {i : Instr} {f : Fields} {s : State} {ra : W64} {need : Need} {rec : TRec} {blk : Nat → NBlock} {whole : Bool}

theorem nestLane_consumed (s : State) (i : Instr) (f : Fields) (whole : Bool) : nestLane f (s.consumed i) whole = nestLane f s whole := by
  funext l
  simp [nestLane]

/-- The checks are of the registers and the memory at the issue. -/
theorem NestGood.consumed (i : Instr) (huni : (s.ctxOf i).uni64 s f.a = some ra) (hrec : s.recordAt s.w.id.core s.w.ctx ra = .ok rec) (hfmt : rec.fmt = 7)
    (hblk : ∀ l, (s.ctxOf i).g.getLsbD l = true → s.nblock s.w.id.core s.w.ctx need rec (nestLane f s whole l).2 = .ok (blk (nestLane f s whole l).2))
    (hacq : s.w.acquiring = false) (hfree : ∀ l, (s.ctxOf i).g.getLsbD l = true → ∀ line ∈ (blk (nestLane f s whole l).2).lines, s.lineBusy line = false) :
    NestGood f (s.ctxOf i) (s.consumed i) whole need ra rec blk := by
  have hlane := nestLane_consumed s i f whole
  have huni' := Ctx.uni64_consumed (s.ctxOf i) s i f.a
  obtain ⟨b, hcons⟩ := s.consumed_eq i
  refine ⟨huni'.trans huni, ?_, hfmt, ?_, ?_, ?_⟩
  · rw [hcons]
    exact hrec
  · rw [hlane, hcons]
    exact fun l hl => hblk l (mem_bitList.1 hl)
  · rw [hlane, hcons]
    exact fun l hl => hfree l (mem_bitList.1 hl)
  · rw [hcons]
    exact hacq

/-- The messages of the blocks, as the lanes name them. -/
theorem State.NestSent.at {act : NBlock → List NLane → HomeAct} {new : List Msg} {elt : Nat → NLane} {num : Nat → Nat} {c : Ctx} {op : Nat}
    (h : List.Forall₂ (s.NestSent op (nestAimsOf c elt num blk) act) (((nestAimsOf c elt num blk).map (·.num)).dedup) new) :
    new.length = (((bitList c.g).map num).dedup).length ∧ ∀ (j n : Nat), (((bitList c.g).map num).dedup)[j]? = some n →
      ∃ g, new[j]? = some g ∧ g.op = op ∧ g.warp = s.w.ref ∧ g.cluster = s.w.cl ∧ g.line = lineOf (blk n).scale.loc ∧
        g.kind = .act (act (blk n) (((bitList c.g).filter (fun l => num l == n)).map elt)) := by
  have hnums : (nestAimsOf c elt num blk).map (·.num) = (bitList c.g).map num := List.map_map
  have hlanes (n : Nat) : blockLanes (nestAimsOf c elt num blk) n = ((bitList c.g).filter (fun l => num l == n)).map elt := by
    rw [blockLanes, nestAimsOf, List.filter_map, List.map_map]
    rfl
  rw [hnums] at h
  refine ⟨h.length_eq.symm, fun j n hn => ?_⟩
  obtain ⟨hj, hjn⟩ := List.getElem?_eq_some_iff.1 hn
  have hj' : j < new.length := h.length_eq ▸ hj
  obtain ⟨hop, hwarp, hcl, a, ha, hline, hkind⟩ := h.get hj hj'
  simp only [List.get_eq_getElem] at hop hwarp hcl ha hline hkind
  rw [hjn] at ha hkind
  have hblk : a.blk = blk n := by
    obtain ⟨l, -, rfl⟩ := List.mem_map.1 (List.mem_of_find?_eq_some ha)
    have : num l = n := by simpa using List.find?_some ha
    rw [← this]
  rw [hblk] at hline hkind
  rw [hlanes] at hkind
  exact ⟨new[j], List.getElem?_eq_getElem hj', hop, hwarp, hcl, hline, hkind⟩

/-- An instruction on good blocks sends one message a block. -/
theorem nested_issue {eff : Ctx → State → Eff} {act : NBlock → List NLane → HomeAct} {dests : List (Nat × Lanes)} {ent : OpEntry} {f' : Fields}
    (hexec : exec i s = .next (runWarp i { lat := .later } eff s)) (hclear : s.clear i = true) (hid : (s.ctxOf i).id ≠ 0) (he : opEntry i = some (ent, f'))
    (heff : let s1 := (s.consumed i).nestPosted f (s.ctxOf i) whole ra blk act
      s1.partsOf (s.ctxOf i).id ≠ 0 → ∃ o : Op, eff (s.ctxOf i) (s.consumed i) = .ok { st := s1, op := some o } ∧ o.WaitsFor (s.ctxOf i) dests (s1.partsOf (s.ctxOf i).id)) :
    let c := s.ctxOf i
    let nums := ((bitList c.g).map (fun l => (nestLane f s whole l).2)).dedup
    ∃ t new, exec i s = .next t ∧ c.Went s t ∧ WarpKept s t ∧ OnlyMemory s t ∧ HomesKept s t ∧ t.m.l1 = s.m.l1 ∧ t.m.msgs = s.m.msgs ++ new ∧ new.length = nums.length ∧
      (∀ (j : Nat) (n : Nat), nums[j]? = some n → ∃ g, new[j]? = some g ∧ g.op = c.id ∧ g.warp = s.w.ref ∧ g.cluster = s.w.cl ∧ g.line = lineOf (blk n).scale.loc ∧
        g.kind = .act (act (blk n) (((bitList c.g).filter (fun l => (nestLane f s whole l).2 == n)).map (fun l => (nestLane f s whole l).1)))) ∧
      c.AwaitsReplies s t dests new.length := by
  have hlane := nestLane_consumed s i f whole
  obtain ⟨tlb, new, fr, hpost, hsent⟩ := (s.consumed i).touchPost_eq f hid (s.consumed i).w.id.core (s.consumed i).w.ctx ra
    (nestAimsOf (s.ctxOf i) (fun l => (nestLane f (s.consumed i) whole l).1) (fun l => (nestLane f (s.consumed i) whole l).2) blk) act
  have hnew := State.NestSent.parts hsent
  obtain ⟨hlen, hat⟩ := State.NestSent.at hsent
  change (s.consumed i).nestPosted f (s.ctxOf i) whole ra blk act = _ at hpost
  have hparts := State.partsOf_sent hpost hnew
  have hpos : 0 < new.length := by
    rw [hlen, List.length_pos_iff]
    refine List.ne_nil_of_mem (a := (nestLane f (s.consumed i) whole (lowLane (s.ctxOf i).g)).2) (List.mem_dedup.2 (List.mem_map_of_mem ?_))
    exact lowLane_mem (State.ctxOf_lanes_ne he hclear)
  obtain ⟨o, heff, ho⟩ := heff (by omega)
  obtain ⟨t, hexec, hwent, hkept, hmem, hhomes, hl1, hmsgs, hawaits⟩ := issue_sends hexec hclear rfl heff ho hpost hnew
  obtain ⟨b, hcons⟩ := s.consumed_eq i
  rw [hlane] at hlen hat
  rw [hcons] at hat
  exact ⟨t, new, hexec, hwent, hkept, hmem, hhomes, hl1, hmsgs, hlen, hat, hawaits⟩

end

theorem nested_issues (i : Instr) (f : Fields) (s : State) (ra : W64) (need : Need) (rec : TRec) (blk : Nat → NBlock) (act : NBlock → List NLane → HomeAct) (dests : List (Nat × Lanes)) :
    let c := s.ctxOf i
    let whole : Bool := match i with | .plresc _ => true | _ => false
    let num (l : Nat) : Nat := if whole then (s.read32 f.b l).toNat else (s.read32 f.b l).toNat / 32
    let elt (l : Nat) : NLane := if whole then ⟨l, 0, 0, 0⟩ else ⟨l, (s.read32 f.b l).toNat % 32, s.read32 f.c l, s.read32 f.e l⟩
    let k := min (f.subBits 1 0 + 1) rec.planes
    let nums := ((bitList c.g).map num).dedup
    ((∃ r, i = .ldn f ∧ need = .read ∧ f.d = .v r ∧ dests = [(r, c.g)] ∧ act = fun b ls => .ldn b k (f.subBits 2 2 = 1) (f.subBits 3 3 = 1) r ls) ∨
      (i = .stn f ∧ need = .write ∧ dests = [] ∧ act = fun b ls => .stn b k (f.subBits 3 3 = 1) ls) ∨
      (i = .plupd f ∧ need = .both ∧ dests = [] ∧ act = fun b ls => .plane b (if f.subBits 3 3 = 1 then .raw else .upd) ls) ∨
      (i = .plaxpy f ∧ need = .both ∧ dests = [] ∧ act = fun b ls => .plane b .axpy ls) ∨
      (i = .plresc f ∧ need = .both ∧ dests = [] ∧ act = fun b ls => .plane b .resc ls)) →
    s.clear i = true → c.uni64 s f.a = some ra → s.recordAt s.w.id.core s.w.ctx ra = .ok rec → rec.fmt = 7 →
    (∀ l, c.g.getLsbD l = true → s.nblock s.w.id.core s.w.ctx need rec (num l) = .ok (blk (num l))) →
    s.w.acquiring = false → (∀ l, c.g.getLsbD l = true → ∀ line ∈ (blk (num l)).lines, s.lineBusy line = false) →
    ∃ t new, exec i s = .next t ∧ c.Went s t ∧ WarpKept s t ∧ OnlyMemory s t ∧ HomesKept s t ∧ t.m.l1 = s.m.l1 ∧ t.m.msgs = s.m.msgs ++ new ∧ new.length = nums.length ∧
      (∀ (j : Nat) (n : Nat), nums[j]? = some n → ∃ g, new[j]? = some g ∧ g.op = c.id ∧ g.warp = s.w.ref ∧ g.cluster = s.w.cl ∧ g.line = lineOf (blk n).scale.loc ∧
        g.kind = .act (act (blk n) (((bitList c.g).filter (fun l => num l == n)).map elt))) ∧
      c.AwaitsReplies s t dests new.length := by
  intro c whole num elt k nums hform hclear huni hrec hfmt hblk hacq hfree
  obtain ⟨r, rfl, rfl, hd, rfl, rfl⟩ | ⟨rfl, rfl, rfl, rfl⟩ | ⟨rfl, rfl, rfl, rfl⟩ | ⟨rfl, rfl, rfl, rfl⟩ | ⟨rfl, rfl, rfl, rfl⟩ := hform
  · exact nested_issue (whole := false) (eff := ldnEff f) rfl hclear (Nat.succ_ne_zero _) rfl
      fun _ => ldnEff_good (NestGood.consumed (whole := false) (.ldn f) huni hrec hfmt hblk hacq hfree) hd
  · exact nested_issue (whole := false) rfl hclear (Nat.succ_ne_zero _) rfl (changeEff_good (NestGood.consumed (whole := false) (.stn f) huni hrec hfmt hblk hacq hfree))
  · exact nested_issue (whole := false) rfl hclear (Nat.succ_ne_zero _) rfl (changeEff_good (NestGood.consumed (whole := false) (.plupd f) huni hrec hfmt hblk hacq hfree))
  · exact nested_issue (whole := false) rfl hclear (Nat.succ_ne_zero _) rfl (changeEff_good (NestGood.consumed (whole := false) (.plaxpy f) huni hrec hfmt hblk hacq hfree))
  · exact nested_issue (whole := true) rfl hclear (Nat.succ_ne_zero _) rfl (changeEff_good (NestGood.consumed (whole := true) (.plresc f) huni hrec hfmt hblk hacq hfree))

/-! TSEAL. -/

section
variable {f : Fields} {c : Ctx} {s : State} {p : Phys}

/-- A TSEAL whose record is aligned, in memory that may be written, and free of the warp's own messages. -/
theorem tsealEff_good (halign : (s.read64 f.a (lowLane c.g)).toNat % 64 = 0) (hscr : inScratch (s.read64 f.a (lowLane c.g)) = false)
    (hp : s.m.translate s.w.id.core s.w.ctx (s.read64 f.a (lowLane c.g)) .both = .ok p) (htgt : p.tgt ≠ 1) (hacq : s.w.acquiring = false)
    (hfree : s.lineBusy (lineOf p.loc) = false) :
    let s1 := (s.touch s.w.id.core s.w.ctx (s.read64 f.a (lowLane c.g))).post f c.id p (.act (.seal p (lowLane c.g)))
    s1.partsOf c.id ≠ 0 → ∃ o : Op, tsealEff f c s = .ok { st := s1, op := some o } ∧ o.WaitsFor c [] (s1.partsOf c.id) := by
  intro s1 hparts
  unfold tsealEff
  dsimp only
  rw [if_neg (by simp [halign]), hscr, if_neg Bool.false_ne_true, hp]
  dsimp only
  rw [if_neg htgt, hacq, hfree, Bool.or_false, if_neg Bool.false_ne_true]
  exact ⟨_, congrArg (fun op => (Eff.ok { st := s1, op := op }).aimed _) (Ctx.writeOp_of_sent hparts), rfl, rfl, rfl, rfl, rfl⟩

end

theorem tseal_issue (f : Fields) (s : State) (p : Phys) :
    let c := s.ctxOf (.tseal f)
    let ra := s.read64 f.a (lowLane c.g)
    s.clear (.tseal f) = true → ra.toNat % 64 = 0 → inScratch ra = false → s.m.translate s.w.id.core s.w.ctx ra .both = .ok p → p.tgt ≠ 1 →
    s.w.acquiring = false → s.lineBusy (lineOf p.loc) = false →
    ∃ t g, exec (.tseal f) s = .next t ∧ c.Went s t ∧ WarpKept s t ∧ OnlyMemory s t ∧ HomesKept s t ∧ t.m.l1 = s.m.l1 ∧ t.m.msgs = s.m.msgs ++ [g] ∧ g.op = c.id ∧ g.warp = s.w.ref ∧
      g.line = lineOf p.loc ∧ g.kind = .act (.seal p (lowLane c.g)) ∧ c.AwaitsReplies s t [] 1 := by
  intro c ra hclear halign hscr hp htgt hacq hfree
  have hid : c.id ≠ 0 := Nat.succ_ne_zero _
  have hra : (s.consumed (.tseal f)).read64 f.a (lowLane c.g) = ra := by rw [State.read64_consumed]
  obtain ⟨b, hcons⟩ := s.consumed_eq (.tseal f)
  have heff := tsealEff_good (f := f) (c := c) (s := s.consumed (.tseal f)) (p := p) (by rw [hra]; exact halign) (by rw [hra]; exact hscr) (by rw [hra, hcons]; exact hp) htgt
    (by rw [hcons]; exact hacq) (by rw [hcons]; exact hfree)
  rw [hra] at heff
  obtain ⟨tlb, htouch⟩ : ∃ tlb, (s.consumed (.tseal f)).touch (s.consumed (.tseal f)).w.id.core (s.consumed (.tseal f)).w.ctx ra =
    { s.consumed (.tseal f) with m := { (s.consumed (.tseal f)).m with tlb := tlb } } := ⟨_, State.touch_eq ..⟩
  rw [htouch] at heff
  obtain ⟨g, hpost, hop, hwarp, -, hline, hkind⟩ := State.post_eq { s.consumed (.tseal f) with m := { (s.consumed (.tseal f)).m with tlb := tlb } } f hid p
    (.act (.seal p (lowLane c.g)))
  change g.warp = (s.consumed (.tseal f)).w.ref at hwarp
  have hnew : [g].filter (fun g => g.op == c.id && g.warp == (s.consumed (.tseal f)).w.ref) = [g] := by simp [hop, hwarp]
  have hparts := State.partsOf_sent hpost hnew
  obtain ⟨o, heff, ho⟩ := heff (by rw [hparts]; exact Nat.succ_ne_zero _)
  obtain ⟨t, hexec, hwent, hkept, hmem, hhomes, hl1, hmsgs, hawaits⟩ := issue_sends (pl := leadPlan) (eff := tsealEff f) rfl hclear rfl heff ho hpost hnew
  refine ⟨t, g, hexec, hwent, hkept, hmem, hhomes, hl1, hmsgs, hop, ?_, hline, hkind, hawaits⟩
  rw [hwarp, hcons]

/-- Settles O26: the messages of the issue, and what the homes do with them. -/
theorem nestedIssue : Obligations.NestedIssue :=
  ⟨nested_issues, tseal_issue, ldn_at_home, planes_at_home, seal_at_home⟩

end Sys2Proof.Machine
end
